-- ==== Sys2Proof/Word.lean ====
section
/-! DEFINITION. The word types of the CG96 and their plainest arithmetic (00 R3–R5, 01 R21). -/

namespace Sys2Proof

/-- A 64-bit word: a scalar token, a register S, a word of a record or card. -/
abbrev Word := BitVec 64
/-- One byte of memory or scratchpad. -/
abbrev Byte := BitVec 8
/-- One 32-bit lane of a vector register (01 R13). -/
abbrev Lane := BitVec 32
/-- The 128-bit instruction or header word (07 R127, R139), and the rein (04 R83). -/
abbrev Quad := BitVec 128
/-- The tag of a token: COLOUR in 19:8, ITER in 7:0 (01 R23). -/
abbrev Tag := BitVec 20
/-- Sixteen lanes; lane `k` is element `k` (01 R21). -/
abbrev Vec := List Lane

/-- Lane `k` of a vector. -/
def Vec.lane (v : Vec) (k : Nat) : Lane := v.getD k 0

/-- The vector with one value in every lane. -/
def Vec.fill (x : Lane) : Vec := List.replicate 16 x

/-- The vector whose lane `k` is `f k`. -/
def Vec.mk (f : Nat → Lane) : Vec := (List.range 16).map f

/-- The colour of a tag. -/
def tagColour (t : Tag) : Nat := (t.extractLsb' 8 12).toNat
/-- The iteration of a tag. -/
def tagIter (t : Tag) : Nat := (t.extractLsb' 0 8).toNat
/-- The tag (colour, iteration). -/
def mkTag (c i : Nat) : Tag := (BitVec.ofNat 12 c) ++ (BitVec.ofNat 8 i)

end Sys2Proof
end

