-- ==== Sys2Proof/Machine/Bits.lean ====
section
/-! DEFINITION. Bit fields, sign extension, byte order (00 R3, R4) and list helpers of the model. -/

namespace Sys2Proof.Bits

/-- Bits `hi` down to `lo` of a word as a number. -/
def field {n : Nat} (w : BitVec n) (lo len : Nat) : Nat := (w.extractLsb' lo len).toNat

/-- One bit of a word. -/
def bit {n : Nat} (w : BitVec n) (k : Nat) : Bool := w.getLsbD k

/-- Replace `len` bits of `w` at `lo` by `x`. -/
def setField {n : Nat} (w : BitVec n) (lo len : Nat) (x : Nat) : BitVec n :=
  (w &&& ~~~(BitVec.ofNat n ((2 ^ len - 1) * 2 ^ lo))) ||| BitVec.ofNat n ((x % 2 ^ len) * 2 ^ lo)

/-- The signed value of the low `len` bits of a number. -/
def sext (len : Nat) (x : Nat) : Int := (BitVec.ofNat len x).toInt

/-- `w` little-endian bytes of a number (00 R4). -/
def toBytes : Nat → Nat → List Byte
  | 0, _ => []
  | w + 1, x => BitVec.ofNat 8 x :: toBytes w (x / 256)

/-- The number that little-endian bytes hold. -/
def ofBytes : List Byte → Nat
  | [] => 0
  | b :: bs => b.toNat + 256 * ofBytes bs

/-- The 64-bit words of a byte list, little-endian. -/
def wordsOf : Nat → List Byte → List Word
  | 0, _ => []
  | n + 1, bs => BitVec.ofNat 64 (ofBytes (bs.take 8)) :: wordsOf n (bs.drop 8)

/-- The little-endian bytes of a list of 64-bit words. -/
def bytesOf (ws : List Word) : List Byte := ws.flatMap fun w => toBytes 8 w.toNat

/-- The little-endian 32-bit lanes of a byte list. -/
def lanesOf : Nat → List Byte → List Lane
  | 0, _ => []
  | n + 1, bs => BitVec.ofNat 32 (ofBytes (bs.take 4)) :: lanesOf n (bs.drop 4)

/-- Overwrite the bytes of a list from position `at_` on. -/
def overlay (bs : List Byte) (pos : Nat) (new : List Byte) : List Byte :=
  bs.take pos ++ new ++ bs.drop (pos + new.length)

/-- Ceiling of a quotient. -/
def ceilDiv (a b : Nat) : Nat := (a + b - 1) / b

/-- Insert into a list kept in ascending order of a key. -/
def insertBy {α : Type} (key : α → Nat) (x : α) : List α → List α
  | [] => [x]
  | y :: ys => if key x < key y then x :: y :: ys else y :: insertBy key x ys

/-- Stable insertion sort by a key. -/
def sortBy {α : Type} (key : α → Nat) (l : List α) : List α :=
  l.foldl (fun acc x => insertBy key x acc) []

/-- Insert so that elements for which `before` holds come first; equal ones keep their order. -/
def insertLe {α : Type} (before : α → α → Bool) (x : α) : List α → List α
  | [] => [x]
  | y :: ys => if before x y then x :: y :: ys else y :: insertLe before x ys

/-- Stable insertion sort by a strict order. -/
def sortLe {α : Type} (before : α → α → Bool) (l : List α) : List α :=
  l.foldl (fun acc x => insertLe before x acc) []

/-- Distinct elements, first occurrences kept. -/
def distinct : List Nat → List Nat
  | [] => []
  | x :: xs => x :: (distinct xs).filter (fun y => !(y == x))

/-- The sum of a list of numbers. -/
def total : List Nat → Nat
  | [] => 0
  | x :: xs => x + total xs

/-- The bits of the mask of the lanes for which `f` holds. -/
def maskOf (f : Nat → Bool) : BitVec 16 :=
  BitVec.ofNat 16 (total ((List.range 16).map fun k => if f k then 2 ^ k else 0))

end Sys2Proof.Bits
end

