-- ==== Sys2Proof/Syntax.lean ====
section
/-! DEFINITION. The syntax: one constructor per row of spec/opcode_table.json. The 175 instruction forms carry the fields
of their format (07 R127, R131–R137); the 69 events carry what the machine leaves to the outside or to the arbiter. -/

namespace Sys2Proof

/-- The header fields common to every instruction word (07 R127). -/
structure Hdr where
  plane : BitVec 2
  pmode : BitVec 2
  tagop : BitVec 4
  xm : BitVec 2
  t0 : BitVec 12
  t1 : BitVec 12
  deriving DecidableEq, Repr

/-- Format A (07 R131); bits 7:0 must be zero and are refused by the decoder. -/
structure FmtA where
  h : Hdr
  imm : BitVec 64
  immr : BitVec 1
  rm : BitVec 3
  ty : BitVec 4
  sat : BitVec 1
  var : BitVec 3
  deriving DecidableEq, Repr

/-- Format G (07 R132). -/
structure FmtG where
  h : Hdr
  win : BitVec 8
  count : BitVec 12
  imm : BitVec 64
  deriving DecidableEq, Repr

/-- Format B (07 R133); bits 20:0 must be zero and are refused by the decoder. -/
structure FmtB where
  h : Hdr
  boff : BitVec 60
  exit : BitVec 3
  deriving DecidableEq, Repr

/-- Format M (07 R134); `low` is bits 30:0, used per form. -/
structure FmtM where
  h : Hdr
  off : BitVec 32
  lsid : BitVec 6
  ord : BitVec 2
  scope : BitVec 3
  ty : BitVec 4
  hv : BitVec 1
  hreg : BitVec 5
  low : BitVec 31
  deriving DecidableEq, Repr

/-- Format X (07 R135); `low` is bits 63:0, used per form. -/
structure FmtX where
  h : Hdr
  acc : BitVec 2
  ksteps : BitVec 4
  pstride : BitVec 14
  low : BitVec 64
  deriving DecidableEq, Repr

/-- Format E (07 R136). -/
structure FmtE where
  h : Hdr
  eng : BitVec 6
  chan : BitVec 6
  flags : BitVec 8
  card : BitVec 64
  deriving DecidableEq, Repr

/-- Format Y (07 R137). -/
structure FmtY where
  h : Hdr
  csr : BitVec 16
  imm : BitVec 68
  deriving DecidableEq, Repr

/-- The envelope of a Wenfisil command (21 R348, R351): its SEQ, and whether a reserved KIND or a nonzero "—" field
makes it malformed. -/
structure Cmd where
  seq : Word
  dash : Bool
  deriving DecidableEq, Repr

/-- One entry of a FRAMES list (21 R351): a 64 KiB frame, its VA page, and the class and rights it is meant for. -/
structure FrameReq where
  frame : Nat
  page : Nat
  cls : BitVec 2
  rd : Bool
  wr : Bool
  ex : Bool
  deriving DecidableEq, Repr

/-- One monitor sample of one cluster (07 R149). -/
structure MonSample where
  cluster : Nat
  temp : BitVec 16
  volt : BitVec 16
  proc : BitVec 16
  deriving DecidableEq, Repr

/-- One constructor per row of the opcode table. -/
inductive Instr
  /-- R354. Power-on runs dawn: fuses, self-test, stack training, crib calibration, Stable verification and load, clearing of hub state, then a START alert. -/
  | powerOn (bad : List Nat)
  /-- R354. The DAWN command performs the full cold start of the device. -/
  | dawn (c : Cmd) (bad : List Nat)
  /-- R354. The NOON command re-verifies and reloads the Stable and resets the SEQs; with FORCE it first aborts admitted and swept tasks. -/
  | noon (c : Cmd) (force : Bool)
  /-- R349. Returns the last command SEQ executed and the last device SEQ sent. -/
  | sync (c : Cmd)
  /-- R293. Writes a partition entry under the rules of partitions, rectangles and pool minima. -/
  | part (c : Cmd) (p : Nat) (w0 w1 w2 : Word)
  /-- R351. Unwraps and installs the XTS key pair of a partition's key slot. -/
  | key (c : Cmd) (p : Nat) (wrap : List Byte)
  /-- R351. Sets the launch-queue rings, log capacity and mirror range of a partition that holds no task. -/
  | rings (c : Cmd) (p : Nat) (bases : List Word) (caps : List Nat) (logCap : Nat) (mirBase mirLen partner : Nat)
  /-- R295. Assigns 64 KiB frames with intended VAs and classes to a partition, refusing frames owned elsewhere or reserved. -/
  | frames (c : Cmd) (p asid : Nat) (fs : List FrameReq)
  /-- R120. Sets a partition's quota counter and optionally opens a new accounting period. -/
  | quota (c : Cmd) (p : Nat) (counter : Word) (period : Option Lane)
  /-- R81. Creates a covered arena over mapped covered pages and zeroes it. -/
  | arenaCreate (c : Cmd) (p asid id base size die : Nat)
  /-- R81. Destroys an arena and increments its generation, refused while any granule is covered or pending free. -/
  | arenaDestroy (c : Cmd) (p asid id : Nat)
  /-- R351. Writes image or data bytes into an ASID between tasks. -/
  | image (c : Cmd) (p asid va : Nat) (bytes : List Byte)
  /-- R68. Writes a format window between tasks of the window, after its validity checks and the write-back of affected lines. -/
  | fwin (c : Cmd) (die win : Nat) (w0 w1 w2 w3 : Word)
  /-- R351. Writes a task record at its VA and pushes it into a launch queue. -/
  | enqueue (c : Cmd) (p queue : Nat) (record : List Word) (va : Nat)
  /-- R351. Removes a queued record, gives it a TASKID and STATUS 0x84, logs a zero-draw record and updates DONE. -/
  | cancel (c : Cmd) (p : Nat) (byVa : Bool) (x : Word)
  /-- R351. Returns usage-log records and the signatures that fall in the range. -/
  | logfetch (c : Cmd) (p first count : Nat)
  /-- R125. Frees the usage-log records below N. -/
  | logack (c : Cmd) (p n : Nat)
  /-- R126. Signs the partition's usage-log chain head at once with the LMS identity key. -/
  | sign (c : Cmd) (p : Nat)
  /-- R375. Returns and clears the message ring, the fault ring and their drop counters. -/
  | msgfetch (c : Cmd) (p : Nat)
  /-- R351. Returns the start state, the bad-node register, the key leaves left, dropped packets and the last fault records. -/
  | health (c : Cmd)
  /-- R355. Returns the last monitor samples of the requested clusters. -/
  | monitor (c : Cmd) (first count : Nat)
  /-- R357. Returns the serial number, the device LMS public key, the unused leaves and the firmware key hash. -/
  | identity (c : Cmd)
  /-- R351. Resumes a node held by BKPT. -/
  | debugResume (c : Cmd) (p node : Nat)
  /-- R351. Suspends a node of a partition with DEBUG set. -/
  | debugSuspend (c : Cmd) (p node : Nat)
  /-- R358. Verifies a signed Stable image set and stores it for the next start. -/
  | fwupdate (c : Cmd) (image : List Byte)
  /-- R347. A packet of an Ultra Ethernet profile other than ROD is dropped and counted. -/
  | nonRodPacket
  /-- R158. Exit to the block at a signed offset, taken at commit. -/
  | br (f : FmtB)
  /-- R158. Exit to the block whose address is in the left scalar. -/
  | bri (f : FmtB)
  /-- R158. Allocates a call colour, records the caller's tag and return block, and enters the callee. -/
  | call (f : FmtB)
  /-- R158. As CALL, with the callee address taken from the left scalar. -/
  | calli (f : FmtB)
  /-- R158. Restores the recorded tag and returns to the return block, or ends a spawned activation. -/
  | ret (f : FmtB)
  /-- R158. Stops context 0 of the node at commit. -/
  | halt (f : FmtB)
  /-- R161. Emits its left operand unchanged to its targets. -/
  | mov (f : FmtG)
  /-- R161. Emits IMM64 under the tag of its trigger. -/
  | const (f : FmtG)
  /-- R162. Allocates a loop colour with window WIN and emits its operand as iteration 0. -/
  | lenter (f : FmtG)
  /-- R163. Emits its operand under the next iteration, taking a free slot for an iteration not yet live. -/
  | inext (f : FmtG)
  /-- R163. Emits its operand under the previous, live iteration. -/
  | iprev (f : FmtG)
  /-- R164. Emits its operand under the loop's parent tag and lets the colour be freed. -/
  | lexit (f : FmtG)
  /-- R165. Takes the lowest free tag of a bounded tag space and emits its operand under it. -/
  | talloc (f : FmtG)
  /-- R165. Marks a tag-space tag to be freed. -/
  | tfree (f : FmtG)
  /-- R166. Allocates a colour and context for a new activation and emits its handle. -/
  | spawn (f : FmtG)
  /-- R167. Makes its context wait until the named activation ends, then frees its colour. -/
  | join (f : FmtG)
  /-- R168. Waits for a full global register and emits its committed value. -/
  | getg (f : FmtG)
  /-- R168. Writes its operand to a global register at commit and passes it on. -/
  | putg (f : FmtG)
  /-- R168. Acts as GETG and marks the register empty at commit. -/
  | empty (f : FmtG)
  /-- R171. Emits a null token under its trigger's tag. -/
  | null (f : FmtG)
  /-- R175. Integer compare producing a predicate. -/
  | cmp (f : FmtA)
  /-- R176. Floating-point compare producing a predicate, with the NaN rules of its condition. -/
  | fcmp (f : FmtA)
  /-- R177. ANDs bit 0 of two predicates. -/
  | pand (f : FmtA)
  /-- R177. ORs bit 0 of two predicates. -/
  | por (f : FmtA)
  /-- R177. XORs bit 0 of two predicates. -/
  | pxor (f : FmtA)
  /-- R177. Inverts bit 0 of a predicate. -/
  | pnot (f : FmtA)
  /-- R178. Sets every lane true if any lane of its operand is true. -/
  | any (f : FmtA)
  /-- R178. Sets every lane true if every masked-in lane is true. -/
  | all (f : FmtA)
  /-- R179. Narrows the lane mask to the lanes below or from n. -/
  | maskn (f : FmtA)
  /-- R180. Selects per lane between its left and right operands by its predicate. -/
  | sel (f : FmtA)
  /-- R186. Integer addition, wrapped or saturated. -/
  | add (f : FmtA)
  /-- R186. Integer subtraction, wrapped or saturated. -/
  | sub (f : FmtA)
  /-- R186. Integer multiplication, wrapped or saturated. -/
  | mul (f : FmtA)
  /-- R186. High half of the integer product. -/
  | mulh (f : FmtA)
  /-- R186. Integer division toward zero, with the fixed result for a zero divisor. -/
  | div (f : FmtA)
  /-- R186. Integer remainder, giving the dividend for a zero divisor. -/
  | rem (f : FmtA)
  /-- R186. Integer negation. -/
  | neg (f : FmtA)
  /-- R186. Integer absolute value. -/
  | abs (f : FmtA)
  /-- R186. Integer minimum, signed or unsigned. -/
  | min (f : FmtA)
  /-- R186. Integer maximum, signed or unsigned. -/
  | max (f : FmtA)
  /-- R186. Integer a·b ± c with a single saturation. -/
  | madd (f : FmtA)
  /-- R187. Per-lane dot product of four packed bytes into INT32. -/
  | dot4 (f : FmtA)
  /-- R188. Forms the address a + sext(b)·2^s. -/
  | lea (f : FmtA)
  /-- R190. Bitwise AND. -/
  | and (f : FmtA)
  /-- R190. Bitwise OR. -/
  | or (f : FmtA)
  /-- R190. Bitwise XOR. -/
  | xor (f : FmtA)
  /-- R190. Bitwise AND with the complement of the right operand. -/
  | andn (f : FmtA)
  /-- R190. Bitwise complement. -/
  | not (f : FmtA)
  /-- R190. Logical shift left. -/
  | shl (f : FmtA)
  /-- R190. Logical shift right. -/
  | shr (f : FmtA)
  /-- R190. Arithmetic shift right. -/
  | sar (f : FmtA)
  /-- R190. Rotate left within the width. -/
  | rol (f : FmtA)
  /-- R190. Counts leading zeros. -/
  | clz (f : FmtA)
  /-- R190. Counts one bits. -/
  | popc (f : FmtA)
  /-- R190. Reverses the bit order. -/
  | brev (f : FmtA)
  /-- R190. Extracts a bit field, zero- or sign-extended. -/
  | bfx (f : FmtA)
  /-- R190. Inserts a bit field. -/
  | bfi (f : FmtA)
  /-- R190. Sign-extends the low n bits. -/
  | sext (f : FmtA)
  /-- R190. Zero-extends the low n bits. -/
  | zext (f : FmtA)
  /-- R192. IEEE floating-point addition. -/
  | fadd (f : FmtA)
  /-- R192. IEEE floating-point subtraction. -/
  | fsub (f : FmtA)
  /-- R192. IEEE floating-point multiplication. -/
  | fmul (f : FmtA)
  /-- R192. Fused (a·b) ± c with one rounding. -/
  | fma (f : FmtA)
  /-- R192. Fused −(a·b) ± c with one rounding. -/
  | fnma (f : FmtA)
  /-- R192. IEEE floating-point division. -/
  | fdiv (f : FmtA)
  /-- R192. IEEE square root. -/
  | fsqrt (f : FmtA)
  /-- R192. Correctly rounded reciprocal square root. -/
  | frsqrt (f : FmtA)
  /-- R192. Correctly rounded reciprocal. -/
  | frcp (f : FmtA)
  /-- R193. Floating-point minimum with the NaN rules. -/
  | fmin (f : FmtA)
  /-- R193. Floating-point maximum with the NaN rules. -/
  | fmax (f : FmtA)
  /-- R193. Clears the sign. -/
  | fabs (f : FmtA)
  /-- R193. Inverts the sign. -/
  | fneg (f : FmtA)
  /-- R193. Returns a with the sign of b. -/
  | fcpys (f : FmtA)
  /-- R194. Returns a one-hot class mask of its operand. -/
  | fclass (f : FmtA)
  /-- R195. Rounds to an integral value in the same format. -/
  | frint (f : FmtA)
  /-- R196. Computes a·2^n with one rounding. -/
  | fscale (f : FmtA)
  /-- R206. Correctly rounded e^a, or its jet recurrence. -/
  | fexp (f : FmtA)
  /-- R206. Correctly rounded 2^a, or its jet recurrence. -/
  | fexp2 (f : FmtA)
  /-- R206. Correctly rounded ln a, or its jet recurrence. -/
  | flog (f : FmtA)
  /-- R206. Correctly rounded log2 a, or its jet recurrence. -/
  | flog2 (f : FmtA)
  /-- R206. Correctly rounded sin a, or its jet recurrence. -/
  | fsin (f : FmtA)
  /-- R206. Correctly rounded cos a, or its jet recurrence. -/
  | fcos (f : FmtA)
  /-- R206. Correctly rounded tanh a, or its jet recurrence. -/
  | ftanh (f : FmtA)
  /-- R206. Correctly rounded logistic function, or its jet recurrence. -/
  | flgst (f : FmtA)
  /-- R206. Correctly rounded erf a, or its jet recurrence. -/
  | ferf (f : FmtA)
  /-- R199. Converts between element types. -/
  | cvt (f : FmtA)
  /-- R200. Converts with stochastic rounding driven by a random token. -/
  | cvtsr (f : FmtA)
  /-- R201. Produces counter-based random bits per lane from RNGKEY. -/
  | rng (f : FmtA)
  /-- R202. Packs 16 FP32 lanes into blocked E2M1 codes with E3M5 scales. -/
  | pack4 (f : FmtA)
  /-- R203. Unpacks blocked E2M1 codes to FP32 lanes. -/
  | unpk4 (f : FmtA)
  /-- R215. Emits the jet order that held at map. -/
  | jord (f : FmtA)
  /-- R215. Emits the jet order and writes JORD at commit. -/
  | jordSet (f : FmtA)
  /-- R214. Builds a jet from a value and a direction. -/
  | jseed (f : FmtA)
  /-- R214. Extracts coefficient j, optionally times j!. -/
  | jcoef (f : FmtA)
  /-- R214. Replaces coefficient j of a jet. -/
  | jsetc (f : FmtA)
  /-- R214. Differentiates a jet. -/
  | jdiff (f : FmtA)
  /-- R214. Integrates a jet with a constant term. -/
  | jintg (f : FmtA)
  /-- R214. Zeroes the coefficients above m. -/
  | jtrunc (f : FmtA)
  /-- R214. Evaluates a jet's series at a point by Horner's rule. -/
  | jeval (f : FmtA)
  /-- R215. Emits JFLAGS as at map ANDed with a mask. -/
  | jflag (f : FmtA)
  /-- R215. Emits masked JFLAGS and clears the masked bits at commit. -/
  | jflagClr (f : FmtA)
  /-- R220. Replicates a control-plane scalar into every lane of a vector. -/
  | repl (f : FmtA)
  /-- R220. Broadcasts one lane to every lane. -/
  | lane (f : FmtA)
  /-- R220. Inserts a value into lane i. -/
  | insl (f : FmtA)
  /-- R220. Permutes lanes by an immediate pattern. -/
  | perm (f : FmtA)
  /-- R220. Permutes lanes by an index vector. -/
  | shuf (f : FmtA)
  /-- R220. Rotates lanes by a count. -/
  | rotl (f : FmtA)
  /-- R220. Slides lanes of two vectors up or down by n. -/
  | slide (f : FmtA)
  /-- R220. Interleaves the low or high halves of two vectors. -/
  | zip (f : FmtA)
  /-- R220. Deinterleaves the even or odd lanes of two vectors. -/
  | unzip (f : FmtA)
  /-- R220. Builds an arithmetic index vector. -/
  | iota (f : FmtA)
  /-- R223. Reduces the 16 lanes by the fixed pairwise tree. -/
  | red (f : FmtG)
  /-- R223. Emits the left-fold prefix of the lanes. -/
  | scan (f : FmtG)
  /-- R225. Accumulates stream terms in iteration order at commit and emits the sum. -/
  | accum (f : FmtG)
  /-- R225. Passes the gated elements of a stream, renumbered from 0. -/
  | filter (f : FmtG)
  /-- R225. Repacks the active lanes of a stream into full vectors. -/
  | compact (f : FmtG)
  /-- R226. Splits a stream between two targets by its predicate. -/
  | steer (f : FmtG)
  /-- R225. Rejoins two disjoint streams under one tag at commit. -/
  | merge (f : FmtG)
  /-- R233. Reads operand tiles and adds their product into an accumulator tile at commit. -/
  | mmat (f : FmtX)
  /-- R239. Reads rows into a pin snapshot, replaced at commit. -/
  | tfetch (f : FmtX)
  /-- R237. Clears an accumulator tile and its state at commit. -/
  | accclr (f : FmtX)
  /-- R237. Arms a tile to emit after n MMAT firings. -/
  | accarm (f : FmtX)
  /-- R237. Returns a tile to Idle, keeping its cells. -/
  | accrel (f : FmtX)
  /-- R237. Reads a row half of a tile, converted to a type. -/
  | accrd (f : FmtX)
  /-- R238. Compares each row of a tile against its checksum and emits the mismatch mask. -/
  | accchk (f : FmtX)
  /-- R237. Transposes a tile at commit. -/
  | mtrans (f : FmtX)
  /-- R250. Contiguous load. -/
  | ld (f : FmtM)
  /-- R250. Strided load. -/
  | lds (f : FmtM)
  /-- R250. Gathering load. -/
  | ldg (f : FmtM)
  /-- R251. Contiguous store, performed at commit. -/
  | st (f : FmtM)
  /-- R251. Strided store. -/
  | sts (f : FmtM)
  /-- R251. Scattering store. -/
  | stg (f : FmtM)
  /-- R253. Loads from the quad scratchpad. -/
  | ldsp (f : FmtM)
  /-- R253. Stores into the quad scratchpad at commit. -/
  | stsp (f : FmtM)
  /-- R254. Asks for lines to be filled into the L2, and optionally into the L1. -/
  | pref (f : FmtM)
  /-- R255. Resolves a named LSID without an access. -/
  | nullst (f : FmtM)
  /-- R256. Invalidates one L1 line. -/
  | l1inv (f : FmtM)
  /-- R257. Orders earlier against later operations as its kind gives. -/
  | fence (f : FmtM)
  /-- R259. Waits for a version of a versioned word and returns its entry, as an acquire. -/
  | ldv (f : FmtM)
  /-- R260. Writes a versioned word and advances its version, as a release. -/
  | stv (f : FmtM)
  /-- R261. Frees history entries below a version. -/
  | reclaim (f : FmtM)
  /-- R262. Atomic read-modify-write at the home slice. -/
  | atom (f : FmtM)
  /-- R263. Compare-and-swap at the home slice. -/
  | cas (f : FmtM)
  /-- R266. Takes the lowest free run of granules and makes a rein over it. -/
  | reinmk (f : FmtM)
  /-- R86. Duplicates a rein. -/
  | reindup (f : FmtM)
  /-- R86. Splits a rein at p. -/
  | reinspl (f : FmtM)
  /-- R266. Narrows a rein's span and rights. -/
  | reinnar (f : FmtM)
  /-- R86. Drops a rein. -/
  | reindrop (f : FmtM)
  /-- R265. Reports a rein's BASE, LEN and rights, or takes a rein token into H. -/
  | reinq (f : FmtM)
  /-- R267. Moves a rein to a port in the task, or to another task's rein input. -/
  | reinsend (f : FmtM)
  /-- R277. Issues a copy card to a copy channel. -/
  | copy (f : FmtE)
  /-- R283. Waits until a copy's write pointer reaches p, as an acquire. -/
  | wpwait (f : FmtE)
  /-- R283. Reads a copy card's current state. -/
  | wprd (f : FmtE)
  /-- R278. Issues a row-gather card. -/
  | gather (f : FmtE)
  /-- R279. Issues a collective card joining members across packages. -/
  | coll (f : FmtE)
  /-- R280. Issues a top-k card to a base die. -/
  | topk (f : FmtE)
  /-- R283. Waits until a card is final, as an acquire on its write footprint. -/
  | cwait (f : FmtE)
  /-- R283. Reads a card's current state. -/
  | cstat (f : FmtE)
  /-- R283. Cancels a card at its next step boundary. -/
  | ccancel (f : FmtE)
  /-- R281. Issues a card that marks or unmarks pages for mirroring. -/
  | mirror (f : FmtE)
  /-- R288. Pushes a task record into a launch queue of the partition. -/
  | qpush (f : FmtE)
  /-- R288. Removes the oldest unadmitted record from a queue. -/
  | qpop (f : FmtE)
  /-- R288. Reports a queue's entries and ring capacity. -/
  | qstat (f : FmtE)
  /-- R288. Returns the task's total DRAWN. -/
  | chgrd (f : FmtE)
  /-- R116. Asks the hub for a top-up of n packets. -/
  | chgask (f : FmtE)
  /-- R288. Holds a record for launch when the issuing task commits. -/
  | tlaunch (f : FmtE)
  /-- R290. Discards its block with the fault TRAP. -/
  | trap (f : FmtY)
  /-- R290. Stable only: clears a node's fault and resumes it or aborts its task. -/
  | fret (f : FmtY)
  /-- R151. Emits a CSR's value as at map. -/
  | csrrd (f : FmtY)
  /-- R151. Writes a CSR at commit. -/
  | csrwr (f : FmtY)
  /-- R290. Suspends the node after commit when debugging is enabled. -/
  | bkpt (f : FmtY)
  /-- R290. Emits the package timebase at firing. -/
  | tbase (f : FmtY)
  /-- R290. Invalidates a page, or every entry of the ASID, with drain tokens. -/
  | tlbinv (f : FmtY)
  /-- R146. Discards the prefetched block so that stored code is fetched afresh. -/
  | codesync (f : FmtY)
  /-- R290. Appends an entry to the partition's message ring at commit. -/
  | mlog (f : FmtY)
  /-- R146. Reads a block's header and instructions through the home slices. -/
  | blockFetch (n : Nat)
  /-- R145. Checks a fetched block, loads the handler table, draws the map charge and injects header reads. -/
  | blockMap (n : Nat)
  /-- R12. A token moves one hop between routers, with a parity check and the partition filter. -/
  | tokenHop (k : Nat)
  /-- R24. A token arriving at a node is written into its matching entry or spilled, parked or refused. -/
  | tokenArrival (k : Nat)
  /-- R369. A token that has waited 256 link cycles at a die link moves over the escape channel into a spill area. -/
  | escapeChannelTimeout (k : Nat)
  /-- R19. A complete commit unit is checked, then its stores, register writes, tokens, cards and accumulator actions take effect. -/
  | blockCommit (n : Nat) (colour : Nat)
  /-- R27. An iteration with no token left and every pass committed retires and returns its slot. -/
  | iterationRetire (task colour iter : Nat)
  /-- R247. A load's value returns to the node, resolving its LSID and taking any fill surcharge. -/
  | loadValueReturn (n k : Nat)
  /-- R31. A producer's result arrives and fills a register left empty by a deferred write. -/
  | deferredWriteArrival (k : Nat)
  /-- R65. A read request reaches its home L2 slice and is served, held or filled. -/
  | sliceRead (n k : Nat)
  /-- R72. A store, atomic, CAS or STV is applied at its home slice and its line becomes provisional. -/
  | sliceWritePerform (n : Nat)
  /-- R80. A line read or masked write reaches a base die under a request tag. -/
  | baseDieRequest (k : Nat)
  /-- R80. A base die answers a request and frees its tag. -/
  | baseDieReply (k : Nat)
  /-- R118. After the last halt and final cards the die commits the task, accounts its charge, logs and writes DONE. -/
  | taskCommit (task : Nat)
  /-- R373. The Farrier acts on a fault report and writes a Farrier record. -/
  | farrierAction (k : Nat)
  /-- R377. The Farrier and Groom map a held page and release its firings, or abort the task. -/
  | pageFaultResolve (k : Nat)
  /-- R70. A re-latch token passes a streaming node, which completes issued accesses and drops its latches. -/
  | reLatchToken (k : Nat)
  /-- R71. A drain token reaches the home slice behind earlier requests, acknowledging an invalidation. -/
  | drainToken (k : Nat)
  /-- R384. A cycle of waits on provisional lines persisting 1 ms aborts the task with the highest enqueue count. -/
  | waitCycleTimeout (p : Nat)
  /-- R300. A partition's arbiter admits bidding tasks in rank order that have a placement, counting bypasses. -/
  | areaBidding (p : Nat)
  /-- R304. A running task that has used its time slice is swept for a waiting task, or its slice restarts. -/
  | sliceExpiry (task : Nat)
  /-- R305. The dusk token reaches a position, which commits or discards its block and saves its state. -/
  | duskToken (task : Nat)
  /-- R108. When a node's unfed budget reaches zero the crib is cut off and sealed. -/
  | cribBudgetEnd (n : Nat)
  /-- R404. A crib found below its count is restored from the reserve and its node marked bad. -/
  | chargeMismatch (n measured : Nat) (fast : Bool)
  /-- R121. The hub opens a new accounting period when a stamp would reach 2^40 µs. -/
  | periodAutoOpen (p : Nat)
  /-- R126. After every 256th record the hub signs the chain head. -/
  | logSign256 (p : Nat)
  /-- R88. The IRE drains, zeroes and returns a pending granule once its lowering tasks have ended. -/
  | ireFree (asid arena granule : Nat)
  /-- R267. A rein sent by another task is written into the receiver's declared register at a block boundary. -/
  | reinDelivery (k : Nat)
  /-- R277. A copy channel copies one line and advances its write pointer. -/
  | copyStep (k : Nat)
  /-- R278. The gather engine copies one indexed row. -/
  | gatherStep (k : Nat)
  /-- R279. The collective engine sends, receives or combines one line. -/
  | collStep (k : Nat) (mismatch : Bool) (others : List (List Byte))
  /-- R79. A base die selects and weights the top k entries of one row. -/
  | topkStep (k : Nat)
  /-- R281. The controller copies one line of a marked page to the partner. -/
  | mirrorCopyStep (k : Nat)
  /-- R91. The partner acknowledges a mirrored write, making it durable. -/
  | partnerAck (k : Nat)
  /-- R410. After 100 ms without acknowledgement the partition's mirrors are unmarked and blocked tasks killed. -/
  | mirrorAckTimeout (p : Nat)
  /-- R386. A parked card resumes once the node's remaining charge covers its step. -/
  | cardResume (k : Nat)
  /-- R286. A card not started by its deadline is rewritten as a stock kernel from the Stable. -/
  | deadlineFallback (k : Nat)
  /-- R355. The monitors sample each 1 µs, raising THERMAL alerts and stopping or resuming admission at thresholds. -/
  | monitorSample (samples : List MonSample)
  /-- R419. A patrol scrub checks all words of an L2 line. -/
  | patrolScrub (line : Nat)
  /-- R408. The Groom copies a frame to a spare, remaps it and re-points journal entries. -/
  | frameRetire (k : Nat)
  /-- R412. A silicon error in the Stable, hub or partitions table forces a noon, or a dawn if noon fails. -/
  | stableErrorNoon (bad : List Nat) (noonFails : Bool)
  /-- R75. The slices finish clearing a committed task's owner-tag marks lazily, the owner tag may then be reused, and the task's slot in the slot table is freed. -/
  | ownerTagCleared (owner : Nat)
  /-- R70. The Stable clears a page-table entry, invalidates the owning TLB slice entry and injects re-latch and drain tokens; the unmap completes when the tokens have passed. -/
  | unmap (asid va : Nat)
  deriving DecidableEq, Repr

end Sys2Proof
end

