-- ==== Sys2Proof/Machine/Forms.lean ====
section
/-! DEFINITION. The opcode map (07 R144): the OPC of every instruction form, its body, and the form of an OPC. -/

namespace Sys2Proof

/-- The format body of an instruction form; an event has none. -/
inductive Body where
  | a (f : FmtA)
  | g (f : FmtG)
  | b (f : FmtB)
  | m (f : FmtM)
  | x (f : FmtX)
  | e (f : FmtE)
  | y (f : FmtY)
  | event
  deriving DecidableEq, Repr

/-- The body of an instruction. -/
def Instr.body (i : Instr) : Body :=
  match i with
  | .br f => .b f
  | .bri f => .b f
  | .call f => .b f
  | .calli f => .b f
  | .ret f => .b f
  | .halt f => .b f
  | .mov f => .g f
  | .const f => .g f
  | .lenter f => .g f
  | .inext f => .g f
  | .iprev f => .g f
  | .lexit f => .g f
  | .talloc f => .g f
  | .tfree f => .g f
  | .spawn f => .g f
  | .join f => .g f
  | .getg f => .g f
  | .putg f => .g f
  | .empty f => .g f
  | .null f => .g f
  | .cmp f => .a f
  | .fcmp f => .a f
  | .pand f => .a f
  | .por f => .a f
  | .pxor f => .a f
  | .pnot f => .a f
  | .any f => .a f
  | .all f => .a f
  | .maskn f => .a f
  | .sel f => .a f
  | .add f => .a f
  | .sub f => .a f
  | .mul f => .a f
  | .mulh f => .a f
  | .div f => .a f
  | .rem f => .a f
  | .neg f => .a f
  | .abs f => .a f
  | .min f => .a f
  | .max f => .a f
  | .madd f => .a f
  | .dot4 f => .a f
  | .lea f => .a f
  | .and f => .a f
  | .or f => .a f
  | .xor f => .a f
  | .andn f => .a f
  | .not f => .a f
  | .shl f => .a f
  | .shr f => .a f
  | .sar f => .a f
  | .rol f => .a f
  | .clz f => .a f
  | .popc f => .a f
  | .brev f => .a f
  | .bfx f => .a f
  | .bfi f => .a f
  | .sext f => .a f
  | .zext f => .a f
  | .fadd f => .a f
  | .fsub f => .a f
  | .fmul f => .a f
  | .fma f => .a f
  | .fnma f => .a f
  | .fdiv f => .a f
  | .fsqrt f => .a f
  | .frsqrt f => .a f
  | .frcp f => .a f
  | .fmin f => .a f
  | .fmax f => .a f
  | .fabs f => .a f
  | .fneg f => .a f
  | .fcpys f => .a f
  | .fclass f => .a f
  | .frint f => .a f
  | .fscale f => .a f
  | .fexp f => .a f
  | .fexp2 f => .a f
  | .flog f => .a f
  | .flog2 f => .a f
  | .fsin f => .a f
  | .fcos f => .a f
  | .ftanh f => .a f
  | .flgst f => .a f
  | .ferf f => .a f
  | .cvt f => .a f
  | .cvtsr f => .a f
  | .rng f => .a f
  | .pack4 f => .a f
  | .unpk4 f => .a f
  | .jord f => .a f
  | .jseed f => .a f
  | .jcoef f => .a f
  | .jsetc f => .a f
  | .jdiff f => .a f
  | .jintg f => .a f
  | .jtrunc f => .a f
  | .jeval f => .a f
  | .jflag f => .a f
  | .repl f => .a f
  | .lane f => .a f
  | .insl f => .a f
  | .perm f => .a f
  | .shuf f => .a f
  | .rotl f => .a f
  | .slide f => .a f
  | .zip f => .a f
  | .unzip f => .a f
  | .iota f => .a f
  | .red f => .g f
  | .scan f => .g f
  | .accum f => .g f
  | .filter f => .g f
  | .compact f => .g f
  | .steer f => .g f
  | .merge f => .g f
  | .mmat f => .x f
  | .tfetch f => .x f
  | .accclr f => .x f
  | .accarm f => .x f
  | .accrel f => .x f
  | .accrd f => .x f
  | .accchk f => .x f
  | .mtrans f => .x f
  | .ld f => .m f
  | .lds f => .m f
  | .ldg f => .m f
  | .st f => .m f
  | .sts f => .m f
  | .stg f => .m f
  | .ldsp f => .m f
  | .stsp f => .m f
  | .pref f => .m f
  | .nullst f => .m f
  | .l1inv f => .m f
  | .fence f => .m f
  | .ldv f => .m f
  | .stv f => .m f
  | .reclaim f => .m f
  | .atom f => .m f
  | .cas f => .m f
  | .reinmk f => .m f
  | .reindup f => .m f
  | .reinspl f => .m f
  | .reinnar f => .m f
  | .reindrop f => .m f
  | .reinq f => .m f
  | .reinsend f => .m f
  | .copy f => .e f
  | .wpwait f => .e f
  | .wprd f => .e f
  | .gather f => .e f
  | .coll f => .e f
  | .topk f => .e f
  | .cwait f => .e f
  | .cstat f => .e f
  | .ccancel f => .e f
  | .mirror f => .e f
  | .qpush f => .e f
  | .qpop f => .e f
  | .qstat f => .e f
  | .chgrd f => .e f
  | .chgask f => .e f
  | .tlaunch f => .e f
  | .trap f => .y f
  | .fret f => .y f
  | .csrrd f => .y f
  | .csrwr f => .y f
  | .bkpt f => .y f
  | .tbase f => .y f
  | .tlbinv f => .y f
  | .codesync f => .y f
  | .mlog f => .y f
  | .jordSet f => .a f
  | .jflagClr f => .a f
  | _ => .event

/-- The OPC of an instruction form: group·0x20 + minor (07 R127, R144); events have the value 1024, which no word holds. -/
def Instr.opc (i : Instr) : Nat :=
  match i with
  | .br _ => 0x000
  | .bri _ => 0x001
  | .call _ => 0x002
  | .calli _ => 0x003
  | .ret _ => 0x004
  | .halt _ => 0x005
  | .mov _ => 0x020
  | .const _ => 0x021
  | .lenter _ => 0x022
  | .inext _ => 0x023
  | .iprev _ => 0x024
  | .lexit _ => 0x025
  | .talloc _ => 0x026
  | .tfree _ => 0x027
  | .spawn _ => 0x028
  | .join _ => 0x029
  | .getg _ => 0x02A
  | .putg _ => 0x02B
  | .empty _ => 0x02C
  | .null _ => 0x02D
  | .cmp _ => 0x040
  | .fcmp _ => 0x041
  | .pand _ => 0x042
  | .por _ => 0x043
  | .pxor _ => 0x044
  | .pnot _ => 0x045
  | .any _ => 0x046
  | .all _ => 0x047
  | .maskn _ => 0x048
  | .sel _ => 0x049
  | .add _ => 0x060
  | .sub _ => 0x061
  | .mul _ => 0x062
  | .mulh _ => 0x063
  | .div _ => 0x064
  | .rem _ => 0x065
  | .neg _ => 0x066
  | .abs _ => 0x067
  | .min _ => 0x068
  | .max _ => 0x069
  | .madd _ => 0x06A
  | .dot4 _ => 0x06B
  | .lea _ => 0x06C
  | .and _ => 0x080
  | .or _ => 0x081
  | .xor _ => 0x082
  | .andn _ => 0x083
  | .not _ => 0x084
  | .shl _ => 0x085
  | .shr _ => 0x086
  | .sar _ => 0x087
  | .rol _ => 0x088
  | .clz _ => 0x089
  | .popc _ => 0x08A
  | .brev _ => 0x08B
  | .bfx _ => 0x08C
  | .bfi _ => 0x08D
  | .sext _ => 0x08E
  | .zext _ => 0x08F
  | .fadd _ => 0x0A0
  | .fsub _ => 0x0A1
  | .fmul _ => 0x0A2
  | .fma _ => 0x0A3
  | .fnma _ => 0x0A4
  | .fdiv _ => 0x0A5
  | .fsqrt _ => 0x0A6
  | .frsqrt _ => 0x0A7
  | .frcp _ => 0x0A8
  | .fmin _ => 0x0A9
  | .fmax _ => 0x0AA
  | .fabs _ => 0x0AB
  | .fneg _ => 0x0AC
  | .fcpys _ => 0x0AD
  | .fclass _ => 0x0AE
  | .frint _ => 0x0AF
  | .fscale _ => 0x0B0
  | .fexp _ => 0x0C0
  | .fexp2 _ => 0x0C1
  | .flog _ => 0x0C2
  | .flog2 _ => 0x0C3
  | .fsin _ => 0x0C4
  | .fcos _ => 0x0C5
  | .ftanh _ => 0x0C6
  | .flgst _ => 0x0C7
  | .ferf _ => 0x0C8
  | .cvt _ => 0x0E0
  | .cvtsr _ => 0x0E1
  | .rng _ => 0x0E2
  | .pack4 _ => 0x0E3
  | .unpk4 _ => 0x0E4
  | .jord _ => 0x100
  | .jseed _ => 0x101
  | .jcoef _ => 0x102
  | .jsetc _ => 0x103
  | .jdiff _ => 0x104
  | .jintg _ => 0x105
  | .jtrunc _ => 0x106
  | .jeval _ => 0x107
  | .jflag _ => 0x108
  | .repl _ => 0x120
  | .lane _ => 0x121
  | .insl _ => 0x122
  | .perm _ => 0x123
  | .shuf _ => 0x124
  | .rotl _ => 0x125
  | .slide _ => 0x126
  | .zip _ => 0x127
  | .unzip _ => 0x128
  | .iota _ => 0x129
  | .red _ => 0x140
  | .scan _ => 0x141
  | .accum _ => 0x142
  | .filter _ => 0x143
  | .compact _ => 0x144
  | .steer _ => 0x145
  | .merge _ => 0x146
  | .mmat _ => 0x160
  | .tfetch _ => 0x161
  | .accclr _ => 0x162
  | .accarm _ => 0x163
  | .accrel _ => 0x164
  | .accrd _ => 0x165
  | .accchk _ => 0x166
  | .mtrans _ => 0x167
  | .ld _ => 0x180
  | .lds _ => 0x181
  | .ldg _ => 0x182
  | .st _ => 0x183
  | .sts _ => 0x184
  | .stg _ => 0x185
  | .ldsp _ => 0x186
  | .stsp _ => 0x187
  | .pref _ => 0x188
  | .nullst _ => 0x189
  | .l1inv _ => 0x18A
  | .fence _ => 0x18B
  | .ldv _ => 0x1A0
  | .stv _ => 0x1A1
  | .reclaim _ => 0x1A2
  | .atom _ => 0x1A3
  | .cas _ => 0x1A4
  | .reinmk _ => 0x1C0
  | .reindup _ => 0x1C1
  | .reinspl _ => 0x1C2
  | .reinnar _ => 0x1C3
  | .reindrop _ => 0x1C4
  | .reinq _ => 0x1C5
  | .reinsend _ => 0x1C6
  | .copy _ => 0x1E0
  | .wpwait _ => 0x1E1
  | .wprd _ => 0x1E2
  | .gather _ => 0x1E3
  | .coll _ => 0x1E4
  | .topk _ => 0x1E5
  | .cwait _ => 0x1E6
  | .cstat _ => 0x1E7
  | .ccancel _ => 0x1E8
  | .mirror _ => 0x1E9
  | .qpush _ => 0x200
  | .qpop _ => 0x201
  | .qstat _ => 0x202
  | .chgrd _ => 0x203
  | .chgask _ => 0x204
  | .tlaunch _ => 0x205
  | .trap _ => 0x220
  | .fret _ => 0x221
  | .csrrd _ => 0x222
  | .csrwr _ => 0x223
  | .bkpt _ => 0x224
  | .tbase _ => 0x225
  | .tlbinv _ => 0x226
  | .codesync _ => 0x227
  | .mlog _ => 0x228
  | .jordSet _ => 0x100
  | .jflagClr _ => 0x108
  | _ => 1024

/-- The header of an empty word. -/
def Hdr.none : Hdr := ⟨0, 0, 0, 0, 0, 0⟩

/-- The header of an instruction form. -/
def Instr.hdr (i : Instr) : Hdr :=
  match i.body with
  | .a f => f.h
  | .g f => f.h
  | .b f => f.h
  | .m f => f.h
  | .x f => f.h
  | .e f => f.h
  | .y f => f.h
  | .event => Hdr.none

/-- The forms of format A by OPC (07 R144). -/
def formA (opc : Nat) (f : FmtA) : Option Instr :=
  match opc with
  | 0x040 => some (.cmp f)
  | 0x041 => some (.fcmp f)
  | 0x042 => some (.pand f)
  | 0x043 => some (.por f)
  | 0x044 => some (.pxor f)
  | 0x045 => some (.pnot f)
  | 0x046 => some (.any f)
  | 0x047 => some (.all f)
  | 0x048 => some (.maskn f)
  | 0x049 => some (.sel f)
  | 0x060 => some (.add f)
  | 0x061 => some (.sub f)
  | 0x062 => some (.mul f)
  | 0x063 => some (.mulh f)
  | 0x064 => some (.div f)
  | 0x065 => some (.rem f)
  | 0x066 => some (.neg f)
  | 0x067 => some (.abs f)
  | 0x068 => some (.min f)
  | 0x069 => some (.max f)
  | 0x06A => some (.madd f)
  | 0x06B => some (.dot4 f)
  | 0x06C => some (.lea f)
  | 0x080 => some (.and f)
  | 0x081 => some (.or f)
  | 0x082 => some (.xor f)
  | 0x083 => some (.andn f)
  | 0x084 => some (.not f)
  | 0x085 => some (.shl f)
  | 0x086 => some (.shr f)
  | 0x087 => some (.sar f)
  | 0x088 => some (.rol f)
  | 0x089 => some (.clz f)
  | 0x08A => some (.popc f)
  | 0x08B => some (.brev f)
  | 0x08C => some (.bfx f)
  | 0x08D => some (.bfi f)
  | 0x08E => some (.sext f)
  | 0x08F => some (.zext f)
  | 0x0A0 => some (.fadd f)
  | 0x0A1 => some (.fsub f)
  | 0x0A2 => some (.fmul f)
  | 0x0A3 => some (.fma f)
  | 0x0A4 => some (.fnma f)
  | 0x0A5 => some (.fdiv f)
  | 0x0A6 => some (.fsqrt f)
  | 0x0A7 => some (.frsqrt f)
  | 0x0A8 => some (.frcp f)
  | 0x0A9 => some (.fmin f)
  | 0x0AA => some (.fmax f)
  | 0x0AB => some (.fabs f)
  | 0x0AC => some (.fneg f)
  | 0x0AD => some (.fcpys f)
  | 0x0AE => some (.fclass f)
  | 0x0AF => some (.frint f)
  | 0x0B0 => some (.fscale f)
  | 0x0C0 => some (.fexp f)
  | 0x0C1 => some (.fexp2 f)
  | 0x0C2 => some (.flog f)
  | 0x0C3 => some (.flog2 f)
  | 0x0C4 => some (.fsin f)
  | 0x0C5 => some (.fcos f)
  | 0x0C6 => some (.ftanh f)
  | 0x0C7 => some (.flgst f)
  | 0x0C8 => some (.ferf f)
  | 0x0E0 => some (.cvt f)
  | 0x0E1 => some (.cvtsr f)
  | 0x0E2 => some (.rng f)
  | 0x0E3 => some (.pack4 f)
  | 0x0E4 => some (.unpk4 f)
  | 0x100 => some (if f.var = 1 then .jordSet f else .jord f)
  | 0x101 => some (.jseed f)
  | 0x102 => some (.jcoef f)
  | 0x103 => some (.jsetc f)
  | 0x104 => some (.jdiff f)
  | 0x105 => some (.jintg f)
  | 0x106 => some (.jtrunc f)
  | 0x107 => some (.jeval f)
  | 0x108 => some (if f.var = 1 then .jflagClr f else .jflag f)
  | 0x120 => some (.repl f)
  | 0x121 => some (.lane f)
  | 0x122 => some (.insl f)
  | 0x123 => some (.perm f)
  | 0x124 => some (.shuf f)
  | 0x125 => some (.rotl f)
  | 0x126 => some (.slide f)
  | 0x127 => some (.zip f)
  | 0x128 => some (.unzip f)
  | 0x129 => some (.iota f)
  | _ => none

/-- The forms of format G by OPC (07 R144). -/
def formG (opc : Nat) (f : FmtG) : Option Instr :=
  match opc with
  | 0x020 => some (.mov f)
  | 0x021 => some (.const f)
  | 0x022 => some (.lenter f)
  | 0x023 => some (.inext f)
  | 0x024 => some (.iprev f)
  | 0x025 => some (.lexit f)
  | 0x026 => some (.talloc f)
  | 0x027 => some (.tfree f)
  | 0x028 => some (.spawn f)
  | 0x029 => some (.join f)
  | 0x02A => some (.getg f)
  | 0x02B => some (.putg f)
  | 0x02C => some (.empty f)
  | 0x02D => some (.null f)
  | 0x140 => some (.red f)
  | 0x141 => some (.scan f)
  | 0x142 => some (.accum f)
  | 0x143 => some (.filter f)
  | 0x144 => some (.compact f)
  | 0x145 => some (.steer f)
  | 0x146 => some (.merge f)
  | _ => none

/-- The forms of format B by OPC (07 R144). -/
def formB (opc : Nat) (f : FmtB) : Option Instr :=
  match opc with
  | 0x000 => some (.br f)
  | 0x001 => some (.bri f)
  | 0x002 => some (.call f)
  | 0x003 => some (.calli f)
  | 0x004 => some (.ret f)
  | 0x005 => some (.halt f)
  | _ => none

/-- The forms of format M by OPC (07 R144). -/
def formM (opc : Nat) (f : FmtM) : Option Instr :=
  match opc with
  | 0x180 => some (.ld f)
  | 0x181 => some (.lds f)
  | 0x182 => some (.ldg f)
  | 0x183 => some (.st f)
  | 0x184 => some (.sts f)
  | 0x185 => some (.stg f)
  | 0x186 => some (.ldsp f)
  | 0x187 => some (.stsp f)
  | 0x188 => some (.pref f)
  | 0x189 => some (.nullst f)
  | 0x18A => some (.l1inv f)
  | 0x18B => some (.fence f)
  | 0x1A0 => some (.ldv f)
  | 0x1A1 => some (.stv f)
  | 0x1A2 => some (.reclaim f)
  | 0x1A3 => some (.atom f)
  | 0x1A4 => some (.cas f)
  | 0x1C0 => some (.reinmk f)
  | 0x1C1 => some (.reindup f)
  | 0x1C2 => some (.reinspl f)
  | 0x1C3 => some (.reinnar f)
  | 0x1C4 => some (.reindrop f)
  | 0x1C5 => some (.reinq f)
  | 0x1C6 => some (.reinsend f)
  | _ => none

/-- The forms of format X by OPC (07 R144). -/
def formX (opc : Nat) (f : FmtX) : Option Instr :=
  match opc with
  | 0x160 => some (.mmat f)
  | 0x161 => some (.tfetch f)
  | 0x162 => some (.accclr f)
  | 0x163 => some (.accarm f)
  | 0x164 => some (.accrel f)
  | 0x165 => some (.accrd f)
  | 0x166 => some (.accchk f)
  | 0x167 => some (.mtrans f)
  | _ => none

/-- The forms of format E by OPC (07 R144). -/
def formE (opc : Nat) (f : FmtE) : Option Instr :=
  match opc with
  | 0x1E0 => some (.copy f)
  | 0x1E1 => some (.wpwait f)
  | 0x1E2 => some (.wprd f)
  | 0x1E3 => some (.gather f)
  | 0x1E4 => some (.coll f)
  | 0x1E5 => some (.topk f)
  | 0x1E6 => some (.cwait f)
  | 0x1E7 => some (.cstat f)
  | 0x1E8 => some (.ccancel f)
  | 0x1E9 => some (.mirror f)
  | 0x200 => some (.qpush f)
  | 0x201 => some (.qpop f)
  | 0x202 => some (.qstat f)
  | 0x203 => some (.chgrd f)
  | 0x204 => some (.chgask f)
  | 0x205 => some (.tlaunch f)
  | _ => none

/-- The forms of format Y by OPC (07 R144). -/
def formY (opc : Nat) (f : FmtY) : Option Instr :=
  match opc with
  | 0x220 => some (.trap f)
  | 0x221 => some (.fret f)
  | 0x222 => some (.csrrd f)
  | 0x223 => some (.csrwr f)
  | 0x224 => some (.bkpt f)
  | 0x225 => some (.tbase f)
  | 0x226 => some (.tlbinv f)
  | 0x227 => some (.codesync f)
  | 0x228 => some (.mlog f)
  | _ => none

end Sys2Proof
end

