-- ==== Sys2Proof/Decode.lean ====
section
/-! DEFINITION. The decoder of 128-bit instruction words, total on any bits and refusing by name, and the encoder, both
written from 07 R127–R137 and R144. -/

namespace Sys2Proof
open Sys2Proof.Bits

/-- Why a word is no instruction. -/
inductive DecodeError where
  /-- The group is one of 0x12 to 0x1F, or the minor code lies beyond its group's list (07 R144). -/
  | unassignedOpc
  /-- Bits 7:0 of format A or bits 20:0 of format B are not zero (07 R131, R133). -/
  | mustBeZero
  /-- Fewer than sixteen bytes. -/
  | short
  deriving DecidableEq, Repr

/-- The header fields of a word (07 R127). -/
def decodeHdr (w : Quad) : Hdr where
  plane := w.extractLsb' 116 2
  pmode := w.extractLsb' 114 2
  tagop := w.extractLsb' 110 4
  xm := w.extractLsb' 108 2
  t0 := w.extractLsb' 96 12
  t1 := w.extractLsb' 84 12

/-- The OPC field of a word (07 R127). -/
def opcOf (w : Quad) : Nat := (w.extractLsb' 118 10).toNat

/-- Format A (07 R131). -/
def decodeA (w : Quad) : FmtA where
  h := decodeHdr w
  imm := w.extractLsb' 20 64
  immr := w.extractLsb' 19 1
  rm := w.extractLsb' 16 3
  ty := w.extractLsb' 12 4
  sat := w.extractLsb' 11 1
  var := w.extractLsb' 8 3

/-- Format G (07 R132). -/
def decodeG (w : Quad) : FmtG where
  h := decodeHdr w
  win := w.extractLsb' 76 8
  count := w.extractLsb' 64 12
  imm := w.extractLsb' 0 64

/-- Format B (07 R133). -/
def decodeB (w : Quad) : FmtB where
  h := decodeHdr w
  boff := w.extractLsb' 24 60
  exit := w.extractLsb' 21 3

/-- Format M (07 R134). -/
def decodeM (w : Quad) : FmtM where
  h := decodeHdr w
  off := w.extractLsb' 52 32
  lsid := w.extractLsb' 46 6
  ord := w.extractLsb' 44 2
  scope := w.extractLsb' 41 3
  ty := w.extractLsb' 37 4
  hv := w.extractLsb' 36 1
  hreg := w.extractLsb' 31 5
  low := w.extractLsb' 0 31

/-- Format X (07 R135). -/
def decodeX (w : Quad) : FmtX where
  h := decodeHdr w
  acc := w.extractLsb' 82 2
  ksteps := w.extractLsb' 78 4
  pstride := w.extractLsb' 64 14
  low := w.extractLsb' 0 64

/-- Format E (07 R136). -/
def decodeE (w : Quad) : FmtE where
  h := decodeHdr w
  eng := w.extractLsb' 78 6
  chan := w.extractLsb' 72 6
  flags := w.extractLsb' 64 8
  card := w.extractLsb' 0 64

/-- Format Y (07 R137). -/
def decodeY (w : Quad) : FmtY where
  h := decodeHdr w
  csr := w.extractLsb' 68 16
  imm := w.extractLsb' 0 68

/-- A form, or the refusal of an unassigned OPC. -/
def orUnassigned (o : Option Instr) : Except DecodeError Instr :=
  match o with
  | some i => .ok i
  | none => .error .unassignedOpc

/-- Decode one 128-bit word. The format is chosen by the group (07 R144). -/
def decode (w : Quad) : Except DecodeError Instr :=
  let opc := opcOf w
  let g := opc / 32
  if g = 0 then
    if w.extractLsb' 0 21 = 0 then orUnassigned (formB opc (decodeB w))
    else if (formB opc (decodeB w)).isSome then .error .mustBeZero else .error .unassignedOpc
  else if g = 1 || g = 10 then orUnassigned (formG opc (decodeG w))
  else if g ≤ 9 then
    if w.extractLsb' 0 8 = 0 then orUnassigned (formA opc (decodeA w))
    else if (formA opc (decodeA w)).isSome then .error .mustBeZero else .error .unassignedOpc
  else if g = 11 then orUnassigned (formX opc (decodeX w))
  else if g ≤ 14 then orUnassigned (formM opc (decodeM w))
  else if g ≤ 16 then orUnassigned (formE opc (decodeE w))
  else orUnassigned (formY opc (decodeY w))

/-- The word that little-endian bytes hold (00 R4). -/
def wordOfBytes (bs : List Byte) : Quad := BitVec.ofNat 128 (ofBytes (bs.take 16))

/-- Decode the first sixteen bytes; the rest of the list is left. -/
def decodeBytes (bs : List Byte) : Except DecodeError (Instr × List Byte) :=
  if bs.length < 16 then .error .short
  else match decode (wordOfBytes bs) with
    | .ok i => .ok (i, bs.drop 16)
    | .error e => .error e

/-! ## The encoder -/

/-- OPC and header as the top 44 bits of a word (07 R127). -/
def encodeTop (opc : Nat) (h : Hdr) : BitVec 44 :=
  BitVec.ofNat 10 opc ++ h.plane ++ h.pmode ++ h.tagop ++ h.xm ++ h.t0 ++ h.t1

/-- Encode an instruction form into its word; an event has no word. -/
def encode (i : Instr) : Option Quad :=
  match i.body with
  | .a f => some (encodeTop i.opc f.h ++ f.imm ++ f.immr ++ f.rm ++ f.ty ++ f.sat ++ f.var ++ (0 : BitVec 8))
  | .g f => some (encodeTop i.opc f.h ++ f.win ++ f.count ++ f.imm)
  | .b f => some (encodeTop i.opc f.h ++ f.boff ++ f.exit ++ (0 : BitVec 21))
  | .m f => some (encodeTop i.opc f.h ++ f.off ++ f.lsid ++ f.ord ++ f.scope ++ f.ty ++ f.hv ++ f.hreg ++ f.low)
  | .x f => some (encodeTop i.opc f.h ++ f.acc ++ f.ksteps ++ f.pstride ++ f.low)
  | .e f => some (encodeTop i.opc f.h ++ f.eng ++ f.chan ++ f.flags ++ f.card)
  | .y f => some (encodeTop i.opc f.h ++ f.csr ++ f.imm)
  | .event => none

/-- The bytes of an instruction as memory holds them, lowest address first (00 R4). -/
def encodeBytes (i : Instr) : Option (List Byte) := (encode i).map fun w => toBytes 16 w.toNat

/-- What the decoder reads from an instruction whose bits are `w`, bit 0 the least significant bit of the first word: the
sixteen bytes are laid out little-endian and given to the decoder; bits above `nbits` are zero. -/
def decodeTableWord (nbits w : Nat) : Option Instr :=
  match decodeBytes (toBytes 16 (w % 2 ^ nbits)) with
  | .ok (i, _) => some i
  | .error _ => none

end Sys2Proof
end

