-- ==== Sys2Proof/Machine/FormRules.lean ====
section
/-! DEFINITION. What each form accepts (07 R127–R138; 08 R156, R159, R174; 09 R183, R185, R189, R191, R198; 10 R205, R212;
11 R218, R221; 12 R230; 13 R243, R249, R258, R264; 14 R272, R282, R287, R289), the planes of its slots, and its draw. -/

namespace Sys2Proof.Machine
open Sys2Proof.Bits

/-! ## Slots and planes: 0 S, 1 V, 2 J, 3 W -/

/-- Whether the opcode is one of a list. -/
def Instr.isOpc (i : Instr) (l : List Nat) : Bool := l.contains i.opc

/-- The plane of an instruction. -/
def planeOf (i : Instr) : Nat := i.hdr.plane.toNat

/-- The group of an instruction (07 R144). -/
def groupOf (i : Instr) : Nat := i.opc / 32

/-- MADD, FMA, FNMA, STG and CAS read slot 11 as data (09 R183, 13 R243). -/
def thirdData (i : Instr) : Bool := Instr.isOpc i [0x6A, 0xA3, 0xA4, 0x185, 0x1A4]

/-- The value of VAR of a format A form. -/
def varOf (i : Instr) : Nat :=
  match i.body with
  | .a f => f.var.toNat
  | _ => 0

/-- Whether a form has a right operand (01 R25): a token, or where it has an IMMR, the immediate in its place. -/
def rightSlot (i : Instr) : Bool :=
  Instr.isOpc i [0x40, 0x41, 0x42, 0x43, 0x44, 0x48, 0x49,
    0x60, 0x61, 0x62, 0x63, 0x64, 0x65, 0x68, 0x69, 0x6A, 0x6B, 0x6C,
    0x80, 0x81, 0x82, 0x83, 0x85, 0x86, 0x87, 0x88, 0x8D,
    0xA0, 0xA1, 0xA2, 0xA3, 0xA4, 0xA5, 0xA9, 0xAA, 0xAD, 0xB0] ||
  Instr.isOpc i [0xE1, 0xE3, 0x101, 0x103, 0x105, 0x107, 0x108, 0x121, 0x122, 0x124, 0x125, 0x126, 0x127, 0x128, 0x146, 0x160,
    0x182, 0x183, 0x184, 0x185, 0x187, 0x1A0, 0x1A1, 0x1A2, 0x1A3, 0x1A4, 0x1C0, 0x1C3, 0x1C6] ||
  (i.opc = 0x100 && varOf i = 1)

/-- Forms of which an immediate may replace the right operand (07 R130, and each form's entry). -/
def immrAllowed (i : Instr) : Bool :=
  rightSlot i && !(Instr.isOpc i [0x6B, 0xE1, 0xE3, 0x8D, 0x103, 0x122, 0x124, 0x126, 0x127, 0x128])

/-- The planes from which slot `slot` (1 left, 2 right, 3 predicate) accepts tokens (01 R22 with 08 R173, 09 R183, 10 R213,
11 R220, 12 R230, 13 R243, R264, 14 R272, R282). -/
def inPlanes (i : Instr) (slot : Nat) : List Nat :=
  let p := planeOf i
  let g := groupOf i
  if slot = 3 && !thirdData i then (if p = 0 then [0] else [1])
  else if g = 12 || g = 13 then
    if slot = 1 then [0]
    else if Instr.isOpc i [0x182, 0x185] && slot = 2 then [1]
    else [p]
  else if g = 14 then
    if slot = 2 then [0]
    else match i.body with
      | .m f =>
        if f.hv = 1 then (if Instr.isOpc i [0x1C1, 0x1C4, 0x1C5, 0x1C6] then [0, 1, 2, 3] else [0])
        else if Instr.isOpc i [0x1C4, 0x1C5, 0x1C6] then [3] else [0]
      | _ => [0]
  else if g = 11 || g = 15 then [1, 3]
  else if i.opc = 0x120 then [0]
  else if i.opc = 0x101 then [1]
  else if Instr.isOpc i [0x103, 0x105, 0x107] && slot = 2 then [1]
  else [p]

/-- The planes as which consumers read the tokens of a form (10 R213, 08 R176, 12 R230, 13 R251, R264, 14 R273, R287). -/
def outPlanes (i : Instr) : List Nat :=
  let g := groupOf i
  if g = 15 then [1, 3]
  else if g = 11 || Instr.isOpc i [0x102, 0x107] then [1]
  else if i.opc = 0x41 && planeOf i = 2 then [1]
  else if Instr.isOpc i [0x183, 0x184, 0x185, 0x187] then [0]
  else if g = 14 then (if i.opc = 0x1C6 then [3] else [0])
  else [planeOf i]

/-- Whether an instruction is J-plane work (02 R56, 07 R135). -/
def jetWork (i : Instr) : Bool :=
  planeOf i = 2 || (match i.body with
    | .x f => i.opc = 0x160 && !(f.pstride = 0)
    | _ => false)

/-- The beats that slot `slot` of a J-plane instruction takes at order `k` (02 R56, 10 R213, 13 R243); a predicate is a vector
predicate of one beat, an address a scalar of none. -/
def beatsWanted (i : Instr) (slot k : Nat) : Option Nat :=
  if !(planeOf i = 2) then none
  else match inPlanes i slot with
    | [2] => some (k + 1)
    | [1] => some 1
    | _ => none

/-! ## Draws (06 R110–R112; 08 R157, R172, R181; 09 R204; 10 R217; 11 R220, R228; 12 R242; 13 R269; 14 R284, R290) -/

/-- The multiplier of a linear J-plane operation. -/
def linJ (plane k : Nat) : Nat := if plane = 2 then k + 1 else 1
/-- The multiplier of a product or special function on the J plane. -/
def prodJ (plane k : Nat) : Nat := if plane = 2 then (k + 1) * (k + 2) / 2 else 1

/-- Whether a STREAM form's OP works on floating-point elements. -/
def streamFloat (i : Instr) : Bool :=
  match i.body with
  | .g f => 7 ≤ (f.imm.extractLsb' 4 4).toNat
  | _ => false

/-- The draw of a firing at order `k`, where it does not hang on what the firing finds: a load that its checks stop is not served from the L1 (13 R269). -/
def formDraw (i : Instr) (k : Nat) : Nat :=
  let p := planeOf i
  let s := fun (a b : Nat) => if p = 0 then a else b
  match groupOf i with
  | 0 => 4
  | 1 | 2 => s 4 24 * linJ p k
  | 3 | 4 => s 4 24
  | 5 => s 8 40 * (if Instr.isOpc i [0xA2, 0xA3, 0xA4, 0xA5, 0xA6, 0xA7, 0xA8] then prodJ p k else linJ p k)
  | 6 => s 24 96 * prodJ p k
  | 7 => if i.opc = 0xE2 then 24 else s 8 40
  | 8 => if p = 0 then 4 else (k + 1) *
      (if Instr.isOpc i [0x104, 0x105, 0x107] || (i.opc = 0x102 && varOf i = 1) then 40 else 24)
  | 9 => 24 * linJ p k
  | 10 => (if Instr.isOpc i [0x140, 0x141, 0x142] && streamFloat i then s 8 40 else s 4 24) * linJ p k
  | 11 => (match i.body with
    | .x f => if i.opc = 0x160 then 720 * (f.ksteps.toNat + 1) * (if f.pstride = 0 then 1 else (k + 1) * (k + 2) / 2)
      else if i.opc = 0x161 then 128 * (field f.low 48 14 + 1) else 24
    | _ => 24)
  | 12 => if Instr.isOpc i [0x180, 0x181, 0x182, 0x183, 0x184, 0x185] then s 48 128 * linJ p k
    else if Instr.isOpc i [0x186, 0x187] then s 12 32 * linJ p k else if i.opc = 0x188 then 48 else 4
  | 13 | 14 => 64
  | 15 | 16 => 64
  | _ => 4

/-! ## The header of an instruction (07 R127, R128; the PMODE, TAGOP and XM that entries name) -/

/-- Forms that emit nothing (07 R127, 14 R289). -/
def silent (i : Instr) : Bool :=
  groupOf i = 0 || Instr.isOpc i [0x27, 0x29, 0x188, 0x189, 0x18A, 0x18B, 0x220, 0x221, 0x224, 0x226, 0x227, 0x228]

/-- TAGOP values that a form accepts (07 R127; 08 R159; 14 R287, R289). -/
def tagopOk (i : Instr) : Bool :=
  let t := i.hdr.tagop.toNat
  if silent i || 16 ≤ groupOf i || Instr.isOpc i [0x23, 0x24, 0x25] then t = 0
  else if Instr.isOpc i [0x22, 0x26] then t = 5
  else if i.opc = 0x28 then t = 0 || t = 5
  else t ≤ 4 || t = 6

/-- PMODE values that a form accepts (07 R127; 08 R174; 09 R183; 11 R221; 13 R243). -/
def pmodeOk (i : Instr) : Bool :=
  let m := i.hdr.pmode.toNat
  if thirdData i || i.opc = 0x145 then m = 1
  else if Instr.isOpc i [0x49, 0x143] then m = 1 || m = 2
  else if Instr.isOpc i [0x142, 0x144, 0x146] then m = 0
  else m ≤ 2

/-- XM values that a form accepts (07 R127). DEDUCED: the entries of the ENGINE, TASK and SYSTEM groups that ask for XM 00
(14 R272, R282, R287, R289) set the general sentence aside for their own forms (log 75). -/
def xmOk (i : Instr) : Bool := if 15 ≤ groupOf i then i.hdr.xm = 0 else i.hdr.xm.toNat ≤ 1

/-- A target by itself (07 R128, R129). -/
def targetOk (i : Instr) (t : BitVec 12) : Bool :=
  let slot := field t 10 2
  let idx := field t 0 7
  if slot = 0 then t = 0
  else match field t 7 3 with
    | 0 => true
    | 1 => slot = 1 && idx < 96 && (outPlanes i).contains (if idx < 64 then 0 else if planeOf i = 2 && outPlanes i = [2] then 2 else 1)
    | 2 => slot = 1 && idx < 16
    | 3 => slot = 1 && idx ≤ 6 && planeOf i = 3
    | 4 => planeOf i = 1 && slot ≤ 2
    | _ => false

/-- Both targets by themselves, and what the entries say of their number (07 R127–R129; 08 R159; 11 R221; 13 R249, R258, R265;
14 R273, R287). -/
def targetsOk (i : Instr) : Bool :=
  let t0 := i.hdr.t0
  let t1 := i.hdr.t1
  targetOk i t0 && targetOk i t1 && !(t0 = 0 && !(t1 = 0)) && !(!(t0 = 0) && t0 = t1) &&
  (if silent i then t0 = 0 && t1 = 0
   else if i.opc = 0x145 then !(t1 = 0)
   else if Instr.isOpc i [0x180, 0x181, 0x182, 0x186] then !(t0 = 0)
   else if Instr.isOpc i [0x1A1, 0x1A3, 0x1A4] || groupOf i = 16 then t1 = 0 && (t0 = 0 || (field t0 7 3 = 1 && field t0 0 7 < 64))
   else if i.opc = 0x1C6 then t1 = 0 && !(field t0 7 3 = 1)
   else if groupOf i = 15 then (match i.body with
     | .e f => f.flags.getLsbD 0 = false || field t0 7 3 = 2 || (field t0 7 3 = 1 && 64 ≤ field t0 0 7)
     | _ => true)
   else true)

/-- PLANE values that a form accepts (07 R144). -/
def planeOk (i : Instr) : Bool :=
  let p := planeOf i
  match groupOf i with
  | 0 => p = 0
  | 1 => if Instr.isOpc i [0x20, 0x22, 0x23, 0x24, 0x25, 0x2D] then true
         else if Instr.isOpc i [0x21, 0x2A, 0x2B] then p ≤ 1 else p = 0
  | 2 => if Instr.isOpc i [0x40, 0x42, 0x43, 0x44, 0x45] then p ≤ 1 else if Instr.isOpc i [0x41, 0x49] then p ≤ 2 else p = 1
  | 3 => if i.opc = 0x6B then p = 1 else if i.opc = 0x6C then p = 0 else p ≤ 1
  | 4 => p ≤ 1
  | 5 => if Instr.isOpc i [0xAE, 0xAF] then p ≤ 1 else p ≤ 2
  | 6 => p ≤ 2
  | 7 => if Instr.isOpc i [0xE0, 0xE1] then p ≤ 1 else p = 1
  | 8 => if Instr.isOpc i [0x100, 0x108] then p = 0 else p = 2
  | 9 => if Instr.isOpc i [0x120, 0x129] then p = 1 else p = 1 || p = 2
  | 10 => if Instr.isOpc i [0x140, 0x141] then p = 1 || p = 2 else if i.opc = 0x142 then p ≤ 2 else true
  | 11 => p = 3
  | 12 => if Instr.isOpc i [0x180, 0x181, 0x183, 0x184, 0x186, 0x187] then p ≤ 2
          else if Instr.isOpc i [0x182, 0x185] then p = 1 || p = 2 else p = 0
  | 13 => p = 0
  | 14 | 15 => p = 3
  | 16 | 17 => p = 0
  | _ => false

/-! ## Bodies -/

/-- RM values of a form that rounds (02 R48). -/
def rmRound (rm : Nat) : Bool := rm ≤ 4 || rm = 6

/-- TY of a format A form (07 R138; 02 R39; and the entries). -/
def tyOkA (i : Instr) (f : FmtA) : Bool :=
  let ty := f.ty.toNat
  let p := planeOf i
  let int := ty ≤ 3 || (ty = 4 && p = 0)
  let flt := (7 ≤ ty && ty ≤ 9) || (ty = 10 && p = 0)
  if p = 2 then 7 ≤ ty && ty ≤ 9
  else match groupOf i with
    | 2 => if i.opc = 0x40 then int else if i.opc = 0x41 then flt else ty = 0
    | 3 => if i.opc = 0x6B then ty ≤ 1 && !(f.var = 1 && ty = 1) else if i.opc = 0x6C then ty = 3 || ty = 4
           else int && !(f.var = 1 && ty = 1)
    | 4 => int
    | 5 | 6 => flt
    | 7 => if i.opc = 0xE0 then ty ≤ 11 && (p = 0 || !(ty = 4 || ty = 10))
           else if i.opc = 0xE1 then [5, 6, 7, 8, 11].contains ty || (ty = 9 && f.var = 7)
           else if i.opc = 0xE2 then ty = 3 else ty = 11
    | 9 => if i.opc = 0x120 then ty ≤ 9 && !(ty = 4) else if i.opc = 0x129 then ty = 3 else ty = 0
    | _ => ty = 0

/-- VAR of a format A form (the entries). -/
def varOk (i : Instr) (f : FmtA) : Bool :=
  let v := f.var.toNat
  if Instr.isOpc i [0x40, 0x6C] then true
  else if i.opc = 0x41 then v ≤ 6
  else if i.opc = 0xE0 then planeOf i = 0 || !(v = 1 || v = 7)
  else if i.opc = 0xE1 then v = 6 || (v = 7 && planeOf i = 0)
  else if Instr.isOpc i [0x48, 0x63, 0x64, 0x65, 0x68, 0x69, 0x6A, 0x6B, 0x8C, 0xA3, 0xA4, 0xAF, 0x100, 0x102, 0x108, 0x126, 0x127, 0x128]
    then v ≤ 1
  else v = 0

/-- RM of a format A form (02 R48; the entries). -/
def rmOk (i : Instr) (f : FmtA) : Bool :=
  let rm := f.rm.toNat
  if i.opc = 0xE1 then rm = 5
  else if Instr.isOpc i [0xA0, 0xA1, 0xA2, 0xA3, 0xA4, 0xA5, 0xA6, 0xA7, 0xA8, 0xAF, 0xB0, 0xE0, 0xE3, 0x104, 0x105, 0x107] ||
      groupOf i = 6 || (i.opc = 0x102 && f.var = 1) then rmRound rm
  else rm = 0

/-- SAT of a format A form (07 R131; the entries). -/
def satOk (i : Instr) (f : FmtA) : Bool :=
  f.sat = 0 || Instr.isOpc i [0x60, 0x61, 0x62, 0x64, 0x66, 0x67, 0x6A, 0xA0, 0xA1, 0xA2, 0xA3, 0xA4, 0xA5, 0xA8, 0xB0, 0xE0, 0xE1,
    0x104, 0x105, 0x107] || groupOf i = 6 || (i.opc = 0x102 && f.var = 1)

/-- The bits of JFLAGS that are "—" (02 R55). -/
def jflagsDash : BitVec 64 := 0xE0E0_E0E0_E0E0_E0E0#64

/-- IMM64 and IMMR of a format A form (07 R130; 09 R189; 10 R212; 11 R218). -/
def immOk (i : Instr) (f : FmtA) (jordx : Nat) : Bool :=
  let w := if f.ty.toNat ≤ 1 then 8 else if f.ty = 2 then 16 else if f.ty = 4 then 64 else 32
  let n := field f.imm 8 6
  let pos := field f.imm 0 6
  if f.immr = 1 then immrAllowed i && (if i.opc = 0x100 then f.imm.toNat < 8 else if i.opc = 0x108 then f.imm &&& jflagsDash = 0 else true)
  else if Instr.isOpc i [0x8C, 0x8D] then f.imm &&& ~~~(0x3F3F#64) = 0 && 1 ≤ n && n ≤ w && pos + n ≤ w
  else if Instr.isOpc i [0x8E, 0x8F] then f.imm.toNat < 64 && 1 ≤ pos && pos ≤ w
  else if Instr.isOpc i [0x102, 0x103, 0x106] then f.imm.toNat ≤ jordx && f.imm.toNat < 8
  else if i.opc = 0x122 then f.imm.toNat < 16
  else if i.opc = 0x123 then true
  else if i.opc = 0x126 then f.imm.toNat ≤ 16
  else if i.opc = 0x129 then f.imm.toNat < 2 ^ 32
  else f.imm = 0

/-- A register index that suits GETG, PUTG or EMPTY (08 R159, R170). -/
def regIndexOk (i : Instr) (g : Nat) : Bool :=
  if g < 64 then planeOf i = 0 else if g < 96 then planeOf i = 1 else g < 112 && !(i.opc = 0x2C)

/-- A STREAM form's OP, TY, RM, SAT and COUNT (07 R132, 11 R221). -/
def streamOk (i : Instr) (f : FmtG) : Bool :=
  let op := field f.imm 0 4
  let ty := field f.imm 4 4
  let rm := field f.imm 8 3
  let sat := field f.imm 11 1
  let p := planeOf i
  let flt := 7 ≤ ty
  f.imm.toNat < 2 ^ 12 && f.win = 0 && (f.count = 0 || i.opc = 0x142) &&
  (if Instr.isOpc i [0x140, 0x141, 0x142] then
    (if p = 0 then ty ≤ 4 || (7 ≤ ty && ty ≤ 10) else if p = 1 then ty ≤ 3 || (7 ≤ ty && ty ≤ 9) else 7 ≤ ty && ty ≤ 9) &&
    (if p = 2 then op = 0 else if i.opc = 0x142 then op ≤ 3 else if flt then op ≤ 3 else op ≤ 6) &&
    (if flt then rmRound rm else rm = 0) && (sat = 0 || flt || op = 0 || op = 3)
   else op = 0 && rm = 0 && sat = 0 &&
    (if p = 0 then ty ≤ 10 else if p = 1 then ty ≤ 9 && !(ty = 4) else if p = 2 then 7 ≤ ty && ty ≤ 9 else ty = 0))

/-- Format G bodies (07 R132, 08 R159). -/
def bodyOkG (i : Instr) (f : FmtG) : Bool :=
  if groupOf i = 10 then streamOk i f
  else f.count = 0 && (if Instr.isOpc i [0x22, 0x26] then !(f.win = 0) else f.win = 0) &&
    (if i.opc = 0x21 then true
     else if i.opc = 0x28 then f.imm.toNat < 2 ^ 60
     else if Instr.isOpc i [0x2A, 0x2B, 0x2C] then f.imm.toNat < 128 && regIndexOk i f.imm.toNat
     else f.imm = 0)

/-- TY of a format M form (07 R138; 13 R249, R258, R264). -/
def tyOkM (i : Instr) (f : FmtM) : Bool :=
  let ty := f.ty.toNat
  if Instr.isOpc i [0x180, 0x181, 0x182, 0x183, 0x184, 0x185, 0x186, 0x187] then
    if planeOf i = 2 then 7 ≤ ty && ty ≤ 9 else if planeOf i = 1 then ty ≤ 9 && !(ty = 4) else ty ≤ 10
  else if Instr.isOpc i [0x1A0, 0x1A1] then ty = 4
  else if i.opc = 0x1A4 then ty = 3 || ty = 4
  else if i.opc = 0x1A3 then (if f.low.extractLsb' 27 4 = 9 then ty = 9 else ty = 3 || ty = 4)
  else ty = 0

/-- Bits 30:0 of a format M form (07 R134). -/
def lowOk (i : Instr) (f : FmtM) : Bool :=
  let loc := field f.low 29 2
  if Instr.isOpc i [0x180, 0x182, 0x183, 0x185] then loc ≤ 2 && field f.low 0 29 = 0
  else if Instr.isOpc i [0x181, 0x184] then loc ≤ 2 && field f.low 0 13 = 0
  else if i.opc = 0x186 then loc ≤ 1 && field f.low 0 29 = 0
  else if i.opc = 0x188 then loc ≤ 1 && field f.low 0 21 = 0
  else if i.opc = 0x1A1 then !(field f.low 15 16 = 0) && field f.low 0 15 = 0
  else if i.opc = 0x1A3 then field f.low 27 4 ≤ 9 && field f.low 0 27 = 0
  else if i.opc = 0x1C1 || i.opc = 0x1C2 then field f.low 0 26 = 0 && !(field f.low 26 5 = f.hreg.toNat)
  else if i.opc = 0x1C3 then field f.low 26 5 = 0 && field f.low 0 22 = 0
  else f.low = 0

/-- ORD, SCOPE, OFF32, HV and H of a format M form (07 R134; 13 R249, R258, R264). SCOPE stands only where the assembly can write
it: beside an ORD, and on LDV, STV and FENCE. -/
def bodyOkM (i : Instr) (f : FmtM) : Bool :=
  let ord := f.ord.toNat
  let rein := groupOf i = 14
  tyOkM i f && lowOk i f && f.scope.toNat ≤ 5 &&
  (if rein then ord = 0 && f.scope = 0 && f.off = 0
   else if Instr.isOpc i [0x180, 0x181, 0x182] then !(ord = 2)
   else if Instr.isOpc i [0x183, 0x184, 0x185] then !(ord = 1)
   else if Instr.isOpc i [0x186, 0x187, 0x188, 0x189, 0x18A, 0x1A2] then ord = 0
   else true) &&
  (f.scope = 0 || !(ord = 0) || Instr.isOpc i [0x1A0, 0x1A1, 0x18B]) &&
  (f.off = 0 || !(Instr.isOpc i [0x189, 0x18B])) &&
  (if Instr.isOpc i [0x186, 0x187, 0x188, 0x189, 0x18B, 0x1C0] then f.hv = 0
   else if Instr.isOpc i [0x1C1, 0x1C2, 0x1C3] then f.hv = 1 else true) &&
  (f.hv = 1 || f.hreg = 0 || i.opc = 0x1C0 || i.opc = 0x1C5)

/-- Format X bodies (07 R135, 12 R230). -/
def bodyOkX (i : Instr) (f : FmtX) (jordx : Nat) : Bool :=
  if i.opc = 0x160 then f.low &&& ~~~(0xF000#64) = 0 && (f.pstride = 0 || f.acc.toNat + jordx ≤ 3)
  else f.ksteps = 0 && f.pstride = 0 &&
    (if i.opc = 0x161 then f.acc = 0 && !(field f.low 62 2 = 0) && field f.low 48 14 ≤ 255 && field f.low 0 48 = 0
     else if i.opc = 0x163 then f.low.toNat < 2 ^ 32 && !(f.low = 0)
     else if i.opc = 0x165 then field f.low 0 50 = 0 && rmRound (field f.low 51 3) && field f.low 54 4 ≤ 9 && !(field f.low 54 4 = 4)
     else f.low = 0)

/-- The greatest channel of a card class (07 R136). -/
def channelMax (cls : Nat) : Nat := if cls = 1 then 3 else if cls = 3 then 2 else if cls = 4 then 0 else 15

/-- Format E bodies (07 R136; 14 R272, R282, R287). -/
def bodyOkE (i : Instr) (f : FmtE) : Bool :=
  let eng := f.eng.toNat
  let ch := f.chan.toNat
  let fl := f.flags.toNat
  if Instr.isOpc i [0x1E6, 0x1E7, 0x1E8] then eng ≤ 4 && ch ≤ channelMax eng && fl = 0 && f.card = 0
  else if i.opc = 0x1E1 then eng = 0 && ch ≤ 15 && fl = 0 && f.card.toNat < 2 ^ 40
  else if i.opc = 0x1E2 then eng = 0 && ch ≤ 15 && fl = 0 && f.card = 0
  else if i.opc = 0x1E0 then eng = 0 && ch ≤ 15 && fl ≤ 3 && f.card = 0
  else if i.opc = 0x1E3 then eng = 1 && ch ≤ 3 && fl ≤ 3 && f.card = 0
  else if i.opc = 0x1E4 then eng = 2 && ch ≤ 15 && fl ≤ 1 && f.card = 0
  else if i.opc = 0x1E5 then eng = 3 && ch ≤ 2 && fl ≤ 3 && f.card = 0
  else if i.opc = 0x1E9 then eng = 4 && ch = 0 && fl ≤ 1 && f.card = 0
  else if Instr.isOpc i [0x200, 0x201, 0x202] then eng = 5 && ch ≤ 15 && fl = 0 && f.card = 0
  else if i.opc = 0x205 then eng = 5 && ch = 0 && fl = 0 && f.card = 0
  else if i.opc = 0x203 then eng = 6 && ch = 0 && fl = 0 && f.card = 0
  else eng = 6 && ch = 0 && fl = 0 && f.card.toNat < 2 ^ 32

/-- CSR numbers that exist (07 R147), and whether CSRWR may name them: RW, or the Stable's. -/
def csrKnown (c : Nat) : Bool :=
  c ≤ 2 || (0x10 ≤ c && c ≤ 0x14) || c = 0x20 || c = 0x21 || (0x100 ≤ c && c ≤ 0x13F) || (0x200 ≤ c && c ≤ 0x202) ||
  (0x300 ≤ c && c ≤ 0x31F) || (0x8000 ≤ c && c ≤ 0x8007)
/-- CSRs that CSRWR may write; HTCUR and HTNEXT are RO (07 R147, R150). -/
def csrWritable (c : Nat) : Bool := (0x10 ≤ c && c ≤ 0x14) || (0x8000 ≤ c && c ≤ 0x8007 && !(c = 0x8005) && !(c = 0x8006))

/-- Format Y bodies (07 R137, R151); `stable` is PC<57>. -/
def bodyOkY (i : Instr) (f : FmtY) (stable : Bool) : Bool :=
  let c := f.csr.toNat
  if i.opc = 0x222 then csrKnown c && f.imm = 0 && (c < 0x8000 || stable)
  else if i.opc = 0x223 then csrWritable c && (c < 0x8000 || stable) && field f.imm 64 3 = 0 && (f.imm.getLsbD 67 || field f.imm 0 64 = 0)
  else c = 0 && (if Instr.isOpc i [0x220, 0x224, 0x228] then f.imm.toNat < 2 ^ 16
    else if i.opc = 0x226 then field f.imm 66 2 ≤ 1 && field f.imm 0 66 = 0
    else f.imm = 0 && (!(i.opc = 0x221) || stable))

/-- The body of a form (07 R131–R137); `jordx` is the block's JORDX. -/
def bodyOk (i : Instr) (jordx : Nat) (stable : Bool) : Bool :=
  match i.body with
  | .a f => tyOkA i f && varOk i f && rmOk i f && satOk i f && immOk i f jordx
  | .g f => bodyOkG i f
  | .b f => f.boff = 0 || i.opc = 0 || i.opc = 2
  | .m f => bodyOkM i f
  | .x f => bodyOkX i f jordx
  | .e f => bodyOkE i f
  | .y f => bodyOkY i f stable
  | .event => false

/-- Everything that check 4 of 07 R145 asks of an instruction by itself. -/
def instrOk (i : Instr) (jordx : Nat) (stable : Bool) : Bool :=
  planeOk i && pmodeOk i && tagopOk i && xmOk i && targetsOk i && bodyOk i jordx stable

end Sys2Proof.Machine
end

