-- ==== Sys2Proof/Config.lean ====
section
/-! DEFINITION. What an implementation fixes, and the free values: opaque constants with no body, so that no proof
can see a value of them. Each is named in the assumption log. -/

namespace Sys2Proof

/-- Which of the enabled moves comes next when the agenda is empty: the spec orders them by no rule (01 R12, R36). -/
opaque Config.pick : Nat → Nat
/-- The nanoseconds that a step takes: typical, not architectural (00 R7). -/
opaque Config.elapsed : Nat → Nat
/-- Which way of a full set gives up its line: not architectural (26 R419). -/
opaque Config.victim : Nat → Nat
/-- Which L1 line makes room for a new one: the spec gives no replacement rule (03 R64). -/
opaque Config.l1Victim : Nat → Nat
/-- RFC 3394 unwrap under the hub key, which the spec does not give: `none` where the integrity check fails (21 R351). -/
opaque Config.unwrapKey : List Byte → Option (List Byte)
/-- The parts of a signature of a message with leaf `q` that depend on the identity key, which is not given (06 R126): the 32-byte C and the 67 hash values
of the LM-OTS signature, and the 20 nodes of the path, one byte stream each. -/
opaque Config.otsPart : Nat → List Byte → Nat → Byte
opaque Config.lmsPath : Nat → Nat → Byte
/-- Whether a Stable image set verifies against the fused hash of the firmware key (21 R358). -/
opaque Config.fwVerify : List Byte → Bool
/-- The 16-byte serial number, byte by byte (21 R357). -/
opaque Config.serial : Nat → Byte
/-- The 16-byte I and the 32-byte root of the device LMS public key (21 R357). -/
opaque Config.keyI : Nat → Byte
opaque Config.keyRoot : Nat → Byte
/-- The 32-byte SHA-256 of the firmware public key (21 R357). -/
opaque Config.fwKeyHash : Nat → Byte
/-- The package number in the domain, read from the fuses at dawn (07 R148, 21 R354). -/
opaque Config.package : BitVec 8
/-- The units that a stock kernel draws for one step of the card it runs: those of its own instructions, which the
spec does not list (14 R286). -/
opaque Config.kernelDraw : Nat → Nat
/-- What the Ziv loop answers when its fuel ends without a decided rounding; the spec asks for correct rounding. -/
opaque Config.zivRest : Nat → Bool
/-- The data of lane `l` of a compare's or predicate form's V result where its mask bit is 0: the PRED entries give it no value
(08 R175–R177); the first argument is the count of free values given out. -/
opaque Config.freeLane : Nat → Nat → Lane

/-- A byte of memory at a physical address, read under another key than the one it was written under (03 R67, 15 R295 give no plaintext). -/
opaque Config.freeByte : Nat → Nat → Byte
/-- After how many steps a move that has been there to take comes before the arbiters' free choice (01 R36 bounds no wait by a number). -/
opaque Config.patience : Nat
/-- PLACE of a fault record that the spec gives none: a token, a register or a crib in error (24 R392, R395, R404). -/
opaque Config.freePlace : Nat → BitVec 8
/-- The number of a period that the hub opens by itself (06 R121 gives none). -/
opaque Config.freePeriod : Nat → Lane
/-- The first body word of a response with STATUS 0x02 where the spec gives the condition no number (21 R352). -/
opaque Config.freeCode : Nat → Word
/-- Whether the Groom writes the entry of a frame as FRAMES assigns it, or later: 21 R351 gives no time, and 25 R413 has a page that is assigned and has
no entry yet. -/
opaque Config.groomAtOnce : Nat → Bool
/-- A byte of a section of the context area that 15 R308 gives no layout, once a sweep has written it. -/
opaque Config.sectionByte : Nat → Nat → Byte
/-- The nodes that the self-test of a power-on finds bad (21 R354). -/
opaque Config.selfTest : Nat → List Nat

end Sys2Proof
end

