-- ==== Sys2Proof/Machine/Numbers.lean ====
section
/-! DEFINITION. Numbers (02 R38–R48): the element formats, their values, rounding, the random generator, the folded
scales of FP4 blocked lines. A value is computed exactly and rounded once. -/

namespace Sys2Proof.Num

/-- A floating-point format (02 R38, R40–R42): exponent bits, significand bits, bias, whether it has infinities and NaNs. -/
structure Fmt where
  eb : Nat
  mb : Nat
  bias : Nat
  /-- The top exponent code holds infinity and NaN, as in IEEE 754. -/
  ieee : Bool
  /-- The all-ones magnitude is the one NaN (E4M3). -/
  oneNan : Bool
  deriving DecidableEq, Repr

/-- FP8 E4M3 (02 R41). -/
def e4m3 : Fmt := ⟨4, 3, 7, false, true⟩
/-- FP8 E5M2. -/
def e5m2 : Fmt := ⟨5, 2, 15, true, false⟩
/-- BF16. -/
def bf16 : Fmt := ⟨8, 7, 127, true, false⟩
/-- FP16. -/
def fp16 : Fmt := ⟨5, 10, 15, true, false⟩
/-- FP32. -/
def fp32 : Fmt := ⟨8, 23, 127, true, false⟩
/-- FP64. -/
def fp64 : Fmt := ⟨11, 52, 1023, true, false⟩
/-- FP4 E2M1 (02 R42). -/
def e2m1 : Fmt := ⟨2, 1, 1, false, false⟩

/-- The floating-point format of a TY code (02 R38); the codes of other formats do not reach it. -/
def fmtOf (ty : Nat) : Fmt :=
  if ty = 5 then e4m3 else if ty = 6 then e5m2 else if ty = 7 then bf16 else if ty = 8 then fp16
  else if ty = 10 then fp64 else if ty = 11 then e2m1 else fp32

/-- Whether a TY code names a floating-point format. -/
def isFloat (ty : Nat) : Bool := 5 ≤ ty && ty ≤ 11

/-- The width of an element in bits (02 R38). -/
def width (ty : Nat) : Nat :=
  if ty = 0 || ty = 1 || ty = 5 || ty = 6 then 8 else if ty = 2 || ty = 7 || ty = 8 then 16
  else if ty = 4 || ty = 10 then 64 else if ty = 11 || ty = 12 then 4 else 32

/-- The value of a floating-point datum: a finite value is ±m·2^e. -/
inductive FVal where
  | nan (signalling : Bool)
  | inf (neg : Bool)
  | fin (neg : Bool) (m : Nat) (e : Int)
  deriving DecidableEq, Repr

/-- Flags in the order of 02 R55: invalid, divide-by-zero, overflow, underflow, inexact. -/
abbrev Flags := BitVec 5
/-- Invalid. -/
def NV : Flags := 1
/-- Divide-by-zero. -/
def DZ : Flags := 2
/-- Overflow. -/
def OF : Flags := 4
/-- Underflow. -/
def UF : Flags := 8
/-- Inexact. -/
def NX : Flags := 16

/-- The smallest normal exponent. -/
def Fmt.emin (f : Fmt) : Int := 1 - (f.bias : Int)
/-- The bits of a datum of the format. -/
def Fmt.bits (f : Fmt) : Nat := 1 + f.eb + f.mb
/-- The significand of the largest finite value. -/
def Fmt.maxM (f : Fmt) : Nat := if f.oneNan then 2 ^ (f.mb + 1) - 2 else 2 ^ (f.mb + 1) - 1
/-- The exponent of the unit of the largest finite value. -/
def Fmt.maxE (f : Fmt) : Int :=
  ((2 ^ f.eb - 1 : Nat) : Int) - (if f.ieee then 1 else 0) - (f.bias : Int) - (f.mb : Int)

/-- Decode a datum (02 R40–R42). -/
def decode (f : Fmt) (x : Nat) : FVal :=
  let neg := (x / 2 ^ (f.eb + f.mb)) % 2 = 1
  let e := (x / 2 ^ f.mb) % 2 ^ f.eb
  let m := x % 2 ^ f.mb
  if f.ieee && decide (e = 2 ^ f.eb - 1) then
    if m = 0 then .inf neg else .nan (m < 2 ^ (f.mb - 1))
  else if f.oneNan && decide (e = 2 ^ f.eb - 1) && decide (m = 2 ^ f.mb - 1) then .nan false
  else if e = 0 then .fin neg m (f.emin - f.mb)
  else .fin neg (m + 2 ^ f.mb) ((e : Int) - f.bias - f.mb)

/-- Pack sign, exponent code and significand field. -/
def Fmt.pack (f : Fmt) (neg : Bool) (e m : Nat) : Nat :=
  (if neg then 2 ^ (f.eb + f.mb) else 0) + e * 2 ^ f.mb + m

/-- The canonical NaN of a format (02 R40); E2M1 has none and delivers +0 (02 R43). -/
def Fmt.nan (f : Fmt) : Nat :=
  if f.ieee then f.pack false (2 ^ f.eb - 1) (2 ^ (f.mb - 1))
  else if f.oneNan then f.pack false (2 ^ f.eb - 1) (2 ^ f.mb - 1) else 0

/-- Infinity of a format that has one. -/
def Fmt.inf (f : Fmt) (neg : Bool) : Nat := f.pack neg (2 ^ f.eb - 1) 0

/-- The largest finite value. -/
def Fmt.max (f : Fmt) (neg : Bool) : Nat :=
  if f.ieee then f.pack neg (2 ^ f.eb - 2) (2 ^ f.mb - 1)
  else if f.oneNan then f.pack neg (2 ^ f.eb - 1) (2 ^ f.mb - 2) else f.pack neg (2 ^ f.eb - 1) (2 ^ f.mb - 1)

/-- Zero of a sign. -/
def Fmt.zero (f : Fmt) (neg : Bool) : Nat := f.pack neg 0 0

/-- The bit length of a number. -/
def bitLen (m : Nat) : Nat := if m = 0 then 0 else Nat.log2 m + 1

/-- Whether a discarded part (`r` of `2·half`, plus a sticky rest) rounds the magnitude up (02 R48). -/
def roundUp (rm : Nat) (neg odd : Bool) (r half : Nat) (sticky : Bool) : Bool :=
  let inexact := decide (r ≠ 0) || sticky
  match rm with
  | 1 => false
  | 2 => neg && inexact
  | 3 => !neg && inexact
  | 4 => decide (half ≤ r)
  | _ => decide (half < r) || (decide (r = half) && (sticky || odd))

/-- Round the magnitude (m + a rest below one unit when sticky)·2^e to a multiple of 2^q: the multiple, and inexactness. -/
def roundAt (rm : Nat) (neg : Bool) (m : Nat) (e q : Int) (sticky : Bool) : Nat × Bool :=
  let sh := q - e
  if (bitLen m : Int) + 2 < sh then (if roundUp rm neg false 0 1 (decide (m ≠ 0) || sticky) then 1 else 0, decide (m ≠ 0) || sticky) else
  let up := (2 - sh).toNat
  let m := m * 2 ^ up
  let sh := (sh + up).toNat
  let n := m / 2 ^ sh
  let r := m % 2 ^ sh
  (n + (if roundUp rm neg (n % 2 = 1) r (2 ^ (sh - 1)) sticky then 1 else 0), decide (r ≠ 0) || sticky)

/-- What an overflow delivers (02 R43). -/
def overflowed (f : Fmt) (rm : Nat) (sat neg : Bool) : Nat :=
  let toInf := !sat && (rm = 0 || rm = 4 || (rm = 2 && neg) || (rm = 3 && !neg))
  if toInf && f.ieee then f.inf neg
  else if toInf && f.oneNan then f.nan
  else f.max neg

/-- Round ±(m + rest)·2^e to the format (02 R40, R43, R48): the datum and its flags. -/
def roundTo (f : Fmt) (rm : Nat) (sat neg : Bool) (m : Nat) (e : Int) (sticky : Bool) : Nat × Flags :=
  if m = 0 && !sticky then (f.zero neg, 0) else
  let top := e + (bitLen m : Int) - 1
  let q := (if top < f.emin then f.emin else top) - f.mb
  let (n, inex) := roundAt rm neg m e q sticky
  if f.maxE < q || (q = f.maxE && f.maxM < n) then (overflowed f rm sat neg, OF ||| NX)
  else
    let tiny := decide (top < f.emin) &&
      !(decide (top = f.emin - 1) && decide ((roundAt rm neg m e (top - f.mb) sticky).1 = 2 ^ (f.mb + 1)))
    let fl := (if inex then NX else 0) ||| (if tiny && inex then UF else 0)
    if n < 2 ^ f.mb then (f.pack neg 0 n, fl)
    else if n = 2 ^ (f.mb + 1) then (f.pack neg (q + f.mb + 1 + f.bias).toNat 0, fl)
    else (f.pack neg (q + f.mb + f.bias).toNat (n - 2 ^ f.mb), fl)

/-- Round an exact finite value. -/
def roundFin (f : Fmt) (rm : Nat) (sat neg : Bool) (m : Nat) (e : Int) : Nat × Flags := roundTo f rm sat neg m e false

/-! ## Exact dyadic arithmetic -/

/-- The signed significand of a finite value. -/
def signed (neg : Bool) (m : Nat) : Int := if neg then -(m : Int) else m

/-- The exact sum of dyadic numbers (significand, exponent). -/
def dyAdd (a b : Int × Int) : Int × Int :=
  if a.1 = 0 then b else if b.1 = 0 then a
  else if a.2 ≤ b.2 then (a.1 + b.1 * 2 ^ (b.2 - a.2).toNat, a.2) else (a.1 * 2 ^ (a.2 - b.2).toNat + b.1, b.2)

/-- The exact product of two values by IEEE 754 and whether it is invalid (a signalling NaN, or ∞ × 0). -/
def mulVal (a b : FVal) : FVal × Bool :=
  match a, b with
  | .nan s, .nan t => (.nan false, s || t)
  | .nan s, _ => (.nan false, s)
  | _, .nan t => (.nan false, t)
  | .inf n, .inf n' => (.inf (n != n'), false)
  | .inf n, .fin n' m _ => if m = 0 then (.nan false, true) else (.inf (n != n'), false)
  | .fin n m _, .inf n' => if m = 0 then (.nan false, true) else (.inf (n != n'), false)
  | .fin n m e, .fin n' m' e' => (.fin (n != n') (m * m') (e + e'), false)

/-- The negation of a value. -/
def FVal.neg : FVal → FVal
  | .nan s => .nan s
  | .inf n => .inf (!n)
  | .fin n m e => .fin (!n) m e

/-- Whether a value is a NaN. -/
def FVal.isNan : FVal → Bool
  | .nan _ => true
  | _ => false
/-- Whether a value is a signalling NaN. -/
def FVal.isSnan : FVal → Bool
  | .nan s => s
  | _ => false
/-- Whether a value is zero. -/
def FVal.isZero : FVal → Bool
  | .fin _ m _ => m = 0
  | _ => false
/-- The sign of a value; a NaN has none. -/
def FVal.sign : FVal → Bool
  | .nan _ => false
  | .inf n => n
  | .fin n _ _ => n

/-- The exact sum of values by IEEE 754: the sum and whether it is invalid (a signalling NaN, or ∞ − ∞). An exact zero sum
takes the sign that rounding gives it (negative under RDN, 02 R40), or the terms' own sign where all are zeros of one sign. -/
def sumVals (rm : Nat) (ts : List FVal) : FVal × Bool :=
  let snan := ts.any FVal.isSnan
  if ts.any FVal.isNan then (.nan false, snan)
  else
    let pos := ts.any fun t => t = .inf false
    let neg := ts.any fun t => t = .inf true
    if pos && neg then (.nan false, true)
    else if pos then (.inf false, false)
    else if neg then (.inf true, false)
    else
      let s := ts.foldl (fun acc t => match t with
        | .fin n m e => dyAdd acc (signed n m, e)
        | _ => acc) ((0 : Int), (0 : Int))
      if s.1 = 0 then
        let allZero := ts.all FVal.isZero
        if allZero && ts.all FVal.sign then (.fin true 0 0, false)
        else if allZero && ts.all (fun t => !t.sign) then (.fin false 0 0, false)
        else (.fin (rm = 2) 0 0, false)
      else (.fin (s.1 < 0) s.1.natAbs s.2, false)

/-- Deliver a value in a format: the last rounding of an arithmetic operation (02 R43). An infinity of an operation is
delivered as infinity; a NaN as the canonical NaN. -/
def deliver (f : Fmt) (rm : Nat) (sat : Bool) (v : FVal × Bool) : Nat × Flags :=
  match v.1 with
  | .nan _ => (f.nan, if v.2 then NV else 0)
  | .inf n => (if f.ieee then f.inf n else if sat || !f.oneNan then f.max n else f.nan, if v.2 then NV else 0)
  | .fin n m e => let (x, fl) := roundFin f rm sat n m e
                  (x, fl ||| (if v.2 then NV else 0))

/-- Convert a value to a floating-point format (02 R43, 09 R199). -/
def convert (f : Fmt) (rm : Nat) (sat : Bool) (v : FVal) : Nat × Flags :=
  match v with
  | .nan s => if f.ieee || f.oneNan then (f.nan, if s then NV else 0) else (0, NV)
  | .inf n =>
    if f.ieee then (if sat then f.max n else f.inf n, 0)
    else if f.oneNan then (if sat then (f.max n, 0) else (f.nan, NV))
    else (f.max n, NV)
  | .fin n m e => roundFin f rm sat n m e

/-- The integer square root of a number of at most 2·k bits, found bit by bit. -/
def isqrt : Nat → Nat → Nat → Nat
  | 0, _, r => r
  | k + 1, n, r => let r' := r + 2 ^ k
                   isqrt k n (if r' * r' ≤ n then r' else r)

/-- Quotient bits kept before rounding: enough for every format and for the 48-bit partial sums. -/
def workBits : Nat := 72

/-- |a / b| of nonzero dyadic magnitudes, as (significand, exponent, sticky). -/
def divDy (m e m' e' : Int) : Nat × Int × Bool :=
  let k := workBits + bitLen m'.natAbs
  let n := m.natAbs * 2 ^ k
  (n / m'.natAbs, e - e' - k, decide (n % m'.natAbs ≠ 0))

/-- √(m·2^e) of a positive dyadic magnitude. -/
def sqrtDy (m : Nat) (e : Int) : Nat × Int × Bool :=
  let odd := e % 2
  let m := m * 2 ^ odd.toNat
  let e := e - odd
  let k := workBits
  let n := m * 2 ^ (2 * k)
  let r := isqrt (bitLen n / 2 + 1) n 0
  (r, e / 2 - k, decide (r * r ≠ n))

/-- Compare the magnitudes of finite values: `a < b`. -/
def ltFin (a b : Int × Int) : Bool :=
  if a.2 ≤ b.2 then decide (a.1 < b.1 * 2 ^ (b.2 - a.2).toNat) else decide (a.1 * 2 ^ (a.2 - b.2).toNat < b.1)

/-- The order of two values that are no NaN: `a < b` (+0 equals −0). -/
def ltVal : FVal → FVal → Bool
  | .inf n, .inf n' => n && !n'
  | .inf n, .fin _ _ _ => n
  | .fin _ _ _, .inf n => !n
  | .fin n m e, .fin n' m' e' => ltFin (signed n m, e) (signed n' m', e')
  | _, _ => false

/-- Equality of two values that are no NaN. -/
def eqVal (a b : FVal) : Bool := !a.isNan && !b.isNan && !ltVal a b && !ltVal b a

/-! ## Integers in containers (02 R39) -/

/-- The integer that the low bits of a container hold under an integer TY. -/
def readInt (ty : Nat) (x : Nat) : Int :=
  if ty = 1 then ((x % 256 : Nat) : Int) else Bits.sext (width ty) x

/-- An integer result put into a container of `c` bits: sign- or zero-extended. -/
def writeInt (c ty : Nat) (v : Int) : Nat :=
  if ty = 1 then (v % 256).toNat else ((Bits.sext (width ty) (v % 2 ^ width ty).toNat) % 2 ^ c).toNat

/-- The least and greatest integer of a TY. -/
def intLo (ty : Nat) : Int := if ty = 1 then 0 else -(2 ^ (width ty - 1) : Nat)
/-- The greatest integer of a TY. -/
def intHi (ty : Nat) : Int := if ty = 1 then 255 else (2 ^ (width ty - 1) : Nat) - 1

/-- An element loaded from memory, extended into its container as R39 states. -/
def extend (c ty : Nat) (x : Nat) : Nat := if isFloat ty || ty = 1 then x % 2 ^ width ty else writeInt c ty (readInt ty x)

/-! ## The random generator (02 R51) -/

/-- One round of the mixing function. -/
def mixRound (key v k : Word) (sa sb : Nat) : Word :=
  let v := v + (key ^^^ k)
  let v := v ^^^ v.rotateLeft sa
  v + (v ^^^ key).rotateLeft sb

/-- mix(key, c, l) (02 R51). -/
def mix (key c : Word) (l : Nat) : Word :=
  let v := c + BitVec.ofNat 64 l * 0x9E3779B97F4A7C15#64
  let v := mixRound key v 0xA5C39B174E2D6F81#64 23 11
  let v := mixRound key v 0x3D7E1C95B248F06B#64 41 29
  let v := mixRound key v 0x6B1FD4A28C53E97D#64 17 47
  mixRound key v 0xF28A5D3C71B609E5#64 37 5

/-! ## Block scales (02 R44, R46) -/

/-- The value of an E3M5 block scale that is valid. -/
def e3m5 (b : Nat) : Nat × Int :=
  let e := b / 32
  let m := b % 32
  if e = 0 then (m, -7) else (m + 32, (e : Int) - 8)

/-- The folded scale of a block: block scale times band scale, rounded once to BF16 (02 R46). -/
def foldedScale (block : Nat) (band : Nat) : BitVec 16 :=
  if block = 255 then 0x7FC0#16
  else match decode bf16 band with
    | .nan _ => 0x7FC0#16
    | .inf n => let (m, _) := e3m5 block
                if m = 0 then 0x7FC0#16 else BitVec.ofNat 16 (bf16.inf n)
    | .fin n m e => let (m', e') := e3m5 block
                    BitVec.ofNat 16 (roundFin bf16 0 false n (m * m') (e + e')).1

end Sys2Proof.Num
end

