-- ==== Sys2Proof/Machine/Sparse.lean ====
section
/-! DEFINITION. Sparse maps: lists of (key, value) pairs with keys strictly rising and no value equal to the
default that an unlisted key reads as. Memory, scratchpad, page tables, versions, the L2 and the node array all use them. -/

namespace Sys2Proof

/-- The value at key `k`; `d` where `k` is not listed. -/
def Sparse.get {α : Type} (d : α) : List (Nat × α) → Nat → α
  | [], _ => d
  | (a, v) :: m, k => if a = k then v else Sparse.get d m k

/-- Put `v` at key `k`, keeping the keys rising; the default value `d` removes the entry. -/
def Sparse.put {α : Type} [DecidableEq α] (d : α) : List (Nat × α) → Nat → α → List (Nat × α)
  | [], k, v => if v = d then [] else [(k, v)]
  | (a, w) :: m, k, v =>
    if k < a then (if v = d then (a, w) :: m else (k, v) :: (a, w) :: m)
    else if a = k then (if v = d then m else (k, v) :: m)
    else (a, w) :: Sparse.put d m k v

/-- Change the value at key `k` by `f`. -/
def Sparse.upd {α : Type} [DecidableEq α] (d : α) (m : List (Nat × α)) (k : Nat) (f : α → α) : List (Nat × α) :=
  Sparse.put d m k (f (Sparse.get d m k))

/-- Every listed key lies above `lo`, keys rise strictly, and no value is the default. -/
def Sparse.okFrom {α : Type} [DecidableEq α] (d : α) : Nat → List (Nat × α) → Bool
  | _, [] => true
  | lo, (a, v) :: m => decide (lo ≤ a) && !(decide (v = d)) && Sparse.okFrom d (a + 1) m

/-- The canonical form. -/
def Sparse.wf {α : Type} [DecidableEq α] (d : α) (m : List (Nat × α)) : Bool := Sparse.okFrom d 0 m

end Sys2Proof
end

