-- ==== Sys2Proof/Machine/State.lean ====
section
/-! DEFINITION. The state of the CG96 as plain data, and the machine right after reset. Each structure's docstring
names the rules of spec/ that give it. -/

namespace Sys2Proof.Machine

/-! ## Tokens -/

/-- What a token carries (01 R21): a 64-bit scalar or address; or beats of 16 lanes under one lane mask (a vector and a
wide token have one beat, a jet of order k has k + 1). -/
inductive TokData where
  | scalar (w : Word)
  | beats (bs : List Vec) (mask : BitVec 16)
  deriving DecidableEq, Repr

/-- Which parity of a token or register an undetected soft error has broken (24 R394). -/
inductive Parity where
  | good | data | tag
  deriving DecidableEq, Repr

/-- A token (01 R21): its tag, its data, the null mark (08 R171), the rein mark (04 R84) and its parity.
`inner` names the uncommitted commit unit whose header read or firing made the token for its own block: such a token is
dropped, not returned, when that unit is discarded, and becomes an ordinary one when it commits. `edge` is the edge over
which it came to its node (04 R90). -/
structure Tok where
  tag : Tag
  data : TokData
  null : Bool
  rein : Bool
  par : Parity
  inner : Option Tag
  edge : Option Nat
  deriving DecidableEq, Repr

/-- A matching entry (01 R24): instruction index, tag and the three slots. -/
structure MEntry where
  q : Nat
  tag : Tag
  left : Option Tok
  right : Option Tok
  pred : Option Tok
  deriving DecidableEq, Repr

/-- A token that waits in the spill area or the park buffer for slot `slot` of instruction `q` (01 R26, 15 R306). -/
structure Spilled where
  q : Nat
  slot : Nat
  tok : Tok
  edge : Option Nat
  deriving DecidableEq, Repr

/-! ## Memory operations in flight -/

/-- One element of a memory access: its virtual address, its physical address, its width in bytes, and the lane and
coefficient it belongs to (13 R244). -/
structure Elem where
  va : Nat
  pa : Nat
  w : Nat
  lane : Nat
  coef : Nat
  deriving DecidableEq, Repr

/-- The read-modify-write of ATOM and CAS at the home slice (13 R262, R263). -/
inductive Rmw where
  | atom (fn : BitVec 4) (ty : BitVec 4) (x : Word)
  | cas (ty : BitVec 4) (expected new : Word)
  deriving DecidableEq, Repr

/-- Where a deferred result goes: the task and the number of its node within the rectangle (15 R308), the register (INDEX in
SPACE 001) and the number of the deferred write (01 R31, R32). -/
structure Defer where
  task : Nat
  m : Nat
  reg : Nat
  id : Nat
  deriving DecidableEq, Repr

/-- A store-like operation of a node (13 R247): the elements and their bytes, an atomic, a versioned store, a RECLAIM, a scratchpad store by
its offsets in the node's quad. -/
inductive StoreOp where
  | bytes (es : List (Elem × List Byte)) (loc : BitVec 2)
  | rmw (e : Elem) (f : Rmw) (dst : Option Defer)
  | stv (e : Elem) (data : Word) (delta : Nat) (dst : Option Defer)
  | reclaim (e : Elem) (v : Nat)
  | scratch (es : List (Nat × List Byte))
  deriving DecidableEq, Repr

/-- A load that has issued and not yet returned (13 R247): who fired it, its elements, the lines still to come from the
home slices, the lines that came. -/
structure PLoad where
  unit : Tag
  q : Nat
  tag : Tag
  lsid : Nat
  instr : Instr
  es : List Elem
  wait : List Nat
  got : List (Nat × List Byte)
  /-- For LDV: the wanted version. -/
  want : Option Nat
  /-- For LDV: the entry that the slice returned. -/
  ver : Option (Word × Nat)
  /-- When it issued, by the state's counter. -/
  order : Nat
  deriving DecidableEq, Repr

/-! ## What a commit unit holds pending (01 R17, R19) -/

/-- A pinned row (12 R229): 64 data bytes, the tag of its line, its folded scales. -/
structure PinRow where
  data : List Byte
  fmt : BitVec 4
  scales : List (BitVec 16)
  deriving DecidableEq, Repr

/-- One operand of an MMAT as it was read at the firing (12 R233): rows of all planes in order. -/
structure MatOperand where
  fmt : BitVec 4
  rows : List PinRow
  deriving DecidableEq, Repr

/-- A rein effect on coverage, made at commit (04 R86, R87). -/
inductive Cover where
  | mk (arena : Nat) (first count : Nat)
  | inc (arena : Nat) (first count : Nat)
  | dec (arena : Nat) (first count : Nat)
  deriving DecidableEq, Repr

/-- A request of a TASK form to the hub (14 R288), taken when the block commits. -/
inductive HubReq where
  | qpush (q : Nat) (asid va pa : Nat)
  | qpop (q : Nat) (va pa : Nat)
  | qstat (q : Nat)
  | chgrd
  | chgask (n : Nat)
  | tlaunch (asid va pa : Nat)
  deriving DecidableEq, Repr

/-- A job card's words 0 to 7 (14 R270). -/
abbrev CardWords := List Word

/-- One pending action of a commit unit, with the instruction that made it. -/
inductive Act where
  | store (lsid : Nat) (ord : BitVec 2) (scope : BitVec 3) (op : StoreOp)
  /-- A header write's value for a register (INDEX in SPACE 001); `beat` is the coefficient of a jet group. -/
  | regWrite (reg : Nat) (val : TokData) (null : Bool)
  | out (port : Nat) (tok : Tok)
  | engine (cls : Nat) (tok : Tok)
  | deposit (row acc half : Nat) (tok : Tok)
  | putg (reg : Nat) (val : TokData)
  | empty (reg : Nat)
  | csrwr (csr : Nat) (val : Word)
  | jordSet (val : Nat)
  | jflagClr (mask : Word)
  | mmat (acc ksteps order : Nat) (a b : MatOperand) (jet : Bool) (h : Hdr)
  | tfetch (pin : Nat) (rows : List PinRow)
  | accClr (acc : Nat)
  | accArm (acc n : Nat)
  | accRel (acc : Nat)
  | mtrans (acc : Nat)
  | card (cls chan : Nat) (flags : BitVec 8) (seq : Nat) (words : CardWords) (t0 : BitVec 12) (tag : Tag)
  | cancel (seq : Nat)
  | cover (c : Cover)
  | reinTo (taskid input : Nat) (r : Quad)
  | hub (r : HubReq) (dst : Option Defer)
  | spawn (ctx colour : Nat) (entry : BitVec 58) (wide : Option Word)
  | join (colour : Nat)
  | fret (node action : Nat)
  | bkpt (code : BitVec 16)
  | tlbinv (all : Bool) (va : Nat)
  | codesync
  | mlog (code : BitVec 16) (val : Word)
  | lexit (colour : Nat)
  /-- A token that an ordered stream form takes into its state at commit (11 R224, R225). -/
  | stream (tok : Tok) (gate : Option Tok)
  deriving DecidableEq, Repr

/-- An action together with the index and the tag of the firing that made it. -/
structure PAct where
  q : Nat
  tag : Tag
  act : Act
  deriving DecidableEq, Repr

/-- How an LSID stands (01 R18, 13 R255). -/
inductive LState where
  | unresolved | issued | nulled | pending | done
  deriving DecidableEq, Repr

/-- The exit that a unit has taken (08 R158). -/
structure ExitTaken where
  q : Nat
  form : Instr
  dest : Nat
  colour : Nat
  deriving DecidableEq, Repr

/-- A firing that a unit has made: what it consumed, to be returned if the block is discarded (15 R305). -/
structure Fired where
  q : Nat
  tag : Tag
  ops : List (Nat × Tok)
  deriving DecidableEq, Repr

/-- A fault as the fault-state registers record it (07 R150, 22 R360). -/
structure FaultRec where
  code : Nat
  place : Nat
  pc : BitVec 58
  tag : Tag
  addr : Word
  info : Word
  deriving DecidableEq, Repr

/-- A slot of a loop window taken or a colour allocated at a firing, given back if the block is discarded (08 R154, R163). -/
inductive Claim where
  | colour (c : Nat)
  | slot (c i : Nat)
  | run (arena first count : Nat)
  | freeTag (c i : Nat)
  deriving DecidableEq, Repr

/-- A commit unit (01 R18–R20): the whole of a plain block, or one iteration tag of a loop-resident block. -/
structure CUnit where
  tag : Tag
  fired : List Fired
  acts : List PAct
  lsids : List (Nat × LState)
  exit : Option ExitTaken
  fpFlags : BitVec 5
  jFlags : Word
  claims : List Claim
  /-- The H registers as the unit's own rein forms have left them, by LSID (04 R85). -/
  hNew : List (Nat × Nat × Quad)
  deriving DecidableEq, Repr

/-! ## Streams of the loop-resident block (11 R224–R227) -/

/-- One colour for which an ordered stream form holds state (11 R225): the next output iteration of FILTER and COMPACT, ACCUM's
sum with its mask and count of terms, COMPACT's buffer of lanes (each with its beats). -/
structure StreamCol where
  colour : Nat
  next : Nat
  acc : TokData
  terms : Nat
  buf : List (List Lane)
  deriving DecidableEq, Repr

/-- The state of one ordered stream form of the block. -/
structure StreamSt where
  q : Nat
  cols : List StreamCol
  deriving DecidableEq, Repr

/-- The registers that CSRRD reads as they stood when the block was mapped (07 R151, 06 R114). -/
structure Snap where
  fpstat : Word
  jflags : Word
  rmode : Word
  jord : Nat
  rngkey : Word
  tbase : Word
  chgAllot : Word
  chgDrawn : Word
  mon : List (BitVec 16 × Bool)
  bad : List Nat
  /-- The 64 words of the die's windows. -/
  fwin : List Word
  /-- FSCODE to FSPEND, CSR 0x8000 to 0x8007. -/
  fs : List Word
  deriving DecidableEq, Repr

/-- A fetched block: its address, its four header words and its instruction words (07 R139). -/
structure Fetched where
  ctx : Nat
  pc : BitVec 58
  hdr : List Quad
  ins : List Quad
  deriving DecidableEq, Repr

/-- The mapped block of a node (01 R17): the handler table and everything the block holds while it runs. -/
structure Mapped where
  blk : Fetched
  snap : Snap
  /-- H registers and pins as they stood at map (04 R85, 12 R233). -/
  h : List (Nat × Quad)
  pins : List (Nat × List PinRow)
  units : List CUnit
  /-- Header reads that have been injected: read index, commit unit tag (01 R30). -/
  reads : List (Nat × Tag)
  /-- Latched page translations of streaming nodes (03 R70): VA page of 64 KiB, PA page, class and rights. -/
  latches : List (Nat × Word)
  /-- Header reads that were injected in take mode (01 R30). -/
  takes : List Nat
  /-- The units of a loop-resident block that have become ready to commit, in that order (01 R20). -/
  ready : List Tag
  /-- The faults found in the block and not yet settled (22 R362): of all of them one is recorded. -/
  faults : List FaultRec
  /-- Set with the first fault: the firings that were under way, and the units of a loop-resident block that were complete (22 R362). -/
  under : Option (List (Nat × Tag) × List Tag)
  deriving DecidableEq, Repr

/-! ## A node -/

/-- An S register: value, full bit and parity (01 R29, 24 R394). -/
structure SReg where
  val : Word
  full : Bool
  par : Bool
  deriving DecidableEq, Repr

/-- A V register: 16 lanes, full bit and parity. -/
structure VReg where
  val : Vec
  full : Bool
  par : Bool
  deriving DecidableEq, Repr

/-- How an activation context stands (08 R152, R153). `kernel` is a context that runs a stock kernel (15 R310). -/
inductive CtxSt where
  | none | ready | halted | kernel (card : Nat)
  deriving DecidableEq, Repr

/-- An activation context (08 R152): PC (58 bits), current tag, status, and the colours that its JOINs wait for (08 R167): a ready context
runs when it waits for none. -/
structure Ctx where
  pc : BitVec 58
  ctag : Tag
  st : CtxSt
  /-- A destination with any of bits 63:57 set, which ends the exit in a translation fault at the next fetch (07 R133). -/
  wide : Option Word
  joins : List Nat
  deriving DecidableEq, Repr

/-- How an accumulator tile is armed (12 R229). -/
inductive Arm where
  | idle | armed (n : Nat) | finished
  deriving DecidableEq, Repr

/-- The type of an accumulator tile (12 R229). -/
inductive TileTy where
  | unset | fp32 | int32
  deriving DecidableEq, Repr

/-- An accumulator tile (12 R229): cells (row 32·i + j, unlisted cells zero), type, arm, count, row checksums. -/
structure Tile where
  cells : List (Nat × Lane)
  ty : TileTy
  arm : Arm
  cnt : Nat
  ck : List (Nat × Lane)
  deriving DecidableEq, Repr

/-- A line of a node's L1 (03 R64): physical line number, the virtual line of the access that brought it (by which L1INV finds it
without a translation, 13 R256), data, format tag and folded scales. -/
structure L1Line where
  line : Nat
  vline : Nat
  data : List Byte
  fmt : BitVec 4
  scales : List (BitVec 16)
  deriving DecidableEq, Repr

/-- The crib of a node (06 R104–R109, R117) in units of 1/64 packet: the share as CHGALLOT and CHGDRAWN count it, what the
crib holds, the unfed budget, the connected segments, whether it is sealed, the units drawn since task load, and the
draws under each colour (24 R399). -/
structure Crib where
  share : Nat
  charge : Nat
  unfed : Nat
  segments : BitVec 12
  sealed : Bool
  drawn : Nat
  byColour : List (Nat × Nat)
  deriving DecidableEq, Repr

/-- A deferred write outstanding on a register (01 R31, R32), oldest first, with the value once it has arrived. -/
structure PendDef where
  reg : Nat
  id : Nat
  val : Option TokData
  deriving DecidableEq, Repr

/-- Where an item of a commit stream comes from: its place in the order of commits (03 R77), its instruction, its tag, its block;
whether a FENCE of its block at domain scope lies before it (13 R248 rule 3); the widest scope at which a FENCE of its block that lies behind it
orders later blocks' reads (`ldHold`) or their stores, tokens and cards (`stHold`) after it (05 R101); and whether its draws are the reserve's, for a
colour that has been re-issued (24 R399). -/
structure Issued where
  order : Nat
  q : Nat
  tag : Tag
  pc : BitVec 58
  far : Bool
  ldHold : Option Nat
  stHold : Option Nat
  reserve : Bool
  deriving DecidableEq, Repr

/-- An item that no fence orders and whose draws are the task's. -/
def Issued.plain (order q : Nat) (tag : Tag) (pc : BitVec 58) : Issued := ⟨order, q, tag, pc, false, none, none, false⟩

/-- An item of the node's commit stream, performed in order behind earlier ones (05 R93, R94): a store-like, a token for an output port with
the firing that pays its hops (06 R111), a card. -/
inductive WItem where
  | store (op : StoreOp) (ord : BitVec 2) (scope : BitVec 3) (by_ : Issued)
  | out (port : Nat) (tok : Tok) (by_ : Issued)
  | card (k : Nat)
  deriving DecidableEq, Repr

/-- A VA page on which firings of the node are held (23 R376): page of 64 KiB, whether for a write, for a fetch, place
and tag of the firing that was reported. -/
structure HeldPage where
  page : Nat
  write : Bool
  fetch : Bool
  place : Nat
  tag : Tag
  deriving DecidableEq, Repr

/-- The fault-state registers (07 R150). -/
structure FaultSt where
  code : Word
  pc : Word
  tag : Word
  addr : Word
  info : Word
  pend : Bool
  deriving DecidableEq, Repr

/-- A node (01 R13): contexts, mapped and prefetched block, matching store, spill area and park buffer, registers, matrix
state, L1, crib, CSRs, outstanding work, held pages, fault state. -/
structure Node where
  task : Option Nat
  ctxs : List (Nat × Ctx)
  lastCtx : Nat
  cur : Option Mapped
  fetched : Option Fetched
  prefetched : Option Fetched
  fs : FaultSt
  halted : Bool
  suspended : Bool
  entries : List (Nat × MEntry)
  spill : List Spilled
  park : List Spilled
  s : List (Nat × SReg)
  v : List (Nat × VReg)
  p : List (Nat × BitVec 16)
  h : List (Nat × Quad)
  defs : List PendDef
  tiles : List (Nat × Tile)
  pins : List (Nat × List PinRow)
  l1 : List L1Line
  loads : List PLoad
  wq : List WItem
  fpstat : Word
  jflags : Word
  rmode : Word
  jord : Nat
  rngkey : Word
  crib : Crib
  cards : Nat
  held : List HeldPage
  /-- The state of the ordered stream forms of a loop-resident block, by the block's address: it outlives a discard of the block's iterations
  (11 R224, 15 R305). -/
  streams : List (BitVec 58 × List StreamSt)
  /-- A soft error awaiting the next firing: `some true` makes the retry fail as well (24 R402). -/
  upset : Option Bool
  deriving DecidableEq, Repr

/-! ## Memory, the L2, the die -/

/-- An L2 line (03 R65, R68, 24 R406): its data, format tag, folded scales, dirty bit, owner tag when provisional,
partition, way, and the words whose SEC-DED has failed beyond correction. An FP4-blocked memory line stands in two ways, one for each
tagged line that the fill makes of it (02 R46); `L2Line.tagged` gives the two as they are laid out. -/
structure L2Line where
  data : List Byte
  fmt : BitVec 4
  scales : List (BitVec 16)
  dirty : Bool
  owner : Option Nat
  part : Nat
  way : Nat
  way2 : Option Nat
  ue : List Nat
  tagUe : Bool
  deriving DecidableEq, Repr

/-- A history entry of a versioned word: data, version, and the writing task while provisional (03 R76). -/
structure Hist where
  data : Word
  ver : Nat
  task : Option Nat
  deriving DecidableEq, Repr

/-- A versioned word (03 R76): its version and its retained history, newest first. -/
structure VerWord where
  ver : Nat
  hist : List Hist
  deriving DecidableEq, Repr

/-- A held line (03 R74): line, owner tag, journal index. -/
structure Held where
  line : Nat
  owner : Nat
  jidx : Nat
  deriving DecidableEq, Repr

/-- For whom a line is read from memory (06 R111, 13 R254): the task, the instruction, tag and block of the firing that draws the fill
when the line arrives; the load's place in the order of issue; the virtual line where a PREF fills the L1 as well. -/
structure Fill where
  task : Nat
  q : Nat
  tag : Tag
  pc : BitVec 58
  load : Option Nat
  l1 : Option Nat
  deriving DecidableEq, Repr

/-- A request at a base die (03 R80): slice and base die, the line, the byte mask of a write (a read has none), the tag once
issued, the node for which a read fills the line, and the PREFs of nodes that found the line asked for (13 R254). -/
structure BReq where
  die : Nat
  slice : Nat
  bdie : Nat
  line : Nat
  write : Option (BitVec 128)
  tag : Option Nat
  node : Nat
  why : Option Fill
  also : List (Nat × Fill)
  deriving DecidableEq, Repr

/-- An access that has reached a home slice and waits there for another task's line (03 R75): a load of a node by its place in the order of
issue, the head of a commit stream, a block fetch of a node, a firing that reads at once (MMAT, TFETCH), or a card by its place in the order of acceptance. -/
inductive Party where
  | load (node order : Nat)
  | store (ref : Nat)
  | fetch (node : Nat)
  | firing (node q : Nat) (tag : Tag)
  | card (order : Nat)
  deriving DecidableEq, Repr

/-- A party that waits at the home slice of a line (03 R75). -/
structure Waiter where
  line : Nat
  who : Party
  deriving DecidableEq, Repr

/-- An entry of a TLB slice (03 R69): a 64 KiB or 2 MiB page, or the 2 MiB region of a 1 GiB page that missed; `bits` says which (16 or 21),
`page` is the virtual address shifted by it, `entry` the entry of its first 64 KiB. -/
structure TlbEnt where
  die : Nat
  slice : Nat
  asid : Nat
  page : Nat
  entry : Word
  bits : Nat
  deriving DecidableEq, Repr

/-! ## Cards (14 R270–R286) -/

/-- The state of a job card (14 R271). -/
inductive CardSt where
  | queued | running | parked | finished | failed | cancelled
  deriving DecidableEq, Repr

/-- An accepted job card: the index, tag and block of the firing that issued it (26 R420), ticket fields (`seq` is the node's full count of cards, the ticket holds it modulo 2^16), words, issuing task and owner tag, the node's number m in the rectangle, die, acceptance time and order, the steps done,
what its reins add to source and destination addresses, and where its completion token goes. -/
structure Card where
  node : Nat
  m : Nat
  q : Nat
  ftag : Tag
  pc : BitVec 58
  seq : Nat
  cls : Nat
  chan : Nat
  flags : BitVec 8
  words : CardWords
  task : Nat
  owner : Nat
  die : Nat
  st : CardSt
  fb : Bool
  ptr : Nat
  reason : Nat
  nv : Bool
  step : Nat
  src : Nat
  dst : Nat
  accepted : Word
  order : Nat
  t0 : BitVec 12
  tag : Tag
  /-- The deferred register that takes the completion token (14 R273). -/
  wb : Option Defer
  /-- When it became final, by the state's counter: completion tokens for one port leave in that order (14 R273). -/
  finAt : Option Nat
  /-- The completion token has been given out. -/
  told : Bool
  /-- The page on which the card is held (23 R387). -/
  held : Option Nat
  /-- An engine-port card has no ticket and no completion token (14 R275). -/
  port : Bool
  /-- The node's stores that lie before the card have been performed, so it may start (05 R94). -/
  entered : Bool
  deriving DecidableEq, Repr

/-! ## Tasks -/

/-- The kind of a colour's frame (08 R154). -/
inductive FrameKind where
  | root | loop | call | spawn | tagSpace
  deriving DecidableEq, Repr

/-- A colour's frame (08 R154, 24 R396): kind, parent tag, return block, window, free slots, live iterations, owner node
(its number m in the rectangle) and context, ended, joined, LEXIT seen, commit points per node m and block, owner of a tag space
(node m, block, instruction, colour), iterations to be freed and those that TALLOC gave out, ESC, ENTRY, NRE, and the colour it is a second name of. -/
structure Frame where
  kind : FrameKind
  parent : Tag
  ret : BitVec 58
  win : Nat
  free : Nat
  live : List Nat
  node : Nat
  ctx : Nat
  ended : Bool
  joined : Bool
  lexit : Bool
  points : List (Nat × Nat × Nat)
  owner : Option (Nat × Nat × Nat × Nat)
  freeing : List Nat
  given : List Nat
  esc : Bool
  entry : BitVec 58
  /-- Bits 63:57 of the return block or of the entry, where any is set, as the whole address (07 R133). -/
  wide : Option Word
  nre : Nat
  joinedAs : Option Nat
  deriving DecidableEq, Repr

/-- An undo journal entry (03 R74). -/
structure JEntry where
  line : Nat
  old : List Byte
  deriving DecidableEq, Repr

/-- An edge of the image (16 R317). -/
structure Edge where
  src : Nat
  port : Nat
  dst : Nat
  q : Nat
  slot : Nat
  mem : Bool
  quad : Nat
  bytes : Nat
  rein : Quad
  ended : Bool
  deriving DecidableEq, Repr

/-- A bound node of the image (16 R317): relative position, weight, contexts, match, entry. -/
structure Bound where
  x : Nat
  y : Nat
  weight : Nat
  contexts : Nat
  mtch : Nat
  entry : Nat
  deriving DecidableEq, Repr

/-- What the Ostler has read of an image (16 R317). -/
structure Image where
  width : Nat
  height : Nat
  codeOff : Nat
  codeLen : Nat
  bound : List Bound
  edges : List Edge
  arenas : List Nat
  reinIns : List (Nat × Nat × Nat)
  deriving DecidableEq, Repr

/-- STATE of a bind record (15 R302). -/
inductive TaskSt where
  | loading | running | swept | ending
  deriving DecidableEq, Repr

/-- The dusk token of a sweep (15 R305): the next position of the rectangle, quad by quad, and the incoming task. -/
structure Dusk where
  pos : Nat
  incoming : Option Nat
  deriving DecidableEq, Repr

/-- A task held for launch (14 R288). -/
structure Launch where
  trec : List Word
  va : Nat
  asid : Nat
  deriving DecidableEq, Repr

/-- The refused draws of a node (22 R371, R372): its number m, their sum, the charge that remained. -/
structure Refused where
  m : Nat
  draw : Nat
  left : Nat
  deriving DecidableEq, Repr

/-- What the account of a killed task has come to, until its meter record is appended (26 R420 steps 3 and 6): the outcome, the returned packets, the
residue units, the drawn units, NEED, and the time at which its undo was complete. -/
structure Closing where
  outcome : Nat
  ret : Nat
  res : Nat
  drawn : Nat
  need : Nat
  fin : Word
  deriving DecidableEq, Repr

/-- An admitted or swept task: its record and bind record (01 R34, 15 R302), image, colour table, journal, undo data of
versions and coverage, pending sends, launches, sweep state, saved state, accounting (06 R106–R123). -/
structure Task where
  trec : List Word
  recVa : Nat
  recAsid : Nat
  part : Nat
  asid : Nat
  prio : Nat
  topup : Bool
  enq : Nat
  owner : Nat
  st : TaskSt
  x : Nat
  y : Nat
  img : Image
  frames : List (Nat × Frame)
  journal : List JEntry
  verUndo : List (Nat × Nat)
  /-- Poisoned codewords that the task's own writes have covered: an abort brings the poison back (03 R75, 24 R408). -/
  deadUndo : List Nat
  coverUndo : List Cover
  sends : List (Nat × Nat × Quad × Nat)
  launches : List Launch
  /-- Reins received from other tasks (04 R89). -/
  received : List Quad
  allot : Nat
  granted : Bool
  admitted : Word
  sliceFrom : Word
  ran : Nat
  dusk : Option Dusk
  /-- Saved sections of a swept task (15 R308): nodes by number m in the rectangle; the scratchpad tiles, 4 times the quad plus the tile, whose bytes
stand in the context area in memory; parked tokens. -/
  savedNodes : List (Nat × Node)
  savedTiles : List Nat
  parked : List (Nat × Spilled)
  /-- Quads of the rectangle that have started since the last admission or resumption. -/
  started : List Nat
  /-- Refused draws, one for a node, for NEED (22 R372). -/
  refused : List Refused
  /-- The outcome of the abort that is on its way to the task's nodes (22 R371 step 2). -/
  doomed : Option Nat
  /-- The account of a task that is undone and whose page is still to be retired (26 R420). -/
  closing : Option Closing
  /-- TASKID and STATUS 0x01 stand in the task record: the first load is complete (15 R303 step 5). -/
  announced : Bool
  bypass : Nat
  deriving DecidableEq, Repr

/-! ## The mesh -/

/-- A token on its way between two nodes (01 R12): task, edge, destination slot, present position, whether it waits on
the escape channel. -/
structure Flit where
  task : Nat
  edge : Nat
  tok : Tok
  x : Nat
  y : Nat
  dstX : Nat
  dstY : Nat
  q : Nat
  slot : Nat
  deriving DecidableEq, Repr

/-- A deferred result on its way to a register (01 R31). -/
structure DefRes where
  dst : Defer
  val : TokData
  deriving DecidableEq, Repr

/-- A re-latch token in a streaming node, named by its task and its place m in the rectangle (03 R70): it passes once what the node issued
before it (by the state's counter) is complete. `unmap` is the unmap or invalidation that it serves; `page` the page whose held firings
it releases (23 R378). -/
structure ReLatch where
  task : Nat
  m : Nat
  before : Nat
  unmap : Nat
  page : Option Nat
  deriving DecidableEq, Repr

/-- A drain token behind the requests that a node issued before it, by the state's counter (03 R71). -/
structure Drain where
  task : Nat
  m : Nat
  before : Nat
  unmap : Nat
  deriving DecidableEq, Repr

/-- An unmap or invalidation in progress (03 R70, R71): ASID and VA page, and the physical frame that it takes away. -/
structure Unmap where
  id : Nat
  asid : Nat
  page : Nat
  frame : Option Nat
  deriving DecidableEq, Repr

/-- A fault report on its way to the Farrier (22 R361, R373). -/
structure Report where
  node : Nat
  task : Option Nat
  part : Nat
  f : FaultRec
  time : Word
  drawn : Nat
  deriving DecidableEq, Repr

/-- A page report to the Farrier (23 R376, R387): the fault as it will be recorded, the page, and what the access needs of it. -/
structure PageReport where
  rep : Report
  page : Nat
  write : Bool
  exec : Bool
  deriving DecidableEq, Repr

/-- A write that another package has not acknowledged (05 R91): a mirrored one, by the partner (24 R410, 14 R281), or one to a line of another
package (`far`), by its home slice. Its line, the node number m of the task whose store or card made it, the card whose copy of the line it
is with the bytes that the card had finished before (14 R271), the store that it belongs to; what the acknowledgement completes: the result of an atomic
or versioned store, and an acquire at domain scope (05 R92); `lost` once the partner has been given up (24 R410). -/
structure MirWait where
  line : Nat
  part : Nat
  m : Nat
  task : Nat
  card : Option Nat
  below : Nat
  by_ : Option Issued
  res : Option DefRes
  acq : Bool
  far : Bool
  lost : Bool
  since : Word
  deriving DecidableEq, Repr

/-- Whether a FENCE at domain scope orders later blocks' reads after a write (05 R101). -/
def MirWait.holdsReads (w : MirWait) : Bool := w.by_.any fun b => b.ldHold == some 5
/-- Whether a FENCE at domain scope orders later blocks' stores, tokens and cards after a write (05 R101). -/
def MirWait.holdsWrites (w : MirWait) : Bool := w.by_.any fun b => b.stHold == some 5

/-! ## The hub -/

/-- A record in a launch queue (15 R297): words, VA, the ASID it was read in, enqueue count, bypass count. -/
structure QEntry where
  trec : List Word
  va : Nat
  asid : Nat
  enq : Nat
  bypass : Nat
  deriving DecidableEq, Repr

/-- A launch queue (15 R297): hardware part, ring, and the ring's base and capacity. -/
structure Queue where
  hw : List QEntry
  ring : List QEntry
  base : Word
  cap : Nat
  deriving DecidableEq, Repr

/-- A frame assigned to a partition (21 R351): ASID, the frame request, and whether the Groom has still to write its entry (25 R413). -/
structure FrameAsg where
  asid : Nat
  req : FrameReq
  due : Bool
  deriving DecidableEq, Repr

/-- A covered arena (04 R81, R82): generation, VA base, size, die, counts per granule, granules pending free with the tasks
that lowered them. -/
structure Arena where
  live : Bool
  gen : BitVec 16
  base : Nat
  size : Nat
  die : Nat
  count : List (Nat × Nat)
  taken : List Nat
  pending : List (Nat × List Nat)
  deriving DecidableEq, Repr

/-- A signature of a log's chain head (06 R126). -/
structure Sig where
  n : Nat
  q : Nat
  bytes : List Byte
  deriving DecidableEq, Repr

/-- A partition (15 R293–R297, 06 R120–R126, 22 R375): the three words of its entry, key slot, quota, queues, usage log,
period, message and fault rings, frames, mirror pairing, stranded mark, reserving task. -/
structure Part where
  w0 : Word
  w1 : Word
  w2 : Word
  key : Option (List Byte)
  quota : Nat
  queues : List (Nat × Queue)
  log : List (List Byte)
  logFirst : Nat
  logCap : Nat
  prev : List Byte
  nrec : Nat
  sigs : List Sig
  /-- The chain heads after every 256th record that have still to be signed, with their counts of records (06 R126). -/
  toSign : List (Nat × List Byte)
  period : Lane
  opened : Word
  msgs : List (List Word)
  msgDrop : Nat
  faults : List (List Word)
  faultDrop : Nat
  faultNum : Nat
  frames : List FrameAsg
  mirBase : Nat
  mirLen : Nat
  partner : Nat
  stranded : Bool
  reserving : Option Nat
  /-- Launches of tasks that have committed, which wait for room in queue 0 (14 R288). -/
  launching : List Launch
  deriving DecidableEq, Repr

/-- A page in line for retirement (24 R408; 26 R420): the line that was found broken, the partition that gets device entry 0x0004, the task that is killed
for it, and the way that the slice quarantines with it: die, slice, set, way. -/
structure PageRetire where
  line : Nat
  part : Option Nat
  tid : Option Nat
  way : Option (Nat × Nat × Nat × Nat)
  deriving DecidableEq, Repr

/-- A message that the hub has sent (21 R348, R353): the fields of its header and its body. -/
structure Msg where
  opc : Nat
  kind : Nat
  status : Nat
  seq : Word
  ref : Word
  body : List Byte
  deriving DecidableEq, Repr

/-- How the part stands between power-on and running (21 R352, R354). -/
inductive Power where
  | off | safe | starting | running
  deriving DecidableEq, Repr

/-- A start in progress (21 R352, R354): a dawn or a noon, its kind as the START alert gives it, the bad nodes that a dawn's self-test and calibration
find, and the command that it answers, by OPC and SEQ. -/
structure Start where
  dawn : Bool
  kind : Nat
  bad : List Nat
  cmd : Option (Nat × Word)
  deriving DecidableEq, Repr

/-- The hub and the Stable (21, 15 R292, 22 R373): start state, sequence numbers, stored responses, messages out, bad nodes,
the Stable's cluster, monitors, thermal stop, leaf index, counters, images, the Farrier's queues and last records. -/
structure Hub where
  lastCmd : Word
  devSeq : Word
  stored : List (Word × Msg)
  outbox : List Msg
  bad : List Nat
  stable : Nat
  mons : List (Nat × MonSample)
  thermal : Bool
  above105 : List Nat
  leaf : Nat
  nonRod : Nat
  nextTask : Nat
  enq : Nat
  fw : List Byte
  fwNext : Option (List Byte)
  reports : List Report
  pages : List PageReport
  last : List (List Word)
  corrected : List (Nat × Nat × Nat)
  fwins : List (Nat × List Word)
  roots : List (Nat × Nat)
  tableCount : Nat
  arenas : List ((Nat × Nat) × Arena)
  spares : List (Nat × Nat)
  quarantine : List (Nat × Nat × Nat × Nat)
  slicesOff : List (Nat × Nat)
  /-- Owner-presence bitmaps that cannot be corrected: die, slice, and a set, or none for the slice's own bitmap (24 R407). -/
  bitmapUe : List (Nat × Nat × Option Nat)
  /-- Codewords of memory (PA / 64) beyond correction that no read has met yet (24 R409). -/
  memUe : List Nat
  dropped : Nat
  /-- Mirrored lines with their partition and partner package (14 R281). -/
  mirrored : List (Nat × Nat × Nat)
  acked : List Nat
  /-- Partitions whose mirrored pages the controller has unmarked for want of acknowledgements since the last dawn (24 R410, 23 R391). -/
  unmirrored : List Nat
  /-- Cycles of waits found: partition, the tasks of the cycle in ascending order, since when (23 R384). -/
  cycle : List (Nat × List Nat × Word)
  /-- Pages that are to be retired (24 R408, 26 R420). -/
  retires : List PageRetire
  /-- Scratchpad tiles that have had an uncorrectable error since the last dawn: 4 times the quad plus the tile (24 R405). -/
  tileUe : List Nat
  /-- The partition that each engine queue served last: die, class, channel, partition (15 R309). -/
  turns : List (Nat × Nat × Nat × Nat)
  /-- The partition under whose key slot a frame's bytes are written (03 R67). -/
  slotOf : List (Nat × Nat)
  /-- The kind of the last start, as the START alert gives it (21 R353). -/
  startKind : Nat
  /-- The start in progress (21 R352). -/
  starting : Option Start
  /-- The package number in the domain, PA<51:44> of the package's own memory (03 R61, 07 R148). -/
  package : Nat
  deriving DecidableEq, Repr

/-! ## What comes next, and the outside world -/

/-- The firing that an instruction form makes: node, instruction index, tag. -/
structure Site where
  node : Nat
  q : Nat
  tag : Tag
  deriving DecidableEq, Repr

/-- A soft error or a broken part: an input of the machine (24). -/
inductive Upset where
  | flit (k : Nat) (p : Parity)
  | entry (node e slot : Nat) (p : Parity)
  | spill (node k : Nat) (p : Parity)
  | sreg (node r : Nat)
  | vreg (node r : Nat)
  | firing (node : Nat) (again : Bool)
  | cell (node tile cell : Nat) (x : Lane)
  /-- An L1 line of a node beyond correction (24 R405). -/
  | l1 (node line : Nat)
  | l2data (line word : Nat)
  | l2tag (line : Nat)
  | bitmap (die slice set : Nat)
  | sliceBitmap (die slice : Nat)
  | pad (quad : Nat) (off : Nat)
  | memory (codeword : Nat)
  | corrected (die part : Nat)
  deriving DecidableEq, Repr

/-- One step of the machine to come: a firing, an event, or an input. -/
inductive Move where
  | fire (s : Site)
  | event (i : Instr)
  /-- Header reads of node `n` whose registers have become full are injected (01 R30). -/
  | inject (n : Nat)
  /-- Of the faults found in the mapped block of node `n` one is recorded, and the block is discarded (22 R362). -/
  | settle (n : Nat)
  /-- The abort of a task whose draw was refused takes hold (22 R371 step 2). -/
  | doom (tid : Nat)
  /-- Spilled tokens of node `n` whose entry is free, or their own, are read from the spill area and move into it (01 R26, 24 R394). -/
  | refill (n : Nat)
  /-- The Groom writes the entry of a frame that FRAMES has assigned to a page (21 R351, 25 R413). -/
  | mapPage (asid page : Nat)
  /-- A start is complete (21 R354). -/
  | started
  /-- A message with an unknown OPC or a reserved KIND reaches the hub (21 R351). -/
  | unknown (opc kind : Nat) (seq : Word)
  /-- The Ostler writes a format window of a die of the package (03 R68). -/
  | window (die win : Nat) (w0 w1 w2 w3 : Word)
  | upset (u : Upset)
  | linkReset
  deriving DecidableEq, Repr

/-- The whole machine. `agenda` says what comes next, oldest first (the outside world's commands and inputs stand in it, and
any order the arbiters have chosen); `cur` is the firing in hand; `ctr` counts the free values and names given out. -/
structure State where
  agenda : List Move
  cur : Option Site
  ctr : Nat
  tbase : Word
  power : Power
  nodes : List (Nat × Node)
  pads : List (Nat × Byte)
  mem : List Host.Cell
  tables : List (Nat × Word)
  vers : List (Nat × VerWord)
  l2 : List (Nat × Option L2Line)
  poison : List (Nat × Bool)
  held : List Held
  breqs : List BReq
  tlb : List TlbEnt
  tasks : List (Nat × Option Task)
  parts : List (Nat × Part)
  cards : List Card
  flits : List Flit
  results : List DefRes
  relatch : List ReLatch
  drains : List Drain
  unmaps : List Unmap
  mirror : List MirWait
  reins : List (Nat × Nat × Quad × Nat)
  /-- Accesses that wait at home slices for other tasks' lines, in the order in which they arrived (03 R75). -/
  waiters : List Waiter
  /-- Moves that have been there to take, each with the count at which it was first seen; the model's own, for 01 R36. -/
  since : List (Move × Nat)
  hub : Hub
  deriving DecidableEq, Repr

/-! ## Why a step stops -/

/-- A fault of the model: none of the CG96's own faults is one (they are taken into the fault-state registers). -/
inductive Fault where
  /-- Raised by nothing: the CG96 records its faults and runs on (22 R359). Safe. -/
  | unreachable
  deriving DecidableEq, Repr

/-- A refusal: the step asked for is not there to take. Each is safe: the machine makes no such step. -/
inductive Refusal where
  /-- An instruction that has no meaning yet. Safe: nothing is claimed of it. -/
  | notModelled (mnemonic : String)
  /-- An instruction form was asked for where no firing is in hand, or the firing in hand has no mapped block, or its
  operands are not present. Raised by every instruction form. Safe: the machine fires nothing there. -/
  | notReady
  /-- An event was asked for whose cause is not there. Raised by the events. Safe: the machine makes no such step. -/
  | notEnabled
  /-- The handler table's word decodes to nothing: a map would have refused it (07 R145). Raised by the step. Safe. -/
  | noInstruction
  deriving DecidableEq, Repr

/-! ## Reset -/

/-- The S register that an unlisted number reads as: full, zero (01 R29). -/
def SReg.reset : SReg := { val := 0, full := true, par := true }
/-- The V register that an unlisted number reads as: full, zero (01 R29). -/
def VReg.reset : VReg := { val := [], full := true, par := true }
/-- A context that does not exist (08 R152). -/
def Ctx.reset : Ctx := { pc := 0, ctag := 0, st := .none, wide := none, joins := [] }
/-- A tile at task load (12 R229). -/
def Tile.reset : Tile := { cells := [], ty := .unset, arm := .idle, cnt := 0, ck := [] }
/-- The fault-state registers at reset (07 R150). -/
def FaultSt.reset : FaultSt := { code := 0, pc := 0, tag := 0, addr := 0, info := 0, pend := false }
/-- An empty crib. -/
def Crib.reset : Crib := { share := 0, charge := 0, unfed := 0, segments := 0, sealed := true, drawn := 0, byColour := [] }

/-- A node with no task (01 R29, R170; 07 R147; 12 R229). -/
def Node.reset : Node where
  task := none
  ctxs := []
  lastCtx := 7
  cur := none
  fetched := none
  prefetched := none
  fs := FaultSt.reset
  halted := true
  suspended := false
  entries := []
  spill := []
  park := []
  s := []
  v := []
  p := []
  h := []
  defs := []
  tiles := []
  pins := []
  l1 := []
  loads := []
  wq := []
  fpstat := 0
  jflags := 0
  rmode := 0
  jord := 0
  rngkey := 0
  crib := Crib.reset
  cards := 0
  held := []
  streams := []
  upset := none

/-- A partition that does not exist (15 R293): word 0 holds BYPASS 8. -/
def Part.reset : Part where
  w0 := 0x0100_0000_0000_0000#64
  w1 := 0
  w2 := 0
  key := none
  quota := 0
  queues := []
  log := []
  logFirst := 0
  logCap := 0
  prev := List.replicate 32 0
  nrec := 0
  sigs := []
  toSign := []
  period := 0
  opened := 0
  msgs := []
  msgDrop := 0
  faults := []
  faultDrop := 0
  faultNum := 0
  frames := []
  mirBase := 0
  mirLen := 0
  partner := 0
  stranded := false
  reserving := none
  launching := []

/-- The hub before the first dawn. -/
def Hub.reset : Hub where
  lastCmd := 0
  devSeq := 0
  stored := []
  outbox := []
  bad := []
  stable := 0
  mons := []
  thermal := false
  above105 := []
  leaf := 0
  nonRod := 0
  nextTask := 1
  enq := 0
  fw := []
  fwNext := none
  reports := []
  pages := []
  last := []
  corrected := []
  fwins := []
  roots := []
  tableCount := 0
  arenas := []
  spares := []
  quarantine := []
  slicesOff := []
  bitmapUe := []
  memUe := []
  dropped := 0
  mirrored := []
  acked := []
  unmirrored := []
  cycle := []
  retires := []
  tileUe := []
  turns := []
  slotOf := []
  startKind := 0
  starting := none
  package := 0

/-- The word that an unlisted version reads as (03 R76). -/
def VerWord.reset : VerWord := { ver := 0, hist := [] }

/-- The machine right after reset: powered off, nothing listed; the first step is POWER_ON (21 R354). -/
def State.reset : State where
  agenda := []
  cur := none
  ctr := 0
  tbase := 0
  power := .off
  nodes := []
  pads := []
  mem := []
  tables := []
  vers := []
  l2 := []
  poison := []
  held := []
  breqs := []
  tlb := []
  tasks := []
  parts := []
  cards := []
  flits := []
  results := []
  relatch := []
  drains := []
  unmaps := []
  mirror := []
  reins := []
  waiters := []
  since := []
  hub := Hub.reset

end Sys2Proof.Machine
end

