-- ==== Sys2Proof/Machine/Prog.lean ====
section
/-! DEFINITION. Programs of updates. Every meaning of the model is a program built from the typed updates below, so that what
every update keeps, every step keeps: one induction over programs proves it. -/

namespace Sys2Proof.Machine

/-- One update of one component of the state. The sparse maps are written only through `Sparse.put`. -/
inductive Upd where
  | mem (a : Nat) (b : Byte)
  | pad (a : Nat) (b : Byte)
  | table (k : Nat) (w : Word)
  | ver (k : Nat) (v : VerWord)
  | l2 (line : Nat) (x : Option L2Line)
  | poison (line : Nat) (b : Bool)
  | node (n : Nat) (f : Node → Node)
  | task (t : Nat) (f : Option Task → Option Task)
  | part (p : Nat) (f : Part → Part)
  | hub (f : Hub → Hub)
  | cards (f : List Card → List Card)
  | flits (f : List Flit → List Flit)
  | results (f : List DefRes → List DefRes)
  | held (f : List Held → List Held)
  | breqs (f : List BReq → List BReq)
  | tlb (f : List TlbEnt → List TlbEnt)
  | relatch (f : List ReLatch → List ReLatch)
  | drains (f : List Drain → List Drain)
  | unmaps (f : List Unmap → List Unmap)
  | mirror (f : List MirWait → List MirWait)
  | reins (f : List (Nat × Nat × Quad × Nat) → List (Nat × Nat × Quad × Nat))
  | waiters (f : List Waiter → List Waiter)
  | since (f : List (Move × Nat) → List (Move × Nat))
  | agenda (f : List Move → List Move)
  | cur (c : Option Site)
  | tick (ns : Nat)
  | fresh
  | power (p : Power)

/-- What a byte of memory that nothing has written reads as: zero (DESIGN CHOICE, log 1). -/
def memDefault : Byte := 0

/-- Apply one update. -/
def Upd.apply (u : Upd) (s : State) : State :=
  match u with
  | .mem a b => { s with mem := Sparse.put memDefault s.mem a b }
  | .pad a b => { s with pads := Sparse.put 0 s.pads a b }
  | .table k w => { s with tables := Sparse.put 0 s.tables k w }
  | .ver k v => { s with vers := Sparse.put VerWord.reset s.vers k v }
  | .l2 l x => { s with l2 := Sparse.put none s.l2 l x }
  | .poison l b => { s with poison := Sparse.put false s.poison l b }
  | .node n f => { s with nodes := Sparse.upd Node.reset s.nodes n f }
  | .task t f => { s with tasks := Sparse.upd none s.tasks t f }
  | .part p f => { s with parts := Sparse.upd Part.reset s.parts p f }
  | .hub f => { s with hub := f s.hub }
  | .cards f => { s with cards := f s.cards }
  | .flits f => { s with flits := f s.flits }
  | .results f => { s with results := f s.results }
  | .held f => { s with held := f s.held }
  | .breqs f => { s with breqs := f s.breqs }
  | .tlb f => { s with tlb := f s.tlb }
  | .relatch f => { s with relatch := f s.relatch }
  | .drains f => { s with drains := f s.drains }
  | .unmaps f => { s with unmaps := f s.unmaps }
  | .mirror f => { s with mirror := f s.mirror }
  | .reins f => { s with reins := f s.reins }
  | .waiters f => { s with waiters := f s.waiters }
  | .since f => { s with since := f s.since }
  | .agenda f => { s with agenda := f s.agenda }
  | .cur c => { s with cur := c }
  | .tick ns => { s with tbase := s.tbase + BitVec.ofNat 64 ns }
  | .fresh => { s with ctr := s.ctr + 1 }
  | .power p => { s with power := p }

/-- A program of updates: it never stops the machine. `ask` reads the state reached so far. -/
inductive Prog where
  | skip
  | upd (u : Upd)
  | seq (p q : Prog)
  | ask (k : State → Prog)

/-- The state that a program leaves. -/
def Prog.run : Prog → State → State
  | .skip, s => s
  | .upd u, s => u.apply s
  | .seq p q, s => q.run (p.run s)
  | .ask k, s => (k s).run s

/-- Programs one after the other. -/
def Prog.all : List Prog → Prog
  | [] => .skip
  | p :: ps => .seq p (Prog.all ps)

/-- One program for each element of a list, in order. -/
def Prog.each {α : Type} (l : List α) (f : α → Prog) : Prog := Prog.all (l.map f)

/-- A program run only when a condition holds. -/
def Prog.when (c : Bool) (p : Prog) : Prog := if c then p else .skip

/-- Every update that the program can make, from whatever state, satisfies `ok`. -/
def Prog.Only (ok : Upd → Prop) : Prog → Prop
  | .skip => True
  | .upd u => ok u
  | .seq p q => Prog.Only ok p ∧ Prog.Only ok q
  | .ask k => ∀ s, Prog.Only ok (k s)

/-- The outcome of a step that is there to take. -/
def Prog.done (p : Prog) (s : State) : Host.Outcome State Fault Refusal := .next (p.run s)

end Sys2Proof.Machine
end

