-- ==== Sys2Proof/Machine/Geometry.lean ====
section
/-! DEFINITION. The mesh and the address space (01 R10–R16; 03 R60–R65, R69; 26 R419), and reading the parts of the state. -/

namespace Sys2Proof.Machine
open Sys2Proof.Bits

/-! ## Reading the state -/

/-- Node `n`. -/
def State.node (s : State) (n : Nat) : Node := Sparse.get Node.reset s.nodes n
/-- Task `t`, when admitted or swept. -/
def State.task (s : State) (t : Nat) : Option Task := Sparse.get none s.tasks t
/-- Partition `p`. -/
def State.part (s : State) (p : Nat) : Part := Sparse.get Part.reset s.parts p
/-- The task of node `n`. -/
def State.taskOf (s : State) (n : Nat) : Option Task := (s.node n).task.bind s.task
/-- Register S of a node. -/
def Node.sreg (nd : Node) (k : Nat) : SReg := Sparse.get SReg.reset nd.s k
/-- Register V of a node. -/
def Node.vreg (nd : Node) (k : Nat) : VReg := Sparse.get VReg.reset nd.v k
/-- Register P of a node (08 R170). -/
def Node.preg (nd : Node) (k : Nat) : BitVec 16 := Sparse.get 0 nd.p k
/-- Register H of a node (04 R84): the null rein unless written. -/
def Node.hreg (nd : Node) (k : Nat) : Quad := Sparse.get 0 nd.h k
/-- Context `k` of a node (08 R152). -/
def Node.ctx (nd : Node) (k : Nat) : Ctx := Sparse.get Ctx.reset nd.ctxs k
/-- Tile `t` of a node (12 R229). -/
def Node.tile (nd : Node) (t : Nat) : Tile := Sparse.get Tile.reset nd.tiles t

/-! ## Places (01 R11–R14) -/

/-- The x coordinate of a node. -/
def nodeX (n : Nat) : Nat := 2 * (n % 32) + (n / 32) % 2
/-- The y coordinate of a node. -/
def nodeY (n : Nat) : Nat := n / 32
/-- The node at a position with x + y even. -/
def nodeAt (x y : Nat) : Nat := 32 * y + x / 2
/-- Whether a position is a node. -/
def isNodePos (x y : Nat) : Bool := (x + y) % 2 = 0
/-- The die of a position. -/
def dieAt (x y : Nat) : Nat := 2 * (y / 32) + x / 32
/-- The die of a node. -/
def nodeDie (n : Nat) : Nat := dieAt (nodeX n) (nodeY n)
/-- The quad of a position (01 R13). -/
def quadAt (x y : Nat) : Nat := 16 * (y / 2) + x / 4
/-- The quad of a node. -/
def nodeQuad (n : Nat) : Nat := quadAt (nodeX n) (nodeY n)
/-- The cluster of a position (01 R13). -/
def clusterAt (x y : Nat) : Nat := 8 * (y / 4) + x / 8
/-- The cluster of a node. -/
def nodeCluster (n : Nat) : Nat := clusterAt (nodeX n) (nodeY n)
/-- The die of a cluster. -/
def clusterDie (c : Nat) : Nat := dieAt (8 * (c % 8)) (4 * (c / 8))
/-- The number of a cluster's slice within its die (03 R65). -/
def clusterSlice (c : Nat) : Nat := 4 * ((c / 8) % 8) + (c % 8) % 4
/-- Hops between two positions (01 R12). -/
def hops (x y x' y' : Nat) : Nat := (x - x') + (x' - x) + (y - y') + (y' - y)
/-- The next position on a dimension-ordered route: along x first, then along y (01 R12). -/
def nextHop (x y dx dy : Nat) : Nat × Nat :=
  if x < dx then (x + 1, y) else if dx < x then (x - 1, y) else if y < dy then (x, y + 1) else if dy < y then (x, y - 1) else (x, y)

/-! ## Addresses (03 R60, R61, R65) -/

/-- Bytes of one die: 288 GiB. -/
def dieBytes : Nat := 288 * 2 ^ 30
/-- The local address within its package. -/
def localAddr (pa : Nat) : Nat := pa % 2 ^ 44
/-- The package that a physical address belongs to (03 R61). -/
def paPackage (pa : Nat) : Nat := pa / 2 ^ 44
/-- The die that owns a physical address, numbered through the domain: die `d` of package `p` is 4·p + d. -/
def paDie (pa : Nat) : Nat := 4 * paPackage pa + localAddr pa / dieBytes
/-- The number through the domain of a die of this package. -/
def ownDie (s : State) (d : Nat) : Nat := 4 * s.hub.package + d
/-- The first physical address of a die, by its number through the domain. -/
def dieBase (die : Nat) : Nat := die / 4 * 2 ^ 44 + die % 4 * dieBytes
/-- Whether a physical address is backed (03 R61). -/
def paBacked (pa : Nat) : Bool := localAddr pa < 4 * dieBytes
/-- The offset at which the device's own part of a die begins (03 R429). -/
def deviceBase : Nat := dieBytes - (16 * 2 ^ 20 + 1280 * 2 ^ 20)
/-- The offset at which a die's spare frames begin (03 R429). -/
def spareBase : Nat := dieBytes - 16 * 2 ^ 20
/-- The physical line of an address. -/
def lineOf (pa : Nat) : Nat := pa / 128
/-- fold5 (03 R65). -/
def fold5 (x : Nat) : Nat :=
  (List.range 8).foldl (fun s i => s ^^^ ((x / 2 ^ (5 * i)) % 32)) 0
/-- A slice number of a die of the domain moved off the Stable's slice in the Stable's die (03 R65). -/
def offStable (s : State) (die sl : Nat) : Nat :=
  if die = ownDie s (clusterDie s.hub.stable) && sl = clusterSlice s.hub.stable then sl ^^^ 16 else sl
/-- The home slice of a line within its die (03 R65). -/
def homeSlice (s : State) (line : Nat) : Nat :=
  offStable s (paDie (line * 128)) (fold5 ((line * 128 % 2 ^ 44) / 128))
/-- The set of a line in its slice (26 R419). -/
def lineSet (line : Nat) : Nat := line % 4096
/-- The stack, and so the base die, of a line (03 R61). -/
def lineStack (line : Nat) : Nat := (localAddr (line * 128) % dieBytes / 128) % 3
/-- The TLB slice of a virtual address in a die of this package (03 R69). -/
def tlbSlice (s : State) (die va : Nat) : Nat := offStable s (ownDie s die) (fold5 ((va % 2 ^ 57) / 2 ^ 21))

/-! ## Memory and the L2 (03 R64–R68, R74) -/

/-- The byte of memory at a physical address, below the L2. -/
def State.memByte (s : State) (pa : Nat) : Byte := Sparse.get memDefault s.mem pa
/-- The 128 bytes of a line in memory. -/
def State.memLine (s : State) (line : Nat) : List Byte := (List.range 128).map fun k => s.memByte (line * 128 + k)
/-- The line in the L2, if it is there. -/
def State.l2Line (s : State) (line : Nat) : Option L2Line := Sparse.get none s.l2 line
/-- What the home slice holds of a line: the L2's copy, or memory's. -/
def State.lineNow (s : State) (line : Nat) : List Byte :=
  match s.l2Line line with
  | some l => l.data
  | none => s.memLine line
/-- What the home slice holds at a physical address. -/
def State.byteNow (s : State) (pa : Nat) : Byte :=
  match s.l2Line (lineOf pa) with
  | some l => l.data.getD (pa % 128) 0
  | none => s.memByte pa
/-- A byte of a quad's scratchpad (01 R14). -/
def State.padByte (s : State) (quad off : Nat) : Byte := Sparse.get 0 s.pads (quad * 2 ^ 20 + off)

/-- Word `d` of window `w` of a die (03 R68). -/
def State.fwin (s : State) (die w d : Nat) : Word :=
  match s.hub.fwins.find? (fun e => e.1 == die * 16 + w) with
  | some e => e.2.getD d 0
  | none => 0

/-- Whether window `w` of a die is active. -/
def winOn (s : State) (die w : Nat) : Bool := bit (s.fwin die w 3) 63
/-- First byte of a window. -/
def winBase (s : State) (die w : Nat) : Nat := field (s.fwin die w 0) 0 52
/-- Last byte of a window. -/
def winLimit (s : State) (die w : Nat) : Nat := field (s.fwin die w 1) 0 52
/-- Format code of a window. -/
def winFmt (s : State) (die w : Nat) : Nat := field (s.fwin die w 2) 52 4
/-- Start of a window's scale region. -/
def winScale (s : State) (die w : Nat) : Nat := field (s.fwin die w 2) 0 52
/-- Band stride of a window. -/
def winStride (s : State) (die w : Nat) : Nat := field (s.fwin die w 3) 0 32
/-- Bytes of a window's scale region (03 R68). -/
def winScaleBytes (s : State) (die w : Nat) : Nat :=
  let size := winLimit s die w + 1 - winBase s die w
  size / 4 + 2 * ceilDiv size (winStride s die w)

/-- The active window that covers a physical address. -/
def winOf (s : State) (pa : Nat) : Option Nat :=
  (List.range 16).find? fun w => winOn s (paDie pa) w && winBase s (paDie pa) w ≤ pa && pa ≤ winLimit s (paDie pa) w

/-- The format tag that a fill gives a line (02 R47). -/
def lineFmt (s : State) (line : Nat) : BitVec 4 :=
  match winOf s (line * 128) with
  | some w => BitVec.ofNat 4 (winFmt s (paDie (line * 128)) w)
  | none => 15

/-- The folded scales that a fill gives a line, 16 for each 64-byte half (02 R46). -/
def lineScales (s : State) (line : Nat) : List (BitVec 16) :=
  match winOf s (line * 128) with
  | some w =>
    let die := paDie (line * 128)
    if winFmt s die w = 12 then
      let o := line * 128 - winBase s die w
      let size := winLimit s die w + 1 - winBase s die w
      (List.range 32).map fun k =>
        let blk := (s.byteNow (winScale s die w + o / 4 + k)).toNat
        let b := winScale s die w + size / 4 + 2 * ((o + 64 * (k / 16)) / winStride s die w)
        Num.foldedScale blk (ofBytes [s.byteNow b, s.byteNow (b + 1)])
    else []
  | none => []

/-- Whether a physical address lies in the scale region of an active window (02 R47). -/
def inScales (s : State) (pa : Nat) : Bool :=
  (List.range 16).any fun w => winOn s (paDie pa) w && winFmt s (paDie pa) w = 12 &&
    winScale s (paDie pa) w ≤ pa && pa < winScale s (paDie pa) w + winScaleBytes s (paDie pa) w

/-- The tag and scales of a line as the L2 has them, or as a fill would give them. -/
def State.tagNow (s : State) (line : Nat) : BitVec 4 :=
  match s.l2Line line with
  | some l => l.fmt
  | none => lineFmt s line

/-! ## Owners (03 R73–R75) -/

/-- The owner tag of a provisional or held line. -/
def lineOwner (s : State) (line : Nat) : Option Nat :=
  match (s.l2Line line).bind (fun l => l.owner) with
  | some o => some o
  | none => (s.held.find? (fun h => h.line == line)).map (fun h => h.owner)

/-- Whether an access of a task with owner tag `o` must wait on a line: another task owns it (03 R75). -/
def foreign (s : State) (o : Option Nat) (line : Nat) : Bool :=
  match lineOwner s line with
  | some x => !(decide (o = some x))
  | none => false

/-- Whether a line is poisoned in memory (24 R408). -/
def poisoned (s : State) (line : Nat) : Bool := Sparse.get false s.poison (2 * line) || Sparse.get false s.poison (2 * line + 1)

/-- The lines that count against a task's PBUDGET (03 R73): provisional lines in the L2 and held lines, each once. -/
def provLines (s : State) (owner : Nat) : List Nat :=
  distinct ((s.l2.filterMap fun e => match e.2 with
    | some l => if l.owner = some owner then some e.1 else none
    | none => none) ++ (s.held.filter (fun h => h.owner == owner)).map (fun h => h.line))

/-- The partition of an owner tag. -/
def ownerPart (s : State) (owner : Nat) : Option Nat :=
  (s.tasks.findSome? fun e => match e.2 with
    | some t => if t.owner = owner then some t.part else none
    | none => none)

/-- The TASKID of an owner tag. -/
def ownerTask (s : State) (owner : Nat) : Option Nat :=
  (s.tasks.findSome? fun e => match e.2 with
    | some t => if t.owner = owner then some e.1 else none
    | none => none)

/-! ## Shared pools (15 R296) -/

/-- HLDMIN, HLDCAP and the like of a partition. -/
def Part.hldMin (p : Part) : Nat := field p.w1 16 16
/-- Most common held-line entries per die. -/
def Part.hldCap (p : Part) : Nat := field p.w2 16 16
/-- Version history entries reserved in each slice. -/
def Part.histMin (p : Part) : Nat := field p.w1 0 16
/-- Most common history entries per slice. -/
def Part.histCap (p : Part) : Nat := field p.w2 0 16
/-- Slot-table entries reserved in each die. -/
def Part.slotMin (p : Part) : Nat := field p.w1 32 8
/-- Queue places reserved in each engine queue. -/
def Part.cardMin (p : Part) : Nat := field p.w2 56 8
/-- Journal entries reserved in each die. -/
def Part.jrnMin (p : Part) : Nat := 256 * field p.w2 32 24
/-- Whether the partition exists. -/
def Part.en (p : Part) : Bool := bit p.w0 63

/-- Whether a partition may take one more entry of a pool: below its minimum; or below its cap while the common remainder is
not used up. `use q` is what partition `q` holds, `min q` its minimum; `cap` is `none` where there is no cap but the pool. -/
def poolFree (s : State) (size : Nat) (use min : Nat → Nat) (cap : Option Nat) (p : Nat) : Bool :=
  let enabled := (s.parts.filter fun e => e.2.en).map (fun e => e.1)
  if use p < min p then true
  else
    let common := size - total (enabled.map min)
    let used := total (enabled.map fun q => use q - min q)
    let below := match cap with
      | some c => use p - min p < c
      | none => true
    below && used < common

/-- The held-line directory entries that a partition holds in a die. -/
def heldOf (s : State) (die p : Nat) : Nat :=
  (s.held.filter fun h => paDie (h.line * 128) == die && ownerPart s h.owner == some p).length

/-- Whether a partition has a held-line directory entry available in a die (03 R74). -/
def heldFree (s : State) (die p : Nat) : Bool :=
  poolFree s 65536 (heldOf s die) (fun q => (s.part q).hldMin) (some (s.part p).hldCap) p

/-! ## Translation (03 R60–R63, R69) -/

/-- The outcome of a walk: the 64-KiB-page entry, with its frame in bits 51:16, or a page fault. -/
inductive Walk where
  | fault
  | entry (w : Word)
  deriving DecidableEq, Repr

/-- The number of the table at a physical address, and the word at an index of it. -/
def tableWord (s : State) (tbl idx : Nat) : Word := Sparse.get 0 s.tables (tbl * 512 + idx)

/-- The walk from level `lv` on (03 R62): `idxs` are the remaining indices. -/
def walkFrom (s : State) (va : Nat) : Nat → Nat → List Nat → Walk
  | _, _, [] => .fault
  | lv, tbl, i :: is =>
    let e := tableWord s tbl i
    if !bit e 63 then .fault
    else if bit e 62 then
      if lv ≤ 2 || field e 60 2 = 3 then .fault
      else
        let size := if lv = 3 then 30 else if lv = 4 then 21 else 16
        let frame := field e 16 36 * 2 ^ 16 / 2 ^ size * 2 ^ size
        .entry (setField e 16 36 ((frame + va % 2 ^ size) / 2 ^ 16))
    else if lv = 5 then .fault
    else walkFrom s va (lv + 1) (field e 8 44) is

/-- The walk of a virtual address in an ASID (03 R62). -/
def walk (s : State) (asid va : Nat) : Walk :=
  match s.hub.roots.find? (fun r => r.1 == asid) with
  | none => .fault
  | some r => walkFrom s va 1 r.2
      [va / 2 ^ 48 % 512, va / 2 ^ 39 % 512, va / 2 ^ 30 % 512, va / 2 ^ 21 % 512, va / 2 ^ 16 % 32]

/-- The level at which the walk of a virtual address ends from level `lv` on. -/
def leafLevel (s : State) : Nat → Nat → List Nat → Nat
  | lv, _, [] => lv
  | lv, tbl, i :: is =>
    let e := tableWord s tbl i
    if bit e 62 then lv else leafLevel s (lv + 1) (field e 8 44) is

/-- The address bits that a TLB entry for a virtual address covers (03 R69): a 64 KiB page, else a 2 MiB page or region. -/
def tlbBits (s : State) (asid va : Nat) : Nat :=
  match s.hub.roots.find? (fun r => r.1 == asid) with
  | none => 16
  | some r => if leafLevel s 1 r.2 [va / 2 ^ 48 % 512, va / 2 ^ 39 % 512, va / 2 ^ 30 % 512, va / 2 ^ 21 % 512, va / 2 ^ 16 % 32] = 5 then 16 else 21

/-- Whether a TLB entry serves a virtual address of an ASID in a die. -/
def TlbEnt.covers (t : TlbEnt) (die asid va : Nat) : Bool := t.die == die && t.asid == asid && t.page == va / 2 ^ t.bits

/-- The 64-KiB-page entry that a TLB entry gives for a virtual address. -/
def TlbEnt.at (t : TlbEnt) (va : Nat) : Word := setField t.entry 16 36 (field t.entry 16 36 + va % 2 ^ t.bits / 2 ^ 16)

/-- The translation of a virtual address as the owning TLB slice of a die gives it (03 R69). -/
def translate (s : State) (die asid va : Nat) : Walk :=
  match s.tlb.find? (fun t => t.covers die asid va) with
  | some t => .entry (t.at va)
  | none => walk s asid va

/-- Enter a translation into the owning TLB slice, which keeps 4096 entries (03 R69); which entry a full slice gives up is the model's
choice: the oldest (DESIGN CHOICE, log 7). -/
def touchTlb (die asid va : Nat) : Prog :=
  .ask fun s =>
    if s.tlb.any (fun t => t.covers die asid va) then .skip
    else
      let k := tlbBits s asid va
      match walk s asid (va / 2 ^ k * 2 ^ k) with
      | .fault => .skip
      | .entry w =>
        let sl := tlbSlice s die va
        .upd (.tlb fun l =>
          let mine := (l.filter fun t => t.die == die && t.slice == sl).take 4095
          { die := die, slice := sl, asid := asid, page := va / 2 ^ k, entry := w, bits := k } ::
            (mine ++ l.filter fun t => !(t.die == die && t.slice == sl)))

/-- The physical address of a virtual address under a 64-KiB-page entry. -/
def entryPa (w : Word) (va : Nat) : Nat := field w 16 36 * 2 ^ 16 + va % 2 ^ 16
/-- Page class of an entry (03 R62). -/
def entryClass (w : Word) : Nat := field w 60 2
/-- RD of an entry. -/
def entryRd (w : Word) : Bool := bit w 59
/-- WR of an entry. -/
def entryWr (w : Word) : Bool := bit w 58
/-- EX of an entry. -/
def entryEx (w : Word) : Bool := bit w 57

end Sys2Proof.Machine
end

