-- ==== Sys2Proof/Machine/Groom.lean ====
section
/-! DEFINITION. The Groom's page tables (03 R62; 15 R295; 21 R351 FRAMES): finding, writing and changing 64 KiB leaves. -/

namespace Sys2Proof.Machine
open Sys2Proof.Bits

/-- The key of the level-5 entry that a walk of `va` reaches, if its tables are there. -/
def leafKeyFrom (s : State) : Nat → List Nat → Option Nat
  | _, [] => none
  | tbl, [i] => some (tbl * 512 + i)
  | tbl, i :: is =>
    let e := tableWord s tbl i
    if bit e 63 && !bit e 62 then leafKeyFrom s (field e 8 44) is else none

/-- The five indices of a virtual address (03 R62). -/
def vaIndices (va : Nat) : List Nat :=
  [va / 2 ^ 48 % 512, va / 2 ^ 39 % 512, va / 2 ^ 30 % 512, va / 2 ^ 21 % 512, va / 2 ^ 16 % 32]

/-- The key of the level-5 entry of a virtual address of an ASID. -/
def leafKey (s : State) (asid va : Nat) : Option Nat :=
  (s.hub.roots.find? fun r => r.1 == asid).bind fun r => leafKeyFrom s r.2 (vaIndices va)

/-- The number of the next fresh table, and the count moved on. -/
def freshTable (k : Nat → Prog) : Prog :=
  .ask fun s =>
    let n := s.hub.tableCount + 1
    .seq (.upd (.hub fun h => { h with tableCount := h.tableCount + 1 })) (k n)

/-- Go down the tables from `tbl`, making those that are missing, and write the leaf. -/
def putLeafFrom (e : Word) : Nat → List Nat → Prog
  | _, [] => .skip
  | tbl, [i] => .upd (.table (tbl * 512 + i) e)
  | tbl, i :: j :: is => .ask fun s =>
    let w := tableWord s tbl i
    if bit w 63 && !bit w 62 then putLeafFrom e (field w 8 44) (j :: is)
    else freshTable fun n => .seq (.upd (.table (tbl * 512 + i) (BitVec.ofNat 64 (2 ^ 63 + n % 2 ^ 44 * 2 ^ 8)))) (putLeafFrom e n (j :: is))

/-- Write the 64 KiB leaf of a virtual address of an ASID; a new ASID gets a root table (03 R62). -/
def putLeaf (asid va : Nat) (e : Word) : Prog :=
  .ask fun s => match s.hub.roots.find? fun r => r.1 == asid with
    | some r => putLeafFrom e r.2 (vaIndices va)
    | none => freshTable fun n =>
      .seq (.upd (.hub fun h => { h with roots := h.roots ++ [(asid, n)] })) (putLeafFrom e n (vaIndices va))

/-- The leaf of a frame with its class and rights. -/
def leafWord (r : FrameReq) : Word :=
  BitVec.ofNat 64 (3 * 2 ^ 62 + r.cls.toNat * 2 ^ 60 + (if r.rd then 2 ^ 59 else 0) + (if r.wr then 2 ^ 58 else 0) +
    (if r.ex then 2 ^ 57 else 0) + r.frame % 2 ^ 36 * 2 ^ 16)

/-- Map an assigned frame at its VA (23 R377). -/
def mapFrame (asid : Nat) (r : FrameReq) : Prog :=
  .seq (.ask fun s => Prog.each (s.parts.map fun e => e.1) fun p => .upd (.part p fun x => { x with
      frames := x.frames.map fun g => if g.asid = asid && g.req.page = r.page then { g with due := false } else g }))
    (putLeaf asid (r.page * 2 ^ 16) (leafWord r))

/-- Clear the leaf of a virtual address. -/
def clearLeaf (asid va : Nat) : Prog :=
  .ask fun s => match leafKey s asid va with
    | some k => .upd (.table k 0)
    | none => .skip

/-- The assignment that gives a VA page of an ASID its frame, with its partition. -/
def assigned (s : State) (asid page : Nat) : Option (Nat × FrameAsg) :=
  s.parts.findSome? fun e => (e.2.frames.find? fun f => f.asid == asid && f.req.page == page).map fun f => (e.1, f)

/-- The frame that the Groom has still to map at a page (25 R413). -/
def dueFrame (s : State) (asid page : Nat) : Option FrameReq :=
  (assigned s asid page).bind fun g => if g.2.due then some g.2.req else none

/-- Before the device itself reads or writes at an address, the Groom has written the entry of its page. -/
def groomNow (asid va : Nat) : Prog :=
  .ask fun s => match dueFrame s asid (va / 2 ^ 16) with
    | some r => mapFrame asid r
    | none => .skip

/-- The partition that a frame is assigned to. -/
def frameOwner (s : State) (frame : Nat) : Option Nat :=
  (s.parts.find? fun e => e.2.frames.any fun f => f.req.frame == frame).map fun e => e.1

end Sys2Proof.Machine
end

