-- ==== Sys2Proof/Machine/Sha256.lean ====
section
/-! DEFINITION. SHA-256 (FIPS 180-4), which chains the meter records (06 R124) and hashes keys. -/

namespace Sys2Proof.Sha

/-- The round constants: fractional parts of cube roots of the first 64 primes. -/
def consts : List (BitVec 32) :=
  [0x428a2f98#32, 0x71374491#32, 0xb5c0fbcf#32, 0xe9b5dba5#32, 0x3956c25b#32, 0x59f111f1#32, 0x923f82a4#32, 0xab1c5ed5#32] ++
  [0xd807aa98#32, 0x12835b01#32, 0x243185be#32, 0x550c7dc3#32, 0x72be5d74#32, 0x80deb1fe#32, 0x9bdc06a7#32, 0xc19bf174#32] ++
  [0xe49b69c1#32, 0xefbe4786#32, 0x0fc19dc6#32, 0x240ca1cc#32, 0x2de92c6f#32, 0x4a7484aa#32, 0x5cb0a9dc#32, 0x76f988da#32] ++
  [0x983e5152#32, 0xa831c66d#32, 0xb00327c8#32, 0xbf597fc7#32, 0xc6e00bf3#32, 0xd5a79147#32, 0x06ca6351#32, 0x14292967#32] ++
  [0x27b70a85#32, 0x2e1b2138#32, 0x4d2c6dfc#32, 0x53380d13#32, 0x650a7354#32, 0x766a0abb#32, 0x81c2c92e#32, 0x92722c85#32] ++
  [0xa2bfe8a1#32, 0xa81a664b#32, 0xc24b8b70#32, 0xc76c51a3#32, 0xd192e819#32, 0xd6990624#32, 0xf40e3585#32, 0x106aa070#32] ++
  [0x19a4c116#32, 0x1e376c08#32, 0x2748774c#32, 0x34b0bcb5#32, 0x391c0cb3#32, 0x4ed8aa4a#32, 0x5b9cca4f#32, 0x682e6ff3#32] ++
  [0x748f82ee#32, 0x78a5636f#32, 0x84c87814#32, 0x8cc70208#32, 0x90befffa#32, 0xa4506ceb#32, 0xbef9a3f7#32, 0xc67178f2#32]

/-- The initial hash value: fractional parts of square roots of the first 8 primes. -/
def init : List (BitVec 32) := [0x6a09e667#32, 0xbb67ae85#32, 0x3c6ef372#32, 0xa54ff53a#32, 0x510e527f#32, 0x9b05688c#32, 0x1f83d9ab#32, 0x5be0cd19#32]

/-- The 32-bit big-endian words of a byte list. -/
def be32 : Nat → List Byte → List (BitVec 32)
  | 0, _ => []
  | n + 1, bs => ((bs.take 4).foldl (fun (a : BitVec 32) b => (a <<< 8) ||| b.setWidth 32) 0) :: be32 n (bs.drop 4)

/-- The big-endian bytes of a 32-bit word. -/
def beBytes (w : BitVec 32) : List Byte :=
  [(w >>> 24).setWidth 8, (w >>> 16).setWidth 8, (w >>> 8).setWidth 8, w.setWidth 8]

/-- One word of the message schedule from the sixteen before it, newest first. -/
def schedWord (l : List (BitVec 32)) : BitVec 32 :=
  let a := l.getD 1 0
  let b := l.getD 14 0
  (a.rotateRight 17 ^^^ a.rotateRight 19 ^^^ (a >>> 10)) + l.getD 6 0 +
    (b.rotateRight 7 ^^^ b.rotateRight 18 ^^^ (b >>> 3)) + l.getD 15 0

/-- The schedule of a block, newest first, grown by `n` words. -/
def schedule : Nat → List (BitVec 32) → List (BitVec 32)
  | 0, l => l
  | n + 1, l => schedule n (schedWord l :: l)

/-- One round. -/
def round (h : List (BitVec 32)) (kw : BitVec 32) : List (BitVec 32) :=
  match h with
  | [a, b, c, d, e, f, g, z] =>
    let t1 := z + (e.rotateRight 6 ^^^ e.rotateRight 11 ^^^ e.rotateRight 25) + ((e &&& f) ^^^ (~~~e &&& g)) + kw
    let t2 := (a.rotateRight 2 ^^^ a.rotateRight 13 ^^^ a.rotateRight 22) + ((a &&& b) ^^^ (a &&& c) ^^^ (b &&& c))
    [t1 + t2, a, b, c, d + t1, e, f, g]
  | _ => h

/-- Compress one 64-byte block. -/
def compress (h : List (BitVec 32)) (blk : List Byte) : List (BitVec 32) :=
  let w := (schedule 48 (be32 16 blk).reverse).reverse
  let h' := (List.zipWith (· + ·) consts w).foldl round h
  List.zipWith (· + ·) h h'

/-- Compress `n` blocks. -/
def blocks : Nat → List (BitVec 32) → List Byte → List (BitVec 32)
  | 0, h, _ => h
  | n + 1, h, bs => blocks n (compress h (bs.take 64)) (bs.drop 64)

/-- The big-endian bytes of a 64-bit length. -/
def lenBytes (n : Nat) : List Byte := (Bits.toBytes 8 n).reverse

/-- The 32-byte SHA-256 digest of a byte list. -/
def sha256 (bs : List Byte) : List Byte :=
  let pad := (119 - bs.length % 64) % 64
  let m := bs ++ 0x80#8 :: (List.replicate pad 0#8 ++ lenBytes (8 * bs.length))
  (blocks (m.length / 64) init m).flatMap beBytes

end Sys2Proof.Sha
end

