-- ==== Sys2Proof/Machine/Ops.lean ====
section
/-! DEFINITION. The named operations over memory, the L2, cribs, logs and tasks; taking a fault (22 R359–R374), ending a task
(06 R118, R119) and returning from a fault (14 R290 FRET). -/

namespace Sys2Proof.Machine
open Sys2Proof.Bits

/-! ## L2 lines (03 R74; 24 R405–R409; 26 R419) -/

/-- The lines of the L2 that share slice and set with a line, with their ways. -/
def setLines (s : State) (line : Nat) : List (Nat × L2Line) :=
  s.l2.filterMap fun e => match e.2 with
    | some l => if lineSet e.1 = lineSet line && homeSlice s e.1 = homeSlice s line &&
                   paDie (e.1 * 128) = paDie (line * 128) then some (e.1, l) else none
    | none => none

/-- The ways of a set that may hold a line: those not quarantined (24 R408). -/
def usableWays (s : State) (line : Nat) : List Nat :=
  (List.range 16).filter fun w =>
    !(s.hub.quarantine.contains (paDie (line * 128), homeSlice s line, lineSet line, w)) &&
    !(s.hub.slicesOff.contains (paDie (line * 128), homeSlice s line))

/-- Whether a line may be evicted: it is not provisional, or it is already held, or its partition has a directory entry (03 R74). -/
def evictable (s : State) (line : Nat) (l : L2Line) : Bool :=
  match l.owner with
  | none => true
  | some o => s.held.any (fun h => h.line == line) ||
      (match ownerPart s o with
       | some p => heldFree s (paDie (line * 128)) p
       | none => true)

/-- The way that a fill of a line takes, and the line it must evict; `none` where it allocates no way (03 R74, 26 R419). -/
def roomFor (s : State) (line : Nat) : Option (Nat × Option Nat) :=
  let used := setLines s line
  let ways := usableWays s line
  match ways.find? (fun w => !(used.any fun e => e.2.way == w || e.2.way2 == some w)) with
  | some w => some (w, none)
  | none =>
    let cand := used.filter fun e => !(e.1 == line) && ways.contains e.2.way && evictable s e.1 e.2
    match cand[Config.victim s.ctr % (if cand.length = 0 then 1 else cand.length)]? with
    | some e => some (e.2.way, some e.1)
    | none => none

/-- Write bytes to memory below the L2. -/
def memWrite (pa : Nat) (bs : List Byte) : Prog := Prog.each bs.zipIdx fun e => .upd (.mem (pa + e.2) e.1)

/-- A write of a whole codeword clears its poison and takes fresh check bits (24 R408, 03 R80). -/
def clearPoison (pa len : Nat) : Prog :=
  Prog.each (List.range (len / 64 + 1)) fun k =>
    let cw := pa / 64 + k
    Prog.when (pa ≤ cw * 64 && cw * 64 + 64 ≤ pa + len) (.seq (.upd (.poison cw false))
      (.upd (.hub fun h => { h with memUe := h.memUe.filter fun x => !(x == cw) })))

/-- Mark both codewords of a line as poison (24 R408). -/
def poisonLine (line : Nat) : Prog := .seq (.upd (.poison (2 * line) true)) (.upd (.poison (2 * line + 1) true))

/-- Count a corrected error of a structure of a die (24 R392). -/
def countFixed (die part : Nat) : Prog :=
  .upd (.hub fun h => { h with
    corrected := match h.corrected.find? fun e => e.1 == die && e.2.1 == part with
      | some e => (die, part, e.2.2 + 1) :: h.corrected.filter fun x => !(x.1 == die && x.2.1 == part)
      | none => (die, part, 1) :: h.corrected })

/-- Put a line's page in line for retirement, with the partition that gets device entry 0x0004. -/
def wantRetire (line : Nat) (p : Option Nat) : Prog := .upd (.hub fun h => { h with retires := h.retires ++ [⟨line, p, none, none⟩] })

/-- The broken codewords of a line that the controller has not met yet (24 R409). -/
def brokenWords (s : State) (line : Nat) : List Nat := s.hub.memUe.filter fun c => c / 2 == line

/-- The controller meets a broken codeword (24 R409): repaired from an acknowledged mirror, or `lost` is run. -/
def meetWord (cw : Nat) (lost : Prog) : Prog :=
  .ask fun s => .seq (.upd (.hub fun h => { h with memUe := h.memUe.filter fun x => !(x == cw) }))
    (if s.hub.acked.contains (cw / 2) then countFixed (paDie (cw * 64) % 4) 5 else lost)

/-- A task's own write covers a poisoned codeword: the poison is the old contents' (24 R408). -/
def noteDead (owner : Nat) (cws : List Nat) : Prog :=
  .ask fun s => match ownerTask s owner with
    | none => .skip
    | some t => .upd (.task t fun o => o.map fun tk => { tk with deadUndo := tk.deadUndo ++ cws.filter fun c => !(tk.deadUndo.contains c) })

/-- Enter a line in the held-line directory and its old contents in the owner's journal (03 R74 steps 1 and 2); an old codeword that cannot be read
is journalled as poison, and its page is retired (24 R408, R409). -/
def holdLine (line owner : Nat) : Prog :=
  .ask fun s => if s.held.any (fun h => h.line == line) then .skip else
    match ownerTask s owner with
    | none => .skip
    | some t =>
      let old := s.memLine line
      let idx := match s.task t with
        | some tk => tk.journal.length
        | none => 0
      .all [ Prog.each (brokenWords s line) fun c => meetWord c (.seq (noteDead owner [c]) (wantRetire line none)),
             .upd (.task t fun o => o.map fun tk => { tk with journal := tk.journal ++ [⟨line, old⟩] }),
             .upd (.held fun h => h ++ [⟨line, owner, idx⟩]) ]

/-- A write by the device itself (01 R34, 16 R316), not provisional: memory, any L2 copy, and the old data of any journal
entry of the line take it, so that neither a commit nor an abort loses it. -/
def devWrite (pa : Nat) (bs : List Byte) : Prog :=
  .seq (.seq (memWrite pa bs) (clearPoison pa bs.length))
    (.ask fun s =>
      .seq (Prog.each (distinct (bs.zipIdx.map fun e => lineOf (pa + e.2))) fun line =>
          match s.l2Line line with
          | none => .skip
          | some l => .upd (.l2 line (some { l with
              data := (List.range 128).map fun k =>
                let a := line * 128 + k
                if pa ≤ a && a < pa + bs.length then bs.getD (a - pa) 0 else l.data.getD k 0 })))
        (Prog.each (s.tasks.map fun e => e.1) fun t => .upd (.task t fun o => o.map fun tk =>
          { tk with
            deadUndo := tk.deadUndo.filter fun c => !(pa ≤ c * 64 && c * 64 + 64 ≤ pa + bs.length)
            journal := tk.journal.map fun j => { j with
              old := (List.range 128).map fun k =>
                let a := j.line * 128 + k
                if pa ≤ a && a < pa + bs.length then bs.getD (a - pa) 0 else j.old.getD k 0 } })))

/-- The line of a partner package at the same local address (14 R281). -/
def partnerLine (line partner : Nat) : Nat := (partner % 256 * 2 ^ 44 + localAddr (line * 128)) / 128

/-- The contents of a line reach the partner's memory (14 R281; when on the way, DESIGN CHOICE, log 88). -/
def sendCopy (line partner : Nat) : Prog := .ask fun s => devWrite (partnerLine line partner * 128) (s.lineNow line)

/-! ## Frames that leave, and keys (03 R67, R71; 15 R295) -/

/-- Forget the copies, the held lines and the undo data of a frame's lines. -/
def dropLines (frame : Nat) : Prog :=
  .ask fun s =>
    let inside := fun (line : Nat) => line * 128 / 2 ^ 16 == frame
    .all [ Prog.each ((s.l2.map fun e => e.1).filter inside) fun line => .upd (.l2 line none),
           .upd (.held fun l => l.filter fun h => !inside h.line),
           Prog.each (s.tasks.map fun e => e.1) fun t => .upd (.task t fun o => o.map fun tk => { tk with
             journal := tk.journal.filter fun j => !inside j.line
             deadUndo := tk.deadUndo.filter fun c => !inside (c / 2)
             verUndo := tk.verUndo.filter fun u => !inside (lineOf (8 * u.1)) }) ]

/-- Zero a frame that returns to its partition (03 R71): bytes, poison, versioned words, and every copy of its lines. -/
def wipeFrame (frame : Nat) : Prog :=
  .seq (dropLines frame) (.ask fun s =>
    .all [ Prog.each (s.mem.filter fun c => c.1 / 2 ^ 16 == frame) fun c => .upd (.mem c.1 0),
           Prog.each (s.poison.filter fun c => c.1 * 64 / 2 ^ 16 == frame) fun c => .upd (.poison c.1 false),
           .upd (.hub fun h => { h with memUe := h.memUe.filter fun c => !(c * 64 / 2 ^ 16 == frame) }),
           Prog.each (s.vers.filter fun v => v.1 * 8 / 2 ^ 16 == frame) fun v => .upd (.ver v.1 VerWord.reset) ])

/-- What memory holds of a frame that was written under another key: bytes that are free values (03 R67: no plaintext; log 64). -/
def garbleFrame (frame : Nat) : Prog :=
  .seq (.ask fun s => Prog.each (List.range 65536) fun k =>
      .upd (.mem (frame * 2 ^ 16 + k) (Config.freeByte s.ctr (frame * 2 ^ 16 + k)))) (.upd .fresh)

/-- Whether an assignment of any partition names a frame. -/
def frameUsed (s : State) (frame : Nat) : Bool := s.parts.any fun e => e.2.frames.any fun f => f.req.frame == frame

/-- Zero a frame that no assignment names any more. -/
def returnFrame (frame : Nat) : Prog := .ask fun s => Prog.when (!frameUsed s frame) (wipeFrame frame)

/-! ## Reading bytes coherently -/

/-- The bytes that the home slices hold from a physical address on. -/
def bytesNow (s : State) (pa n : Nat) : List Byte := (List.range n).map fun k => s.byteNow (pa + k)

/-- The bytes at a virtual address of an ASID, read through the tables page by page; `none` where a page is not mapped or
refuses the right asked for. -/
def vbytes (s : State) (asid va n : Nat) (ok : Word → Bool) : Option (List Byte) :=
  (List.range n).foldr (fun k acc => match acc, walk s asid (va + k) with
    | some bs, .entry w => if ok w then some (s.byteNow (entryPa w (va + k)) :: bs) else none
    | _, _ => none) (some [])

/-- The lines of a virtual range, as physical lines. -/
def vlines (s : State) (asid va n : Nat) : List Nat :=
  distinct ((List.range n).filterMap fun k => match walk s asid (va + k) with
    | .entry w => some (lineOf (entryPa w (va + k)))
    | .fault => none)

/-! ## Versioned words (03 R76) -/

/-- The versioned word at a physical address. -/
def State.verWord (s : State) (pa : Nat) : VerWord := Sparse.get VerWord.reset s.vers (pa / 8)

/-- `a` equals or exceeds `b`, modulo 2^32 (03 R76). -/
def verGe (a b : Nat) : Bool := (a + 2 ^ 32 - b % 2 ^ 32) % 2 ^ 32 < 2 ^ 31

/-- The history entries that a partition holds in a slice: those of the words whose lines the partition's frames hold. -/
def histOf (s : State) (die sl p : Nat) : Nat :=
  let fr := (s.part p).frames.map fun f => f.req.frame
  total (s.vers.map fun e =>
    let line := lineOf (e.1 * 8)
    if paDie (line * 128) = die && homeSlice s line = sl && fr.contains (line * 128 / 2 ^ 16) then e.2.hist.length else 0)

/-- Whether a partition has a free history entry in the slice of a line (03 R76, 15 R296). -/
def histFree (s : State) (line p : Nat) : Bool :=
  let die := paDie (line * 128)
  let sl := homeSlice s line
  poolFree s 16384 (histOf s die sl) (fun q => (s.part q).histMin) (some (s.part p).histCap) p

/-- Advance a version by `delta` and keep the history entry (03 R76). -/
def verAdvance (pa : Nat) (data : Word) (delta : Nat) (task : Option Nat) : Prog :=
  .ask fun s =>
    let v := s.verWord pa
    let nv := (v.ver + delta) % 2 ^ 32
    .upd (.ver (pa / 8) { ver := nv, hist := ⟨data, nv, task⟩ :: v.hist })

/-- Keep, once, the version a word had before the task's first STV (23 R385). -/
def verSave (t pa : Nat) : Prog :=
  .ask fun s =>
    let v := (s.verWord pa).ver
    .upd (.task t fun o => o.map fun tk =>
      if tk.verUndo.any (fun u => u.1 == pa / 8) then tk else { tk with verUndo := tk.verUndo ++ [(pa / 8, v)] })

/-- A word whose STVs by task `t` are undone (23 R385): its version returns, the task's history entries are freed. -/
def VerWord.undo (t ver : Nat) (v : VerWord) : VerWord :=
  { ver := ver, hist := v.hist.filter fun h => !(h.task == some t) }

/-! ## Cribs (06 R104–R117) -/

/-- Units that a full crib of the connected segments holds (06 R104). -/
def Crib.capacity (c : Crib) : Nat := 64 * c.segments.toNat

/-- Remaining charge in units: what the crib holds plus the unfed budget (06 R113). -/
def Crib.remaining (c : Crib) : Nat := c.charge + c.unfed

/-- The feed (06 R105, R108): whole packets move into the crib while there is a budget and room. -/
def Crib.feed (c : Crib) : Crib :=
  let room := (c.capacity - c.charge) / 64 * 64
  let mv := if c.unfed < room then c.unfed else room
  { c with charge := c.charge + mv, unfed := c.unfed - mv }

/-- The units a node has drawn under a colour (24 R399). -/
def Crib.under (c : Crib) (colour : Nat) : Nat :=
  match c.byColour.find? (fun e => e.1 == colour) with
  | some e => e.2
  | none => 0

/-- Take `u` units out of the crib, and where it holds less, out of the budget. -/
def Crib.take (c : Crib) (u : Nat) : Crib :=
  if u ≤ c.charge then { c with charge := c.charge - u } else { c with charge := 0, unfed := c.unfed - (u - c.charge) }

/-- Take a draw that the remaining charge covers, count it, and note it under its colour (06 R109, 24 R399). -/
def Crib.draw (c : Crib) (u colour : Nat) : Crib :=
  let c := c.take u
  Crib.feed { c with
    drawn := c.drawn + u
    byColour := (colour, u + c.under colour) :: c.byColour.filter fun e => !(e.1 == colour) }

/-- Seal a share of `a` packets (06 R107, R108), with a further unfed budget in packets. -/
def Crib.seal (a unfed drawn : Nat) (c : Crib) : Crib :=
  if a ≤ 4095 && unfed = 0 then
    { c with share := 64 * a, charge := 64 * a, unfed := 0, segments := BitVec.ofNat 12 a, sealed := true, drawn := drawn }
  else
    let b := if a ≤ 4095 then a else 4095
    { c with share := 64 * (a + unfed), charge := 64 * b, unfed := 64 * (a - b + unfed), segments := 4095,
             sealed := false, drawn := drawn }

/-- A grant of `n` packets (06 R116): budget, all twelve segments connected, and the feed runs. -/
def Crib.grant (c : Crib) (n : Nat) : Crib :=
  Crib.feed { c with share := c.share + 64 * n, unfed := c.unfed + 64 * n, segments := 4095, sealed := false }

/-- Refund of `l` units from the device reserve (24 R399). -/
def Crib.giveUnits (c : Crib) (l : Nat) : Crib :=
  let c : Crib := { c with
    charge := c.charge + l
    drawn := c.drawn - l
    segments := if l = 0 then c.segments else 4095 }
  if c.capacity < c.charge then { c with unfed := c.unfed + (c.charge - c.capacity), charge := c.capacity } else c

/-- Forget the draws under a colour: the number is free for another activation (24 R399). -/
def Crib.forget (c : Crib) (colour : Nat) : Crib := { c with byColour := c.byColour.filter fun e => !(e.1 == colour) }

/-- Refund of the draws under a colour from the device reserve (24 R399). -/
def Crib.refund (c : Crib) (colour : Nat) : Crib := (c.giveUnits (c.under colour)).forget colour

/-! ## Tasks and their rectangles (01 R15, 15 R308) -/

/-- The bound nodes of a task as node numbers. -/
def boundNodes (t : Task) : List Nat := t.img.bound.map fun b => nodeAt (t.x + b.x) (t.y + b.y)

/-- Every position of a rectangle, in ascending y and then x. -/
def rectPositions (x y w h : Nat) : List (Nat × Nat) :=
  (List.range h).flatMap fun j => (List.range w).map fun i => (x + i, y + j)

/-- Every node of a task's rectangle. -/
def rectNodes (t : Task) : List Nat :=
  ((rectPositions t.x t.y t.img.width t.img.height).filter fun p => isNodePos p.1 p.2).map fun p => nodeAt p.1 p.2

/-- The number m of a node within its task's rectangle (15 R308). -/
def nodeM (t : Task) (n : Nat) : Nat := (nodeY n - t.y) * (t.img.width / 2) + (nodeX n - t.x) / 2

/-- The node at place m of a task's rectangle. -/
def nodeOfM (t : Task) (m : Nat) : Nat :=
  let w := if t.img.width / 2 = 0 then 1 else t.img.width / 2
  nodeAt (t.x + 2 * (m % w)) (t.y + m / w)

/-- The node reference of node number m of a task: its node where the task holds it, else 2048·TASKID + m, which names the
node's saved section (15 R308). -/
def homeRef (s : State) (tid : Nat) (t : Task) (m : Nat) : Nat :=
  let n := nodeOfM t m
  if (s.node n).task = some tid then n else 2048 * tid + m

/-- The reference under which a task's fault at node `n` is recorded: the node while the task holds it, else its section (22 R374). -/
def siteRef (s : State) (tid n : Nat) : Nat :=
  if (s.node n).task = some tid then n else match s.task tid with
    | some t => 2048 * tid + nodeM t n
    | none => n

/-- Whether a dusk token has taken nodes of a task, whose tokens go into the park buffers there (15 R306). -/
def Task.sweeping (t : Task) : Bool := t.dusk.any fun d => 0 < d.pos

/-- The nodes whose park buffers hold a task's tokens: those of its rectangle while a dusk token crosses it (15 R306). -/
def parkNodes (t : Task) : List Nat := if t.sweeping then rectNodes t else []

/-- The task that a node reference belongs to. -/
def refTask (s : State) (r : Nat) : Option Nat := if r < 2048 then (s.node r).task else some (r / 2048)

/-- The number m of the node that a reference of a task names. -/
def refM (t : Task) (r : Nat) : Nat := if r < 2048 then nodeM t r else r % 2048

/-- The node or saved node that a reference names. -/
def refNode (s : State) (r : Nat) : Node :=
  if r < 2048 then s.node r
  else match s.task (r / 2048) with
    | some t => Sparse.get Node.reset t.savedNodes (r % 2048)
    | none => Node.reset

/-- Change the node or saved node that a reference names. -/
def onRef (r : Nat) (f : Node → Node) : Prog :=
  if r < 2048 then .upd (.node r f)
  else .upd (.task (r / 2048) fun o => o.map fun t => { t with savedNodes := t.savedNodes.map fun e =>
    if e.1 = r % 2048 then (e.1, f e.2) else e })

/-- The number m of a bound node by its place in the image. -/
def boundM (t : Task) (b : Bound) : Nat := b.y * (t.img.width / 2) + b.x / 2

/-- The record of a bound node of a task: live on the mesh, or saved. -/
def nodeRec (s : State) (tid : Nat) (t : Task) (b : Bound) : Node :=
  let n := nodeAt (t.x + b.x) (t.y + b.y)
  if (s.node n).task = some tid then s.node n else Sparse.get Node.reset t.savedNodes (boundM t b)

/-- The task whose rectangle holds a position, among admitted tasks. -/
def taskAt (s : State) (x y : Nat) : Option Nat :=
  s.tasks.findSome? fun e => match e.2 with
    | some t => if (t.st = .running || t.st = .loading) && t.x ≤ x && x < t.x + t.img.width && t.y ≤ y && y < t.y + t.img.height
                then some e.1 else none
    | none => none

/-! ## Messages, records, logs (06 R122–R126; 21 R348–R353; 22 R374, R375; 23 R381) -/

/-- The 32 bytes of a message's header (21 R348). -/
def msgHeader (opc kind status : Nat) (seq ref : Word) (len : Nat) : List Byte :=
  bytesOf [BitVec.ofNat 64 (1 + opc % 2 ^ 16 * 2 ^ 16 + kind % 2 ^ 8 * 2 ^ 32 + status % 2 ^ 8 * 2 ^ 40), seq, ref, BitVec.ofNat 64 (len % 2 ^ 32)]

/-- A message as it stands on the wire (21 R348). -/
def Msg.bytes (m : Msg) : List Byte := msgHeader m.opc m.kind m.status m.seq m.ref m.body.length ++ m.body

/-- Send an alert (21 R353). -/
def alert (opc : Nat) (body : List Word) : Prog :=
  .upd (.hub fun h => { h with
    devSeq := h.devSeq + 1
    outbox := h.outbox ++ [⟨opc, 2, 0, h.devSeq + 1, 0, bytesOf body⟩] })

/-- Append an entry to a partition's message ring of 4096 entries (14 R290, 23 R381). -/
def pushMsg (p : Nat) (e : List Word) : Prog :=
  .upd (.part p fun x => if x.msgs.length < 4096 then { x with msgs := x.msgs ++ [e] }
    else { x with msgs := x.msgs.drop 1 ++ [e], msgDrop := x.msgDrop + 1 })

/-- A device entry of the message ring (23 R381). -/
def deviceEntry (p tid code : Nat) (value : Word) : Prog :=
  .ask fun s => pushMsg p [BitVec.ofNat 64 (tid * 2 ^ 32 + code * 2 ^ 16 + 1), value, s.tbase, 0]

/-- Write a Farrier record (22 R374, R375). -/
def farrierRecord (r : Report) (action : Nat) : Prog :=
  .ask fun s =>
    let num := (s.part r.part).faultNum + 1
    let w0 := (r.task.getD 0) * 2 ^ 32 + r.part % 64 * 2 ^ 26 + action % 4 * 2 ^ 24 + r.f.place % 256 * 2 ^ 16 + r.f.code % 2 ^ 16
    let rec8 : List Word := [BitVec.ofNat 64 w0, r.f.pc.setWidth 64, BitVec.ofNat 64 (r.node * 2 ^ 20 + r.f.tag.toNat), r.f.addr,
      r.f.info, r.time, BitVec.ofNat 64 (r.drawn % 2 ^ 56), BitVec.ofNat 64 num]
    .seq (.upd (.part r.part fun x =>
        let x := { x with faultNum := x.faultNum + 1 }
        if x.faults.length < 256 then { x with faults := x.faults ++ [rec8] }
        else { x with faults := x.faults.drop 1 ++ [rec8], faultDrop := x.faultDrop + 1 }))
      (.upd (.hub fun h => { h with last := (h.last ++ [rec8]).drop (h.last.length + 1 - 16) }))

/-- The 32-byte body of a meter record (06 R122). -/
def meterBody (fin start allot need drawn tid part outcome g residue : Nat) : List Byte :=
  toBytes 32 (fin % 2 ^ 40 * 2 ^ 216 + start % 2 ^ 40 * 2 ^ 176 + allot % 2 ^ 48 * 2 ^ 128 + need % 2 ^ 10 * 2 ^ 118 +
    drawn % 2 ^ 54 * 2 ^ 64 + tid % 2 ^ 32 * 2 ^ 32 + part % 64 * 2 ^ 26 + outcome % 256 * 2 ^ 18 + g % 2 * 2 ^ 17 +
    residue % 2 ^ 17)

/-- Append a record to a partition's usage log, chained by SHA-256 (06 R124); the chain head after every 256th one is to be signed (06 R126). -/
def appendLog (p : Nat) (body : List Byte) : Prog :=
  .upd (.part p fun x =>
    let r := body ++ x.prev
    { x with
      log := x.log ++ [r]
      prev := Sha.sha256 r
      nrec := x.nrec + 1
      toSign := x.toSign ++ if (x.nrec + 1) % 256 = 0 then [(x.nrec + 1, Sha.sha256 r)] else [] })

/-- The tasks of a partition, admitted or swept. -/
def partTasks (s : State) (p : Nat) : List Nat :=
  s.tasks.filterMap fun e => match e.2 with
    | some t => if t.part = p && !(t.st = .ending) then some e.1 else none
    | none => none

/-- The tasks of a partition whose meter record is still to come (26 R420). -/
def closingTasks (s : State) (p : Nat) : List Nat :=
  s.tasks.filterMap fun e => match e.2 with
    | some t => if t.part = p && t.closing.isSome then some e.1 else none
    | none => none

/-- The entries of a partition's log that neither records nor admitted and swept tasks take (06 R125). -/
def logFree (s : State) (p : Nat) : Nat := (s.part p).logCap - (s.part p).log.length - (partTasks s p).length - (closingTasks s p).length

/-- Whether the two entries for the next change of period are there (06 R125). -/
def periodWhole (s : State) (p : Nat) : Bool := 2 ≤ logFree s p

/-- Whether the log holds a free entry beyond its reservation (06 R125). While the period reservation is not whole, free entries belong to it first
(DESIGN CHOICE, log 67): a rejection and a CANCEL then find none. -/
def logRoom (s : State) (p : Nat) : Bool := 3 ≤ logFree s p

/-- Append a period record (06 R122): TASKID the period, ALLOT the counter, DRAWN the timebase in microseconds. A counter of 2^48 or more shows
its low 48 bits in ALLOT (DESIGN CHOICE, log 67). -/
def periodRecord (p : Nat) (period : Lane) (quota outcome : Nat) : Prog :=
  .ask fun s => appendLog p (meterBody 0 0 quota 0 (s.tbase.toNat / 1000) period.toNat 0 outcome 0 0)

/-- Open a period (06 R121): a close record for the old one, then an open record that sets the counter. -/
def openPeriod (p : Nat) (period : Lane) (quota : Nat) : Prog :=
  .ask fun s =>
    .all [ periodRecord p (s.part p).period (s.part p).quota 0xF1,
           .upd (.part p fun x => { x with
             period := period
             quota := quota
             opened := s.tbase }),
           periodRecord p period quota 0xF0 ]

/-- Whether a stamp of the current period would reach 2^40 microseconds. -/
def periodDue (s : State) (p : Nat) : Bool := (s.part p).en && 2 ^ 40 ≤ (s.tbase.toNat - (s.part p).opened.toNat) / 1000

/-- The hub opens a period by itself, the counter carried forward (06 R121). -/
def autoOpen (p : Nat) : Prog := .ask fun s => .seq (.upd .fresh) (openPeriod p (Config.freePeriod s.ctr) (s.part p).quota)

/-- Before a stamp that would reach 2^40 microseconds a new period is opened, where the reservation is whole (06 R121, R125). -/
def beforeStamp (p : Nat) : Prog := .ask fun s => Prog.when (periodDue s p && periodWhole s p) (autoOpen p)

/-- Microseconds from a period's open to a time, held at 2^40 − 1 (06 R122, R125); 0 for a time before the open. -/
def stamp (opened t : Word) : Nat :=
  let d := (t.toNat - opened.toNat) / 1000
  if d < 2 ^ 40 then d else 2 ^ 40 - 1

/-- The NEED field of an estimate in packets, rounded up to a representable value (06 R123). -/
def needCode (v : Nat) : Nat :=
  if v < 32 then v
  else match (List.range 31).find? (fun k => ceilDiv v (2 ^ k) ≤ 63) with
    | some k => (k + 1) * 32 + (ceilDiv v (2 ^ k) - 32)
    | none => 0x3FF

/-- Write STATUS and TASKID into a task record at its VA, where its page is mapped and writable (01 R34). -/
def writeStatus (asid va status tid : Nat) : Prog :=
  .seq (groomNow asid (va + 48)) <| .ask fun s => match walk s asid (va + 48) with
    | .entry w => if entryWr w then devWrite (entryPa w (va + 48)) (toBytes 8 (status * 2 ^ 32 + tid % 2 ^ 32)) else .skip
    | .fault => .skip

/-- Write the final STATUS to the DONE word and advance its version by one (01 R34): the page must be mapped, writable and versioned. -/
def writeDone (asid va status : Nat) : Prog :=
  .seq (groomNow asid va) <| .ask fun s => if va = 0 then .skip else match walk s asid va with
    | .entry w =>
      if entryWr w && entryClass w = 2 then
        let pa := entryPa w va / 8 * 8
        .seq (devWrite pa (toBytes 8 status)) (verAdvance pa (BitVec.ofNat 64 status) 1 none)
      else .skip
    | .fault => .skip

/-! ## Coverage (04 R82, R86–R89) -/

/-- Arena `id` of an ASID. -/
def State.arena (s : State) (asid id : Nat) : Option Arena :=
  match s.hub.arenas.find? (fun a => a.1 == (asid, id)) with
  | some a => if a.2.live then some a.2 else none
  | none => none

/-- Change an arena of an ASID. -/
def onArena (asid id : Nat) (f : Arena → Arena) : Prog :=
  .upd (.hub fun h => { h with arenas := h.arenas.map fun a => if a.1 = (asid, id) then (a.1, f a.2) else a })

/-- The granules that a span of an arena meets (04 R82): first granule and count; an empty span meets none. -/
def granules (base len : Nat) : Nat × Nat := if len = 0 then (0, 0) else (base / 4096, (base + len - 1) / 4096 - base / 4096 + 1)

/-- Add one to the count of each granule of a run. -/
def Arena.inc (a : Arena) (first count : Nat) : Arena :=
  { a with count := (List.range count).foldl (fun m k => Sparse.upd 0 m (first + k) (· + 1)) a.count }

/-- Take one from the count of each granule of a run; a granule that falls to zero is pending free (04 R87), lowered by `tid`. -/
def Arena.dec (a : Arena) (tid first count : Nat) : Arena :=
  (List.range count).foldl (fun a k =>
    let g := first + k
    let c := Sparse.get 0 a.count g - 1
    let ws := ((a.pending.find? (fun p => p.1 == g)).map (fun p => p.2)).getD []
    { a with count := Sparse.put 0 a.count g c,
             pending := (g, distinct (tid :: ws)) :: a.pending.filter fun p => !(p.1 == g) }) a

/-- Apply a coverage change of a task when its block commits (04 R87), and note it for an abort. -/
def applyCover (asid tid : Nat) (c : Cover) : Prog :=
  .seq (match c with
    | .mk a f n => onArena asid a fun x => x.inc f n
    | .inc a f n => onArena asid a fun x => x.inc f n
    | .dec a f n => onArena asid a fun x => x.dec tid f n)
   (.upd (.task tid fun o => o.map fun t => { t with coverUndo := c :: t.coverUndo }))

/-- The span of a rein as a coverage change. -/
def reinSpan (r : Quad) : Nat × Nat × Nat :=
  let (f, n) := granules (field r 40 40) (field r 0 40)
  (field r 118 10, f, n)

/-- Zero the bytes of a granule at its home slices. -/
def zeroGranule (asid : Nat) (base g : Nat) : Prog :=
  .ask fun s => match walk s asid (base + g * 4096) with
    | .entry w => devWrite (entryPa w (base + g * 4096)) (List.replicate 4096 0)
    | .fault => .skip

/-- Undo one coverage change (04 R89): a granule that the task took is zeroed and returned to the pool. -/
def undoCover (asid tid : Nat) (c : Cover) : Prog :=
  match c with
  | .mk a f n => .ask fun s => match s.arena asid a with
    | none => .skip
    | some x => .seq (Prog.each (List.range n) fun k => zeroGranule asid x.base (f + k))
        (onArena asid a fun x =>
          { x with count := (List.range n).foldl (fun m k => Sparse.upd 0 m (f + k) (· - 1)) x.count,
                   taken := x.taken.filter fun g => !(f ≤ g && g < f + n),
                   pending := x.pending.filter fun p => !(f ≤ p.1 && p.1 < f + n) })
  | .inc a f n => onArena asid a fun x => x.dec tid f n
  | .dec a f n => onArena asid a fun x => x.inc f n

/-- Forget a task that has ended among those that lowered counts (04 R88): a granule that is still spanned stays allocated, one that is
not stays pending free. -/
def Arena.release (tid : Nat) (a : Arena) : Arena :=
  { a with pending := (a.pending.map fun p => (p.1, p.2.filter fun t => !(t == tid))).filter fun p =>
      !(p.2 = [] && 0 < Sparse.get 0 a.count p.1) }

/-- Release a task's pending frees to the IRE in every arena of its ASID (06 R118 step 2). -/
def releasePending (asid tid : Nat) : Prog :=
  .upd (.hub fun h => { h with arenas := h.arenas.map fun a => if a.1.1 = asid then (a.1, a.2.release tid) else a })

/-- Drop a rein as by REINDROP, for the task that holds it. -/
def dropRein (asid tid : Nat) (r : Quad) : Prog :=
  if field r 118 10 = 0 then .skip else
  let (a, f, n) := reinSpan r
  onArena asid a fun x => x.dec tid f n

/-! ## Cards (14 R270–R286) -/

/-- Whether a card is final (14 R271). -/
def CardSt.final : CardSt → Bool
  | .finished | .failed | .cancelled => true
  | _ => false

/-- Change card `k` of the list. -/
def onCard (k : Nat) (f : Card → Card) : Prog := .upd (.cards fun l => l.modify k f)

/-- The cards that a task has issued and that are not final. -/
def openCards (s : State) (tid : Nat) : List Card := s.cards.filter fun c => c.task == tid && !c.st.final

/-! ## Ending a task (06 R118, R119; 22 R371) -/

/-- What the bound nodes of a task have left: returned packets, residue units, drawn units (06 R118 step 3). -/
def account (s : State) (tid : Nat) (t : Task) : Nat × Nat × Nat :=
  let ns := t.img.bound.map fun b => (nodeRec s tid t b).crib
  (total (ns.map fun c => c.remaining / 64), total (ns.map fun c => c.remaining % 64), total (ns.map fun c => c.drawn))

/-- Undo a task's memory (03 R75): its provisional lines are invalidated, its held lines get their old contents back, at a mirror partner too. -/
def undoMemory (tid : Nat) (t : Task) : Prog :=
  .ask fun s =>
  let copies := s.hub.mirrored.filter fun x => t.journal.any (fun j => j.line == x.1) || (s.l2Line x.1).any fun l => l.owner == some t.owner
  .all [ .ask fun s => Prog.each (s.l2.filterMap fun e => match e.2 with
           | some l => if l.owner = some t.owner then some e.1 else none
           | none => none) fun line => .upd (.l2 line none),
         Prog.each t.journal fun j => .seq (memWrite (j.line * 128) j.old)
           (.upd (.hub fun h => { h with memUe := h.memUe.filter fun c => !(c / 2 == j.line) })),
         Prog.each t.deadUndo fun c => .upd (.poison c true),
         Prog.each copies fun x => sendCopy x.1 x.2.2,
         .upd (.held fun h => h.filter fun x => !(x.owner == t.owner)),
         Prog.each t.verUndo fun u => .ask fun s => .upd (.ver u.1 ((s.verWord (8 * u.1)).undo tid u.2)),
         .upd (.task tid fun o => o.map fun t => { t with journal := [], verUndo := [], deadUndo := [] }) ]

/-- The account of a task that ends with `outcome` (06 R118 step 3). -/
def closingOf (s : State) (tid : Nat) (t : Task) (outcome : Nat) : Closing :=
  let (ret, res, drawn) := account s tid t
  ⟨outcome, ret, res, drawn, if outcome = 0x81 then needCode (total (t.refused.map fun e => ceilDiv (e.draw - e.left) 64)) else 0, s.tbase⟩

/-- Append a task's meter record, credit its returned packets, write STATUS and DONE (06 R118 steps 3 to 5). -/
def settleWith (tid : Nat) (t : Task) (c : Closing) : Prog :=
  .all [ beforeStamp t.part,
         .upd (.part t.part fun x => { x with quota := (x.quota + c.ret) % 2 ^ 64 }),
         .ask fun s =>
           let o := (s.part t.part).opened
           appendLog t.part (meterBody (stamp o c.fin) (if t.admitted.toNat < o.toNat then 0 else stamp o t.admitted) t.allot c.need c.drawn tid
             t.part c.outcome (if t.granted then 1 else 0) c.res),
         writeStatus t.recAsid t.recVa c.outcome tid,
         writeDone t.recAsid ((t.trec.getD 7 0).toNat) c.outcome ]

/-- Account for a task and settle it at once. -/
def settle (tid : Nat) (outcome : Nat) : Prog :=
  .ask fun s => match s.task tid with
    | none => .skip
    | some t => settleWith tid t (closingOf s tid t outcome)

/-- Settle a task whose account was held back for a retirement (26 R420 step 6). -/
def settleClosing (tid : Nat) : Prog :=
  .ask fun s => match s.task tid with
    | none => .skip
    | some t => match t.closing with
      | none => .skip
      | some c => .seq (settleWith tid t c) (.upd (.task tid fun o => o.map fun t => { t with closing := none }))

/-- Settle a task that has been undone: where it is killed for a line whose page is to be retired, its account waits for the retirement (26 R420). -/
def settleAbort (tid : Nat) (outcome : Nat) : Prog :=
  .ask fun s =>
    if s.hub.retires.any fun r => r.tid == some tid then .upd (.task tid fun o => o.map fun t => { t with closing := some (closingOf s tid t outcome) })
    else settle tid outcome

/-- Whether a token of an unmap has still to pass. -/
def Unmap.waits (s : State) (u : Unmap) : Bool := s.relatch.any (fun r => r.unmap == u.id) || s.drains.any (fun d => d.unmap == u.id)

/-- An unmap is complete when its tokens have passed (03 R70); the frame that has left with it is zeroed, unless it is assigned to a page still
(03 R71). -/
def closeUnmaps : Prog :=
  .ask fun s => .seq (.upd (.unmaps fun l => l.filter (Unmap.waits s)))
    (Prog.each ((s.unmaps.filter fun u => !u.waits s).filterMap fun u => u.frame) returnFrame)

/-- A node when its task has ended: what the task held or had under way is gone; registers, tiles, crib and control registers keep their values
until the next load (07 R147, 12 R229, 15 R303). -/
def Node.vacate (nd : Node) : Node :=
  { Node.reset with
    lastCtx := nd.lastCtx
    fs := nd.fs
    park := nd.park
    s := nd.s
    v := nd.v
    p := nd.p
    tiles := nd.tiles
    pins := nd.pins
    fpstat := nd.fpstat
    jflags := nd.jflags
    rmode := nd.rmode
    jord := nd.jord
    rngkey := nd.rngkey
    crib := nd.crib
    cards := nd.cards }

/-- Free the nodes that a task's rectangle occupied, and everything of the task in flight. Its page reports stay with the Farrier (22 R373). -/
def freeNodes (tid : Nat) : Prog :=
  .ask fun s =>
    .all [ Prog.each ((s.nodes.filter fun e => e.2.task == some tid).map fun e => e.1) fun n => .upd (.node n Node.vacate),
           .upd (.flits fun l => l.filter fun f => !(f.task == tid)),
           .upd (.results fun l => l.filter fun r => !(r.dst.task == tid)),
           .upd (.relatch fun l => l.filter fun r => !(r.task == tid)),
           .upd (.drains fun l => l.filter fun r => !(r.task == tid)),
           closeUnmaps,
           .upd (.hub fun h => { h with
             cycle := h.cycle.filter fun c => !(c.2.1.contains tid) }) ]

/-- Device entry 0x0003: a card that fails for want of charge (23 R381, R386). -/
def shortEntry (part : Nat) (c : Card) : Prog := deviceEntry part c.task 3 (BitVec.ofNat 64 (c.seq % 2 ^ 16 + c.node % 2 ^ 11 * 2 ^ 16))

/-! ## Taking a fault (22 R359–R364) -/

/-- Return tokens to a node's matching store without checks: they were in it before they were consumed (15 R305). -/
def entryIndex (q : Nat) (t : Tag) : Nat := (q + tagIter t + tagColour t % 256) % 256

/-- Put a token into slot `slot` (1 left, 2 right, 3 predicate) of an entry. -/
def MEntry.put (e : MEntry) (slot : Nat) (t : Tok) : MEntry :=
  if slot = 1 then { e with left := some t } else if slot = 2 then { e with right := some t } else { e with pred := some t }

/-- The token in a slot of an entry. -/
def MEntry.tok (e : MEntry) (slot : Nat) : Option Tok := if slot = 1 then e.left else if slot = 2 then e.right else e.pred

/-- Matching entry `e` of a node. -/
def Node.entry (nd : Node) (e : Nat) : Option MEntry := (nd.entries.find? (fun x => x.1 == e)).map (fun x => x.2)

/-- Set or clear matching entry `e`. -/
def Node.setEntry (nd : Node) (e : Nat) (m : Option MEntry) : Node :=
  let rest := nd.entries.filter fun x => !(x.1 == e)
  match m with
  | some m => { nd with entries := insertBy (fun x => x.1) (e, m) rest }
  | none => { nd with entries := rest }

/-- Bytes that a spilled token takes (22 R368). -/
def tokBytes (t : Tok) : Nat :=
  match t.data with
  | .scalar _ => 32
  | .beats bs _ => if bs.length ≤ 1 then 80 else 16 + 64 * bs.length

/-- Bytes that parked tokens take. -/
def Node.parkBytes (nd : Node) : Nat := total (nd.park.map fun x => tokBytes x.tok)

/-- Bytes of the lower 60 KiB of the spill area in use: spilled tokens, and parked tokens that find no room in the top 4 KiB (15
R306, 22 R368). -/
def Node.spillBytes (nd : Node) : Nat := total (nd.spill.map fun x => tokBytes x.tok) + (nd.parkBytes - 4096)

/-- Place a token in its entry, or in the spill area where the entry is another's (01 R24). -/
def Node.place (nd : Node) (q slot : Nat) (t : Tok) (edge : Option Nat) : Node :=
  let e := entryIndex q t.tag
  match nd.entry e with
  | none => nd.setEntry e (some (MEntry.put ⟨q, t.tag, none, none, none⟩ slot t))
  | some m =>
    if m.q = q && m.tag = t.tag && (m.tok slot).isNone then nd.setEntry e (some (m.put slot t))
    else { nd with spill := nd.spill ++ [⟨q, slot, t, edge⟩] }

/-- The spilled tokens that move into entry `e` when it is free (01 R24, R26): the oldest whose entry it is, and with it every one of the same
instruction and tag. -/
def Node.spilledFor (nd : Node) (e : Nat) : List Spilled :=
  match nd.spill.find? (fun x => entryIndex x.q x.tok.tag == e) with
  | none => []
  | some o => nd.spill.filter fun x => x.q == o.q && x.tok.tag == o.tok.tag

/-- The spilled tokens of the same instruction and tag as `o` move into their entry (01 R26). -/
def Node.moveIn (nd : Node) (o : Spilled) : Node :=
  (nd.spill.filter fun x => x.q == o.q && x.tok.tag == o.tok.tag).foldl (fun nd x => nd.place x.q x.slot x.tok x.edge)
    { nd with spill := nd.spill.filter fun x => !(x.q == o.q && x.tok.tag == o.tok.tag) }

/-- When entry `e` is free, its spilled tokens move into it (01 R24, R26); a token whose parity has failed is not used (24 R394): it is found where
it is read (`refillJob`). -/
def Node.unspill (nd : Node) (e : Nat) : Node :=
  match nd.entry e with
  | some _ => nd
  | none => match nd.spilledFor e with
    | [] => nd
    | o :: rest => if (o :: rest).any fun x => !(x.tok.par = .good) then nd else nd.moveIn o

/-- Give back what discarded units consumed, and drop what they made for their own block (01 R19, 15 R305). -/
def Node.giveBack (nd : Node) (us : List CUnit) : Node :=
  let mine := fun (t : Tok) => match t.inner with
    | some u => us.any fun x => x.tag == u
    | none => false
  let nd := { nd with
    entries := nd.entries.filterMap (fun e =>
      let f := fun (o : Option Tok) => match o with
        | some t => if mine t then none else some t
        | none => none
      let m : MEntry := { e.2 with left := f e.2.left, right := f e.2.right, pred := f e.2.pred }
      if m.left.isNone && m.right.isNone && m.pred.isNone then none else some (e.1, m)),
    spill := nd.spill.filter fun x => !mine x.tok }
  let back := us.flatMap fun u => u.fired.flatMap fun f => (f.ops.filter fun o => !mine o.2).map fun o => (f.q, o.1, o.2)
  let nd := back.foldl (fun nd b => nd.place b.1 b.2.1 b.2.2 none) nd
  (List.range 256).foldl (fun nd e => nd.unspill e) nd

/-- Free a colour, and with it the tag spaces that it owned (08 R165): one with slots that are still taken goes when they have been freed. `k` bounds
the nesting. -/
def Task.dropColour : Nat → Nat → Task → Task
  | 0, _, t => t
  | k + 1, c, t =>
    let owned := fun (f : Frame) => f.owner.any fun o => o.2.2.2 == c
    let empty := (t.frames.filter fun f => owned f.2 && f.2.live == []).map fun f => f.1
    empty.foldl (fun t x => Task.dropColour k x t)
      { t with frames := (t.frames.filter fun f => !(f.1 == c)).map fun f => if owned f.2 then (f.1, { f.2 with owner := none }) else f }

/-- Free a colour of a task. -/
def Task.release (c : Nat) (t : Task) : Task := Task.dropColour (t.frames.length + 1) c t

/-- A frame with the slot of iteration `i` returned (01 R27; 08 R163, R165). -/
def Frame.giveSlot (i : Nat) (f : Frame) : Frame :=
  { f with
    live := f.live.filter fun j => !(j == i)
    given := f.given.filter fun j => !(j == i)
    freeing := f.freeing.filter fun j => !(j == i)
    free := f.free + 1 }

/-- Give back what discarded units had claimed of the task (08 R154, R163; 13 R266). -/
def releaseClaims (tid : Nat) (asid : Nat) (us : List CUnit) : Prog :=
  Prog.each (us.flatMap fun u => u.claims) fun c => match c with
    | .colour c => .upd (.task tid fun o => o.map (Task.release c))
    | .slot c i => .upd (.task tid fun o => o.map fun t => { t with frames := t.frames.map fun f =>
        if f.1 = c then (f.1, f.2.giveSlot i) else f })
    | .freeTag c i => .upd (.task tid fun o => o.map fun t => { t with frames := t.frames.map fun f =>
        if f.1 = c then (f.1, { f.2 with freeing := f.2.freeing.filter fun j => !(j == i) }) else f })
    | .run a f n => onArena asid a fun x => { x with taken := x.taken.filter fun g => !(f ≤ g && g < f + n) }

/-- Whether a mapped block is loop-resident (01 R20). -/
def Mapped.loop (m : Mapped) : Bool := field (m.blk.hdr.getD 0 0) 120 8 = 0xB2
/-- The current tag of the context that runs a mapped block. -/
def ctagOf (nd : Node) (m : Mapped) : Tag := (nd.ctx m.blk.ctx).ctag
/-- The commit unit of a firing under tag `t` (01 R18, R20). -/
def unitTag (nd : Node) (m : Mapped) (t : Tag) : Tag := if m.loop then t else ctagOf nd m

/-- At the end of a block pass the draws under colours that have been re-issued are refunded (24 R399). -/
def refundPass (n : Nat) : Prog :=
  .ask fun s => match s.taskOf n with
    | none => .skip
    | some t => Prog.each (t.frames.filter fun f => 0 < f.2.nre) fun f =>
        .upd (.node n fun nd => { nd with crib := nd.crib.refund f.1 })

/-- Discard every uncommitted unit of the mapped block and unmap it (01 R19, 22 R362). -/
def discardBlock (n : Nat) : Prog :=
  .seq (refundPass n) <|
  .ask fun s =>
    let nd := s.node n
    match nd.cur with
    | none => .upd (.node n fun nd => { nd with fetched := none })
    | some m =>
      .seq (match nd.task, s.taskOf n with
        | some tid, some t => releaseClaims tid t.asid m.units
        | _, _ => .skip)
      (.upd (.node n fun nd => { (nd.giveBack m.units) with cur := none, fetched := none, loads := [], held := [] }))

/-- A fault as the Farrier gets it: node, task, partition, time and the node's DRAWN at detection (22 R374). -/
def reportOf (s : State) (n : Nat) (f : FaultRec) : Report :=
  let tid := refTask s n
  let t := tid.bind s.task
  ⟨if n < 2048 then n else ((t.map fun t => nodeOfM t (n % 2048)).getD 0), tid, (t.map fun t => t.part).getD 0, f, s.tbase, (refNode s n).crib.drawn⟩

/-- Whether a task can still be acted on: it is not ending, and no refused draw has decided its end (22 R371, R373). -/
def taskLive (s : State) (tid : Nat) : Bool :=
  match s.task tid with
  | some t => !(t.st = .ending) && t.doomed.isNone
  | none => false

/-- Report a fault to the Farrier (22 R361, R373): with `none` the report waits for FARRIER_ACTION; a fault whose outcome is already
decided has its record written at once, with ACTION 2 where the task is already ending (22 R373, 24 R400). -/
def report (n : Nat) (f : FaultRec) (action : Option Nat) : Prog :=
  .ask fun s =>
    let r := reportOf s n f
    match action with
    | none => .upd (.hub fun h => { h with reports := h.reports ++ [r] })
    | some a => farrierRecord r (match r.task with
      | some tid => if taskLive s tid then a else 2
      | none => 2)

/-- Record a fault in a node's fault-state registers, unless one is recorded already (07 R150, 22 R361). -/
def Node.record (nd : Node) (f : FaultRec) : Node :=
  if bit nd.fs.code 63 then nd else
  { nd with fs := { nd.fs with
      code := BitVec.ofNat 64 (2 ^ 63 + f.place % 256 * 2 ^ 16 + f.code % 2 ^ 16),
      pc := f.pc.setWidth 64, tag := f.tag.setWidth 64, addr := f.addr, info := f.info } }

/-- The fault that is recorded of those found in a block (22 R362): the lowest place, then the lowest tag; and the others. -/
def orderFaults (l : List FaultRec) : List FaultRec := sortBy (fun (f : FaultRec) => f.place * 2 ^ 20 + f.tag.toNat) l

/-- Record the block's fault, report every fault found in it, and discard the block (22 R361, R362). -/
def settleFaults (n : Nat) : Prog :=
  .ask fun s => match (s.node n).cur.map fun m => orderFaults m.faults with
    | some (f :: fs) => .all [ .upd (.node n fun nd => nd.record f), Prog.each (f :: fs) fun x => report n x none, discardBlock n ]
    | _ => .skip

/-- End the mapped block of a node without a commit: its faults are settled, what it holds is discarded. -/
def endBlock (n : Nat) : Prog :=
  .ask fun s => match (s.node n).cur with
    | some m => if m.faults = [] then discardBlock n else settleFaults n
    | none => discardBlock n

/-- Abort a task (06 R119, 22 R371): every node discards its block, which returns what it had claimed and refunds the draws of re-issues; its
cards stop, its effects are undone, its charge is accounted, its outcome logged. An abort by the Farrier clears FSCODE in every node of the task (22
R373). -/
def abortTask (tid outcome : Nat) : Prog :=
  .ask fun s => match s.task tid with
    | none => .skip
    | some t => if t.st = .ending then .skip else
      .all [ Prog.each ((openCards s tid).filter fun c => !(c.st = .queued)) (shortEntry t.part),
             .upd (.cards fun l => l.map fun c => if c.task = tid && !c.st.final then
               (if c.st = .queued then { c with st := .cancelled, finAt := some s.ctr } else { c with st := .failed, reason := 6, finAt := some s.ctr }) else c),
             .upd .fresh,
             Prog.each ((s.nodes.filter fun e => e.2.task == some tid).map fun e => e.1) endBlock,
             Prog.when (outcome = 0x82) (Prog.each ((s.nodes.filter fun e => e.2.task == some tid).map fun e => e.1) fun n =>
               .upd (.node n fun nd => { nd with fs := { nd.fs with code := 0 } })),
             undoMemory tid t,
             Prog.each t.coverUndo fun c => undoCover t.asid tid c,
             Prog.each t.received fun r => dropRein t.asid tid r,
             Prog.each (s.reins.filter fun r => r.1 == tid) fun r => dropRein t.asid tid r.2.2.1,
             .upd (.reins fun l => l.filter fun r => !(r.1 == tid)),
             releasePending t.asid tid,
             settleAbort tid outcome,
             Prog.each (parkNodes t) fun n => .upd (.node n fun nd => { nd with park := [] }),
             freeNodes tid,
             .upd (.mirror fun l => l.filter fun m => !(m.task == tid)),
             .upd (.task tid fun o => o.map fun t => { t with
               st := .ending
               doomed := none
               launches := []
               frames := []
               coverUndo := []
               savedNodes := []
               savedTiles := []
               parked := []
               dusk := t.dusk.filter fun d => d.incoming.isSome
               sends := [] }) ]

/-- Note a fault found in the mapped block: the block fires no further instruction but those under way (22 R362). -/
def Mapped.fail (f : FaultRec) (m : Mapped) : Mapped :=
  { m with
    faults := m.faults ++ [f]
    under := m.under.map fun u => (u.1, u.2.filter fun t => !(t == f.tag)) }

/-- TAKE A FAULT of the map or firing class (22 R359, R361). One found while a block is mapped stands in the block until its faults are settled
(22 R362): the lowest is recorded, the Farrier is told, the block is discarded with all its pending state. In a loop-resident block it belongs to the
unit of its tag, and other units that are complete still commit before that. A fault with no block mapped is recorded and reported at once. -/
def takeFault (n : Nat) (f : FaultRec) : Prog :=
  .ask fun s => match (s.node n).cur with
    | some _ => .upd (.node n fun nd => { nd with cur := nd.cur.map (Mapped.fail f) })
    | none => .all [ .upd (.node n fun nd => nd.record f), report n f none, discardBlock n ]

/-- The context that runs next (08 R153): the first ready one in ascending number after the one that committed last, wrapping. -/
def Node.nextCtx (nd : Node) : Option Nat :=
  ((List.range 8).map fun k => (nd.lastCtx + 1 + k) % 8).find? fun c => decide ((nd.ctx c).st = .ready) && (nd.ctx c).joins == []

/-- The node that a FRET names: the node itself, or the section of a swept task that was saved there with a fault recorded (22 R364). -/
def faultRef (s : State) (n : Nat) : Nat :=
  if bit (s.node n).fs.code 63 && (s.node n).task.isSome then n
  else (s.tasks.findSome? fun e => e.2.bind fun t =>
    (t.savedNodes.find? fun x => nodeOfM t x.1 == n && bit x.2.fs.code 63).map fun x => 2048 * e.1 + x.1).getD n

/-- RETURN FROM A FAULT (14 R290 FRET): clear FSCODE.V; on resume the context fetches again from FSPC, a saved one once its task is restored (22
R364: FSPEND stays until that fetch); on abort the task ends with STATUS 0x82 and every node of it has its FSCODE cleared (22 R373). -/
def farrierReturn (n action : Nat) : Prog :=
  .ask fun s =>
    let r := faultRef s n
    let clear := fun (nd : Node) => { nd with fs := { nd.fs with code := nd.fs.code &&& ~~~(1#64 <<< 63) } }
    if 2 ≤ action then .skip
    else if action = 1 then match refTask s r with
      | some tid => abortTask tid 0x82
      | none => onRef r clear
    else if !bit (refNode s r).fs.code 63 then .skip
    else .seq (Prog.when (r < 2048) (discardBlock r)) (onRef r fun nd =>
      let nd := { clear nd with fetched := none }
      match nd.nextCtx with
      | some c => { nd with ctxs := Sparse.upd Ctx.reset nd.ctxs c fun x => { x with pc := nd.fs.pc.setWidth 58 } }
      | none => nd)

/-- The refused draws of node number `m`: one sum for the node, with its remaining charge (22 R371, R372). -/
def refuse (l : List Refused) (m draw c : Nat) : List Refused :=
  let d := draw + total ((l.filter fun e => e.m == m).map fun e => e.draw)
  (l.filter fun e => !(e.m == m)) ++ [⟨m, d, c⟩]

/-- A node that is refused again adds the draw to the FSINFO of its own SHORTFALL (22 R371 step 2; DEDUCED, log 84). -/
def Node.addRefused (draw : Nat) (nd : Node) : Node :=
  if bit nd.fs.code 63 && field nd.fs.code 0 16 = 0x60 then
    { nd with fs := { nd.fs with info := BitVec.ofNat 64 (field nd.fs.info 32 32 * 2 ^ 32 + (field nd.fs.info 0 32 + draw) % 2 ^ 32) } }
  else nd

/-- A draw that the crib cannot cover (06 R113, 22 R371, R372): SHORTFALL is recorded, and the abort with OUTCOME 0x81 is on its way; until it takes
hold other activities may be refused as well. -/
def shortfall (n draw place : Nat) (pc : BitVec 58) (tag : Tag) : Prog :=
  .ask fun s =>
    let c := (refNode s n).crib.remaining
    let f : FaultRec := ⟨0x60, place, pc, tag, 0, BitVec.ofNat 64 (c % 2 ^ 32 * 2 ^ 32 + draw % 2 ^ 32)⟩
    .all [ onRef n fun nd => (nd.addRefused draw).record f,
           report n f (some 1),
           (match refTask s n with
            | some tid => .upd (.task tid fun o => o.map fun t => if t.st = .ending then t else { t with
                refused := refuse t.refused (refM t n) draw c
                doomed := some 0x81 })
            | none => .skip) ]

/-- Take a draw from the crib of a node, or of a swept task's node (14 R284), or end the task (06 R113); `k` goes on where it
was taken. -/
def drawOr (n draw place : Nat) (pc : BitVec 58) (tag : Tag) (k : Prog) : Prog :=
  .ask fun s =>
    if draw ≤ (refNode s n).crib.remaining then
      .seq (onRef n fun nd => { nd with crib := nd.crib.draw draw (tagColour tag) }) k
    else shortfall n draw place pc tag

/-- Give `u` units drawn under a colour back to the crib (24 R399). -/
def Crib.undraw (c : Crib) (u colour : Nat) : Crib :=
  let l := c.under colour - u
  { (c.giveUnits u).forget colour with byColour := if l = 0 then (c.forget colour).byColour else (colour, l) :: (c.forget colour).byColour }

/-- Take a draw for an item of a commit stream: of a colour that has been re-issued it is the reserve's (24 R399). -/
def drawFor (n draw : Nat) (by_ : Issued) (k : Prog) : Prog :=
  drawOr n draw by_.q by_.pc by_.tag (if by_.reserve then
    .seq (onRef n fun nd => { nd with crib := nd.crib.undraw draw (tagColour by_.tag) }) k else k)

/-- Kill a task for a silicon error (24 R393): STATUS 0x83. -/
def killTask (tid : Nat) : Prog := abortTask tid 0x83

/-- Mark a node bad until the next dawn (24 R395). -/
def markBad (n : Nat) : Prog := .upd (.hub fun h => { h with bad := if h.bad.contains n then h.bad else h.bad ++ [n] })

/-- A node without the tokens of a colour. -/
def Node.purge (c : Nat) (nd : Node) : Node :=
  let keep := fun (x : Spilled) => !(tagColour x.tok.tag == c)
  { nd with
    entries := nd.entries.filterMap (fun e => if tagColour e.2.tag = c then none else some e)
    spill := nd.spill.filter keep
    park := nd.park.filter keep
    wq := nd.wq.filter fun w => match w with
      | .out _ t _ => !(tagColour t.tag == c)
      | _ => true }

/-- Drop every token of a colour of a task (24 R398, 22 R367): on its nodes, in its saved sections and park buffers, and on its way. -/
def purgeColour (tid c : Nat) : Prog :=
  .ask fun s =>
    .all [ Prog.each (((s.task tid).map parkNodes).getD []) fun n => .upd (.node n fun nd => { nd with
             park := nd.park.filter fun x => !(tagColour x.tok.tag == c) }),
           Prog.each ((s.nodes.filter fun e => e.2.task == some tid).map fun e => e.1) fun n => .upd (.node n (Node.purge c)),
           .upd (.task tid fun o => o.map fun t => { t with
             savedNodes := t.savedNodes.map fun e => (e.1, e.2.purge c)
             parked := t.parked.filter fun x => !(tagColour x.2.tok.tag == c) }),
           .upd (.flits fun l => l.filter fun f => !(f.task == tid && tagColour f.tok.tag == c)) ]

/-- The frame of a colour of a task (08 R154); colour 0 has one only for its commit points. -/
def Task.frame (t : Task) (c : Nat) : Option Frame := (t.frames.find? (fun f => f.1 == c)).map (fun f => f.2)

/-- Whether the draws under a colour are the device reserve's: its frame has been re-issued (24 R399). -/
def Task.reissued (t : Task) (c : Nat) : Bool := (t.frame c).any fun f => 0 < f.nre

/-- Change the frame of a colour. -/
def Task.onFrame (t : Task) (c : Nat) (f : Frame → Frame) : Task :=
  { t with frames := t.frames.map fun x => if x.1 = c then (x.1, f x.2) else x }

/-- Whether a colour can be re-issued (24 R397). -/
def Task.reissuable (t : Task) (c : Nat) : Bool :=
  match t.frame c with
  | some f => f.kind = .spawn && !f.ended && !f.esc && f.nre < 2
  | none => false

/-- The lowest colour that is free: 1 to 4095 (01 R28 and 08 R154 say a free one; DESIGN CHOICE, log 85). -/
def Task.freeColour (t : Task) : Option Nat :=
  ((List.range 4095).map (· + 1)).find? fun c => !(t.frames.any fun f => f.1 == c)

/-- A colour that a task takes has drawn nothing yet (24 R399). -/
def forgetDraws (tid c : Nat) : Prog :=
  .ask fun s =>
    .seq (Prog.each ((s.nodes.filter fun e => e.2.task == some tid).map fun e => e.1) fun n =>
        .upd (.node n fun nd => { nd with crib := nd.crib.forget c }))
      (.upd (.task tid fun o => o.map fun t => { t with
        savedNodes := t.savedNodes.map fun e => (e.1, { e.2 with crib := e.2.crib.forget c }) }))

/-- Purge a colour and re-issue its activation (24 R398, R399): refund, fresh colour, its context at ENTRY. -/
def reissue (n tid c : Nat) (f : FaultRec) : Prog :=
  .ask fun s => match s.task tid with
    | none => .skip
    | some t => match t.frame c, t.freeColour with
      | some fr, some c2 =>
        let refs := t.img.bound.map fun b => homeRef s tid t (boundM t b)
        let own := homeRef s tid t fr.node
        let units := total (refs.map fun r => (refNode s r).crib.under c)
        .all [ report n { f with addr := BitVec.ofNat 64 units } (some 3),
               purgeColour tid c,
               (match (refNode s own).cur with
                | some m => if m.blk.ctx = fr.ctx then discardBlock own else .skip
                | none => .skip),
               Prog.each refs fun r => onRef r fun nd => { nd with crib := nd.crib.refund c },
               forgetDraws tid c2,
               .upd (.task tid fun o => o.map fun t =>
                 { (t.onFrame c fun x => { x with joinedAs := some c2 }) with
                   frames := (t.onFrame c fun x => { x with joinedAs := some c2 }).frames ++
                     [(c2, { fr with nre := fr.nre + 1, esc := false, points := [] })] }),
               onRef own fun nd => { nd with
                 fetched := nd.fetched.filter fun b => !(b.ctx == fr.ctx)
                 prefetched := nd.prefetched.filter fun b => !(b.ctx == fr.ctx)
                 ctxs := Sparse.upd Ctx.reset nd.ctxs fr.ctx fun _ => ⟨fr.entry, mkTag c2 0, .ready, fr.wide, []⟩ } ]
      | _, _ => .seq (report n f (some 1)) (killTask tid)

/-- Start the sweep of a task whose rectangle holds a bad node (24 R411). -/
def replaceTask (tid : Nat) : Prog :=
  .ask fun s => match s.task tid with
    | some t => if t.st = .running && t.dusk.isNone && (rectNodes t).any (fun n => s.hub.bad.contains n) then
        .upd (.task tid fun o => o.map fun t => { t with dusk := some ⟨0, none⟩ }) else .skip
    | none => .skip

/-- A silicon error in a token, operand or register of colour `c` at node `n` (24 R395): the marked node goes bad; the colour is
re-issued where it can be, else the task is killed; the task is re-placed. The report is the token's own task's (22 R374). -/
def tokenError (n marked tid c : Nat) (f : FaultRec) : Prog :=
  .ask fun s => match s.task tid with
    | none => .skip
    | some t =>
      let n := siteRef s tid n
      .all [ markBad marked,
             (if t.reissuable c then reissue n tid c f else .seq (report n f (some 1)) (killTask tid)),
             replaceTask tid ]

end Sys2Proof.Machine
end

