-- ==== Sys2Proof/Machine/Silicon.lean ====
section
/-! DEFINITION. Uncorrectable errors of the L2 and of memory (24 R405–R409; 26 R419–R421), and what the slice does with its lines:
evictions, fills, writes (03 R72–R75). -/

namespace Sys2Proof.Machine
open Sys2Proof.Bits

/-- The access that finds an error: the task it works for, its node, and the fault record it would leave (26 R420). -/
structure Who where
  tid : Option Nat
  node : Nat
  f : FaultRec
  deriving DecidableEq, Repr

/-- An access of no task: a scrub, an eviction, a write-back. -/
def Who.none : Who := ⟨.none, 0, ⟨0x73, 0x7C, 0, 0, 0, 0⟩⟩

/-- FSINFO of ECC_UE (24 R392). -/
def eccInfo (s : State) (structure_ line way : Nat) : Word :=
  BitVec.ofNat 64 (structure_ % 16 + homeSlice s line % 32 * 16 + way % 16 * 2 ^ 9 + paDie (line * 128) % 4 * 2 ^ 13)

/-- Write a Farrier record for a task at once (26 R420 step 2); NODE, TAG and PLACE are those of the firing where the access is the
task's own; ACTION 2 where the task's end is already decided (24 R400). -/
def recordFor (tid : Nat) (w : Who) (addr info : Word) : Prog :=
  .ask fun s =>
    let own := w.tid = some tid
    let f : FaultRec := if own then { w.f with
        code := 0x73
        addr := addr
        info := info } else ⟨0x73, 0x7C, 0, 0, addr, info⟩
    let n := if own then w.node else 0
    let part := ((s.task tid).map fun t => t.part).getD 0
    farrierRecord ⟨n, some tid, part, f, s.tbase, if own then (refNode s (siteRef s tid n)).crib.drawn
      else total ((s.task tid).map (fun t => (boundNodes t).map fun m => (s.node m).crib.drawn)).toList.flatten⟩ (if taskLive s tid then 1 else 2)

/-- Send an ERROR alert (21 R353): partition, cause, code, FSINFO, line address, and the VAs of pages retired. -/
def errorAlert (p cause code : Nat) (info pa : Word) (vas : List Word) : Prog :=
  .ask fun s => alert 0x0102 ([BitVec.ofNat 64 (p % 64 + cause * 2 ^ 8 + code * 2 ^ 16 + vas.length * 2 ^ 32), info, pa, s.tbase] ++ vas)

/-- Quarantine a way (24 R408). -/
def quarantineWay (die sl set way : Nat) : Prog :=
  .upd (.hub fun h => { h with quarantine := if h.quarantine.contains (die, sl, set, way) then h.quarantine
    else h.quarantine ++ [(die, sl, set, way)] })

/-! ## Retirement (24 R408) -/

/-- The number of frames of a die's spares that have been handed out. -/
def sparesUsed (s : State) (die : Nat) : Nat := ((s.hub.spares.find? fun e => e.1 == die).map fun e => e.2).getD 0

/-- The next spare frame of a die, as a frame number, if any is left. -/
def spareFrame (s : State) (die : Nat) : Option Nat :=
  if sparesUsed s die < 256 then some ((dieBase die + spareBase) / 2 ^ 16 + sparesUsed s die) else none

/-- A physical address moved from one frame to another. -/
def movePa (old new pa : Nat) : Nat := if pa / 2 ^ 16 = old then new * 2 ^ 16 + pa % 2 ^ 16 else pa
/-- A line moved from one frame to another. -/
def moveLine (old new line : Nat) : Nat := lineOf (movePa old new (line * 128))
/-- An element moved from one frame to another. -/
def Elem.move (old new : Nat) (e : Elem) : Elem := { e with pa := movePa old new e.pa }

/-- A store-like operation moved from one frame to another. -/
def StoreOp.move (old new : Nat) : StoreOp → StoreOp
  | .bytes es l => .bytes (es.map fun e => (e.1.move old new, e.2)) l
  | .rmw e f d => .rmw (e.move old new) f d
  | .stv e x dl d => .stv (e.move old new) x dl d
  | .reclaim e v => .reclaim (e.move old new) v
  | .scratch es => .scratch es

/-- A request to the hub moved from one frame to another. -/
def HubReq.move (old new : Nat) : HubReq → HubReq
  | .qpush q a va pa => .qpush q a va (movePa old new pa)
  | .qpop q va pa => .qpop q va (movePa old new pa)
  | .tlaunch a va pa => .tlaunch a va (movePa old new pa)
  | r => r

/-- A node whose requests and copies name the new frame. -/
def Node.moveFrame (old new : Nat) (nd : Node) : Node :=
  let leaf := fun (w : Word) => if field w 16 36 = old then setField w 16 36 new else w
  { nd with
    l1 := nd.l1.map fun l => { l with line := moveLine old new l.line }
    loads := nd.loads.map fun l => { l with
      es := l.es.map (Elem.move old new)
      wait := l.wait.map (moveLine old new)
      got := l.got.map fun g => (moveLine old new g.1, g.2) }
    wq := nd.wq.map fun w => match w with
      | .store op o sc b => .store (op.move old new) o sc b
      | w => w
    cur := nd.cur.map fun m => { m with
      latches := m.latches.map fun l => (l.1, leaf l.2)
      units := m.units.map fun u => { u with acts := u.acts.map fun a => match a.act with
        | .store l o sc op => { a with act := .store l o sc (op.move old new) }
        | .hub r d => { a with act := .hub (r.move old new) d }
        | _ => a } } }

/-- A write of some bytes of a line at its base die (03 R80). Nothing reads a line from memory while a request for it is outstanding (`portFree`), so
memory may take the bytes as the request is presented; the request holds its tag until its reply. A whole codeword takes fresh check bits. -/
def baseWrite (line off : Nat) (bs : List Byte) : Prog :=
  .all [ memWrite (line * 128 + off) bs, .upd (.hub fun h => { h with memUe := h.memUe.filter fun c =>
    !(line * 128 + off ≤ c * 64 && c * 64 + 64 ≤ line * 128 + off + bs.length) }), .ask fun s => .upd (.breqs fun l => l ++ [{
    die := paDie (line * 128)
    slice := homeSlice s line
    bdie := lineStack line
    line := line
    write := some (BitVec.ofNat 128 ((2 ^ bs.length - 1) * 2 ^ off))
    tag := none
    node := 0
    why := none
    also := [] }]) ]

/-- The requests at the port between a line's slice and its base die. -/
def portOf (s : State) (line : Nat) : List BReq :=
  s.breqs.filter fun b => b.die == paDie (line * 128) && b.slice == homeSlice s line && b.bdie == lineStack line

/-- Whether a read of a line is already outstanding. -/
def asked (s : State) (line : Nat) : Bool := s.breqs.any fun b => b.line == line && b.write.isNone

/-- Whether a request for a line that is made and answered within one step can be made now (03 R80): a tag is free with no request waiting for it,
and no request for the same line is outstanding. -/
def portFree (s : State) (line : Nat) : Bool :=
  !((portOf s line).any fun b => b.line == line) && decide ((portOf s line).length < 8)

/-- Whether the L2 holds a line or can have it filled now. -/
def canHave (s : State) (line : Nat) : Bool := (s.l2Line line).isSome || portFree s line

/-- Ask a base die for a line on behalf of a node (03 R80). -/
def askLine (n line : Nat) (why : Fill) : Prog :=
  .ask fun s => .upd (.breqs fun l => l ++ [{
    die := paDie (line * 128)
    slice := homeSlice s line
    bdie := lineStack line
    line := line
    write := none
    tag := none
    node := n
    why := some why
    also := [] }])

/-- A PREF finds its line asked for: it has the line too when it comes (13 R254). -/
def joinLine (n line : Nat) (why : Fill) : Prog :=
  .upd (.breqs fun l => match l.findIdx? fun b => b.line == line && b.write.isNone with
    | some k => l.modify k fun b => { b with also := b.also ++ [(n, why)] }
    | none => l)

/-- Evict a line with no check of its data: a provisional line becomes a held line, a dirty line is written back (03 R74). -/
def evictPlain (line : Nat) : Prog :=
  .ask fun s => match s.l2Line line with
    | none => .skip
    | some l =>
      .all [ (match l.owner with
              | some o => .seq (holdLine line o) (baseWrite line 0 l.data)
              | none => if l.dirty then (if l.ue = [] then baseWrite line 0 l.data else poisonLine line) else .skip),
             .upd (.l2 line none) ]

/-- The lines of a frame that the L2 holds. -/
def frameLines (s : State) (frame : Nat) : List Nat := (s.l2.map fun e => e.1).filter fun line => line * 128 / 2 ^ 16 = frame

/-- Copy a frame to another: bytes, poison and versioned words (24 R408 step 2); a codeword that the copy cannot read is repaired or goes as poison. -/
def copyFrame (old new : Nat) : Prog :=
  .seq (.ask fun s => Prog.each (s.hub.memUe.filter fun c => c * 64 / 2 ^ 16 == old) fun c => meetWord c (.upd (.poison c true))) <|
  .ask fun s =>
    .all [ Prog.each (s.mem.filter fun c => c.1 / 2 ^ 16 == old) fun c => .upd (.mem (movePa old new c.1) c.2),
           Prog.each (s.poison.filter fun c => c.1 * 64 / 2 ^ 16 == old) fun c => .upd (.poison (movePa old new (c.1 * 64) / 64) c.2),
           Prog.each (s.vers.filter fun c => c.1 * 8 / 2 ^ 16 == old) fun c =>
             .seq (.upd (.ver (movePa old new (c.1 * 8) / 8) c.2)) (.upd (.ver c.1 VerWord.reset)) ]

/-- The new frame takes the old one's place everywhere that names it (24 R408 steps 3 to 5). -/
def repoint (old new : Nat) : Prog :=
  .ask fun s =>
    .all [ Prog.each (s.parts.flatMap fun e => e.2.frames.filter fun f => f.req.frame == old) fun f =>
             (match leafKey s f.asid (f.req.page * 2 ^ 16) with
              | some k => .ask fun s => Prog.when (bit (Sparse.get 0 s.tables k) 63)
                  (.upd (.table k (leafWord { f.req with frame := new })))
              | none => .skip),
           Prog.each (s.parts.map fun e => e.1) fun p => .upd (.part p fun x => { x with
             frames := x.frames.map fun f => if f.req.frame = old then { f with req := { f.req with frame := new } } else f }),
           .upd (.hub fun h => { h with
             slotOf := ((h.slotOf.filter fun e => e.1 == old).map fun e => (new, e.2)) ++ h.slotOf
             mirrored := h.mirrored.map fun x => (moveLine old new x.1, x.2)
             acked := h.acked.map (moveLine old new) }),
           .upd (.waiters fun l => l.map fun w => { w with line := moveLine old new w.line }),
           .upd (.tlb fun l => l.map fun t => if field t.entry 16 36 = old then { t with entry := setField t.entry 16 36 new } else t),
           .upd (.held fun l => l.map fun h => { h with line := moveLine old new h.line }),
           .upd (.breqs fun l => l.filter fun b => !(b.line * 128 / 2 ^ 16 == old)),
           .upd (.mirror fun l => l.map fun m => { m with line := moveLine old new m.line }),
           Prog.each (s.tasks.map fun e => e.1) fun t => .upd (.task t fun o => o.map fun tk => { tk with
             journal := tk.journal.map fun j => { j with line := moveLine old new j.line }
             deadUndo := tk.deadUndo.map fun c => movePa old new (c * 64) / 64
             verUndo := tk.verUndo.map fun u => (movePa old new (u.1 * 8) / 8, u.2)
             savedNodes := tk.savedNodes.map fun e => (e.1, e.2.moveFrame old new) }),
           Prog.each (s.nodes.map fun e => e.1) fun n => .upd (.node n (Node.moveFrame old new)) ]

/-- Drop a frame for want of a spare (24 R408): its pages are unmapped and it leaves the partition. -/
def dropFrame (old : Nat) : Prog :=
  .ask fun s =>
    .all [ Prog.each (s.parts.flatMap fun e => e.2.frames.filter fun f => f.req.frame == old) fun f => clearLeaf f.asid (f.req.page * 2 ^ 16),
           Prog.each (s.parts.map fun e => e.1) fun p => .upd (.part p fun x => { x with
             frames := x.frames.filter fun f => !(f.req.frame == old) }),
           .upd (.tlb fun l => l.filter fun t => !(field t.entry 16 36 == old)),
           Prog.each (s.nodes.map fun e => e.1) fun n => .upd (.node n fun nd => { nd with
             cur := nd.cur.map fun m => { m with latches := m.latches.filter fun l => !(field l.2 16 36 == old) } }) ]

/-- The VAs of a frame's pages. -/
def frameVas (s : State) (frame : Nat) : List Word :=
  s.parts.flatMap fun e => (e.2.frames.filter fun f => f.req.frame == frame).map fun f => BitVec.ofNat 64 (f.req.page * 2 ^ 16)

/-- Whether the held-line directory has the entries that a frame's provisional lines take when they are evicted (24 R408 step 1). -/
def retireReady (s : State) (frame : Nat) : Bool :=
  let prov := (frameLines s frame).filter fun line => (match s.l2Line line with
    | some l => l.owner.isSome
    | none => false) && !(s.held.any fun h => h.line == line)
  match frameOwner s frame with
  | none => true
  | some p =>
    let die := paDie (frame * 2 ^ 16)
    prov = [] || poolFree s 65536 (fun q => heldOf s die q + (if q = p then prov.length - 1 else 0)) (fun q => (s.part q).hldMin)
      (some (s.part p).hldCap) p

/-- RETIRE THE PAGE of a frame, none of whose lines is broken in the L2 (24 R408). -/
def retirePage (old : Nat) : Prog :=
  .ask fun s =>
    let die := paDie (old * 2 ^ 16)
    .seq (Prog.each (frameLines s old) evictPlain)
      (match spareFrame s die with
        | none => dropFrame old
        | some new => .all [ copyFrame old new, repoint old new, .upd (.hub fun h => { h with
            spares := (die, sparesUsed s die + 1) :: h.spares.filter fun e => !(e.1 == die) }) ])

/-- VALUE of device entry 0x0004 for a frame that is about to be retired (26 R421). -/
def retiredValue (s : State) (old : Nat) : Word :=
  let new := ((spareFrame s (paDie (old * 2 ^ 16))).getD 0) % 2 ^ 28
  BitVec.ofNat 64 (old % 2 ^ 28 + new * 2 ^ 32)

/-! ## What an access does that meets an error (26 R419, R420; 24 R406–R409) -/

/-- A task's read of a poisoned line, or its partial store to one, kills the task (24 R408). -/
def poisonKill (w : Who) (line : Nat) : Prog :=
  .ask fun s => match w.tid with
    | none => .skip
    | some t => Prog.when (taskLive s t) (.seq (recordFor t w (BitVec.ofNat 64 (line * 128)) (eccInfo s 6 line 0)) (killTask t))

/-- The kill of a line's owner is on its way (26 R420 step 3): its page is retired after it, and its account is settled after that. An owner whose end
was decided before keeps its outcome, and is not the task killed for the line (24 R400). -/
def doomOwner (t line : Nat) (l : L2Line) : Prog :=
  .ask fun s =>
    let own := if taskLive s t then some t else none
    .seq (.upd (.hub fun h => { h with retires := h.retires ++
        [⟨line, some l.part, own, some (paDie (line * 128), homeSlice s line, lineSet line, l.way)⟩] }))
      (.upd (.task t fun o => o.map fun tk => if own = none then tk else { tk with doomed := some 0x83 }))

/-- An uncorrectable error in the data of a line that the L2 holds (24 R406, 26 R420). A provisional or held line kills its owner: the record now, the
kill, the retirement and the account each in its turn. A clean line is refilled from memory: at once where no task reads it, else by the read that found
it, which then misses. -/
def l2DataUe (w : Who) (line : Nat) (l : L2Line) : Prog :=
  .ask fun s =>
    let pa := BitVec.ofNat 64 (line * 128)
    let info := eccInfo s 2 line l.way
    match l.owner.bind (ownerTask s) with
    | some t => if !taskLive s t && s.hub.retires.any (fun r => r.line == line) then .skip
      else .seq (recordFor t w pa info) (doomOwner t line l)
    | none =>
      if !l.dirty then .seq (Prog.each (brokenWords s line) fun c => meetWord c (.seq (.upd (.poison c true)) (wantRetire line none)))
        (.upd (.l2 line (if w.tid.isSome then none else some { l with data := s.memLine line, ue := [] })))
      else .all [ poisonLine line, .upd (.l2 line none), errorAlert l.part 0 0x73 info pa (frameVas s (line * 128 / 2 ^ 16)),
                  wantRetire line (some l.part), quarantineWay (paDie (line * 128)) (homeSlice s line) (lineSet line) l.way ]

/-- The partitions of a set's bitmap, of the slice's bitmap where that is gone, or with frames homed in the slice (24 R407). -/
def bitmapParts (s : State) (line : Nat) : List Nat × Bool :=
  let die := paDie (line * 128)
  let sl := homeSlice s line
  if !(s.hub.bitmapUe.contains (die, sl, some (lineSet line))) then (distinct ((setLines s line).map fun e => e.2.part), false)
  else if !(s.hub.bitmapUe.contains (die, sl, none)) then
    (distinct (s.l2.filterMap fun e => match e.2 with
      | some l => if homeSlice s e.1 = sl && paDie (e.1 * 128) = die then some l.part else none
      | none => none), false)
  else ((s.parts.filter fun e => e.2.frames.any fun f => (List.range 512).any fun k =>
      homeSlice s (f.req.frame * 512 + k) == sl && paDie (f.req.frame * 2 ^ 16) == die).map fun e => e.1, true)

/-- An uncorrectable error in the tag of a way (24 R407): its line is lost without a known address. -/
def l2TagUe (line : Nat) (l : L2Line) : Prog :=
  .ask fun s =>
    let die := paDie (line * 128)
    let sl := homeSlice s line
    let (ps, off) := bitmapParts s line
    .all [ .upd (.l2 line none),
           Prog.each ((List.range 48).filter ps.contains) fun p => .seq (Prog.each (partTasks s p) fun t =>
               .seq (recordFor t Who.none 0 (eccInfo s 3 line l.way)) (killTask t))
             (errorAlert p (if off then 2 else 1) 0x73 (eccInfo s 3 line l.way) 0 []),
           quarantineWay die sl (lineSet line) l.way,
           Prog.when off (.upd (.hub fun h => { h with slicesOff := h.slicesOff ++ [(die, sl)] })) ]

/-- An uncorrectable memory codeword (24 R409): repaired from an acknowledged mirror, or poisoned with its page retired. -/
def memoryUe (cw : Nat) : Prog := meetWord cw (.seq (.upd (.poison cw true)) (wantRetire (cw / 2) none))

/-- The broken tag in the set of a line (24 R407). -/
def tagTrouble (s : State) (line : Nat) : Option Prog := ((setLines s line).find? fun e => e.2.tagUe).map fun e => l2TagUe e.1 e.2

/-- What a read by the device itself meets at a line (26 R419): a broken tag in its set, broken data, a broken codeword. -/
def readTrouble (s : State) (line : Nat) : Option Prog :=
  match tagTrouble s line with
  | some p => some p
  | none => match s.l2Line line with
    | some l => if l.ue = [] then none else some (l2DataUe Who.none line l)
    | none => (brokenWords s line).head?.map memoryUe

/-- What an access to a line must see to before it is served: a broken tag in its set, broken data, a broken codeword, poison. -/
def lineTrouble (s : State) (w : Who) (line : Nat) : Option Prog :=
  match tagTrouble s line with
  | some p => some p
  | none => match s.l2Line line with
    | some l => if l.ue = [] then (if poisoned s line then some (poisonKill w line) else none) else some (l2DataUe w line l)
    | none => match (brokenWords s line).head? with
      | some c => some (memoryUe c)
      | none => if poisoned s line then some (poisonKill w line) else none

/-- Evict a line from the L2 (03 R74, 26 R419): all its words are checked first. -/
def evictLine (line : Nat) : Prog :=
  .ask fun s => match s.l2Line line with
    | none => .skip
    | some l => if l.ue = [] then evictPlain line else .seq (l2DataUe Who.none line l) (.upd (.l2 line none))

/-- The L2 line that a fill makes (02 R46, R47). A line that is held stays its owner's. -/
def filled (s : State) (line part way : Nat) : L2Line where
  data := s.memLine line
  fmt := lineFmt s line
  scales := lineScales s line
  dirty := false
  owner := (s.held.find? (fun h => h.line == line)).map (fun h => h.owner)
  part := part
  way := way
  way2 := none
  ue := []
  tagUe := false

/-- The tagged lines of an L2 entry as the L2 holds them (02 R46): one of 128 data bytes; of an FP4-blocked memory line two, one for each 64-byte half,
each with its 64 code bytes, its 16 folded scales and 32 zero bytes. -/
def L2Line.tagged (l : L2Line) : List (List Byte) :=
  if l.fmt = 12 then (List.range 2).map fun h =>
    (l.data.drop (64 * h)).take 64 ++ (((l.scales.drop (16 * h)).take 16).flatMap fun x => toBytes 2 x.toNat) ++ List.replicate 32 0
  else [l.data]

/-- Take a way for a line and put there what the fill makes; where no way can be had, `no` is run instead. -/
def takeWay (line : Nat) (put : State → Nat → L2Line) (no : Prog) : Prog :=
  .ask fun s => match roomFor s line with
    | none => no
    | some (w, v) =>
      .all [ (match v with
              | some e => evictLine e
              | none => .skip),
             .upd .fresh,
             .ask fun s => .upd (.l2 line (some (put s w))) ]

/-- Fill a line from memory into the L2 (03 R74, R80); where no way can be had, nothing is allocated. An FP4-blocked line takes two ways, for its
two tagged lines (02 R46), or none. -/
def fillLine (line part : Nat) : Prog :=
  .ask fun s => match s.l2Line line with
    | some _ => .skip
    | none => .seq (takeWay line (fun s w => filled s line part w) .skip) (.ask fun s => match s.l2Line line with
      | some l => if l.fmt = 12 then takeWay line (fun _ w => { l with way2 := some w }) (.upd (.l2 line none)) else .skip
      | none => .skip)

/-- Whether a write by a task must wait at the home slice: another task owns the line (03 R75), or no way can be had and no
directory entry is available (03 R74). -/
def writeWaits (s : State) (owner part line : Nat) : Bool :=
  foreign s (some owner) line ||
  ((s.l2Line line).isNone && (roomFor s line).isNone && !(s.held.any fun h => h.line == line) &&
    !heldFree s (paDie (line * 128)) part)

/-- Write a dirty ordinary line back before a task makes it provisional: an abort invalidates it without write-back (03 R75), so memory must hold
what was committed. Words beyond correction stay behind. -/
def keepCommitted (line owner : Nat) (l : L2Line) : Prog :=
  Prog.when (l.dirty && !(l.owner == some owner)) (if l.ue = [] then baseWrite line 0 l.data
    else .ask fun s => .seq (Prog.each (brokenWords s line) memoryUe)
      (Prog.each ((List.range 16).filter fun w => !(l.ue.contains w)) fun w => baseWrite line (8 * w) ((l.data.drop (8 * w)).take 8)))

/-- Apply bytes of a task's write to a line at its home slice: the line becomes provisional (03 R73, R74). -/
def writeLine (owner part line off : Nat) (bs : List Byte) : Prog :=
  .seq (fillLine line part) (.ask fun s => match s.l2Line line with
    | some l =>
      let whole := (List.range 16).filter fun w => off ≤ 8 * w && 8 * w + 8 ≤ off + bs.length
      .seq (keepCommitted line owner l) (.upd (.l2 line (some { l with
        data := overlay l.data off bs
        dirty := true
        owner := some owner
        ue := l.ue.filter fun w => !(whole.contains w) })))
    | none => .seq (holdLine line owner) (baseWrite line off bs))

/-- A write as seen by the poison of its line: whole codewords are clean again. -/
def writeLineC (owner part line off : Nat) (bs : List Byte) : Prog :=
  .ask fun s => .all [ writeLine owner part line off bs,
    noteDead owner ((List.range 2).map (2 * line + ·) |>.filter fun c => Sparse.get false s.poison c && off ≤ c % 2 * 64 && c % 2 * 64 + 64 ≤ off + bs.length),
    clearPoison (line * 128 + off) bs.length ]

/-- Apply bytes at a physical address, line by line; `n` bounds the lines touched. -/
def writeBytes (owner part : Nat) : Nat → Nat → List Byte → Prog
  | 0, _, _ => .skip
  | n + 1, pa, bs =>
    if bs = [] then .skip else
    let k := 128 - pa % 128
    .seq (writeLineC owner part (lineOf pa) (pa % 128) (bs.take k)) (writeBytes owner part n (pa + k) (bs.drop k))

/-- Whether a run of bytes of a line, from offset `u * k` on and `u` long, is written in full by a list of (offset, length) writes. -/
def written (xs : List (Nat × Nat)) (k u : Nat) : Bool :=
  (List.range u).all fun b => xs.any fun x => x.1 ≤ u * k + b && u * k + b < x.1 + x.2

/-- Whether such a run is written in part. -/
def partlyWritten (xs : List (Nat × Nat)) (k u : Nat) : Bool :=
  !written xs k u && xs.any fun x => x.1 < u * k + u && u * k < x.1 + x.2

/-- The error that a write of (offset, length) pieces meets at a line: it writes part of a broken eight-byte word, or part of a poisoned
codeword (26 R419, 24 R408). -/
def storeTrouble (s : State) (w : Who) (line : Nat) (xs : List (Nat × Nat)) : Option Prog :=
  let dead := (List.range 2).any fun k => Sparse.get false s.poison (2 * line + k) && partlyWritten xs k 64
  match tagTrouble s line with
  | some p => some p
  | none => match s.l2Line line with
    | some l => if l.ue.any (fun k => partlyWritten xs k 8) then
        some (.seq (l2DataUe w line l) (if l.dirty && l.owner.isNone then poisonKill w line else .skip))
      else if dead then some (poisonKill w line) else none
    | none => match (brokenWords s line).head? with
      | some c => some (memoryUe c)
      | none => if dead then some (poisonKill w line) else none

/-- Eight-byte words and codewords that pieces written together cover in full are clean again. -/
def freshen (owner line : Nat) (xs : List (Nat × Nat)) : Prog :=
  .all [ .ask fun s => match s.l2Line line with
           | some l => .upd (.l2 line (some { l with ue := l.ue.filter fun w => !written xs w 8 }))
           | none => .skip,
         Prog.each (List.range 2) fun k => Prog.when (written xs k 64) (.ask fun s =>
           .seq (noteDead owner ([2 * line + k].filter fun c => Sparse.get false s.poison c)) (.upd (.poison (2 * line + k) false))) ]

/-- Write back and drop every L2 line of a physical range (02 R47, 01 R37). -/
def flushRange (lo hi : Nat) : Prog :=
  .ask fun s => Prog.each (s.l2.map fun e => e.1) fun line =>
    Prog.when (lo ≤ line * 128 + 127 && line * 128 ≤ hi) (evictLine line)

end Sys2Proof.Machine
end

