-- ==== Sys2Proof/Machine/Operands.lean ====
section
/-! DEFINITION. Operands, gates, tags and targets: what a firing consumes (01 R25), when it waits, how its gate and a null
operand act (08 R171, R173), how its tag changes (08 R160), and where its results go (07 R128, R129). -/

namespace Sys2Proof.Machine
open Sys2Proof.Bits

/-! ## Token arrival (01 R24; 22 R367, R368) -/

/-- A fault of a node with its code and FSINFO, at a place and tag of its block. -/
def mkFault (nd : Node) (code place : Nat) (tag : Tag) (addr info : Word) : FaultRec :=
  ⟨code, place, match nd.cur with
    | some m => m.blk.pc
    | none => (nd.ctx nd.lastCtx).pc, tag, addr, info⟩

/-- Whether a token would arrive at a slot already present with the same instruction and tag (22 R367). -/
def Node.isDup (nd : Node) (q slot : Nat) (t : Tag) : Bool :=
  (match nd.entry (entryIndex q t) with
   | some m => decide (m.q = q) && decide (m.tag = t) && (m.tok slot).isSome
   | none => false) || nd.spill.any fun x => x.q == q && x.slot == slot && x.tok.tag == t

/-- The token that waits in a slot, in its entry or in the spill area: a spilled token fires exactly as it would have fired had it never left the
entry (01 R26; 22 R367). -/
def Node.waiting (nd : Node) (q slot : Nat) (t : Tag) : Option Tok :=
  match (match nd.entry (entryIndex q t) with
      | some m => if m.q = q && m.tag = t then m.tok slot else none
      | none => none) with
  | some x => some x
  | none => (nd.spill.find? fun x => x.q == q && x.slot == slot && x.tok.tag == t).map fun x => x.tok

/-- The places at which tokens wait: instruction index and tag, each once (01 R24). -/
def Node.places (nd : Node) : List (Nat × Tag) :=
  ((nd.entries.map fun e => (e.2.q, e.2.tag)) ++ nd.spill.map fun x => (x.q, x.tok.tag)).eraseDups

/-- Take the tokens of a place out of the matching store and the spill area; the entry, when it is free, takes its oldest spilled token. -/
def Node.takeOut (nd : Node) (q : Nat) (t : Tag) : Node :=
  let e := entryIndex q t
  let nd := match nd.entry e with
    | some m => if m.q = q && m.tag = t then nd.setEntry e none else nd
    | none => nd
  Node.unspill { nd with spill := nd.spill.filter fun x => !(x.q == q && x.tok.tag == t) } e

/-- Whether a token must go to the spill area (01 R24). -/
def Node.spills (nd : Node) (q slot : Nat) (t : Tag) : Bool :=
  match nd.entry (entryIndex q t) with
  | some m => !(decide (m.q = q) && decide (m.tag = t) && (m.tok slot).isNone)
  | none => false

/-- A colour fault of task `tid` at node `n` (22 R359, R367, R368): the colour is purged, the registers record the fault, those of the task's
section where a dusk token has taken the node, and the Farrier is told. -/
def colourFault (n tid code q slot : Nat) (t : Tag) : Prog :=
  .ask fun s =>
    let r := siteRef s tid n
    let f := mkFault (refNode s r) code q t 0 (BitVec.ofNat 64 (q % 128 + slot % 4 * 256))
    .all [ purgeColour tid (tagColour t), onRef r fun nd => nd.record f, report r f none ]

/-- PLACE of a record that the spec gives none. -/
def freePlace (s : State) : Nat := (Config.freePlace s.ctr).toNat

/-- The place code and parity of a silicon PARITY report (24 R392). -/
def parityInfo (x y place : Nat) (p : Parity) : Word :=
  BitVec.ofNat 64 (x + y * 64 + place * 2 ^ 12 + (if p = .tag then 2 ^ 16 else 0))

/-- A parity failure found at a place of node `n` (24 R394, R395): the node itself is the marked node. -/
def nodeParity (n place : Nat) (t : Tok) : Prog :=
  .ask fun s =>
    let nd := s.node n
    match nd.task with
    | none => .skip
    | some tid =>
      tokenError n n tid (tagColour t.tag) (mkFault nd 0x70 (freePlace s) t.tag 0 (parityInfo (nodeX n) (nodeY n) place t.par))

/-- The place code of a token that waits at a node (24 R392): the spill area where it stands there, else the matching store. -/
def Node.parityPlace (nd : Node) (t : Tok) : Nat := if nd.spill.any fun x => x.tok == t then 3 else 1

/-- Whether a spilled token may move into its entry: it is free, or its own with the slot free (01 R24, R26). -/
def Node.takesSpilled (nd : Node) (x : Spilled) : Bool :=
  match nd.entry (entryIndex x.q x.tok.tag) with
  | none => true
  | some m => m.q = x.q && m.tag = x.tok.tag && (m.tok x.slot).isNone

/-- The oldest spilled token that may move in is read with those of its instruction and tag, and moves; one whose parity fails is an error of the spill
area (01 R26, 24 R394). -/
def refillJob (s : State) (n : Nat) : Option Prog :=
  let nd := s.node n
  (nd.spill.find? nd.takesSpilled).map fun o =>
    match nd.spill.find? fun x => x.q == o.q && x.tok.tag == o.tok.tag && !(x.tok.par = .good) with
    | some x => nodeParity n 3 x.tok
    | none => .upd (.node n fun nd => nd.moveIn o)

/-- A token arrives at slot `slot` of instruction `q` of node `n` (01 R24). -/
def arrive (n q slot : Nat) (tok : Tok) (edge : Option Nat) : Prog :=
  .ask fun s =>
    let nd := s.node n
    match nd.task with
    | none => .skip
    | some tid =>
      if !(tok.par = .good) then nodeParity n 1 tok
      else if nd.isDup q slot tok.tag then (match nd.waiting q slot tok.tag with
        | some w => if w.par = .good then colourFault n tid 0x11 q slot tok.tag else nodeParity n (nd.parityPlace w) w
        | none => colourFault n tid 0x11 q slot tok.tag)
      else if nd.spills q slot tok.tag && decide (61440 < nd.spillBytes + tokBytes tok) then
        colourFault n tid 0x12 q slot tok.tag
      else .upd (.node n fun nd => nd.place q slot tok edge)

/-! ## The firing in hand -/

/-- What a firing sees: the state, its site, the node, the mapped block, its commit unit, its task, the jet order, the
instruction's header and the operands it consumes. -/
structure Fx where
  s : State
  n : Nat
  q : Nat
  tag : Tag
  nd : Node
  m : Mapped
  ut : Tag
  u : CUnit
  tid : Nat
  t : Task
  k : Nat
  h : Hdr
  l : Option Tok
  r : Option Tok
  p : Option Tok
  /-- The plane as which consumers read what the form emits. -/
  np : Nat

/-- A commit unit that nothing has fired in. -/
def CUnit.fresh (tag : Tag) : CUnit where
  tag := tag
  fired := []
  acts := []
  lsids := []
  exit := none
  fpFlags := 0
  jFlags := 0
  claims := []
  hNew := []

/-- The unit of tag `ut` of a mapped block. -/
def Mapped.unit (m : Mapped) (ut : Tag) : CUnit := (m.units.find? (fun u => u.tag == ut)).getD (CUnit.fresh ut)

/-- Change the unit of tag `ut`, which is made where the block has none. -/
def Mapped.onUnit (m : Mapped) (ut : Tag) (f : CUnit → CUnit) : Mapped :=
  if m.units.any (fun u => u.tag == ut) then { m with units := m.units.map fun u => if u.tag = ut then f u else u }
  else { m with units := m.units ++ [f (CUnit.fresh ut)] }

/-- Change the mapped block of a node. -/
def Node.onCur (nd : Node) (f : Mapped → Mapped) : Node := { nd with cur := nd.cur.map f }

/-- Change a commit unit of a node's mapped block. -/
def onUnit (n : Nat) (ut : Tag) (f : CUnit → CUnit) : Prog := .upd (.node n fun nd => nd.onCur fun m => m.onUnit ut f)

/-- Whether an instruction consumes a right operand token (01 R25, 07 R130, 13 R243, R264). -/
def needsRight (i : Instr) : Bool :=
  match i.body with
  | .a f => rightSlot i && f.immr = 0
  | .m f => rightSlot i && !(i.opc = 0x1C6 && !(f.h.t0 = 0))
  | _ => rightSlot i

/-- Whether an instruction consumes a token in slot 11 (01 R25). -/
def needsPred (i : Instr) : Bool := i.hdr.pmode = 1 || i.hdr.pmode = 2

/-- Whether every operand that an instruction consumes waits for it (01 R25). -/
def Node.allThere (nd : Node) (i : Instr) (q : Nat) (t : Tag) : Bool :=
  (nd.waiting q 1 t).isSome && (!needsRight i || (nd.waiting q 2 t).isSome) && (!needsPred i || (nd.waiting q 3 t).isSome)

/-- The commit point e(c) of a colour in a loop-resident block (01 R20). -/
def commitPoint (t : Task) (c n : Nat) (pc : BitVec 58) : Nat :=
  match t.frame c with
  | some f => ((f.points.find? (fun p => p.1 == nodeM t n && p.2.1 == pc.toNat)).map (fun p => p.2.2)).getD 0
  | none => 0

/-- Whether an iteration lies outside a loop-resident block's window (01 R20). -/
def outsideWindow (t : Task) (n : Nat) (m : Mapped) (tag : Tag) : Bool :=
  m.loop && decide (field (m.blk.hdr.getD 0 0) 91 8 ≤
    (tagIter tag + 256 - commitPoint t (tagColour tag) n m.blk.pc) % 256)

/-- Whether a node fires nothing at a place: a fault is recorded, or one stands in its block and the firing was not under way, or has faulted itself
(22 R361, R362). -/
def Node.stopped (nd : Node) (m : Mapped) (x : Nat × Tag) : Bool :=
  bit nd.fs.code 63 || !(m.faults = [] || m.under.any fun u => u.1.contains x) || m.faults.any fun f => f.place = x.1 && f.tag = x.2

/-- The firing that an instruction makes at the site in hand, when the site has its operands. -/
def fireCtx (i : Instr) (s : State) : Option Fx :=
  match s.cur with
  | none => none
  | some st =>
    let nd := s.node st.node
    let arg := fun (slot : Nat) => nd.waiting st.q slot st.tag
    match nd.cur, nd.task, s.taskOf st.node with
    | some m, some tid, some t =>
      if nd.allThere i st.q st.tag && !nd.stopped m (st.q, st.tag) && !nd.suspended && !outsideWindow t st.node m st.tag then
        let ut := unitTag nd m st.tag
        some ⟨s, st.node, st.q, st.tag, nd, m, ut, m.unit ut, tid, t, m.snap.jord, i.hdr, arg 1,
          if needsRight i then arg 2 else none, if needsPred i then arg 3 else none, (outPlanes i).headD i.hdr.plane.toNat⟩
      else none
    | _, _, _ => none

/-! ## Values of operands (02 R39) -/

/-- The scalar that a token carries: a scalar's 64 bits; of beats, lane 0. -/
def Tok.scalar (t : Tok) : Word :=
  match t.data with
  | .scalar w => w
  | .beats bs _ => (Vec.lane (bs.getD 0 []) 0).setWidth 64

/-- The lane mask of a token. -/
def Tok.mask (t : Tok) : BitVec 16 :=
  match t.data with
  | .scalar _ => 0xFFFF
  | .beats _ m => m

/-- Beat `j` of a token. -/
def Tok.beat (t : Tok) (j : Nat) : Vec :=
  match t.data with
  | .scalar _ => []
  | .beats bs _ => bs.getD j []

/-- How many beats a token has. -/
def Tok.beats (t : Tok) : Nat :=
  match t.data with
  | .scalar _ => 0
  | .beats bs _ => bs.length

/-- The scalar of an optional operand; 0 where the form consumes none. -/
def optScalar (t : Option Tok) : Word := (t.map Tok.scalar).getD 0
/-- The mask of an optional operand; all ones where the form consumes none. -/
def optMask (t : Option Tok) : BitVec 16 := (t.map Tok.mask).getD 0xFFFF
/-- Beat `j` of an optional operand. -/
def optBeat (t : Option Tok) (j : Nat) : Vec := (t.map fun x => x.beat j).getD []

/-- A vector token of one beat. -/
def vecData (v : Vec) (m : BitVec 16) : TokData := .beats [v] m

/-- The data of a null token of a plane: no program can read it (08 R171). -/
def nullData (plane k : Nat) : TokData :=
  if plane = 0 then .scalar 0 else .beats (List.replicate (if plane = 2 then k + 1 else 1) (Vec.fill 0)) 0

/-! ## Gates (01 R25, 08 R173) -/

/-- Whether a scalar predicate opens the gate. -/
def gateScalar (pmode : BitVec 2) (b : Bool) : Bool := if pmode = 1 then b else !b

/-- The lanes that a vector predicate lets pass: g of 08 R173. -/
def gateLanes (pmode : BitVec 2) (p : Tok) : BitVec 16 :=
  let tr := maskOf fun k => p.mask.getLsbD k && (Vec.lane (p.beat 0) k).getLsbD 0
  if pmode = 1 then tr else ~~~tr

/-- How a firing goes: a null operand decides, the gate is closed, or it is open for some lanes. -/
inductive Mode where
  | null
  | closed
  | go (g : BitVec 16)
  deriving DecidableEq, Repr

/-- The mode of a firing. `dataPred` forms read slot 11 as data and are never gated (08 R180, 09 R183, 13 R243). -/
def Fx.mode (c : Fx) (dataPred : Bool) : Mode :=
  if [c.l, c.r, c.p].any (fun o => match o with
      | some t => t.null
      | none => false) then .null
  else if dataPred || c.h.pmode = 0 then .go 0xFFFF
  else match c.p with
    | none => .go 0xFFFF
    | some p =>
      if c.h.plane = 0 then (if gateScalar c.h.pmode (p.scalar.getLsbD 0) then .go 0xFFFF else .closed)
      else if c.h.plane = 3 then (if (gateLanes c.h.pmode p).getLsbD 0 then .go 0xFFFF else .closed)
      else .go (gateLanes c.h.pmode p)

/-! ## Tags (01 R23; 08 R160–R163) -/

/-- The outcome of a TAGOP: the tag of the emitted tokens with the claim it makes on a loop window, a wait, a FLOW_FAULT. -/
inductive TagRes where
  | ok (t : Tag) (claim : Option Claim)
  | wait
  | fault (reason : Nat)
  deriving DecidableEq, Repr

/-- Step to iteration `j` of colour `c` forward (08 R163 INEXT). -/
def stepForward (t : Task) (c j : Nat) : TagRes :=
  match t.frame c with
  | none => .fault 1
  | some f =>
    if !(f.kind = .loop || f.kind = .tagSpace) then .fault 1
    else if f.live.contains j then .ok (mkTag c j) none
    else if f.free = 0 then .wait else .ok (mkTag c j) (some (.slot c j))

/-- Step to a live iteration `j` of colour `c` (08 R163 IPREV). -/
def stepBack (t : Task) (c j : Nat) : TagRes :=
  match t.frame c with
  | none => .fault 1
  | some f => if !(f.kind = .loop || f.kind = .tagSpace) then .fault 1
              else if f.live.contains j then .ok (mkTag c j) none else .fault 2

/-- The tag that TAGOP `op` gives (01 R23, 08 R160); 0101 is the allocating forms' own. -/
def tagRes (t : Task) (tag : Tag) (op : Nat) : TagRes :=
  let c := tagColour tag
  let i := tagIter tag
  match op with
  | 1 => stepForward t c ((i + 1) % 256)
  | 2 => stepBack t c ((i + 255) % 256)
  | 3 => stepBack t c 0
  | 4 => match t.frame c with
    | some f => if c = 0 then .fault 3 else .ok f.parent none
    | none => .fault 3
  | 6 => match t.frame c with
    | some f => if f.kind = .call then .ok f.parent none else .fault 4
    | none => .fault 4
  | _ => .ok tag none

/-- Take a claim: a loop slot becomes live and leaves the counter (08 R163). -/
def takeClaim (tid n : Nat) (ut : Tag) (c : Option Claim) : Prog :=
  match c with
  | none => .skip
  | some cl => .seq (onUnit n ut fun u => { u with claims := cl :: u.claims }) (match cl with
      | .slot c j => .upd (.task tid fun o => o.map fun t => t.onFrame c fun f =>
          { f with live := f.live ++ [j], free := f.free - 1 })
      | _ => .skip)

/-! ## Emission (07 R128, R129) -/

/-- Add a pending action to a unit. -/
def addAct (n : Nat) (ut : Tag) (q : Nat) (tag : Tag) (a : Act) : Prog :=
  onUnit n ut fun u => { u with acts := u.acts ++ [⟨q, tag, a⟩] }

/-- Send a token to one target (07 R129). Targets in the block are fed at once; the others wait for commit (01 R17). -/
def emitTo (n : Nat) (ut : Tag) (q : Nat) (ftag : Tag) (tgt : BitVec 12) (tok : Tok) : Prog :=
  let slot := field tgt 10 2
  let idx := field tgt 0 7
  if slot = 0 then .skip
  else match field tgt 7 3 with
    | 0 => arrive n idx slot { tok with inner := some ut } none
    | 1 => addAct n ut q ftag (.regWrite idx tok.data tok.null)
    | 2 => addAct n ut q ftag (.out idx { tok with inner := none })
    | 3 => addAct n ut q ftag (.engine idx { tok with inner := none })
    | _ => addAct n ut q ftag (.deposit (idx / 4) (idx % 4) slot { tok with inner := none })

/-- A token that nothing marks. -/
def mkTok (tag : Tag) (d : TokData) (null : Bool) : Tok := ⟨tag, d, null, false, .good, none, none⟩

/-- Emit a token to both targets of the instruction. -/
def Fx.emit (c : Fx) (tag : Tag) (d : TokData) (null : Bool) : Prog :=
  .seq (emitTo c.n c.ut c.q c.tag c.h.t0 (mkTok tag d null)) (emitTo c.n c.ut c.q c.tag c.h.t1 (mkTok tag d null))

/-- Take the operands of a firing from the matching store (01 R25) and note them in the unit. -/
def Fx.consume (c : Fx) : Prog :=
  let ops := (match c.l with
    | some t => [(1, t)]
    | none => []) ++ (match c.r with
    | some t => [(2, t)]
    | none => []) ++ (match c.p with
    | some t => [(3, t)]
    | none => [])
  .upd (.node c.n fun nd =>
    (nd.takeOut c.q c.tag).onCur fun m =>
      m.onUnit c.ut fun u => { u with fired := u.fired ++ [⟨c.q, c.tag, ops⟩] })

/-! ## What a firing does -/

/-- The plan of a firing: it waits; it is held on a page; it faults after its draw; or it draws and acts. -/
inductive Plan where
  | wait
  /-- The firing is held on a page (23 R376): it keeps its operands, draws nothing, and may report the page. -/
  | hold (p : Prog)
  | fault (draw code : Nat) (addr info : Word)
  | act (draw : Nat) (p : Prog)

/-- Run a plan: draws stand whatever follows (06 R111); a wait changes nothing. -/
def Fx.run (c : Fx) (pl : Plan) : Host.Outcome State Fault Refusal :=
  match pl with
  | .wait => .next c.s
  | .hold p => p.done c.s
  | .fault d code addr info =>
    (drawOr c.n d c.q c.m.blk.pc c.tag (takeFault c.n (mkFault c.nd code c.q c.tag addr info))).done c.s
  | .act d p => (drawOr c.n d c.q c.m.blk.pc c.tag (.seq c.consume p)).done c.s

/-- Emit one result under the instruction's TAGOP (08 R160): a wait of the tag holds the firing, a fault of it discards the
block; `before` is what the firing does besides. -/
def Fx.emitPlan (c : Fx) (draw : Nat) (d : TokData) (null : Bool) (before : Prog) : Plan :=
  match tagRes c.t c.tag c.h.tagop.toNat with
  | .wait => .wait
  | .fault r => .fault draw 0x10 0 (BitVec.ofNat 64 r)
  | .ok tg cl => .act draw (.all [before, takeClaim c.tid c.n c.ut cl, c.emit tg d null])

/-- Emit a null token to each target, of the plane that the form emits (08 R171, 10 R213). -/
def Fx.nullPlan (c : Fx) (draw : Nat) : Plan := c.emitPlan draw (nullData c.np c.k) true .skip

/-- The result mask and lanes after the lane gate (08 R173): `none` where nothing is emitted. Lanes outside g carry the left
operand's lane unchanged. -/
def laneGate (h : Hdr) (g : BitVec 16) (left : Option Tok) (bs : List Vec) (m : BitVec 16) : Option TokData :=
  if h.pmode = 0 then some (.beats bs m)
  else
    let mo := m &&& g
    if mo = 0 then none
    else some (.beats (bs.zipIdx.map fun e => Vec.mk fun k =>
      if g.getLsbD k then Vec.lane e.1 k else Vec.lane (optBeat left e.2) k) mo)

/-! ## Checks of the operands -/

/-- The first operand whose parity has failed (24 R394). -/
def Fx.badTok (c : Fx) : Option Tok :=
  ([c.l, c.r, c.p].filterMap id).find? fun t => !(t.par = .good)

/-- Whether an operand slot of the instruction takes a rein token (04 R84, 13 R265): the left slot of REINDROP, REINQ and
REINSEND with HV = 0. -/
def reinSlot (i : Instr) : Bool :=
  match i.body with
  | .m f => (i.opc = 0x1C4 || i.opc = 0x1C5 || i.opc = 0x1C6) && f.hv = 0
  | _ => false

/-- Whether the rein marks of the operands suit the instruction (04 R84). -/
def Fx.marksOk (c : Fx) (i : Instr) : Bool :=
  (match c.l with
   | some t => decide (t.rein = reinSlot i) || (t.null && reinSlot i)
   | none => true) &&
  (match c.r with
   | some t => !t.rein
   | none => true) && (match c.p with
   | some t => !t.rein
   | none => true)

/-- The operand of a J-plane instruction whose beats are not those that its slot takes (10 R213, R216; 13 R243). -/
def Fx.badBeats (c : Fx) (i : Instr) : Option Nat :=
  let f := fun (slot : Nat) (o : Option Tok) => match o, beatsWanted i slot c.k with
    | some t, some b => if !t.null && !(t.beats = b) then some t.beats else none
    | _, _ => none
  match f 1 c.l, f 2 c.r, f 3 c.p with
  | some x, _, _ => some x
  | _, some x, _ => some x
  | _, _, o => o

/-- The draw of a plan; a firing that waits takes none. -/
def Plan.draw : Plan → Nat
  | .fault d _ _ _ => d
  | .act d _ => d
  | _ => 0

/-- A firing: refused where the site is not there; a broken operand, a rein mark or a beat count decide before the plan; a
double-firing mismatch is retried, and a second one marks the node (24 R402): the retry is the reserve's, the firing's own draw stands. -/
def fire (i : Instr) (plan : Fx → Plan) (s : State) : Host.Outcome State Fault Refusal :=
  match fireCtx i s with
  | none => .refused .notReady
  | some c =>
    match c.badTok with
    | some t => (nodeParity c.n (c.nd.parityPlace t) t).done s
    | none =>
      if !c.marksOk i then c.run (.fault (formDraw i c.k) 0x32 0 (BitVec.ofNat 64 c.q))
      else match c.badBeats i with
        | some b => c.run (.fault (formDraw i c.k) 0x13 0 (BitVec.ofNat 64 (c.q + (b - 1) % 8 * 256 + c.k * 2 ^ 12)))
        | none => match c.nd.upset with
          | none => c.run (plan c)
          | some again =>
            let f := mkFault c.nd 0x71 c.q c.tag 0 (BitVec.ofNat 64 (c.q + if again then 256 else 0))
            let clear : Prog := .upd (.node c.n fun nd => { nd with upset := none })
            if again then (drawOr c.n (plan c).draw c.q c.m.blk.pc c.tag (.seq clear (tokenError c.n c.n c.tid (tagColour c.tag) f))).done s
            else (Prog.seq clear (report c.n f (some 0))).done s

end Sys2Proof.Machine
end

