-- ==== Sys2Proof/Machine/FlowForms.lean ====
section
/-! DEFINITION. The EXIT and GRAPH groups (08 R152–R172): exits, moves, loops, tag spaces, spawns, global registers. -/

namespace Sys2Proof.Machine
open Sys2Proof.Bits

/-! ## Exits (08 R156–R158) -/

/-- A relative destination (08 R158): block address plus 64·sext(BOFF), kept in the same code space; one that leaves the 57-bit
space carries its upper bits on. -/
def relDest (pc : BitVec 58) (boff : BitVec 60) : Nat :=
  ((((field pc 0 57 : Nat) : Int) + 64 * boff.toInt) % 2 ^ 64).toNat

/-- The address of the first block after a block of `nins` instructions (08 R158). -/
def nextBlock (pc : BitVec 58) (nins : Nat) : Nat := field pc 0 57 + 64 * ceilDiv (64 + 16 * nins) 64

/-- A destination as a program counter in the code space of the block that names it (01 R16: PC<57> never changes), and the whole address where any of
bits 63:57 is set (07 R133). -/
def splitDest (pc : BitVec 58) (dest : Nat) : BitVec 58 × Option Word :=
  let d := BitVec.ofNat 64 dest
  (((if bit pc 57 then 1#1 else 0#1) ++ (d.extractLsb' 0 57)), if field d 57 7 = 0 then none else some d)

/-- An empty frame of a kind (08 R154). -/
def Frame.make (kind : FrameKind) (parent : Tag) : Frame where
  kind := kind
  parent := parent
  ret := 0
  win := 0
  free := 0
  live := []
  node := 0
  ctx := 0
  ended := false
  joined := false
  lexit := false
  points := []
  owner := none
  freeing := []
  given := []
  esc := false
  entry := 0
  wide := none
  nre := 0
  joinedAs := none

/-- Allocate colour `c` with a frame at a firing; a discard gives it back (08 R154). -/
def claimColour (c : Fx) (col : Nat) (fr : Frame) : Prog :=
  .all [ forgetDraws c.tid col,
    .upd (.task c.tid fun o => o.map fun t => { t with frames := t.frames ++ [(col, fr)] }),
    onUnit c.n c.ut fun u => { u with claims := .colour col :: u.claims } ]

/-- A FLOW_FAULT at the firing (08 R155). -/
def flowFault (draw reason : Nat) : Plan := .fault draw 0x10 0 (BitVec.ofNat 64 reason)

/-- An exit that is taken: noted in its unit; it acts at commit. -/
def takeExit (i : Instr) (c : Fx) (dest colour : Nat) (before : Prog) : Plan :=
  .act 4 (.seq before (onUnit c.n c.ut fun u => { u with exit := some ⟨c.q, i, dest, colour⟩ }))

/-- The frame of an exit form (08 R157): a null operand or a closed gate passes it over; a second taken exit is FLOW_FAULT 0x09. -/
def exitForm (i : Instr) (taken : Fx → Plan) (s : State) : Host.Outcome State Fault Refusal :=
  fire i (fun c => match c.mode false with
    | .null | .closed => .act 4 .skip
    | .go _ => if c.u.exit.isSome then flowFault 4 9 else taken c) s

/-- CALL and CALLI (08 R157, R158): the colour is taken at the firing, and waited for. -/
def callPlan (i : Instr) (c : Fx) (dest : Nat) : Plan :=
  match c.t.freeColour with
  | none => .wait
  | some col =>
    let r := splitDest c.m.blk.pc (nextBlock c.m.blk.pc c.m.blk.ins.length)
    takeExit i c dest col (claimColour c col { Frame.make .call (ctagOf c.nd c.m) with
      ret := r.1
      wide := r.2 })

/-- BRI and CALLI take their destination from the left scalar, bits 5:0 ignored (07 R133). -/
def absDest (c : Fx) : Nat := (optScalar c.l).toNat / 64 * 64

/-- BR (08 R158). -/
def execBr (f : FmtB) (s : State) := exitForm (.br f) (fun c => takeExit (.br f) c (relDest c.m.blk.pc f.boff) 0 .skip) s
/-- BRI (08 R158). -/
def execBri (f : FmtB) (s : State) := exitForm (.bri f) (fun c => takeExit (.bri f) c (absDest c) 0 .skip) s
/-- CALL (08 R158). -/
def execCall (f : FmtB) (s : State) := exitForm (.call f) (fun c => callPlan (.call f) c (relDest c.m.blk.pc f.boff)) s
/-- CALLI (08 R158). -/
def execCalli (f : FmtB) (s : State) := exitForm (.calli f) (fun c => callPlan (.calli f) c (absDest c)) s
/-- RET (08 R158): colour 0 is FLOW_FAULT 0x05 at the firing. -/
def execRet (f : FmtB) (s : State) := exitForm (.ret f) (fun c =>
  if tagColour (ctagOf c.nd c.m) = 0 then flowFault 4 5 else takeExit (.ret f) c 0 0 .skip) s
/-- HALT (08 R158): a spawned context is FLOW_FAULT 0x08 at the firing. -/
def execHalt (f : FmtB) (s : State) := exitForm (.halt f) (fun c =>
  if c.m.blk.ctx = 0 then takeExit (.halt f) c 0 0 .skip else flowFault 4 8) s

/-! ## GRAPH -/

/-- The draw of a GRAPH form (08 R172). -/
def graphDraw (c : Fx) : Nat := if c.h.plane = 0 then 4 else 24 * (if c.h.plane = 2 then c.k + 1 else 1)

/-- Data under the lane gate of a V or J form; scalars and W beats pass whole (08 R173). -/
def gated (c : Fx) (g : BitVec 16) (d : TokData) : Option TokData :=
  match d with
  | .scalar _ => some d
  | .beats bs m => if c.h.plane = 3 then some d else laneGate c.h g c.l bs m

/-- A form that emits one datum and does nothing else; a null operand gives a null token, a closed gate nothing. -/
def moveForm (i : Instr) (d : Fx → TokData) (s : State) : Host.Outcome State Fault Refusal :=
  fire i (fun c => match c.mode false with
    | .null => c.nullPlan (graphDraw c)
    | .closed => .act (graphDraw c) .skip
    | .go g => match gated c g (d c) with
      | none => .act (graphDraw c) .skip
      | some x => c.emitPlan (graphDraw c) x false .skip) s

/-- The data of the left operand. -/
def leftData (c : Fx) : TokData := (c.l.map fun t => t.data).getD (.scalar 0)

/-- MOV (08 R161). -/
def execMov (f : FmtG) (s : State) := moveForm (.mov f) leftData s
/-- CONST (08 R161). -/
def execConst (f : FmtG) (s : State) := moveForm (.const f) (fun c =>
  if c.h.plane = 0 then .scalar f.imm else vecData (Vec.fill (f.imm.setWidth 32)) 0xFFFF) s
/-- NULL (08 R171): a null token of its plane. -/
def execNull (f : FmtG) (s : State) := fire (.null f) (fun c => match c.mode false with
  | .null => c.nullPlan (graphDraw c)
  | .closed => .act (graphDraw c) .skip
  | .go g => if !(c.h.pmode = 0) && (c.h.plane = 1 || c.h.plane = 2) && (optMask c.l &&& g) = 0 && (c.l.map Tok.beats).getD 0 > 0
             then .act (graphDraw c) .skip else c.nullPlan (graphDraw c)) s

/-- Emit under a tag that the form itself gives (08 R162–R166). -/
def emitUnder (c : Fx) (tag : Tag) (d : TokData) (null : Bool) (before : Prog) : Plan :=
  .act (graphDraw c) (.seq before (c.emit tag d null))

/-- A loop or tag form (08 R162–R165, R171): null tokens take the same tag changes and slot effects; a closed gate has none. -/
def tagForm (i : Instr) (plan : Fx → TokData → Bool → Plan) (s : State) : Host.Outcome State Fault Refusal :=
  fire i (fun c => match c.mode false with
    | .null => plan c (nullData c.h.plane.toNat c.k) true
    | .closed => .act (graphDraw c) .skip
    | .go g => match gated c g (leftData c) with
      | none => .act (graphDraw c) .skip
      | some d => plan c d false) s

/-- The colour that an earlier LENTER of the same block pass took for tag T (08 R162). -/
def passColour (c : Fx) : Option Nat :=
  c.u.claims.findSome? fun cl => match cl with
    | .colour x => (match c.t.frame x with
        | some fr => if fr.kind = .loop && fr.parent = c.tag then some x else none
        | none => none)
    | _ => none

/-- LENTER (08 R162). -/
def lenterPlan (f : FmtG) (c : Fx) (d : TokData) (null : Bool) : Plan :=
  match passColour c with
  | some x => emitUnder c (mkTag x 0) d null .skip
  | none => match c.t.freeColour with
    | none => .wait
    | some x => emitUnder c (mkTag x 0) d null (claimColour c x { Frame.make .loop c.tag with
        win := f.win.toNat, free := f.win.toNat - 1, live := [0] })

/-- The plan of a tag result: wait, FLOW_FAULT, or emission under the tag. -/
def tagPlan (c : Fx) (r : TagRes) (d : TokData) (null : Bool) (before : Prog) : Plan :=
  match r with
  | .wait => .wait
  | .fault e => flowFault (graphDraw c) e
  | .ok t cl => emitUnder c t d null (.seq before (takeClaim c.tid c.n c.ut cl))

/-- LENTER (08 R162). -/
def execLenter (f : FmtG) (s : State) := tagForm (.lenter f) (lenterPlan f) s
/-- INEXT (08 R163). -/
def execInext (f : FmtG) (s : State) := tagForm (.inext f) (fun c d z => tagPlan c (tagRes c.t c.tag 1) d z .skip) s
/-- IPREV (08 R163). -/
def execIprev (f : FmtG) (s : State) := tagForm (.iprev f) (fun c d z => tagPlan c (tagRes c.t c.tag 2) d z .skip) s
/-- LEXIT (08 R164): counts for freeing the colour at its commit. -/
def execLexit (f : FmtG) (s : State) := tagForm (.lexit f) (fun c d z =>
  tagPlan c (tagRes c.t c.tag 4) d z (addAct c.n c.ut c.q c.tag (.lexit (tagColour c.tag)))) s

/-- The tag space of a TALLOC and the colour of its operand (08 R165). -/
def spaceOf (c : Fx) : Option (Nat × Frame) :=
  c.t.frames.find? fun f => decide (f.2.kind = .tagSpace) && decide (f.2.owner = some (nodeM c.t c.n, c.m.blk.pc.toNat, c.q, tagColour c.tag))

/-- TALLOC gives out iteration `j` of a space (08 R165). -/
def giveTag (c : Fx) (x j : Nat) : Prog :=
  .seq (takeClaim c.tid c.n c.ut (some (.slot x j)))
    (.upd (.task c.tid fun o => o.map fun t => t.onFrame x fun f => { f with given := f.given ++ [j] }))

/-- TALLOC (08 R165): the lowest free iteration of the space; it waits while none is free. An iteration below WIN that is not live is free, whatever
the slot counter holds (DESIGN CHOICE, log 85). -/
def tallocPlan (f : FmtG) (c : Fx) (d : TokData) (null : Bool) : Plan :=
  match spaceOf c with
  | some (x, fr) => match (List.range fr.win).find? (fun j => !(fr.live.contains j)) with
    | none => .wait
    | some j => emitUnder c (mkTag x j) d null (giveTag c x j)
  | none => match c.t.freeColour with
    | none => .wait
    | some x => emitUnder c (mkTag x 0) d null (.seq
        (claimColour c x { Frame.make .tagSpace c.tag with
          win := f.win.toNat, free := f.win.toNat, owner := some (nodeM c.t c.n, c.m.blk.pc.toNat, c.q, tagColour c.tag) })
        (giveTag c x 0))

/-- TALLOC (08 R165). -/
def execTalloc (f : FmtG) (s : State) := tagForm (.talloc f) (tallocPlan f) s

/-- TFREE (08 R155, R165): the slot is marked to be freed; a tag that TALLOC did not allocate (one that ITER stepping made live), or freed already,
is FLOW_FAULT 0x06. -/
def execTfree (f : FmtG) (s : State) := fire (.tfree f) (fun c => match c.mode false with
  | .null | .closed => .act (graphDraw c) .skip
  | .go _ => match c.t.frame (tagColour c.tag) with
    | none => flowFault 4 6
    | some fr =>
      if fr.kind = .tagSpace && fr.given.contains (tagIter c.tag) && !(fr.freeing.contains (tagIter c.tag)) then
        .act 4 (.seq (.upd (.task c.tid fun o => o.map fun t => t.onFrame (tagColour c.tag) fun x =>
            { x with freeing := x.freeing ++ [tagIter c.tag] }))
          (onUnit c.n c.ut fun u => { u with claims := .freeTag (tagColour c.tag) (tagIter c.tag) :: u.claims }))
      else flowFault 4 6) s

/-- The contexts that the image gives a node (16 R317). -/
def ctxLimit (c : Fx) : Nat :=
  match c.t.img.bound.find? (fun b => nodeAt (c.t.x + b.x) (c.t.y + b.y) == c.n) with
  | some b => b.contexts
  | none => 1

/-- Whether a SPAWN of any uncommitted unit of the block has taken a context. -/
def ctxTaken (m : Mapped) (k : Nat) : Bool :=
  m.units.any fun u => u.acts.any fun a => match a.act with
    | .spawn x _ _ _ => x == k
    | _ => false

/-- The lowest context that is free and that no SPAWN has taken (08 R166 says a free one; DESIGN CHOICE, log 85). -/
def freeCtx (c : Fx) : Option Nat :=
  ((List.range (ctxLimit c)).filter fun k => 1 ≤ k).find? fun k => decide ((c.nd.ctx k).st = .none) && !ctxTaken c.m k

/-- SPAWN (08 R166): it waits for a colour and a context; the handle goes under T, or under (c, T.ITER) with TAGOP 0101.
A null handle allocates no colour and goes under T with either (08 R171; DESIGN CHOICE, log 85). -/
def execSpawn (f : FmtG) (s : State) := fire (.spawn f) (fun c => match c.mode false with
  | .null => c.emitPlan (graphDraw c) (.scalar 0) true .skip
  | .closed => .act (graphDraw c) .skip
  | .go _ => match c.t.freeColour, freeCtx c with
    | some x, some k =>
      let e := splitDest c.m.blk.pc (relDest c.m.blk.pc (f.imm.extractLsb' 0 60))
      let fr := { Frame.make .spawn c.tag with node := nodeM c.t c.n, ctx := k, entry := e.1, wide := e.2 }
      emitUnder c (if f.h.tagop = 5 then mkTag x (tagIter c.tag) else c.tag) (.scalar (BitVec.ofNat 64 x)) false
        (.seq (claimColour c x fr) (addAct c.n c.ut c.q c.tag (.spawn k x e.1 e.2)))
    | _, _ => .wait) s

/-- The spawn colour that a handle names on this node, through re-issues (08 R167, 24 R398). -/
def joinable (c : Fx) (hdl : Word) : Option Nat :=
  let x := field hdl 0 12
  if !(field hdl 12 52 = 0) then none
  else match c.t.frame x with
    | some fr => if fr.kind = .spawn && fr.node = nodeM c.t c.n && !fr.joined &&
        !(c.m.units.any fun u => u.acts.any fun a => decide (a.act = .join x)) then some x else none
    | none => none

/-- JOIN (08 R167): acts at commit; a null handle has no effect. -/
def execJoin (f : FmtG) (s : State) := fire (.join f) (fun c => match c.mode false with
  | .null | .closed => .act (graphDraw c) .skip
  | .go _ => match joinable c (optScalar c.l) with
    | some x => .act 4 (addAct c.n c.ut c.q c.tag (.join x))
    | none => flowFault 4 7) s

/-! ## Global registers (08 R168, R170) -/

/-- Whether a register read may go on: it is full, and in a loop-resident block every earlier iteration has committed. -/
def regReady (c : Fx) (g : Nat) : Bool :=
  (if g < 64 then (c.nd.sreg g).full else if g < 96 then (c.nd.vreg (g - 64)).full else true) &&
  (!c.m.loop || decide (tagIter c.tag = commitPoint c.t (tagColour c.tag) c.n c.m.blk.pc))

/-- The value of a register as a token's data (01 R29, 08 R170). -/
def regData (nd : Node) (plane : BitVec 2) (g : Nat) : TokData :=
  if g < 64 then .scalar (nd.sreg g).val
  else if g < 96 then vecData (Vec.mk fun k => Vec.lane (nd.vreg (g - 64)).val k) 0xFFFF
  else if plane = 0 then .scalar (if (nd.preg (g - 96)).getLsbD 0 then 1 else 0)
  else vecData (Vec.mk fun k => if (nd.preg (g - 96)).getLsbD k then 1 else 0) 0xFFFF

/-- Whether a register's parity has failed (24 R394). -/
def regBad (nd : Node) (g : Nat) : Bool := if g < 64 then !(nd.sreg g).par else g < 96 && !(nd.vreg (g - 64)).par

/-- GETG, and EMPTY which in addition marks the register empty at commit (08 R168). -/
def getPlan (f : FmtG) (empties : Bool) (c : Fx) : Plan :=
  let g := field f.imm 0 7
  match c.mode false with
  | .null => c.nullPlan (graphDraw c)
  | .closed => .act (graphDraw c) .skip
  | .go m =>
    if !regReady c g then .wait
    else if regBad c.nd g then .hold (tokenError c.n c.n c.tid (tagColour (ctagOf c.nd c.m))
      (mkFault c.nd 0x70 c.q c.tag 0 (parityInfo (nodeX c.n) (nodeY c.n) 2 .data)))
    else match gated c m (regData c.nd f.h.plane g) with
      | none => .act (graphDraw c) .skip
      | some d => c.emitPlan (graphDraw c) d false
          (Prog.when empties (addAct c.n c.ut c.q c.tag (.empty g)))

/-- GETG (08 R168). -/
def execGetg (f : FmtG) (s : State) := fire (.getg f) (getPlan f false) s
/-- EMPTY (08 R168). -/
def execEmpty (f : FmtG) (s : State) := fire (.empty f) (getPlan f true) s

/-- PUTG (08 R168, R170): writes at commit and passes its operand on; firing twice in one unit is FLOW_FAULT 0x0A. A firing that writes nothing, by
a closed gate or a null operand, is not one of the two; a V-plane write takes the operand as the lane gate leaves it, so that a closed lane of Pn
gets 0 (DESIGN CHOICE, log 85). -/
def execPutg (f : FmtG) (s : State) := fire (.putg f) (fun c => match c.mode false with
  | .null => c.nullPlan (graphDraw c)
  | .closed => .act (graphDraw c) .skip
  | .go g =>
    if c.u.acts.any (fun a => a.q == c.q && (match a.act with
        | .putg _ _ => true
        | _ => false)) then flowFault (graphDraw c) 0x0A
    else match gated c g (leftData c) with
      | none => .act (graphDraw c) .skip
      | some d => c.emitPlan (graphDraw c) d false (addAct c.n c.ut c.q c.tag (.putg (field f.imm 0 7) d))) s

end Sys2Proof.Machine
end

