-- ==== Sys2Proof/Machine/Flags.lean ====
section
/-! DEFINITION. The flags of a computing firing (02 R55, R57), its trap (22 R370), and the common frame of the arithmetic forms:
lanes, masks, pass-through and the gate (09 R182, 08 R173). -/

namespace Sys2Proof.Machine
open Sys2Proof.Bits

/-- The result of one lane or scalar: a value for each result beat, and the flags for each coefficient that raised any. -/
structure LaneOut where
  vals : List Nat
  fls : List (Nat × Num.Flags)
  deriving DecidableEq, Repr

/-- One value and its flags, of coefficient 0. -/
def LaneOut.one (r : Nat × Num.Flags) : LaneOut := ⟨[r.1], [(0, r.2)]⟩
/-- One value without flags. -/
def LaneOut.pure (x : Nat) : LaneOut := ⟨[x], []⟩
/-- The values of a jet with the flags of each coefficient. -/
def LaneOut.jet (rs : List (Nat × Num.Flags)) : LaneOut := ⟨rs.map fun r => r.1, rs.zipIdx.map fun e => (e.2, e.1.2)⟩

/-- The flags that trap (22 R370): invalid, divide-by-zero, overflow. -/
def trapFlags : Num.Flags := Num.NV ||| Num.DZ ||| Num.OF

/-- The OR of a list of flags. -/
def orFlags (l : List Num.Flags) : Num.Flags := l.foldl (fun a b => a ||| b) 0

/-- The flags by lane and coefficient that a firing has raised. -/
abbrev Raised := List (Nat × Nat × Num.Flags)

/-- FSINFO of FP_TRAP (22 R370). -/
def trapInfo (jet : Bool) (r : Raised) : Word :=
  let hit := r.filter fun e => !(e.2.2 &&& trapFlags = 0)
  let lanes := maskOf fun l => hit.any fun e => e.1 == l
  let coef := match (hit.map fun e => e.2.1) with
    | [] => 0
    | x :: xs => xs.foldl (fun a b => if b < a then b else a) x
  BitVec.ofNat 64 (lanes.toNat * 2 ^ 24 + (if jet then 256 + coef % 8 * 32 else 0) + (orFlags (r.map fun e => e.2.2)).toNat)

/-- Whether a firing traps: XM 01 and one of the three flags. -/
def traps (h : Hdr) (r : Raised) : Bool := h.xm = 1 && r.any fun e => !(e.2.2 &&& trapFlags = 0)

/-- JFLAGS bits of raised flags: coefficient j in bits 8j + 4 : 8j (02 R55). -/
def jflagBits (r : Raised) : Word :=
  r.foldl (fun w e => w ||| BitVec.ofNat 64 (e.2.2.toNat * 2 ^ (8 * (e.2.1 % 8)))) 0

/-- Note raised flags in the unit; they reach FPSTAT or JFLAGS at commit (02 R55). -/
def noteFlags (c : Fx) (r : Raised) : Prog :=
  Prog.when (r.any fun e => !(e.2.2 = 0))
    (onUnit c.n c.ut fun u =>
      if c.h.plane = 2 then { u with jFlags := u.jFlags ||| jflagBits r }
      else { u with fpFlags := u.fpFlags ||| orFlags (r.map fun e => e.2.2) })

/-- Finish a firing with data and flags: it traps, or notes its flags and emits. -/
def Fx.finish (c : Fx) (draw : Nat) (r : Raised) (d : TokData) : Plan :=
  if traps c.h r then .fault draw 0x20 0 (trapInfo (c.h.plane = 2) r)
  else c.emitPlan draw d false (noteFlags c r)

/-- An S-plane result. -/
def scalarOut (c : Fx) (draw : Nat) (o : LaneOut) : Plan :=
  c.finish draw (o.fls.map fun e => (0, e.1, e.2)) (.scalar (BitVec.ofNat 64 (o.vals.getD 0 0)))

/-- A V- or J-plane result of `nb` beats: lanes of `comp` are computed, the others carry the left operand's lane in every beat
and raise no flag (09 R182); then the gate acts (08 R173), unless slot 11 is data. -/
def lanesOut (c : Fx) (draw : Nat) (gate : Bool) (g mask comp : BitVec 16) (nb : Nat) (lane : Nat → LaneOut) : Plan :=
  let outs := (List.range 16).map fun l => if comp.getLsbD l then some (lane l) else none
  let beats := (List.range nb).map fun j => Vec.mk fun l =>
    match outs.getD l none with
    | some o => BitVec.ofNat 32 (o.vals.getD j 0)
    | none => Vec.lane (optBeat c.l j) l
  let raised : Raised := outs.zipIdx.flatMap fun e => match e.1 with
    | some o => o.fls.map fun x => (e.2, x.1, x.2)
    | none => []
  match (if gate then laneGate c.h g c.l beats mask else some (.beats beats mask)) with
  | none => .act draw .skip
  | some d => c.finish draw raised d

/-- The rounding mode in force (02 R48): RM 110 is RMODE as it stood at map. -/
def Fx.rm (c : Fx) (rm : BitVec 3) : Nat := if rm = 6 then field c.m.snap.rmode 0 3 else rm.toNat

/-! ## Operands of format A -/

/-- The right operand of a scalar form: the immediate, or the token (07 R130). -/
def rightScalar (c : Fx) (f : FmtA) : Word := if f.immr = 1 then f.imm else optScalar c.r
/-- Coefficient `j` of lane `l` of the right operand (07 R130). -/
def rightLane (c : Fx) (f : FmtA) (j l : Nat) : Lane :=
  if f.immr = 1 then (if j = 0 then f.imm.setWidth 32 else 0) else Vec.lane (optBeat c.r j) l
/-- The mask of the right operand; an immediate's is all ones. -/
def rightMask (c : Fx) (f : FmtA) : BitVec 16 := if f.immr = 1 then 0xFFFF else optMask c.r

/-- The AND of the data operands' masks (09 R182). -/
def dataMask (i : Instr) (c : Fx) (f : FmtA) : BitVec 16 :=
  optMask c.l &&& (if rightSlot i then rightMask c f else 0xFFFF) &&& (if thirdData i then optMask c.p else 0xFFFF)

/-- The frame of a format A form that gates: null, closed, open. -/
def gateForm (i : Instr) (plan : Fx → BitVec 16 → Plan) (s : State) : Host.Outcome State Fault Refusal :=
  fire i (fun c => match c.mode (thirdData i) with
    | .null => c.nullPlan (formDraw i c.k)
    | .closed => .act (formDraw i c.k) .skip
    | .go g => plan c g) s

/-- An element-by-element form of the S and V planes: `elem cont a b x` computes one element in a container of `cont` bits; `x`
is the third operand of slot 11. -/
def elemForm (i : Instr) (f : FmtA) (elem : Fx → Nat → Nat → Nat → Nat → LaneOut) (s : State) :
    Host.Outcome State Fault Refusal :=
  gateForm i (fun c g =>
    let draw := formDraw i c.k
    if c.h.plane = 0 then
      scalarOut c draw (elem c 64 (optScalar c.l).toNat (rightScalar c f).toNat (optScalar c.p).toNat)
    else
      let m := dataMask i c f
      lanesOut c draw (!thirdData i) g m m 1 fun l =>
        elem c 32 (Vec.lane (optBeat c.l 0) l).toNat (rightLane c f 0 l).toNat (Vec.lane (optBeat c.p 0) l).toNat) s

/-- The coefficients of lane `l` of a token. -/
def jetOf (t : Option Tok) (k l : Nat) : List Nat := (List.range (k + 1)).map fun j => (Vec.lane (optBeat t j) l).toNat
/-- The coefficients of lane `l` of the right operand. -/
def rightJet (c : Fx) (f : FmtA) (l : Nat) : List Nat := (List.range (c.k + 1)).map fun j => (rightLane c f j l).toNat

/-- A form that has in addition a J-plane meaning over whole jets `a`, `b`, `x` (02 R57, R58; 09 R197; 10 R207). -/
def jetForm (i : Instr) (f : FmtA) (elem : Fx → Nat → Nat → Nat → Nat → LaneOut)
    (jet : Fx → List Nat → List Nat → List Nat → LaneOut) (s : State) : Host.Outcome State Fault Refusal :=
  if planeOf i = 2 then
    gateForm i (fun c g =>
      let m := dataMask i c f
      lanesOut c (formDraw i c.k) (!thirdData i) g m m (c.k + 1) fun l =>
        jet c (jetOf c.l c.k l) (rightJet c f l) (jetOf c.p c.k l)) s
  else elemForm i f elem s

end Sys2Proof.Machine
end

