-- ==== Sys2Proof/Machine/Arith.lean ====
section
/-! DEFINITION. Floating-point arithmetic on single values (09 R192–R196, R199, R200, R202, R203): data in, data and flags out. -/

namespace Sys2Proof.Num

/-- Signalling operands raise invalid (02 R40). -/
def snanFlag (vs : List FVal) : Flags := if vs.any FVal.isSnan then NV else 0

/-- ±1 as a value: the unit term. -/
def FVal.one : FVal := .fin false 1 0

/-- a + b, or a − b. -/
def fadd (f : Fmt) (rm : Nat) (sat neg : Bool) (a b : Nat) : Nat × Flags :=
  let y := decode f b
  deliver f rm sat (sumVals rm [decode f a, if neg then y.neg else y])

/-- a·b. -/
def fmul (f : Fmt) (rm : Nat) (sat : Bool) (a b : Nat) : Nat × Flags := deliver f rm sat (mulVal (decode f a) (decode f b))

/-- ±(a·b) ± c with one rounding (09 R192). -/
def ffma (f : Fmt) (rm : Nat) (sat negP negC : Bool) (a b c : Nat) : Nat × Flags :=
  let p := mulVal (decode f a) (decode f b)
  let z := decode f c
  let r := sumVals rm [if negP then p.1.neg else p.1, if negC then z.neg else z]
  deliver f rm sat (r.1, p.2 || r.2)

/-- The quotient of two values, before rounding (09 R192): a special result with its flags, or a magnitude with a rest. -/
inductive Quot where
  | val (v : FVal) (fl : Flags)
  | mag (neg : Bool) (m : Nat) (e : Int) (sticky : Bool)
  deriving DecidableEq, Repr

/-- a / b. -/
def quotVal (a b : FVal) : Quot :=
  match a, b with
  | .nan s, .nan t => .val (.nan false) (if s || t then NV else 0)
  | .nan s, _ => .val (.nan false) (if s then NV else 0)
  | _, .nan t => .val (.nan false) (if t then NV else 0)
  | .inf _, .inf _ => .val (.nan false) NV
  | .inf n, .fin n' _ _ => .val (.inf (n != n')) 0
  | .fin n _ _, .inf n' => .val (.fin (n != n') 0 0) 0
  | .fin n m e, .fin n' m' e' =>
    if m' = 0 then (if m = 0 then .val (.nan false) NV else .val (.inf (n != n')) DZ)
    else if m = 0 then .val (.fin (n != n') 0 0) 0
    else let q := divDy (m : Int) e (m' : Int) e'
         .mag (n != n') q.1 q.2.1 q.2.2

/-- √a. -/
def sqrtVal (a : FVal) : Quot :=
  match a with
  | .nan s => .val (.nan false) (if s then NV else 0)
  | .inf n => if n then .val (.nan false) NV else .val (.inf false) 0
  | .fin n m e =>
    if m = 0 then .val (.fin n 0 0) 0
    else if n then .val (.nan false) NV
    else let q := sqrtDy m e
         .mag false q.1 q.2.1 q.2.2

/-- 1/√a: ±0 gives ±∞ with divide-by-zero, +∞ gives +0. -/
def rsqrtVal (a : FVal) : Quot :=
  match a with
  | .nan s => .val (.nan false) (if s then NV else 0)
  | .inf n => if n then .val (.nan false) NV else .val (.fin false 0 0) 0
  | .fin n m e =>
    if m = 0 then .val (.inf n) DZ
    else if n then .val (.nan false) NV
    else
      let odd := e % 2
      let m := m * 2 ^ odd.toNat
      let k := workBits + bitLen m
      let r := isqrt (k + 1) (2 ^ (2 * k) / m) 0
      .mag false r (-((e - odd) / 2) - k) (decide (r * r * m ≠ 2 ^ (2 * k)))

/-- Deliver a quotient or root with one rounding. -/
def deliverQuot (f : Fmt) (rm : Nat) (sat : Bool) (q : Quot) : Nat × Flags :=
  match q with
  | .val v fl => let r := deliver f rm sat (v, false)
                 (r.1, r.2 ||| fl)
  | .mag n m e st => roundTo f rm sat n m e st

/-- FMIN and FMAX (09 R193). -/
def fminmax (f : Fmt) (max : Bool) (a b : Nat) : Nat × Flags :=
  let x := decode f a
  let y := decode f b
  let w := 2 ^ f.bits
  let r := if x.isNan && y.isNan then f.nan else if x.isNan then b % w else if y.isNan then a % w
    else if (if max then ltVal x y else ltVal y x) then b % w else a % w
  (r, snanFlag [x, y])

/-- The sign bit of a datum. -/
def signBit (f : Fmt) (a : Nat) : Bool := a / 2 ^ (f.bits - 1) % 2 = 1
/-- A datum with its sign set to `n`; a NaN gives the canonical NaN (09 R193). -/
def withSign (f : Fmt) (n : Bool) (a : Nat) : Nat :=
  if (decode f a).isNan then f.nan else a % 2 ^ (f.bits - 1) + (if n then 2 ^ (f.bits - 1) else 0)

/-- FCLASS (09 R194). -/
def fclass (f : Fmt) (a : Nat) : Nat :=
  match decode f a with
  | .nan s => if s then 256 else 512
  | .inf n => if n then 1 else 128
  | .fin n m _ =>
    if m = 0 then (if n then 8 else 16)
    else if m < 2 ^ f.mb then (if n then 4 else 32) else (if n then 2 else 64)

/-- FRINT (09 R195): under VAR 001 (`nox`) no flag is raised. -/
def frint (f : Fmt) (rm : Nat) (nox : Bool) (a : Nat) : Nat × Flags :=
  match decode f a with
  | .nan s => (f.nan, if s && !nox then NV else 0)
  | .inf n => (f.inf n, 0)
  | .fin n m e =>
    if 0 ≤ e then (a % 2 ^ f.bits, 0)
    else
      let r := roundAt rm n m e 0 false
      ((roundFin f 0 false n r.1 0).1, if r.2 && !nox then NX else 0)

/-- FSCALE by n (09 R196). Beyond ±4200 the result no longer changes, for every format. -/
def fscale (f : Fmt) (rm : Nat) (sat : Bool) (a : Nat) (n : Int) : Nat × Flags :=
  let n := if n < -4200 then -4200 else if 4200 < n then 4200 else n
  match decode f a with
  | .fin s m e => roundFin f rm sat s m (e + n)
  | v => deliver f rm sat (v, v.isSnan)

/-! ## Conversions (09 R199) -/

/-- The source type of VAR (09 R198) as a TY code. -/
def cvtSource (var : Nat) : Nat :=
  match var with
  | 0 => 3 | 1 => 4 | 2 => 5 | 3 => 6 | 4 => 7 | 5 => 8 | 6 => 9 | _ => 10

/-- A value as an exact integer or NaN, rounded to an integral value: NaN, ±∞, or the integer and whether it moved. -/
def toInteger (rm : Nat) (v : FVal) : Option (Option Bool × Int × Bool) :=
  match v with
  | .nan _ => none
  | .inf n => some (some n, 0, false)
  | .fin n m e =>
    if 0 ≤ e then some (none, signed n (m * 2 ^ e.toNat), false)
    else let r := roundAt rm n m e 0 false
         some (none, signed n r.1, r.2)

/-- CVT (09 R199): source type `src`, destination type `dst`, into a container of `cont` bits. -/
def cvt (cont dst src rm : Nat) (sat : Bool) (x : Nat) : Nat × Flags :=
  let clamp := fun (y : Int) => if y < intLo dst then intLo dst else if intHi dst < y then intHi dst else y
  if isFloat dst then
    if isFloat src then
      let v := decode (fmtOf src) x
      if dst = src && !v.isNan then (x % 2 ^ width src, 0) else convert (fmtOf dst) rm sat v
    else let v := readInt src x
         roundFin (fmtOf dst) rm sat (v < 0) v.natAbs 0
  else if !isFloat src then
    let v := readInt src x
    (writeInt cont dst (if sat then clamp v else v), 0)
  else match toInteger rm (decode (fmtOf src) x) with
    | none => (writeInt cont dst (if sat then 0 else intLo dst), NV)
    | some (some n, _, _) => (writeInt cont dst (if sat then (if n then intLo dst else intHi dst) else intLo dst), NV)
    | some (none, y, moved) =>
      if y < intLo dst || intHi dst < y then (writeInt cont dst (if sat then clamp y else intLo dst), NV)
      else (writeInt cont dst y, if moved then NX else 0)

/-- CVTSR (02 R50): stochastic rounding with the random word `u`. DESIGN CHOICE: UF is raised on an inexact result whose delivered
magnitude lies below the smallest normal number (log 72). -/
def cvtsr (dst src : Nat) (sat : Bool) (x u : Nat) : Nat × Flags :=
  let f := fmtOf dst
  match decode (fmtOf src) x with
  | .fin n m e =>
    if m = 0 then roundFin f 0 sat n m e
    else
      let top := e + (bitLen m : Int) - 1
      let q := (if top < f.emin then f.emin else top) - f.mb
      if q ≤ e then roundFin f 0 sat n m e
      else
        let sh := (q - e).toNat
        let lo := m / 2 ^ sh
        let rest := m % 2 ^ sh
        if rest = 0 then roundFin f 0 sat n m e
        else
          let d := rest * 2 ^ 32 / 2 ^ sh
          let mag := if 2 ^ 32 ≤ d + u % 2 ^ 32 then lo + 1 else lo
          let r := roundFin f (if sat then 1 else 0) sat n mag q
          let tiny := decide (mag < 2 ^ f.mb)
          (r.1, r.2 ||| (if d = 0 then 0 else NX) ||| (if tiny && !(d = 0) then UF else 0))
  | v => convert f 0 sat v

/-! ## Packed FP4 (09 R202, R203) -/

/-- The E2M1 code of a lane over a block scale, and its flags (09 R202); `s` is not zero and not invalid. -/
def packCode (rm : Nat) (x scale : Nat) : Nat × Flags :=
  let s := e3m5 scale
  match quotVal (decode fp32 x) (.fin false s.1 s.2) with
  | .mag n m e st => roundTo e2m1 rm false n m e st
  | .val (.fin n _ _) _ => (e2m1.zero n, 0)
  | .val v _ => convert e2m1 rm false v

/-- Whether a block scale gives no codes: 0xFF, or zero (09 R202). -/
def noScale (scale : Nat) : Bool := scale = 255 || scale = 0

/-- The FP32 value of a code under a block scale (09 R203): exact. -/
def unpackCode (code scale : Nat) : Nat :=
  if scale = 255 then fp32.nan
  else match decode e2m1 code with
    | .fin n m e => let s := e3m5 scale
                    (roundFin fp32 0 false n (m * s.1) (e + s.2)).1
    | _ => fp32.nan

end Sys2Proof.Num
end

