-- ==== Sys2Proof/Machine/SpecFun.lean ====
section
/-! DEFINITION. The nine special functions (10 R205, R206): correctly rounded. A function is enclosed between two neighbouring
fixed-point numbers at a growing precision until both ends round alike. -/

namespace Sys2Proof.Num

/-! ## Fixed-point kernels: numbers are integers in units of 2^-P -/

/-- Σ t^(2n+1)/(2n+1)·s^n, s = ±1: the odd series of atanh (s = 1) or atan (s = −1); `t2` is t², `term` the present power. -/
def oddSeries : Nat → Nat → Bool → Int → Int → Int → Int → Int
  | 0, _, _, _, _, _, acc => acc
  | fuel + 1, P, alt, t2, term, n, acc =>
    if term = 0 then acc else
    oddSeries fuel P alt t2 (term * t2 / 2 ^ P) (n + 1) (acc + (if alt && n % 2 = 1 then -1 else 1) * (term / (2 * n + 1)))

/-- atan or atanh of 1/k in units of 2^-P. -/
def invSeries (P : Nat) (alt : Bool) (k : Nat) : Int :=
  let t : Int := 2 ^ P / k
  oddSeries (P + 8) P alt (2 ^ P / (k * k)) t 0 0

/-- Guard bits of the constants. -/
def guard : Nat := 32

/-- ln 2 in units of 2^-P: 2·atanh(1/3). -/
def ln2Fix (P : Nat) : Int := 2 * invSeries (P + guard) false 3 / 2 ^ guard
/-- π in units of 2^-P: 16·atan(1/5) − 4·atan(1/239). -/
def piFix (P : Nat) : Int := (16 * invSeries (P + guard) true 5 - 4 * invSeries (P + guard) true 239) / 2 ^ guard

/-- Σ term·x^n/n! from n on. -/
def expSeries : Nat → Nat → Int → Int → Int → Int → Int
  | 0, _, _, _, _, acc => acc
  | fuel + 1, P, x, term, n, acc => if term = 0 then acc else expSeries fuel P x (term * x / 2 ^ P / n) (n + 1) (acc + term)

/-- exp of a fixed-point number of [0, 1). -/
def expFix (P : Nat) (r : Int) : Int := expSeries (P + 8) P r (2 ^ P) 1 0

/-- Σ (−1)^n x^(2n+a)/(2n+a)!: cosine (a = 0) or sine (a = 1). -/
def trigSeries : Nat → Nat → Int → Int → Int → Int → Int
  | 0, _, _, _, _, acc => acc
  | fuel + 1, P, x2, term, n, acc =>
    if term = 0 then acc else trigSeries fuel P x2 (-(term * x2 / 2 ^ P / ((n + 1) * (n + 2)))) (n + 2) (acc + term)

/-- Σ (−1)^n z^n/(n!(2n+1)). -/
def erfSeries : Nat → Nat → Int → Int → Int → Int → Int
  | 0, _, _, _, _, acc => acc
  | fuel + 1, P, z, term, n, acc =>
    if term = 0 then acc else erfSeries fuel P z (-(term * z / 2 ^ P / (n + 1))) (n + 1) (acc + term / (2 * n + 1))

/-- m·2^e in units of 2^-P, rounded down. -/
def toFix (P : Nat) (m : Nat) (e : Int) : Int :=
  let k := e + P
  if 0 ≤ k then (m : Int) * 2 ^ k.toNat else (m : Int) / 2 ^ (-k).toNat

/-! ## Enclosures -/

/-- An enclosure: the value is exact, or its magnitude lies strictly between lo·2^e and hi·2^e. -/
inductive Encl where
  | exact (neg : Bool) (m : Nat) (e : Int)
  | within (neg : Bool) (lo hi : Nat) (e : Int)
  | unsure
  deriving DecidableEq, Repr

/-- The enclosure of x·(1 − tiny), x = ±m·2^e. -/
def justBelow (neg : Bool) (m : Nat) (e : Int) : Encl := .within neg (m * 2 ^ 64 - 1) (m * 2 ^ 64) (e - 64)
/-- The enclosure of x·(1 + tiny). -/
def justAbove (neg : Bool) (m : Nat) (e : Int) : Encl := .within neg (m * 2 ^ 64) (m * 2 ^ 64 + 1) (e - 64)

/-- Cut a positive fixed-point number with an error bound to about p bits. -/
def cut (neg : Bool) (v err : Int) (e : Int) : Encl :=
  if v ≤ 2 * err then .unsure else .within neg (v - err).toNat (v + err).toNat e

/-- The enclosure of a fixed-point number of either sign. -/
def cutSigned (v err : Int) (e : Int) : Encl := cut (v < 0) v.natAbs err e

/-- The exponent of the top bit of m·2^e. -/
def topOf (m : Nat) (e : Int) : Int := e + (bitLen m : Int) - 1

/-- Bits of the integer part. -/
def intBits (m : Nat) (e : Int) : Nat := (topOf m e + 2).toNat

/-- e^x, x = ±m·2^e nonzero, with about p bits. -/
def enclExp (p : Nat) (neg : Bool) (m : Nat) (e : Int) : Encl :=
  if topOf m e < -70 then (if neg then justBelow false 1 0 else justAbove false 1 0)
  else
    let P := p + 16 + intBits m e
    let a := toFix P m e
    let x := if neg then -a - 1 else a
    let l := ln2Fix P
    let k := x / l
    let r := x - k * l
    cut false (expFix P r) (2 ^ (intBits m e + 3) + 4 * P) (k - P)

/-- 2^x. -/
def enclExp2 (p : Nat) (neg : Bool) (m : Nat) (e : Int) : Encl :=
  if 0 ≤ e then .exact false 1 (signed neg (m * 2 ^ e.toNat))
  else if m % 2 ^ (-e).toNat = 0 then .exact false 1 (signed neg (m / 2 ^ (-e).toNat))
  else if topOf m e < -70 then (if neg then justBelow false 1 0 else justAbove false 1 0)
  else
    let P := p + 16
    let a := toFix P m e
    let x := if neg then -a - 1 else a
    let k := x / 2 ^ P
    let r := (x - k * 2 ^ P) * ln2Fix P / 2 ^ P
    cut false (expFix P r) (16 + 4 * P) (k - P)

/-- k and y of x = y·2^k with y in [3/4, 3/2), y in units of 2^-P. -/
def logSplit (P : Nat) (m : Nat) (e : Int) : Int × Int :=
  let k := topOf m e
  let y := toFix P m (e - k)
  if 3 * 2 ^ P ≤ 2 * y then (k + 1, y / 2) else (k, y)

/-- ln of m·2^e in units of 2^-P. -/
def logFix (P : Nat) (m : Nat) (e : Int) : Int × Int :=
  let s := logSplit P m e
  let t := (s.2 - 2 ^ P) * 2 ^ P / (s.2 + 2 ^ P)
  (2 * oddSeries (P + 8) P false (t * t / 2 ^ P) t 0 0 + s.1 * ln2Fix P, s.1)

/-- ln x, x > 0. -/
def enclLog (p : Nat) (m : Nat) (e : Int) : Encl :=
  if topOf m e = 0 && m = 2 ^ (bitLen m - 1) then .exact false 0 0
  else
    let P := p + 80
    let r := logFix P m e
    cutSigned r.1 (8 * P + 4 * r.2.natAbs + 16) (-P)

/-- log2 x, x > 0; exact at a power of two. -/
def enclLog2 (p : Nat) (m : Nat) (e : Int) : Encl :=
  let k := topOf m e
  if m = 2 ^ (bitLen m - 1) then .exact (k < 0) k.natAbs 0
  else
    let P := p + 96
    let r := logFix P m e
    let v := r.1 * 2 ^ P / ln2Fix P
    cutSigned v (16 * P + 32 * r.2.natAbs + 64) (-P)

/-- sin x (`cos` false) or cos x. -/
def enclTrig (cosine : Bool) (p : Nat) (neg : Bool) (m : Nat) (e : Int) : Encl :=
  if topOf m e < -60 then (if cosine then justBelow false 1 0 else justBelow neg m e)
  else
    let P := p + 96 + 2 * intBits m e
    let x := toFix P m e
    let h := piFix P / 2
    let k := (x + h / 2) / h
    let r := x - k * h
    let r2 := r * r / 2 ^ P
    let sn := trigSeries (P + 8) P r2 r 1 0
    let cs := trigSeries (P + 8) P r2 (2 ^ P) 0 0
    let q := (k + (if cosine then 1 else 0)) % 4
    let v := if q = 0 then sn else if q = 1 then cs else if q = 2 then -sn else -cs
    cutSigned (if neg && !cosine then -v else v) (2 ^ (intBits m e + 3) + 8 * P) (-P)

/-- tanh x. -/
def enclTanh (p : Nat) (neg : Bool) (m : Nat) (e : Int) : Encl :=
  if topOf m e < -60 then justBelow neg m e
  else if 6 ≤ topOf m e then justBelow neg 1 0
  else match enclExp (p + 140) false m (e + 1) with
    | .within _ lo hi x =>
      let P := p + 130
      -- 1 − 2/(E + 1), E between lo·2^x and hi·2^x
      let one := 2 ^ (-x).toNat
      let up := if 0 ≤ x then 1 else one
      let sc := if 0 ≤ x then 2 ^ x.toNat else 1
      let l := 2 ^ P - (2 * 2 ^ P * up) / (lo * sc + up) - 1
      let h := 2 ^ P - (2 * 2 ^ P * up) / (hi * sc + up) + 1
      if l ≤ 0 then .unsure else .within neg l h (-P)
    | _ => .unsure

/-- 1/(1 + e^−x) for x = −(m·2^e): E/(1 + E). -/
def enclLgstNeg (p : Nat) (m : Nat) (e : Int) : Encl :=
  match enclExp (p + 80) true m e with
  | .within _ lo hi x =>
    let top := topOf lo x
    if top < -((p + 200 : Nat) : Int) then .within false (lo - 1) hi x
    else
      let den := 2 ^ (-x).toNat
      let P := p + 16 + (-top).toNat
      .within false (lo * 2 ^ P / (den + lo)) (hi * 2 ^ P / (den + hi) + 1) (-P)
  | _ => .unsure

/-- The logistic function of ±m·2^e. -/
def enclLgst (p : Nat) (neg : Bool) (m : Nat) (e : Int) : Encl :=
  if topOf m e < -70 then (if neg then justBelow false 1 (-1) else justAbove false 1 (-1))
  else if neg then enclLgstNeg p m e
  else if 6 ≤ topOf m e then justBelow false 1 0
  else match enclLgstNeg p m e with
    | .within _ lo hi x =>
      let one := 2 ^ (-x).toNat
      .within false (one - hi) (one - lo) x
    | _ => .unsure

/-- √π in units of 2^-P. -/
def sqrtPiFix (P : Nat) : Int := ((isqrt (P + 4) ((piFix P).toNat * 2 ^ P) 0 : Nat) : Int)

/-- erf x. -/
def enclErf (p : Nat) (neg : Bool) (m : Nat) (e : Int) : Encl :=
  if 3 ≤ topOf m e then justBelow neg 1 0
  else
    let P := p + 64 + (if topOf m e < 0 then 0 else 220)
    let z := toFix P (m * m) (2 * e)
    let s := erfSeries (2 * P + 64) P z (2 ^ P) 0 0
    let err : Int := 8 * P + (if topOf m e < 0 then 64 else 2 ^ 110)
    let c := 2 * 2 ^ (2 * P) / sqrtPiFix P
    let v := s * c / 2 ^ P
    match cut neg v (4 * err) (-P) with
    | .within n lo hi x => .within n (lo * m) (hi * m) (x + e)
    | r => r

/-! ## Rounding an enclosure -/

/-- Round to a format where the enclosure decides it. -/
def enclRound (f : Fmt) (rm : Nat) (sat : Bool) : Encl → Option (Nat × Flags)
  | .exact n m e => some (roundFin f rm sat n m e)
  | .within n lo hi e =>
    if bitLen lo < f.mb + 8 then none
    else
      let a := roundTo f rm sat n lo e true
      if a = roundTo f rm sat n (hi - 1) e true then some a else none
  | .unsure => none

/-- Round to a 48-bit significand with unbounded exponent, to nearest even (10 R207). -/
def round48 (n : Bool) (m : Nat) (e : Int) (sticky : Bool) : FVal :=
  if m = 0 then .fin n 0 0
  else
    let q := topOf m e - 47
    .fin n (roundAt 0 n m e q sticky).1 q

/-- Round an enclosure to 48 bits where it decides. -/
def enclRound48 : Encl → Option FVal
  | .exact n m e => some (round48 n m e false)
  | .within n lo hi e =>
    if bitLen lo < 56 then none
    else
      let a := round48 n lo e true
      if a = round48 n (hi - 1) e true then some a else none
  | .unsure => none

/-- Try the precisions 96·2^k in turn (`k` rises while the fuel lasts). -/
def zivLoop {α : Type} (encl : Nat → Encl) (round : Encl → Option α) : Nat → Nat → Option α
  | 0, _ => none
  | fuel + 1, p => match round (encl p) with
    | some r => some r
    | none => zivLoop encl round fuel (2 * p)

/-- Where the fuel ends undecided, one of the two candidates (never met in practice). -/
def zivRest (encl : Nat → Encl) : Bool × Nat × Int :=
  match encl 96 with
  | .within n lo hi e => (n, if Config.zivRest lo then lo else hi - 1, e)
  | .exact n m e => (n, m, e)
  | .unsure => (false, 1, 0)

/-- The correctly rounded value of a function. -/
def zivRound (f : Fmt) (rm : Nat) (sat : Bool) (encl : Nat → Encl) : Nat × Flags :=
  match zivLoop encl (enclRound f rm sat) 8 96 with
  | some r => r
  | none => let z := zivRest encl
            roundTo f rm sat z.1 z.2.1 z.2.2 true

/-- round48 of a function (10 R207). -/
def ziv48 (encl : Nat → Encl) : FVal :=
  match zivLoop encl enclRound48 8 96 with
  | some r => r
  | none => let z := zivRest encl
            round48 z.1 z.2.1 z.2.2 true

/-! ## The functions with their special cases (10 R206) -/

/-- The nine functions. -/
inductive Fn where
  | exp | exp2 | log | log2 | sin | cos | tanh | lgst | erf
  deriving DecidableEq, Repr

/-- A special case of a function: its value and flags; or an enclosure of a finite case. -/
inductive Case where
  | val (v : FVal) (fl : Flags)
  | encl (f : Nat → Encl)

/-- The cases of the table of 10 R206. -/
def fnCase (fn : Fn) (v : FVal) : Case :=
  let zero := fun (n : Bool) => FVal.fin n 0 0
  let nv := Case.val (.nan false) NV
  match v with
  | .nan s => .val (.nan false) (if s then NV else 0)
  | .inf n => match fn with
    | .exp | .exp2 => .val (if n then zero false else .inf false) 0
    | .log | .log2 => if n then nv else .val (.inf false) 0
    | .sin | .cos => nv
    | .tanh | .erf => .val (.fin n 1 0) 0
    | .lgst => .val (if n then zero false else .fin false 1 0) 0
  | .fin n m e =>
    if m = 0 then match fn with
      | .exp | .exp2 | .cos => .val (.fin false 1 0) 0
      | .log | .log2 => .val (.inf true) DZ
      | .sin | .tanh | .erf => .val (zero n) 0
      | .lgst => .val (.fin false 1 (-1)) 0
    else match fn with
      | .exp => .encl fun p => enclExp p n m e
      | .exp2 => .encl fun p => enclExp2 p n m e
      | .log => if n then nv else .encl fun p => enclLog p m e
      | .log2 => if n then nv else .encl fun p => enclLog2 p m e
      | .sin => .encl fun p => enclTrig false p n m e
      | .cos => .encl fun p => enclTrig true p n m e
      | .tanh => .encl fun p => enclTanh p n m e
      | .lgst => .encl fun p => enclLgst p n m e
      | .erf => .encl fun p => enclErf p n m e

/-- A special function of a datum, correctly rounded (10 R206). -/
def special (f : Fmt) (fn : Fn) (rm : Nat) (sat : Bool) (a : Nat) : Nat × Flags :=
  match fnCase fn (decode f a) with
  | .val v fl => let r := deliver f rm sat (v, false)
                 (r.1, r.2 ||| fl)
  | .encl g => zivRound f rm sat g

/-- round48 of the exact function value, with the invalid and divide-by-zero it raises (10 R207). -/
def special48 (fn : Fn) (v : FVal) : FVal × Flags :=
  match fnCase fn v with
  | .val v fl => (v, fl)
  | .encl g => (ziv48 g, 0)

/-- LN2 (10 R207). -/
def ln2c : FVal := ziv48 fun p => cut false (ln2Fix p) 4 (-p)
/-- INVLN2. -/
def invLn2c : FVal := ziv48 fun p => cut false (2 ^ (2 * p) / ln2Fix p) 16 (-p)
/-- KERF. -/
def kerfc : FVal := ziv48 fun p => cut false (2 * 2 ^ (2 * p) / sqrtPiFix p) 64 (-p)

end Sys2Proof.Num
end

