-- ==== Sys2Proof/Machine/Jets.lean ====
section
/-! DEFINITION. Jet arithmetic (02 R56–R58; 10 R207–R211, R214): coefficients as data in, coefficients with flags out. -/

namespace Sys2Proof.Num

/-- A value with the invalid and divide-by-zero raised in forming it. -/
abbrev FV := FVal × Flags

/-- The value of a datum; a signalling NaN raises invalid where an operation uses it. -/
def fv (f : Fmt) (x : Nat) : FV := (decode f x, 0)
/-- A small integer as a value. -/
def fvInt (x : Int) : FV := (.fin (x < 0) x.natAbs 0, 0)
/-- x/2 as a value. -/
def fvHalf (x : Int) : FV := (.fin (x < 0) x.natAbs (-1), 0)
/-- +0. -/
def fvZero : FV := (.fin false 0 0, 0)

/-- Round to 48 bits (10 R207). -/
def r48 (v : FV) : FV :=
  match v.1 with
  | .fin n m e => (round48 n m e false, v.2)
  | _ => v

/-- An exact product. -/
def fvMul (a b : FV) : FV :=
  let r := mulVal a.1 b.1
  (r.1, a.2 ||| b.2 ||| (if r.2 then NV else 0))

/-- A finite value of far smaller magnitude than another is replaced by one 400 bits below it: the 48-bit sum is the same. -/
def clampTo (a b : FVal) : FVal :=
  match a, b with
  | .fin _ m e, .fin n' m' e' =>
    if m = 0 || m' = 0 then b else if topOf m' e' + 400 < topOf m e then .fin n' 1 (topOf m e - 400) else b
  | _, _ => b

/-- An exact sum. -/
def fvAdd (a b : FV) : FV :=
  let r := sumVals 0 [clampTo b.1 a.1, clampTo a.1 b.1]
  (r.1, a.2 ||| b.2 ||| (if r.2 then NV else 0))

/-- Negation. -/
def fvNeg (a : FV) : FV := (a.1.neg, a.2)

/-- A quotient rounded to 48 bits. -/
def fvDiv48 (a b : FV) : FV :=
  match quotVal a.1 b.1 with
  | .val v fl => r48 (v, a.2 ||| b.2 ||| fl)
  | .mag n m e st => (round48 n m e st, a.2 ||| b.2)

/-- A quotient by the constant divisor of 10 R208: a division by ±0 of any nonzero dividend, an infinite one too, raises divide-by-zero
(DEDUCED, log 70). -/
def fvDivC (a b : FV) : FV :=
  match a.1 with
  | .inf _ => let q := fvDiv48 a b
              (q.1, if b.1.isZero then q.2 ||| DZ else q.2)
  | _ => fvDiv48 a b

/-- A root, or a reciprocal root, rounded to 48 bits. -/
def fvQuot48 (q : Quot) : FV :=
  match q with
  | .val v fl => r48 (v, fl)
  | .mag n m e st => (round48 n m e st, 0)

/-- sum48 (10 R207): the first term as it is, each further term with one rounding. -/
def sum48 : List FV → FV
  | [] => fvZero
  | t :: ts => ts.foldl (fun acc x => r48 (fvAdd acc x)) t

/-- Coefficient `i` of a list of values; +0 beyond it. -/
def coef (l : List FV) (i : Nat) : FV := l.getD i fvZero

/-- The terms g(i), i from `lo` to `hi`. -/
def terms (lo hi : Nat) (g : Nat → FV) : List FV := ((List.range (hi + 1)).filter fun i => lo ≤ i).map g

/-- step (10 R207). -/
def stepJ (j : Nat) (c : FV) (f x : List FV) : FV :=
  fvDiv48 (r48 (fvMul c (sum48 (terms 1 j fun i => fvMul (fvMul (fvInt i) (coef f i)) (coef x (j - i)))))) (fvInt j)

/-- Build the internal values X[0..k] from X[0] and a rule for X[j] over the earlier ones. -/
def build (k : Nat) (x0 : FV) (rule : Nat → List FV → FV) : List FV :=
  (List.range k).foldl (fun acc j => acc ++ [rule (j + 1) acc]) [x0]

/-- The flags of a coefficient start afresh: those met in earlier coefficients stay theirs. -/
def quiet (l : List FV) : List FV := l.map fun v => (v.1, 0)

/-- As `build`, each coefficient with its own flags only. -/
def buildQ (k : Nat) (x0 : FV) (rule : Nat → List FV → FV) : List FV := build k x0 fun j acc => rule j (quiet acc)

/-- Deliver one coefficient: the internal value rounded once to TY (10 R207, 02 R57). -/
def deliverJ (f : Fmt) (rm : Nat) (sat : Bool) (v : FV) : Nat × Flags :=
  let r := deliver f rm sat (v.1, v.1.isSnan)
  (r.1, r.2 ||| v.2)

/-- Coefficient 0 as given, the higher ones delivered from their internal values. -/
def deliverFrom (f : Fmt) (rm : Nat) (sat : Bool) (c0 : Nat × Flags) (xs : List FV) : List (Nat × Flags) :=
  c0 :: (xs.drop 1).map (deliverJ f rm sat)

/-- Canonical NaN in every coefficient, invalid in coefficient 0 only (10 R207). -/
def allNan (f : Fmt) (k : Nat) : List (Nat × Flags) := (f.nan, NV) :: List.replicate k (f.nan, 0)

/-- Whether a value lies below −0. -/
def belowZero (v : FVal) : Bool :=
  match v with
  | .inf n => n
  | .fin n m _ => n && m ≠ 0
  | .nan _ => false

/-! ## Linear and product operations (02 R58) -/

/-- FADD, FSUB. -/
def jadd (f : Fmt) (rm : Nat) (sat neg : Bool) (a b : List Nat) : List (Nat × Flags) :=
  (a.zip b).map fun e => fadd f rm sat neg e.1 e.2

/-- The sum of products of coefficient j: exact terms in ascending i, 48-bit partial sums (02 R57); negated for FNMA. -/
def cauchy (f : Fmt) (neg : Bool) (a b : List Nat) (j : Nat) : FV :=
  sum48 (terms 0 j fun i =>
    let p := fvMul (fv f (a.getD i 0)) (fv f (b.getD (j - i) 0))
    if neg then fvNeg p else p)

/-- FMUL. -/
def jmul (f : Fmt) (rm : Nat) (sat : Bool) (a b : List Nat) : List (Nat × Flags) :=
  (List.range a.length).map fun j => deliverJ f rm sat (cauchy f false a b j)

/-- FMA and FNMA: h[j] is added exactly to the sum of products. -/
def jfma (f : Fmt) (rm : Nat) (sat negP negC : Bool) (a b h : List Nat) : List (Nat × Flags) :=
  (List.range a.length).map fun j =>
    let p := cauchy f negP a b j
    let z := decode f (h.getD j 0)
    let r := sumVals rm [p.1, if negC then z.neg else z]
    deliverJ f rm sat (r.1, p.2 ||| (if r.2 then NV else 0))

/-- FSCALE: n from coefficient 0. -/
def jscale (f : Fmt) (rm : Nat) (sat : Bool) (a : List Nat) (n : Int) : List (Nat × Flags) := a.map fun x => fscale f rm sat x n

/-- A coefficient moved: every NaN becomes the canonical NaN (02 R58). -/
def movedC (f : Fmt) (x : Nat) : Nat := if (decode f x).isNan then f.nan else x % 2 ^ f.bits
/-- A coefficient negated. -/
def flipC (f : Fmt) (x : Nat) : Nat := withSign f (!signBit f x) x

/-- FMIN and FMAX select by coefficient 0. -/
def jminmax (f : Fmt) (max : Bool) (a b : List Nat) : List (Nat × Flags) :=
  let x := decode f (a.getD 0 0)
  let y := decode f (b.getD 0 0)
  let sel := if x.isNan && y.isNan then a.map fun _ => f.nan
    else (if x.isNan then b else if y.isNan then a else if (if max then ltVal x y else ltVal y x) then b else a).map (movedC f)
  sel.zipIdx.map fun e => (e.1, if e.2 = 0 then snanFlag [x, y] else 0)

/-- FABS by coefficient 0; at ±0 by the first nonzero coefficient. DESIGN CHOICE: a NaN there counts with its sign bit (log 73). -/
def jabs (f : Fmt) (a : List Nat) : List (Nat × Flags) :=
  let x := decode f (a.getD 0 0)
  if x.isNan then a.map fun _ => (f.nan, 0)
  else match a.find? (fun c => !(decode f c).isZero) with
    | none => a.map fun c => (withSign f false c, 0)
    | some c => a.map fun d => (if signBit f c then flipC f d else movedC f d, 0)

/-- FNEG. -/
def jneg (f : Fmt) (a : List Nat) : List (Nat × Flags) := a.map fun c => (flipC f c, 0)
/-- FCPYS: negated if the signs of the coefficients 0 differ. -/
def jcpys (f : Fmt) (a b : List Nat) : List (Nat × Flags) :=
  let d := signBit f (a.getD 0 0) != signBit f (b.getD 0 0)
  a.map fun c => (if d then flipC f c else movedC f c, 0)

/-! ## Division and roots (10 R208) -/

/-- FDIV. -/
def jdiv (f : Fmt) (rm : Nat) (sat : Bool) (a b : List Nat) : List (Nat × Flags) :=
  let fa := a.map (fv f)
  let g := b.map (fv f)
  let h := buildQ (a.length - 1) (fvDiv48 (coef fa 0) (coef g 0)) fun j h =>
    fvDivC (r48 (fvAdd (coef fa j) (fvNeg (sum48 (terms 1 j fun i => fvMul (coef g i) (coef h (j - i))))))) (coef g 0)
  deliverFrom f rm sat (deliverQuot f rm sat (quotVal (coef fa 0).1 (coef g 0).1)) h

/-- FRCP. -/
def jrcp (f : Fmt) (rm : Nat) (sat : Bool) (b : List Nat) : List (Nat × Flags) :=
  let g := b.map (fv f)
  let h := buildQ (b.length - 1) (fvDiv48 (fvInt 1) (coef g 0)) fun j h =>
    fvDivC (fvNeg (sum48 (terms 1 j fun i => fvMul (coef g i) (coef h (j - i))))) (coef g 0)
  deliverFrom f rm sat (deliverQuot f rm sat (quotVal FVal.one (coef g 0).1)) h

/-- FSQRT. -/
def jsqrt (f : Fmt) (rm : Nat) (a : List Nat) : List (Nat × Flags) :=
  let fa := a.map (fv f)
  if belowZero (coef fa 0).1 then allNan f (a.length - 1)
  else
    let h := buildQ (a.length - 1) (fvQuot48 (sqrtVal (coef fa 0).1)) fun j h =>
      let p := if j = 1 then fvZero else sum48 (terms 1 (j - 1) fun i => fvMul (coef h i) (coef h (j - i)))
      fvDivC (r48 (fvAdd (coef fa j) (fvNeg p))) (fvMul (fvInt 2) (coef h 0))
    deliverFrom f rm false (deliverQuot f rm false (sqrtVal (coef fa 0).1)) h

/-- FRSQRT. -/
def jrsqrt (f : Fmt) (rm : Nat) (a : List Nat) : List (Nat × Flags) :=
  let fa := a.map (fv f)
  if belowZero (coef fa 0).1 then allNan f (a.length - 1)
  else
    let h := buildQ (a.length - 1) (fvQuot48 (rsqrtVal (coef fa 0).1)) fun j h =>
      fvDivC (sum48 (terms 1 j fun i => fvMul (fvMul (fvHalf ((i : Int) - 2 * j)) (coef fa i)) (coef h (j - i))))
        (fvMul (fvInt j) (coef fa 0))
    deliverFrom f rm false (deliverQuot f rm false (rsqrtVal (coef fa 0).1)) h

/-! ## Special functions on jets (10 R209–R211) -/

/-- L[1..] of FLOG over f, with L[0] given. -/
def logJ (k : Nat) (fa : List FV) (l0 : FV) : List FV :=
  buildQ k l0 fun j l =>
    let p := if j = 1 then fvZero else sum48 (terms 1 (j - 1) fun i => fvMul (fvMul (fvInt i) (coef l i)) (coef fa (j - i)))
    fvDiv48 (r48 (fvAdd (coef fa j) (fvNeg (fvDiv48 p (fvInt j))))) (coef fa 0)

/-- S and C of FSIN and FCOS. -/
def trigJ (k : Nat) (fa : List FV) : List FV × List FV :=
  (List.range k).foldl (fun sc j =>
      (sc.1 ++ [stepJ (j + 1) (fvInt 1) fa (quiet sc.2)], sc.2 ++ [stepJ (j + 1) (fvInt (-1)) fa (quiet sc.1)]))
    ([special48 .sin (coef fa 0).1], [special48 .cos (coef fa 0).1])

/-- OR flags into a value. -/
def fvFlag (fl : Flags) (v : FV) : FV := (v.1, v.2 ||| fl)

/-- H with an auxiliary jet: `aux m h` is the auxiliary coefficient m over H[0..m]; H[j] := step(j, c, aux) (10 R211). Coefficient
j takes the flags of the auxiliary coefficient that is formed for it. -/
def auxJ (k : Nat) (fa : List FV) (h0 c : FV) (aux : Nat → List FV → FV) : List FV :=
  buildQ k h0 fun j h =>
    let u := (List.range j).map fun m => aux m h
    fvFlag (coef u (j - 1)).2 (stepJ j c fa (quiet u))

/-- −sum48(a[i]·b[m−i], i in 0..m). -/
def negConv (a b : List FV) (m : Nat) : FV := fvNeg (sum48 (terms 0 m fun i => fvMul (coef a i) (coef b (m - i))))

/-- The internal values of a special function over the jet `fa` of order k (10 R209–R211). -/
def fnJet (fn : Fn) (k : Nat) (fa : List FV) : List FV :=
  let x0 := special48 fn (coef fa 0).1
  match fn with
  | .exp => buildQ k x0 fun j h => stepJ j (fvInt 1) fa h
  | .exp2 => buildQ k x0 fun j h => stepJ j (ln2c, 0) fa h
  | .log => logJ k fa x0
  | .log2 => x0 :: ((logJ k fa fvZero).drop 1).map fun l => r48 (fvMul l (invLn2c, 0))
  | .sin => (trigJ k fa).1
  | .cos => (trigJ k fa).2
  | .tanh => auxJ k fa x0 (fvInt 1) fun m h =>
      if m = 0 then r48 (fvAdd (fvInt 1) (fvNeg (fvMul (coef h 0) (coef h 0)))) else negConv h h m
  | .lgst => auxJ k fa x0 (fvInt 1) fun m h => r48 (fvAdd (coef h m) (negConv h h m))
  | .erf =>
    let q := (List.range (k + 1)).map fun m => negConv fa fa m
    let e0 := special48 .exp (coef q 0).1
    let qq := quiet q
    let e := buildQ k e0 fun m e => fvDiv48 (sum48 (terms 1 m fun i => fvMul (fvMul (fvInt i) (coef qq i)) (coef e (m - i)))) (fvInt m)
    buildQ k x0 fun j _ => fvFlag ((coef e (j - 1)).2 ||| (coef q (j - 1)).2) (stepJ j (kerfc, 0) fa (quiet e))

/-- A special function of a jet (10 R206, R207). -/
def jspecial (f : Fmt) (fn : Fn) (rm : Nat) (sat : Bool) (a : List Nat) : List (Nat × Flags) :=
  let fa := a.map (fv f)
  let x := (coef fa 0).1
  let k := a.length - 1
  let inf := match x with
    | .inf _ => true
    | _ => false
  if ((fn = .log || fn = .log2) && belowZero x) || ((fn = .sin || fn = .cos) && inf) then allNan f k
  else deliverFrom f rm sat (special f fn rm sat (a.getD 0 0)) (fnJet fn k fa)

/-! ## Reshaping (10 R214) -/

/-- JDIFF. -/
def jdiff (f : Fmt) (rm : Nat) (sat : Bool) (a : List Nat) : List (Nat × Flags) :=
  ((List.range (a.length - 1)).map fun j => deliverJ f rm sat (fvMul (fvInt ((j + 1 : Nat) : Int)) (fv f (a.getD (j + 1) 0)))) ++ [(0, 0)]

/-- f / j with one rounding. -/
def quotJ (f : Fmt) (rm : Nat) (sat : Bool) (x j : Nat) : Nat × Flags := deliverQuot f rm sat (quotVal (decode f x) (.fin false j 0))

/-- JINTG with constant term c. -/
def jintg (f : Fmt) (rm : Nat) (sat : Bool) (c : Nat) (a : List Nat) : List (Nat × Flags) :=
  (c, 0) :: ((List.range (a.length - 1)).map fun j => quotJ f rm sat (a.getD j 0) (j + 1))

/-- JEVAL at point s, by Horner's rule. -/
def jeval (f : Fmt) (rm : Nat) (sat : Bool) (a : List Nat) (s : Nat) : Nat × Flags :=
  let k := a.length - 1
  let r := (List.range k).foldl (fun acc j => r48 (fvAdd (fvMul acc (fv f s)) (fv f (a.getD (k - 1 - j) 0)))) (fv f (a.getD k 0))
  deliverJ f rm sat r

/-- j factorial. -/
def fact : Nat → Nat
  | 0 => 1
  | n + 1 => (n + 1) * fact n

/-- JCOEF .FACT. -/
def jfact (f : Fmt) (rm : Nat) (sat : Bool) (j x : Nat) : Nat × Flags :=
  if j = 0 then (x, 0) else deliverJ f rm sat (fvMul (fvInt (fact j)) (fv f x))

end Sys2Proof.Num
end

