-- ==== Sys2Proof/Machine/FloatForms.lean ====
section
/-! DEFINITION. The FARITH group (09 R191–R197), the FSPEC group (10 R205–R211) and the CONV group (09 R198–R203). -/

namespace Sys2Proof.Machine
open Sys2Proof.Bits

/-- The floating-point format that TY names. -/
def fmtA (f : FmtA) : Num.Fmt := Num.fmtOf f.ty.toNat
/-- SAT as a Bool. -/
def satA (f : FmtA) : Bool := f.sat = 1

/-- FADD (09 R192, 02 R58). -/
def execFadd (f : FmtA) (s : State) := jetForm (.fadd f) f
  (fun c _ a b _ => .one (Num.fadd (fmtA f) (c.rm f.rm) (satA f) false a b))
  (fun c a b _ => .jet (Num.jadd (fmtA f) (c.rm f.rm) (satA f) false a b)) s
/-- FSUB (09 R192, 02 R58). -/
def execFsub (f : FmtA) (s : State) := jetForm (.fsub f) f
  (fun c _ a b _ => .one (Num.fadd (fmtA f) (c.rm f.rm) (satA f) true a b))
  (fun c a b _ => .jet (Num.jadd (fmtA f) (c.rm f.rm) (satA f) true a b)) s
/-- FMUL (09 R192, 02 R58). -/
def execFmul (f : FmtA) (s : State) := jetForm (.fmul f) f
  (fun c _ a b _ => .one (Num.fmul (fmtA f) (c.rm f.rm) (satA f) a b))
  (fun c a b _ => .jet (Num.jmul (fmtA f) (c.rm f.rm) (satA f) a b)) s
/-- FMA (09 R183, R192; 02 R58): left a, slot 11 b, right c. -/
def execFma (f : FmtA) (s : State) := jetForm (.fma f) f
  (fun c _ a x b => .one (Num.ffma (fmtA f) (c.rm f.rm) (satA f) false (f.var = 1) a b x))
  (fun c a x b => .jet (Num.jfma (fmtA f) (c.rm f.rm) (satA f) false (f.var = 1) a b x)) s
/-- FNMA (09 R183, R192; 02 R58). -/
def execFnma (f : FmtA) (s : State) := jetForm (.fnma f) f
  (fun c _ a x b => .one (Num.ffma (fmtA f) (c.rm f.rm) (satA f) true (f.var = 1) a b x))
  (fun c a x b => .jet (Num.jfma (fmtA f) (c.rm f.rm) (satA f) true (f.var = 1) a b x)) s
/-- FDIV (09 R192, 10 R208). -/
def execFdiv (f : FmtA) (s : State) := jetForm (.fdiv f) f
  (fun c _ a b _ => .one (Num.deliverQuot (fmtA f) (c.rm f.rm) (satA f) (Num.quotVal (Num.decode (fmtA f) a) (Num.decode (fmtA f) b))))
  (fun c a b _ => .jet (Num.jdiv (fmtA f) (c.rm f.rm) (satA f) a b)) s
/-- FSQRT (09 R192, 10 R208). -/
def execFsqrt (f : FmtA) (s : State) := jetForm (.fsqrt f) f
  (fun c _ a _ _ => .one (Num.deliverQuot (fmtA f) (c.rm f.rm) false (Num.sqrtVal (Num.decode (fmtA f) a))))
  (fun c a _ _ => .jet (Num.jsqrt (fmtA f) (c.rm f.rm) a)) s
/-- FRSQRT (09 R192, 10 R208). -/
def execFrsqrt (f : FmtA) (s : State) := jetForm (.frsqrt f) f
  (fun c _ a _ _ => .one (Num.deliverQuot (fmtA f) (c.rm f.rm) false (Num.rsqrtVal (Num.decode (fmtA f) a))))
  (fun c a _ _ => .jet (Num.jrsqrt (fmtA f) (c.rm f.rm) a)) s
/-- FRCP (09 R192, 10 R208). -/
def execFrcp (f : FmtA) (s : State) := jetForm (.frcp f) f
  (fun c _ a _ _ => .one (Num.deliverQuot (fmtA f) (c.rm f.rm) (satA f) (Num.quotVal Num.FVal.one (Num.decode (fmtA f) a))))
  (fun c a _ _ => .jet (Num.jrcp (fmtA f) (c.rm f.rm) (satA f) a)) s
/-- FMIN (09 R193, 02 R58). -/
def execFmin (f : FmtA) (s : State) := jetForm (.fmin f) f
  (fun _ _ a b _ => .one (Num.fminmax (fmtA f) false a b)) (fun _ a b _ => .jet (Num.jminmax (fmtA f) false a b)) s
/-- FMAX (09 R193, 02 R58). -/
def execFmax (f : FmtA) (s : State) := jetForm (.fmax f) f
  (fun _ _ a b _ => .one (Num.fminmax (fmtA f) true a b)) (fun _ a b _ => .jet (Num.jminmax (fmtA f) true a b)) s
/-- FABS (09 R193, 02 R58). -/
def execFabs (f : FmtA) (s : State) := jetForm (.fabs f) f
  (fun _ _ a _ _ => .pure (Num.withSign (fmtA f) false a)) (fun _ a _ _ => .jet (Num.jabs (fmtA f) a)) s
/-- FNEG (09 R193, 02 R58). -/
def execFneg (f : FmtA) (s : State) := jetForm (.fneg f) f
  (fun _ _ a _ _ => .pure (Num.withSign (fmtA f) (!Num.signBit (fmtA f) a) a)) (fun _ a _ _ => .jet (Num.jneg (fmtA f) a)) s
/-- FCPYS (09 R193, 02 R58). -/
def execFcpys (f : FmtA) (s : State) := jetForm (.fcpys f) f
  (fun _ _ a b _ => .pure (Num.withSign (fmtA f) (Num.signBit (fmtA f) b) a)) (fun _ a b _ => .jet (Num.jcpys (fmtA f) a b)) s
/-- FCLASS (09 R194). -/
def execFclass (f : FmtA) (s : State) := elemForm (.fclass f) f (fun _ _ a _ _ => .pure (Num.fclass (fmtA f) a)) s
/-- FRINT (09 R195). -/
def execFrint (f : FmtA) (s : State) := elemForm (.frint f) f
  (fun c _ a _ _ => .one (Num.frint (fmtA f) (c.rm f.rm) (f.var = 1) a)) s
/-- FSCALE (09 R196, R197): n is bits 31:0 of the right operand, of coefficient 0 on the J plane. -/
def execFscale (f : FmtA) (s : State) := jetForm (.fscale f) f
  (fun c _ a n _ => .one (Num.fscale (fmtA f) (c.rm f.rm) (satA f) a (Bits.sext 32 n)))
  (fun c a n _ => .jet (Num.jscale (fmtA f) (c.rm f.rm) (satA f) a (Bits.sext 32 (n.getD 0 0)))) s

/-! ## FSPEC -/

/-- A special function (10 R206, R207). -/
def specForm (i : Instr) (f : FmtA) (fn : Num.Fn) (s : State) : Host.Outcome State Fault Refusal :=
  jetForm i f (fun c _ a _ _ => .one (Num.special (fmtA f) fn (c.rm f.rm) (satA f) a))
    (fun c a _ _ => .jet (Num.jspecial (fmtA f) fn (c.rm f.rm) (satA f) a)) s

/-- FEXP (10 R206, R209). -/
def execFexp (f : FmtA) (s : State) := specForm (.fexp f) f .exp s
/-- FEXP2 (10 R206, R209). -/
def execFexp2 (f : FmtA) (s : State) := specForm (.fexp2 f) f .exp2 s
/-- FLOG (10 R206, R209). -/
def execFlog (f : FmtA) (s : State) := specForm (.flog f) f .log s
/-- FLOG2 (10 R206, R209). -/
def execFlog2 (f : FmtA) (s : State) := specForm (.flog2 f) f .log2 s
/-- FSIN (10 R206, R210). -/
def execFsin (f : FmtA) (s : State) := specForm (.fsin f) f .sin s
/-- FCOS (10 R206, R210). -/
def execFcos (f : FmtA) (s : State) := specForm (.fcos f) f .cos s
/-- FTANH (10 R206, R211). -/
def execFtanh (f : FmtA) (s : State) := specForm (.ftanh f) f .tanh s
/-- FLGST (10 R206, R211). -/
def execFlgst (f : FmtA) (s : State) := specForm (.flgst f) f .lgst s
/-- FERF (10 R206, R211). -/
def execFerf (f : FmtA) (s : State) := specForm (.ferf f) f .erf s

/-! ## CONV -/

/-- CVT (09 R199). -/
def execCvt (f : FmtA) (s : State) := elemForm (.cvt f) f
  (fun c cont a _ _ => .one (Num.cvt cont f.ty.toNat (Num.cvtSource f.var.toNat) (c.rm f.rm) (satA f) a)) s
/-- CVTSR (09 R200, 02 R50). -/
def execCvtsr (f : FmtA) (s : State) := elemForm (.cvtsr f) f
  (fun _ _ a u _ => .one (Num.cvtsr f.ty.toNat (Num.cvtSource f.var.toNat) (satA f) a u)) s

/-- The counter that RNG forms from lanes 0 and 1 of its operand (09 R201). -/
def rngCounter (c : Fx) : Word := Vec.lane (optBeat c.l 0) 1 ++ Vec.lane (optBeat c.l 0) 0

/-- RNG (09 R201, 02 R51). -/
def execRng (f : FmtA) (s : State) := gateForm (.rng f) (fun c g =>
  let m := optMask c.l
  lanesOut c (formDraw (.rng f) c.k) true g m m 1 fun l =>
    .pure (field (Num.mix c.m.snap.rngkey (rngCounter c) l) 32 32)) s

/-- The block scale σ[b] of PACK4: bits 7:0 of lane b of the right operand. -/
def packScale (c : Fx) (b : Nat) : Nat := field (Vec.lane (optBeat c.r 0) b) 0 8

/-- The code of element k and its flags (09 R202); a block without a scale raises one invalid, noted on its first lane. -/
def packElem (f : FmtA) (c : Fx) (k : Nat) : Nat × Num.Flags :=
  let sc := packScale c (k / 8)
  if Num.noScale sc then (0, if k % 8 = 0 then Num.NV else 0)
  else if !(optMask c.l).getLsbD k then (0, 0)
  else Num.packCode (c.rm f.rm) (Vec.lane (optBeat c.l 0) k).toNat sc

/-- PACK4 (09 R202). -/
def execPack4 (f : FmtA) (s : State) := gateForm (.pack4 f) (fun c g =>
  let es := (List.range 16).map (packElem f c)
  let word := fun (b : Nat) => BitVec.ofNat 32 (total ((List.range 8).map fun i => (es.getD (8 * b + i) (0, 0)).1 * 2 ^ (4 * i)))
  let v := Vec.mk fun l => if l < 2 then word l else if l = 2 then BitVec.ofNat 32 (packScale c 1 * 256 + packScale c 0) else 0
  match laneGate c.h g c.l [v] 7 with
  | none => .act (formDraw (.pack4 f) c.k) .skip
  | some d => c.finish (formDraw (.pack4 f) c.k) (es.zipIdx.map fun e => (e.2, 0, e.1.2)) d) s

/-- UNPK4 (09 R203): exact, without flags. -/
def execUnpk4 (f : FmtA) (s : State) := gateForm (.unpk4 f) (fun c g =>
  let x := optBeat c.l 0
  let m := maskOf fun k => (optMask c.l).getLsbD (k / 8) && (optMask c.l).getLsbD 2
  let v := Vec.mk fun k => if m.getLsbD k then
      BitVec.ofNat 32 (Num.unpackCode (field (Vec.lane x (k / 8)) (4 * (k % 8)) 4) (field (Vec.lane x 2) (8 * (k / 8)) 8)) else 0
  match laneGate c.h g c.l [v] m with
  | none => .act (formDraw (.unpk4 f) c.k) .skip
  | some d => c.emitPlan (formDraw (.unpk4 f) c.k) d false .skip) s

end Sys2Proof.Machine
end

