-- ==== Sys2Proof/Machine/MemAccess.lean ====
section
/-! DEFINITION. Memory accesses of a node (13 R243–R257; 03 R60–R64, R70; 04 R85; 05 R92, R93): forming the elements, the
checks, held pages, the L1, and the order of a block's holders. -/

namespace Sys2Proof.Machine
open Sys2Proof.Bits

/-! ## Elements (13 R244, R245) -/

/-- One element before translation: its lane, its coefficient, its address or offset `rel`. -/
structure Loc where
  lane : Nat
  coef : Nat
  rel : Int
  deriving DecidableEq, Repr

/-- The elements of a form: `lanes` are the active lanes, `step` gives a lane's distance from rel, `cstep` a coefficient's. -/
def locs (plane k : Nat) (lanes : BitVec 16) (rel : Int) (step : Nat → Int) (cstep : Int) : List Loc :=
  if plane = 0 then [⟨0, 0, rel⟩]
  else ((List.range 16).filter fun l => lanes.getLsbD l).flatMap fun l =>
    (List.range (if plane = 2 then k + 1 else 1)).map fun j => ⟨l, j, rel + step l + (j : Int) * cstep⟩

/-- Bytes of an element of a TY (02 R38). -/
def tyBytes (ty : BitVec 4) : Nat := Num.width ty.toNat / 8

/-- rel of a memory form: the left operand plus the sign-extended offset, a signed 64-bit number (13 R244, 04 R85). -/
def relOf (c : Fx) (f : FmtM) : Int := ((optScalar c.l) + f.off.signExtend 64).toInt

/-- How the lanes of the form lie: LD, ST, LDSP and STSP follow one another; LDS and STS by STRIDE; LDG and STG by the offsets. -/
def laneStep (i : Instr) (f : FmtM) (c : Fx) (l : Nat) : Int :=
  if i.opc = 0x181 || i.opc = 0x184 then (l : Int) * (f.low.extractLsb' 13 16).toInt
  else if i.opc = 0x182 || i.opc = 0x185 then (Vec.lane (optBeat c.r 0) l).toInt
  else ((l * tyBytes f.ty : Nat) : Int)

/-- How the coefficients of a jet lie (13 R244). -/
def coefStep (i : Instr) (f : FmtM) : Int :=
  if i.opc = 0x180 || i.opc = 0x183 || i.opc = 0x186 || i.opc = 0x187 then ((16 * tyBytes f.ty : Nat) : Int) else ((tyBytes f.ty : Nat) : Int)

/-- The active lanes before and after the gate (13 R245). -/
def activeLanes (i : Instr) (c : Fx) (g : BitVec 16) : BitVec 16 :=
  g &&& (if i.opc = 0x182 then optMask c.r
         else if i.opc = 0x183 || i.opc = 0x184 || i.opc = 0x187 then optMask c.r
         else if i.opc = 0x185 then optMask c.r &&& optMask c.p
         else 0xFFFF)

/-- The elements of a memory form. -/
def formLocs (i : Instr) (f : FmtM) (c : Fx) (g : BitVec 16) : List Loc :=
  locs c.h.plane.toNat c.k (activeLanes i c g) (relOf c f) (laneStep i f c) (coefStep i f)

/-! ## Reins in an address (04 R85) -/

/-- The rein that an operation with LSID `lsid` sees in register H: what the unit's own rein forms of lower LSID left there, else
what it held at map. -/
def Fx.rein (c : Fx) (lsid reg : Nat) : Quad :=
  match (sortBy (fun (e : Nat × Nat × Quad) => e.1) (c.u.hNew.filter fun e => e.1 < lsid && e.2.1 == reg)).getLast? with
  | some e => e.2.2
  | none => Sparse.get 0 c.m.h reg

/-- Arena id of a rein. -/
def rArena (r : Quad) : Nat := field r 118 10
/-- Generation of a rein. -/
def rGen (r : Quad) : Nat := field r 102 16
/-- BASE of a rein. -/
def rBase (r : Quad) : Nat := field r 40 40
/-- LEN of a rein. -/
def rLen (r : Quad) : Nat := field r 0 40
/-- The rights RD, WR, SEND, SPL of a rein as bits 0 to 3. -/
def rRights (r : Quad) : Nat := field r 98 4

/-- The rein laid out from its fields (04 R83); LEN 0 gives the null rein. Rights are bits 101:98, RD the highest. -/
def mkRein (arena gen rights base len : Nat) : Quad :=
  if len = 0 then 0 else BitVec.ofNat 128 (arena % 1024 * 2 ^ 118 + gen % 2 ^ 16 * 2 ^ 102 + rights % 16 * 2 ^ 98 +
    base % 2 ^ 40 * 2 ^ 40 + len % 2 ^ 40)

/-- Whether a rein allows an access of `w` bytes at offset `o` (04 R85). -/
def reinOk (s : State) (asid : Nat) (r : Quad) (o : Int) (w : Nat) (rd wr : Bool) : Bool :=
  match s.arena asid (rArena r) with
  | none => false
  | some a => !(rArena r = 0) && decide (rGen r = a.gen.toNat) && decide (0 ≤ o) && decide (o + w ≤ rLen r) &&
      (!rd || bit r 101) && (!wr || bit r 100)

/-- Whether a rein is live: it names a covered arena by its generation (04 R85). -/
def reinLive (s : State) (asid : Nat) (r : Quad) : Bool :=
  match s.arena asid (rArena r) with
  | none => false
  | some a => !(rArena r = 0) && decide (rGen r = a.gen.toNat)

/-- The virtual address of an offset through a rein (04 R85). -/
def reinVa (s : State) (asid : Nat) (r : Quad) (o : Int) : Int :=
  match s.arena asid (rArena r) with
  | some a => (a.base : Int) + rBase r + o
  | none => o

/-! ## Checks (13 R246, R268) -/

/-- What a form needs of its page and line (03 R62, R63; 13 R246). -/
structure Need where
  /-- Bytes that the address must be a multiple of. -/
  align : Nat
  load : Bool
  write : Bool
  /-- LDV, STV and RECLAIM reach versioned pages only. -/
  versioned : Bool
  /-- ATOM, CAS, LDV, STV and RECLAIM need the line tag 0xF. -/
  untyped : Bool
  deriving DecidableEq, Repr

/-- The outcome of the checks of a form's elements. -/
inductive Checked where
  | ok (es : List Elem)
  | fault (code reason : Nat) (addr : Word)
  /-- The addresses that need a page that is not mapped. -/
  | held (vas : List Nat)
  deriving DecidableEq, Repr

/-- The outcome of the checks of one element. -/
inductive LocRes where
  | ok (e : Elem)
  | fault (code reason : Nat) (va : Int)
  | held (va : Nat)
  deriving DecidableEq, Repr

/-- The translation of an address for this node: a latch of the mapped block where the form streams (03 R70), else the TLB. A page on which firings
of the node are held has none for it until they are released (23 R376, R378). -/
def Fx.xlate (c : Fx) (stream : Bool) (va : Nat) : Walk :=
  if c.nd.held.any fun h => h.page == va / 2 ^ 16 then .fault else
  match (if stream then c.m.latches.find? (fun l => l.1 == va / 2 ^ 16) else none) with
  | some l => .entry l.2
  | none => translate c.s (nodeDie c.n) c.t.asid va

/-- Whether a page class admits the access (03 R63). -/
def classOk (nd : Need) (hv : Bool) (cls : Nat) : Bool :=
  if nd.versioned then cls = 2
  else if cls = 0 then true
  else if cls = 1 then hv
  else cls = 2 && nd.load && !nd.write && !nd.untyped

/-- The first check that an element fails without a translation: rein, alignment, bits 63:57. -/
def preCheck (c : Fx) (nd : Need) (hv : Bool) (r : Quad) (w : Nat) (l : Loc) : Option (Nat × Nat × Int) :=
  let va := if hv then reinVa c.s c.t.asid r l.rel else l.rel
  if hv && !reinOk c.s c.t.asid r l.rel w nd.load nd.write then some (0x32, c.q, va)
  else if !(va % nd.align = 0) then some (0x30, 1, va)
  else if va < 0 || 2 ^ 57 ≤ va then some (0x30, 6, va)
  else none

/-- The first check that a translated element fails: class, rights, scale region, line tag. -/
def postCheck (s : State) (nd : Need) (hv : Bool) (w : Word) (va : Nat) : Option Nat :=
  let pa := entryPa w va
  if !classOk nd hv (entryClass w) then some 3
  else if (nd.load && !entryRd w) || (nd.write && !entryWr w) then some 4
  else if nd.write && inScales s pa then some 5
  else if nd.untyped && !(s.tagNow (lineOf pa) = 15) then some 3
  else none

/-- Check one element (13 R246). -/
def checkLoc (c : Fx) (nd : Need) (hv stream : Bool) (r : Quad) (w : Nat) (l : Loc) : LocRes :=
  match preCheck c nd hv r w l with
  | some (code, reason, va) => .fault code reason va
  | none =>
    let va := (if hv then reinVa c.s c.t.asid r l.rel else l.rel).toNat
    match c.xlate stream va with
    | .fault => .held va
    | .entry x => match postCheck c.s nd hv x va with
      | some k => .fault 0x30 k va
      | none => .ok ⟨va, entryPa x va, w, l.lane, l.coef⟩

/-- Check every element before any is issued (13 R246): the first element that fails decides (R268); where none fails and some need pages
that are not mapped, the firing is held on all of them (23 R376). A null or stale rein is refused where no element is active as well (04 R85). -/
def checkLocs (c : Fx) (nd : Need) (hv stream : Bool) (r : Quad) (w : Nat) (ls : List Loc) : Checked :=
  if hv && ls = [] && !reinLive c.s c.t.asid r then .fault 0x32 c.q 0 else
  let rs := ls.map (checkLoc c nd hv stream r w)
  match rs.findSome? (fun x => match x with
      | .fault code reason va => some (code, reason, va)
      | _ => none) with
  | some (code, reason, va) => .fault code reason (BitVec.ofInt 64 va)
  | none => match rs.filterMap (fun x => match x with
      | .held va => some va
      | _ => none) with
    | va :: vas => .held (va :: vas)
    | [] => .ok (rs.filterMap fun x => match x with
      | .ok e => some e
      | _ => none)

/-! ## Held pages (23 R376) -/

/-- Hold a firing on a page: the page is reported once; a ninth page waits unreported. -/
def holdPage (n : Nat) (va : Nat) (write fetch exec : Bool) (place : Nat) (tag : Tag) : Prog :=
  .ask fun s =>
    let nd := s.node n
    let page := va / 2 ^ 16
    if nd.held.any (fun h => h.page == page) then .skip
    else if 8 ≤ nd.held.length then .skip
    else .seq (.upd (.node n fun nd => { nd with held := nd.held ++ [⟨page, write, fetch, place, tag⟩] }))
      (.upd (.hub fun h => { h with pages := h.pages ++ [⟨reportOf s n
        { mkFault nd 0x31 place tag (BitVec.ofNat 64 va) (BitVec.ofNat 64 ((if write then 1 else 0) + if fetch then 2 else 0)) with
          pc := if fetch then (nd.ctx (nd.nextCtx.getD 0)).pc else (mkFault nd 0 0 0 0 0).pc }, page, write, exec⟩] }))

/-- Hold a firing on every page that its addresses need: each is reported at the first address in it (23 R376). -/
def holdPages (n : Nat) (vas : List Nat) (write : Bool) (place : Nat) (tag : Tag) : Prog :=
  Prog.each vas fun va => holdPage n va write false false place tag

/-- Latch the translations that a streaming form has used (03 R70), and enter the others into the TLB slice (03 R69). -/
def noteXlate (c : Fx) (stream : Bool) (es : List Elem) : Prog :=
  let pages := distinct (es.map fun e => e.va / 2 ^ 16)
  .seq (Prog.each pages fun p => touchTlb (nodeDie c.n) c.t.asid (p * 2 ^ 16))
    (if stream then .ask fun s => .upd (.node c.n fun nd => nd.onCur fun m => { m with
        latches := m.latches ++ pages.filterMap fun p => if m.latches.any (fun l => l.1 == p) then none
          else match translate s (nodeDie c.n) c.t.asid (p * 2 ^ 16) with
            | .entry w => some (p, w)
            | .fault => none }) else .skip)

/-! ## The L1 (03 R64) -/

/-- The L1's copy of a line. -/
def Node.l1Line (nd : Node) (line : Nat) : Option L1Line := nd.l1.find? fun l => l.line == line

/-- Put a line into the L1: 128 sets of four ways (64 KiB of 128-byte lines). Which set a line takes is the model's choice: its line
number modulo 128 (DESIGN CHOICE, log 7). -/
def Node.l1Put (nd : Node) (l : L1Line) (seed : Nat) : Node :=
  let rest := nd.l1.filter fun x => !(x.line == l.line)
  let same := rest.filter fun x => x.line % 128 == l.line % 128
  let out := match same[Config.l1Victim seed % 4]? with
    | some v => if same.length < 4 then none else some v.line
    | none => none
  { nd with l1 := l :: (match out with
    | some v => rest.filter fun x => !(x.line == v)
    | none => rest) }

/-- Drop one line of the L1. -/
def Node.l1Drop (nd : Node) (line : Nat) : Node := { nd with l1 := nd.l1.filter fun x => !(x.line == line) }
/-- Invalidate the whole L1. -/
def Node.l1Clear (nd : Node) : Node := { nd with l1 := [] }
/-- Update the L1's copy of a line with stored bytes at a physical address (13 R251). -/
def Node.l1Store (nd : Node) (pa : Nat) (bs : List Byte) : Node :=
  { nd with l1 := nd.l1.map fun x => { x with data := (List.range 128).map fun k =>
      let a := x.line * 128 + k
      if pa ≤ a && a < pa + bs.length then bs.getD (a - pa) 0 else x.data.getD k 0 } }

/-! ## A node's own stores on their way (05 R93) -/

/-- The lines that a store-like operation touches. -/
def StoreOp.lines : StoreOp → List Nat
  | .bytes es _ => distinct (es.map fun e => lineOf e.1.pa)
  | .rmw e _ _ => [lineOf e.pa]
  | .stv e _ _ _ => [lineOf e.pa]
  | .reclaim e _ => [lineOf e.pa]
  | .scratch _ => []

/-- Overlay on a line's bytes the node's committed stores that have not been performed; `none` where an atomic, a versioned store or
a RECLAIM of the line is still to be performed, since its effect is the node's at once (01 R19). -/
def wqOverlay (nd : Node) (line : Nat) (bs : List Byte) : Option (List Byte) :=
  nd.wq.foldl (fun acc w => match acc, w with
    | some bs, .store (.bytes es _) _ _ _ => some (es.foldl (fun bs e =>
        (List.range 128).map fun k =>
          let a := line * 128 + k
          if e.1.pa ≤ a && a < e.1.pa + e.2.length then e.2.getD (a - e.1.pa) 0 else bs.getD k 0) bs)
    | some bs, .store (.rmw e _ _) _ _ _ => if lineOf e.pa = line then none else some bs
    | some bs, .store (.stv e _ _ _) _ _ _ => if lineOf e.pa = line then none else some bs
    | some bs, .store (.reclaim e _) _ _ _ => if lineOf e.pa = line then none else some bs
    | acc, _ => acc) (some bs)

/-- A line's bytes as the node's own reads see them: its stores on their way are its own at once (01 R19). -/
def Node.ownBytes (nd : Node) (line : Nat) (bs : List Byte) : List Byte := (wqOverlay nd line bs).getD bs
/-- Whether a read of a line by the node waits for an operation of its own that is on its way. -/
def Node.ownWaits (nd : Node) (line : Nat) : Bool := (wqOverlay nd line []).isNone

/-- The scope of an acquire among the items of a commit stream: a store, atomic, CAS or STV with ORD 01 or 11 (05 R92; 13 R260, R262, R263). -/
def WItem.acquire : WItem → Option Nat
  | .store (.reclaim _ _) _ _ _ => none
  | .store (.scratch _) _ _ _ => none
  | .store _ ord sc _ => if ord = 1 || ord = 3 then some sc.toNat else none
  | _ => none

/-- Whether an acquire of the node has committed and is still to be performed: it holds every later operation (05 R92, R96). -/
def Node.acquiring (nd : Node) : Bool := nd.wq.any fun w => w.acquire.isSome

/-- Whether a store of the node that is still to be performed lies before a FENCE of its block that orders later reads (05 R101; log 87). -/
def Node.fencing (nd : Node) : Bool :=
  nd.wq.any fun w => match w with
    | .store _ _ _ b => b.ldHold.isSome
    | _ => false

/-- Whether a write of node number `m` of a task that another package has not acknowledged satisfies `p` (05 R91). -/
def farWait (s : State) (tid m : Nat) (p : MirWait → Bool) : Bool := s.mirror.any fun w => w.task == tid && w.m == m && p w

/-- Whether an atomic or a CAS of the node is still to be performed. -/
def Node.atomicLeft (nd : Node) : Bool :=
  nd.wq.any fun w => match w with
    | .store (.rmw _ _ _) _ _ _ => true
    | _ => false

/-- The scratchpad stores of the node that wait behind a fence, oldest first (05 R102). -/
def Node.padStores (nd : Node) : List (Nat × List Byte) :=
  nd.wq.flatMap fun w => match w with
    | .store (.scratch es) _ _ _ => es
    | _ => []

/-- A byte of a quad's scratchpad as a node of it reads it: its own committed stores are its own at once (05 R93, 03 R66). -/
def Node.padByte (nd : Node) (s : State) (quad off : Nat) : Byte :=
  match nd.padStores.reverse.find? fun e => e.1 ≤ off && off < e.1 + e.2.length with
  | some e => e.2.getD (off - e.1) 0
  | none => s.padByte quad off

/-- The line at which the next part of a store is performed: elements are performed in ascending lane and coefficient order. -/
def StoreOp.nextLine : StoreOp → Option Nat
  | .bytes ((e, _) :: _) _ => some (lineOf e.pa)
  | .rmw e _ _ => some (lineOf e.pa)
  | .stv e _ _ _ => some (lineOf e.pa)
  | .reclaim e _ => some (lineOf e.pa)
  | _ => none

/-! ## Waiting at a home slice for another task's line (03 R75) -/

/-- The owner tag for which a party acts. -/
def Party.owner (s : State) : Party → Option Nat
  | .load n _ => (s.taskOf n).map fun t => t.owner
  | .fetch n => (s.taskOf n).map fun t => t.owner
  | .firing n _ _ => (s.taskOf n).map fun t => t.owner
  | .store r => ((refTask s r).bind s.task).map fun t => t.owner
  | .card o => (s.cards.find? fun c => c.order == o).map fun c => c.owner

/-- Whether a waiter's access is still to be made. -/
def Waiter.live (s : State) (w : Waiter) : Bool :=
  match w.who with
  | .load n o => (s.node n).loads.any fun l => l.order == o && l.wait.head? == some w.line
  | .store r => (match (refNode s r).wq with
    | .store op _ _ _ :: _ => op.nextLine == some w.line
    | _ => false)
  | .fetch n => (s.node n).cur.isNone && (s.node n).fetched.isNone && !(s.node n).halted && (s.node n).nextCtx.isSome
  | .firing n q tag => (s.node n).places.contains (q, tag)
  | .card o => s.cards.any fun c => c.order == o && !c.st.final

/-- Whether a waiter's line has been released and its access not yet been made: later arrivals stand behind it. -/
def Waiter.released (s : State) (w : Waiter) : Bool := w.live s && !foreign s (w.who.owner s) w.line

/-- Whether an access must stand behind one that arrived before it: at its slice, where it has waited itself; else at its line. -/
def behind (s : State) (who : Party) (line : Nat) : Bool :=
  let mine := fun (w : Waiter) => w.who == who && w.line == line
  let before := s.waiters.takeWhile fun w => !mine w
  let waited := s.waiters.any mine
  before.any fun w => !(w.who == who) && w.released s &&
    (w.line == line || (waited && homeSlice s w.line == homeSlice s line && paDie (w.line * 128) == paDie (line * 128)))

/-- What an access finds at the home slice of a line (03 R75): it may be made, it waits, or it arrives and must wait. -/
inductive Turn where
  | go | wait | enter
  deriving DecidableEq, Repr

/-- Whether an access stands among the waiters of a line. -/
def waitsAt (s : State) (who : Party) (line : Nat) : Bool := s.waiters.any fun w => w.who == who && w.line == line

/-- The turn of an access. -/
def sliceTurn (s : State) (who : Party) (line : Nat) : Turn :=
  if foreign s (who.owner s) line then
    (if waitsAt s who line then .wait else .enter)
  else if behind s who line then .wait else .go

/-- An access begins to wait; waiters whose access is gone are forgotten. -/
def enterWait (who : Party) (line : Nat) : Prog :=
  .ask fun s => .upd (.waiters fun l => (l.filter fun w => w.live s) ++ [⟨line, who⟩])

/-- An access has been made and waits no longer. -/
def leaveWait (who : Party) (line : Nat) : Prog := .upd (.waiters fun l => l.filter fun w => !(w.who == who && w.line == line))

/-- A party waits at no other line than these. -/
def keepWaits (who : Party) (lines : List Nat) : Prog := .upd (.waiters fun l => l.filter fun w => !(w.who == who) || lines.contains w.line)

/-- What holds an access that reads several lines at once: a line to wait at, newly or still; `none` lets it read. -/
def sliceStop (s : State) (who : Party) (lines : List Nat) : Option Prog :=
  match lines.find? fun l => !(sliceTurn s who l == .go) with
  | none => none
  | some l => some (if sliceTurn s who l = .enter then .seq (keepWaits who lines) (enterWait who l) else .skip)

/-- Put a line's present L2 contents into a node's L1, with the node's own stores that are on their way; where an atomic to the line
is on its way, the L1 takes nothing. -/
def l1Fill (n line vline : Nat) : Prog :=
  .seq (.ask fun s =>
    let (fmt, sc) := match s.l2Line line with
      | some l => (l.fmt, l.scales)
      | none => (lineFmt s line, lineScales s line)
    match wqOverlay (s.node n) line (s.lineNow line) with
    | some d => .upd (.node n fun nd => nd.l1Put ⟨line, vline, d, fmt, sc⟩ s.ctr)
    | none => .skip) (.upd .fresh)

/-! ## Order within a block (13 R248) -/

/-- The LSID holder of a form (07 R143), with its ORD. -/
def holder (i : Instr) : Option FmtM :=
  match i.body with
  | .m f => if i.opc = 0x189 then none else some f
  | _ => none

/-- Whether a form holds every holder with a higher LSID until it has performed (13 R248 rule 1, R257): an LDV, an L1INV, an acquire load, a FENCE
other than a release. A release FENCE holds store-likes only (05 R101). -/
def holdsLater (i : Instr) : Bool :=
  match holder i with
  | none => false
  | some f => i.opc = 0x1A0 || i.opc = 0x18A || (i.opc = 0x18B && !(f.ord = 2)) ||
      ((f.ord = 1 || f.ord = 3) && Instr.isOpc i [0x180, 0x181, 0x182])

/-- Whether a form is an acquire that performs at its home slice after its commit (05 R92; 13 R248, R260, R262, R263). -/
def acquiresLate (i : Instr) : Bool :=
  match holder i with
  | none => false
  | some f => (f.ord = 1 || f.ord = 3) && Instr.isOpc i [0x183, 0x184, 0x185, 0x1A1, 0x1A3, 0x1A4]

/-- The store-likes (13 R247). -/
def storeLike (i : Instr) : Bool := Instr.isOpc i [0x183, 0x184, 0x185, 0x187, 0x1A1, 0x1A2, 0x1A3, 0x1A4]

/-- The H registers that a rein form writes (13 R264, R265). -/
def reinWrites (i : Instr) : List Nat :=
  match i.body with
  | .m f =>
    if !(groupOf i = 14) then []
    else if i.opc = 0x1C1 then [field f.low 26 5]
    else if i.opc = 0x1C2 then [f.hreg.toNat, field f.low 26 5]
    else if Instr.isOpc i [0x1C4, 0x1C6] then (if f.hv = 1 then [f.hreg.toNat] else [])
    else if i.opc = 0x1C5 then (if f.hv = 1 then [] else [f.hreg.toNat])
    else [f.hreg.toNat]
  | _ => []

/-- The H registers whose value a form depends on: its source, and those whose live rein it drops (04 R85, 13 R265). -/
def reinUses (i : Instr) : List Nat :=
  (match i.body with
   | .m f => if f.hv = 1 then [f.hreg.toNat] else []
   | _ => []) ++ reinWrites i

/-- How an LSID of a unit stands. -/
def CUnit.lsid (u : CUnit) (x : Nat) : LState :=
  match u.lsids.find? (fun l => l.1 == x) with
  | some l => l.2
  | none => .unresolved

/-- Set how an LSID stands. -/
def CUnit.setLsid (u : CUnit) (x : Nat) (st : LState) : CUnit :=
  { u with lsids := (x, st) :: u.lsids.filter fun l => !(l.1 == x) }

/-- Whether an LSID has resolved (01 R18). -/
def LState.resolved : LState → Bool
  | .nulled | .pending | .done => true
  | _ => false

/-- The LSID holders of a mapped block. -/
def Mapped.holders (m : Mapped) : List (Instr × Nat) :=
  m.blk.ins.filterMap fun w => match decode w with
    | .ok j => (holder j).map fun g => (j, g.lsid.toNat)
    | .error _ => none

/-- The units of a loop-resident block that lie before a unit in program order: its colour's iterations from the commit point on (05 R91). -/
def earlierUnits (c : Fx) : List CUnit :=
  if !c.m.loop then [] else
  let col := tagColour c.ut
  let e := commitPoint c.t col c.n c.m.blk.pc
  (List.range ((tagIter c.ut + 256 - e) % 256)).map fun k => c.m.unit (mkTag col ((e + k) % 256))

/-- Whether the operation of an LSID of an uncommitted unit has been performed, or will never be. -/
def CUnit.performed (u : CUnit) (x : Nat) : Bool :=
  match u.lsid x with
  | .nulled | .done => true
  | _ => false

/-- Whether every operation of earlier iterations has been performed (05 R91, R92). -/
def earlierPerformed (c : Fx) : Bool := (earlierUnits c).all fun u => c.m.holders.all fun j => u.performed j.2

/-- Whether a form must wait for a rein form: one on a register that it depends on, with a lower LSID, that has not fired (04 R85, 13 R265); in a
loop-resident block also one of an earlier iteration, or one that another uncommitted unit has fired (05 R91, R98). -/
def heldByRein (i : Instr) (c : Fx) (lsid : Nat) : Bool :=
  let on := fun (j : Instr × Nat) => (reinWrites j.1).any (reinUses i).contains
  c.m.holders.any (fun j => on j && ((j.2 < lsid && !(c.u.lsid j.2).resolved) ||
    (earlierUnits c).any fun u => !(u.lsid j.2 = .nulled))) ||
  (c.m.loop && c.m.units.any fun u => !(u.tag == c.ut) && u.hNew.any fun e => (reinUses i).contains e.2.1)

/-- The WPWAITs and CWAITs of a mapped block, by index (14 R283). -/
def Mapped.cardWaits (m : Mapped) : List Nat :=
  (m.blk.ins.zipIdx.filter fun w => match decode w.1 with
    | .ok j => Instr.isOpc j [0x1E1, 0x1E6]
    | .error _ => false).map fun w => w.2

/-- Whether an earlier iteration has an acquire still to perform: a holder's, or a WPWAIT's or CWAIT's (05 R91, R92, R97). -/
def earlierAcquires (c : Fx) : Bool :=
  (earlierUnits c).any fun u => c.m.holders.any (fun j => (holdsLater j.1 || acquiresLate j.1) && !u.performed j.2) ||
    c.m.cardWaits.any fun q => !(u.fired.any fun f => f.q == q)

/-- Whether what committed blocks of the node have left to perform holds a later operation (05 R92, R96, R101): an acquire, or a store before a FENCE;
at domain scope until other packages have acknowledged it. -/
def committedHolds (c : Fx) : Bool :=
  c.nd.acquiring || c.nd.fencing || farWait c.s c.tid (nodeM c.t c.n) fun w => w.acq || w.holdsReads

/-- Whether a read that holds no LSID is ordered behind an operation before it: MMAT and TFETCH behind earlier blocks (12 R240). -/
def readsLater (c : Fx) : Bool := earlierAcquires c || committedHolds c

/-- Whether a holder is held: by one with a lower LSID (13 R248), by what an earlier iteration or a committed block has not performed (05 R92, R96,
R97, R101), or by a rein form. -/
def heldByOrder (i : Instr) (c : Fx) (lsid : Nat) : Bool :=
  c.m.holders.any (fun j => j.2 < lsid && (holdsLater j.1 || (j.1.opc = 0x18B && storeLike i)) && !(c.u.lsid j.2).resolved) ||
  readsLater c || heldByRein i c lsid

/-- Whether everything that the node's committed blocks have issued has been performed (05 R92, R101). -/
def Node.quiet (nd : Node) : Bool := nd.wq = []

/-- Whether mirrored writes of the node still await their partner (05 R92 domain scope). -/
def mirrorPending (s : State) (n : Nat) : Bool :=
  match (s.node n).task, s.taskOf n with
  | some tid, some t => farWait s tid (nodeM t n) fun _ => true
  | _, _ => false

/-! ## The common frame of a memory form -/

/-- What a memory form reads of its own entry: rein register and streaming mark. -/
def isStream (i : Instr) (f : FmtM) : Bool :=
  (i.opc = 0x180 || i.opc = 0x181 || i.opc = 0x182 || i.opc = 0x183 || i.opc = 0x184 || i.opc = 0x185) &&
    f.low.extractLsb' 29 2 = 2

/-- Resolve a form's LSID without an access (13 R245, R255, 08 R171): it emits a null token to each target, or nothing where its
gate is closed; a deferred register write that it feeds is cancelled. -/
def nullHolder (c : Fx) (f : FmtM) (draw : Nat) (emits : Bool) : Plan :=
  let resolve := onUnit c.n c.ut fun u => if (u.lsid f.lsid.toNat).resolved then u else u.setLsid f.lsid.toNat .nulled
  if emits then c.emitPlan draw (nullData c.np c.k) true resolve
  else .act draw resolve

/-- The draw multiplier of jet work that is linear (06 R112). -/
def jetLin (h : Hdr) (k : Nat) : Nat := if h.plane = 2 then k + 1 else 1

/-- The draw of a holder that makes no access (13 R269, 06 R112). -/
def nulledDraw (h : Hdr) (k : Nat) : Nat := if h.plane = 0 then 4 else 24 * jetLin h k

/-- A memory form with an LSID: null operands, a closed gate and a nulled LSID make no access; a lower holder that has not
performed holds it; then its own plan runs for the open lanes. -/
def memForm (i : Instr) (f : FmtM) (dataPred : Bool) (plan : Fx → BitVec 16 → Plan) (s : State) :
    Host.Outcome State Fault Refusal :=
  fire i (fun c =>
    if c.u.lsid f.lsid.toNat = .nulled then nullHolder c f (nulledDraw c.h c.k) true
    else match c.mode dataPred with
      | .null => nullHolder c f (nulledDraw c.h c.k) true
      | .closed => nullHolder c f (nulledDraw c.h c.k) false
      | .go g => if heldByOrder i c f.lsid.toNat then .wait else plan c g) s

end Sys2Proof.Machine
end

