-- ==== Sys2Proof/Machine/MemForms.lean ====
section
/-! DEFINITION. The MEM and SYNC groups (13 R249–R263) as firings: loads issue, stores wait for commit. -/

namespace Sys2Proof.Machine
open Sys2Proof.Bits

/-! ## Loads -/

/-- What a plain load needs of its page. -/
def loadNeed (w : Nat) : Need := ⟨w, true, false, false, false⟩
/-- What a plain store needs of its page. -/
def storeNeed (w : Nat) : Need := ⟨w, false, true, false, false⟩

/-- Issue a load: its lines come from the L1 where they are there, else from the home slices (13 R250). -/
def issueLoad (i : Instr) (c : Fx) (f : FmtM) (stream : Bool) (es : List Elem) (want : Option Nat) (useL1 : Bool) : Prog :=
  let lines := distinct (es.map fun e => lineOf e.pa)
  let got := lines.filterMap fun x => if useL1 then (c.nd.l1Line x).map fun l => (x, l.data) else none
  let wait := lines.filter fun x => !(got.any fun g => g.1 == x)
  .all [ noteXlate c stream es,
         onUnit c.n c.ut fun u => u.setLsid f.lsid.toNat .issued,
         .upd (.node c.n fun nd => { nd with
           loads := nd.loads ++ [⟨c.ut, c.q, c.tag, f.lsid.toNat, i, es, wait, got, want, none, c.s.ctr⟩] }),
         .upd .fresh ]

/-- Whether every element of a load is served from the L1 (13 R269). -/
def allL1 (nd : Node) (es : List Elem) : Bool := es.all fun e => (nd.l1Line (lineOf e.pa)).isSome

/-- Whether a load may be served from the L1: an acquire misses it (03 R64, 05 R92, R93). -/
def mayUseL1 (f : FmtM) : Bool := !(f.ord = 1 || f.ord = 3)

/-- The draw of a load at its firing (13 R269, 06 R112). -/
def loadDraw (f : FmtM) (c : Fx) (es : List Elem) : Nat :=
  let hit := mayUseL1 f && allL1 c.nd es
  jetLin c.h c.k * (if c.h.plane = 0 then (if hit then 12 else 48) else if hit then 32 else 128)

/-- The draw of a load that is not served from the L1. -/
def missDraw (c : Fx) : Nat := jetLin c.h c.k * (if c.h.plane = 0 then 48 else 128)

/-- Whether a gate leaves a vector or jet load no lane: it then emits nothing (13 R245, 08 R173). -/
def noLanes (i : Instr) (c : Fx) (g : BitVec 16) : Bool :=
  !(c.h.plane = 0) && !(c.h.pmode = 0) && activeLanes i c g = 0

/-- Whether the reads of a unit with a lower LSID than `lsid` have returned (05 R92). -/
def lowerReads (c : Fx) (lsid : Nat) : Bool :=
  c.m.holders.all fun j => !(j.2 < lsid && Instr.isOpc j.1 [0x180, 0x181, 0x182, 0x186, 0x1A0]) || (c.u.lsid j.2).resolved

/-- Whether a release or acquire-release load or LDV may issue (05 R92, 13 R248 rule 2): everything of earlier blocks and iterations has been
performed, at domain scope also at the mirror partners, and so have the reads before it in its block (05 R92; its block's store-likes are pending until
commit and never hold it, 13 R248 rule 3). -/
def releaseReady (f : FmtM) (c : Fx) : Bool :=
  c.nd.quiet && earlierPerformed c && lowerReads c f.lsid.toNat && (f.scope != 5 || !mirrorPending c.s c.n)

/-- LD, LDS, LDG (13 R250). -/
def loadPlan (i : Instr) (f : FmtM) (c : Fx) (g : BitVec 16) : Plan :=
  let w := tyBytes f.ty
  let hv := f.hv = 1
  let r := c.rein f.lsid.toNat f.hreg.toNat
  if f.ord = 3 && !releaseReady f c then .wait
  else if noLanes i c g then .act (loadDraw f c []) (onUnit c.n c.ut fun u => u.setLsid f.lsid.toNat .done)
  else match checkLocs c (loadNeed w) hv (isStream i f) r w (formLocs i f c g) with
    | .held vas => .hold (holdPages c.n vas false c.q c.tag)
    | .fault code reason addr => .fault (missDraw c) code addr (BitVec.ofNat 64 reason)
    | .ok es => .act (loadDraw f c es) (issueLoad i c f (isStream i f) es none (mayUseL1 f))

/-- Offsets of scratchpad elements that lie within the quad's program space (13 R253). -/
def padRange (o : Int) (w : Nat) : Bool := decide (0 ≤ o) && decide (o + w ≤ 0xC0000)

/-- The first check that a scratchpad element fails: alignment, then range (13 R246, R253). -/
def padCheck (w : Nat) (l : Loc) : Option (Nat × Int) :=
  if !(l.rel % w = 0) then some (1, l.rel) else if !padRange l.rel w then some (2, l.rel) else none

/-- Assemble the result of a load from its elements' bytes (13 R245): extended into the lanes, +0 elsewhere. -/
def loadResult (plane k : Nat) (ty : BitVec 4) (vals : List (Nat × Nat × Nat)) : TokData :=
  if plane = 0 then .scalar (BitVec.ofNat 64 (match vals with
    | [] => 0
    | v :: _ => Num.extend 64 ty.toNat v.2.2))
  else .beats ((List.range (if plane = 2 then k + 1 else 1)).map fun j => Vec.mk fun l =>
      BitVec.ofNat 32 (match vals.find? (fun v => v.1 == l && v.2.1 == j) with
        | some v => Num.extend 32 ty.toNat v.2.2
        | none => 0))
    (maskOf fun l => vals.any fun v => v.1 == l)

/-- LDSP (13 R250, R253): the scratchpad is read at the firing and the result emitted at once. -/
def ldspPlan (i : Instr) (f : FmtM) (c : Fx) (g : BitVec 16) : Plan :=
  let w := tyBytes f.ty
  let ls := formLocs i f c g
  let draw := jetLin c.h c.k * (if c.h.plane = 0 then 12 else 32)
  if noLanes i c g then .act draw (onUnit c.n c.ut fun u => u.setLsid f.lsid.toNat .done)
  else match ls.findSome? (padCheck w) with
  | some (reason, a) => .fault draw 0x30 (BitVec.ofInt 64 a) (BitVec.ofNat 64 reason)
  | none =>
    let vals := ls.map fun l => (l.lane, l.coef, ofBytes ((List.range w).map fun b =>
      c.nd.padByte c.s (nodeQuad c.n) (l.rel.toNat + b)))
    c.emitPlan draw (loadResult c.h.plane.toNat c.k f.ty vals) false
      (onUnit c.n c.ut fun u => u.setLsid f.lsid.toNat .done)

/-! ## Stores -/

/-- The bytes that a store's element takes from its data operand (02 R39). -/
def storeBytes (c : Fx) (d : Option Tok) (w lane coef : Nat) : List Byte :=
  if c.h.plane = 0 then toBytes w (optScalar d).toNat else toBytes w (Vec.lane (optBeat d coef) lane).toNat

/-- The scalar that a store emits when it resolves: its left operand (13 R251). -/
def leftScalar (c : Fx) : TokData := .scalar (optScalar c.l)

/-- ST, STS, STG (13 R251): checked at the firing, pending until commit. -/
def storePlan (i : Instr) (f : FmtM) (c : Fx) (g : BitVec 16) : Plan :=
  let w := tyBytes f.ty
  let hv := f.hv = 1
  let d := if i.opc = 0x185 then c.p else c.r
  let draw := jetLin c.h c.k * (if c.h.plane = 0 then 48 else 128)
  match checkLocs c (storeNeed w) hv (isStream i f) (c.rein f.lsid.toNat f.hreg.toNat) w (formLocs i f c g) with
  | .held vas => .hold (holdPages c.n vas true c.q c.tag)
  | .fault code reason addr => .fault draw code addr (BitVec.ofNat 64 reason)
  | .ok es =>
    let op := StoreOp.bytes (es.map fun e => (e, storeBytes c d w e.lane e.coef)) (f.low.extractLsb' 29 2)
    c.emitPlan draw (leftScalar c) false (.all [ noteXlate c (isStream i f) es,
      onUnit c.n c.ut fun u => { (u.setLsid f.lsid.toNat .pending) with
        acts := u.acts ++ [⟨c.q, c.tag, .store f.lsid.toNat f.ord f.scope op⟩] } ])

/-- STSP (13 R251, R253). -/
def stspPlan (i : Instr) (f : FmtM) (c : Fx) (g : BitVec 16) : Plan :=
  let w := tyBytes f.ty
  let ls := formLocs i f c g
  let draw := jetLin c.h c.k * (if c.h.plane = 0 then 12 else 32)
  match ls.findSome? (padCheck w) with
  | some (reason, a) => .fault draw 0x30 (BitVec.ofInt 64 a) (BitVec.ofNat 64 reason)
  | none =>
    let op := StoreOp.scratch (ls.map fun l => (l.rel.toNat, storeBytes c c.r w l.lane l.coef))
    c.emitPlan draw (leftScalar c) false (onUnit c.n c.ut fun u => { (u.setLsid f.lsid.toNat .pending) with
      acts := u.acts ++ [⟨c.q, c.tag, .store f.lsid.toNat 0 0 op⟩] })

/-! ## PREF, NULLST, L1INV, FENCE -/

/-- One line of a PREF (13 R254): skipped where a check fails or the line is another task's; an uncorrectable error is handled as
a scrub would and the line skipped. A line that the L2 does not hold is asked of its base die, and its fill is drawn when it arrives (R269). -/
def prefLine (c : Fx) (toL1 : Bool) (va : Nat) : Prog :=
  .ask fun s =>
    if !((s.node c.n).task = some c.tid) then .skip
    else match translate s (nodeDie c.n) c.t.asid va with
      | .fault => .skip
      | .entry w =>
        let line := lineOf (entryPa w va)
        if entryClass w = 1 || entryClass w = 3 || !entryRd w || foreign s (some c.t.owner) line then .skip
        else match (if (s.l2Line line).isSome && !toL1 then none else lineTrouble s Who.none line) with
          | some p => p
          | none =>
            if (s.l2Line line).isSome then (if toL1 then l1Fill c.n line (va / 128) else .skip)
            else
              let why : Fill := ⟨c.tid, c.q, c.tag, c.m.blk.pc, none, if toL1 then some (va / 128) else none⟩
              if asked s line then (if toL1 then joinLine c.n line why else .skip) else askLine c.n line why

/-- PREF (13 R254): its lines run in ascending order from the line that contains rel; one with any of bits 63:57 set is skipped. -/
def prefPlan (f : FmtM) (c : Fx) : Plan :=
  let rel := ((optScalar c.l) + f.off.signExtend 64).toNat
  let nl := field f.low 21 8 + 1
  .act 48 (.seq (onUnit c.n c.ut fun u => u.setLsid f.lsid.toNat .done)
    (Prog.each (List.range nl) fun k =>
      let va := (rel / 128 + k) * 128
      Prog.when (va < 2 ^ 57) (prefLine c (field f.low 29 2 = 1) va)))

/-- NULLST (13 R255): resolves the LSID it names, unless it has resolved; a load already issued drops its value on arrival. -/
def nullstPlan (f : FmtM) (c : Fx) : Plan :=
  match c.mode false with
  | .null | .closed => .act 4 .skip
  | .go _ => .act 4 (onUnit c.n c.ut fun u =>
      if (u.lsid f.lsid.toNat).resolved then u else u.setLsid f.lsid.toNat .nulled)

/-- Drop the L1 lines that hold a virtual address: those that an access to its virtual line brought, and the line to which it translates, where
it does (13 R256: no translation is needed, and an unmapped page neither holds nor faults it). -/
def l1Inv (c : Fx) (va : Nat) : Prog :=
  let pl := match translate c.s (nodeDie c.n) c.t.asid va with
    | .entry w => some (lineOf (entryPa w va))
    | .fault => none
  .upd (.node c.n fun nd => { nd with l1 := nd.l1.filter fun x => !(x.vline == va / 128 || some x.line == pl) })

/-- L1INV (13 R256): bits 63:57 of rel, then the rein as for one byte. -/
def l1invPlan (f : FmtM) (c : Fx) : Plan :=
  let rel := relOf c f
  let hv := f.hv = 1
  let r := c.rein f.lsid.toNat f.hreg.toNat
  let va := if hv then reinVa c.s c.t.asid r rel else rel
  if rel < 0 || 2 ^ 57 ≤ rel then .fault 4 0x30 (BitVec.ofInt 64 rel) 6
  else if hv && !reinOk c.s c.t.asid r rel 1 false false then .fault 4 0x32 (BitVec.ofInt 64 va) (BitVec.ofNat 64 c.q)
  else .act 4 (.seq (onUnit c.n c.ut fun u => u.setLsid f.lsid.toNat .done) (l1Inv c va.toNat))

/-- Whether a FENCE waits for a holder (05 R101): all of them, but with ORD 01 only loads, atomics, CAS and LDV. -/
def fenceCovers (f : FmtM) (j : Instr) : Bool :=
  !(f.ord = 1) || Instr.isOpc j [0x180, 0x181, 0x182, 0x186, 0x1A0, 0x1A3, 0x1A4]

/-- Whether every holder before a FENCE has been performed, other than a pending store-like of its own unit (13 R257). -/
def lowerDone (f : FmtM) (c : Fx) : Bool :=
  c.m.holders.all (fun j => !(j.2 < f.lsid.toNat) || !fenceCovers f j.1 || (c.u.lsid j.2).resolved) &&
  (earlierUnits c).all fun u => c.m.holders.all fun j => !fenceCovers f j.1 || u.performed j.2

/-- Whether what the node's committed blocks have left to perform lets a FENCE end: nothing that it covers. -/
def fenceQuiet (f : FmtM) (c : Fx) : Bool := if f.ord = 1 then !c.nd.atomicLeft else c.nd.quiet

/-- FENCE (13 R257, 05 R101): it waits for every operation before it, at domain scope also at the mirror partners. -/
def fencePlan (f : FmtM) (c : Fx) : Plan :=
  if !(lowerDone f c && fenceQuiet f c && (f.scope != 5 || !mirrorPending c.s c.n)) then .wait
  else .act 4 (.seq (onUnit c.n c.ut fun u => u.setLsid f.lsid.toNat .done)
    (Prog.when (f.ord = 1 || f.ord = 3) (.upd (.node c.n fun nd => nd.l1Clear))))

/-! ## SYNC -/

/-- LDV (13 R259): issues to the home slice and waits there. -/
def ldvPlan (i : Instr) (f : FmtM) (c : Fx) : Plan :=
  let r := c.rein f.lsid.toNat f.hreg.toNat
  if 2 ≤ f.ord.toNat && !releaseReady f c then .wait
  else match checkLocs c ⟨8, true, false, true, true⟩ (f.hv = 1) false r 8 [⟨0, 0, relOf c f⟩] with
    | .held vas => .hold (holdPages c.n vas false c.q c.tag)
    | .fault code reason addr => .fault 64 code addr (BitVec.ofNat 64 reason)
    | .ok es => .act 64 (issueLoad i c f false es (some (field (optScalar c.r) 0 32)) false)

/-- A versioned or atomic write of one word: its checks, then its place in the pending state. -/
def syncStore (f : FmtM) (c : Fx) (nd : Need) (w : Nat) (op : Elem → StoreOp) (emits : Bool) : Plan :=
  let r := c.rein f.lsid.toNat f.hreg.toNat
  match checkLocs c nd (f.hv = 1) false r w [⟨0, 0, relOf c f⟩] with
  | .held vas => .hold (holdPages c.n vas true c.q c.tag)
  | .fault code reason addr => .fault 64 code addr (BitVec.ofNat 64 reason)
  | .ok [] => .wait
  | .ok (e :: es) =>
    let pend := Prog.all [ noteXlate c false (e :: es),
      onUnit c.n c.ut fun u => { (u.setLsid f.lsid.toNat .pending) with
        acts := u.acts ++ [⟨c.q, c.tag, .store f.lsid.toNat f.ord f.scope (op e)⟩] } ]
    if emits then c.emitPlan 64 (leftScalar c) false pend else .act 64 pend

/-- The deferred register that T0 of an atomic or versioned store names (13 R258); its number is given at commit. -/
def deferOf (c : Fx) (t0 : BitVec 12) : Option Defer :=
  if field t0 10 2 = 0 then none else some ⟨c.tid, nodeM c.t c.n, field t0 0 7, 0⟩

/-- STV (13 R260). -/
def stvPlan (f : FmtM) (c : Fx) : Plan :=
  syncStore f c ⟨8, false, true, true, true⟩ 8 (fun e => .stv e (optScalar c.r) (field f.low 15 16) (deferOf c f.h.t0)) false
/-- RECLAIM (13 R261). -/
def reclaimPlan (f : FmtM) (c : Fx) : Plan :=
  syncStore f c ⟨8, false, true, true, true⟩ 8 (fun e => .reclaim e (field (optScalar c.r) 0 32)) true
/-- ATOM (13 R262): a write for the WR bit of its page and rein (03 R62, 04 R83). -/
def atomPlan (f : FmtM) (c : Fx) : Plan :=
  syncStore f c ⟨tyBytes f.ty, false, true, false, true⟩ (tyBytes f.ty)
    (fun e => .rmw e (.atom (f.low.extractLsb' 27 4) f.ty (optScalar c.r)) (deferOf c f.h.t0)) false
/-- CAS (13 R263). -/
def casPlan (f : FmtM) (c : Fx) : Plan :=
  syncStore f c ⟨tyBytes f.ty, false, true, false, true⟩ (tyBytes f.ty)
    (fun e => .rmw e (.cas f.ty (optScalar c.r) (optScalar c.p)) (deferOf c f.h.t0)) false

/-- The new word of an atomic (13 R262): FADD rounds RNE and raises no flag. -/
def atomNew (fn ty : BitVec 4) (old x : Nat) : Nat :=
  let w := if ty = 4 then 64 else 32
  let x := x % 2 ^ w
  let sg := fun (v : Nat) => Bits.sext w v
  match fn.toNat with
  | 0 => (old + x) % 2 ^ w
  | 1 => old &&& x
  | 2 => old ||| x
  | 3 => old ^^^ x
  | 4 => x
  | 5 => if sg x < sg old then x else old
  | 6 => if sg old < sg x then x else old
  | 7 => if x < old then x else old
  | 8 => if old < x then x else old
  | _ => (Num.deliver Num.fp32 0 false (Num.sumVals 0 [Num.decode Num.fp32 old, Num.decode Num.fp32 x])).1

/-- The old and the new word of a read-modify-write, and its width in bytes. -/
def rmwApply (f : Rmw) (old : Nat) : Nat × Nat :=
  match f with
  | .atom fn ty x => (atomNew fn ty old x.toNat, if ty = 4 then 8 else 4)
  | .cas ty e n =>
    let w := if ty = 4 then 8 else 4
    (if old = e.toNat % 2 ^ (8 * w) then n.toNat % 2 ^ (8 * w) else old, w)

/-- The old word as a scalar result: a 4-byte word sign-extended (02 R39). -/
def rmwResult (w old : Nat) (f : Rmw) : Word :=
  let fl := match f with
    | .atom _ ty _ => ty = 9
    | .cas _ _ _ => false
  BitVec.ofNat 64 (if w = 8 || fl then old else Num.writeInt 64 3 (Bits.sext 32 old))

/-! ## The meanings -/

/-- LD (13 R250). -/
def execLd (f : FmtM) (s : State) := memForm (.ld f) f false (loadPlan (.ld f) f) s
/-- LDS (13 R250). -/
def execLds (f : FmtM) (s : State) := memForm (.lds f) f false (loadPlan (.lds f) f) s
/-- LDG (13 R250). -/
def execLdg (f : FmtM) (s : State) := memForm (.ldg f) f false (loadPlan (.ldg f) f) s
/-- ST (13 R251). -/
def execSt (f : FmtM) (s : State) := memForm (.st f) f false (storePlan (.st f) f) s
/-- STS (13 R251). -/
def execSts (f : FmtM) (s : State) := memForm (.sts f) f false (storePlan (.sts f) f) s
/-- STG (13 R251): slot 11 is its data. -/
def execStg (f : FmtM) (s : State) := memForm (.stg f) f true (storePlan (.stg f) f) s
/-- LDSP (13 R253). -/
def execLdsp (f : FmtM) (s : State) := memForm (.ldsp f) f false (ldspPlan (.ldsp f) f) s
/-- STSP (13 R253). -/
def execStsp (f : FmtM) (s : State) := memForm (.stsp f) f false (stspPlan (.stsp f) f) s
/-- PREF (13 R254). -/
def execPref (f : FmtM) (s : State) := memForm (.pref f) f false (fun c _ => prefPlan f c) s
/-- NULLST (13 R255): it holds no LSID of its own. -/
def execNullst (f : FmtM) (s : State) := fire (.nullst f) (nullstPlan f) s
/-- L1INV (13 R256). -/
def execL1inv (f : FmtM) (s : State) := memForm (.l1inv f) f false (fun c _ => l1invPlan f c) s
/-- FENCE (13 R257). -/
def execFence (f : FmtM) (s : State) := memForm (.fence f) f false (fun c _ => fencePlan f c) s
/-- LDV (13 R259). -/
def execLdv (f : FmtM) (s : State) := memForm (.ldv f) f false (fun c _ => ldvPlan (.ldv f) f c) s
/-- STV (13 R260). -/
def execStv (f : FmtM) (s : State) := memForm (.stv f) f false (fun c _ => stvPlan f c) s
/-- RECLAIM (13 R261). -/
def execReclaim (f : FmtM) (s : State) := memForm (.reclaim f) f false (fun c _ => reclaimPlan f c) s
/-- ATOM (13 R262). -/
def execAtom (f : FmtM) (s : State) := memForm (.atom f) f false (fun c _ => atomPlan f c) s
/-- CAS (13 R263): slot 11 is its new value. -/
def execCas (f : FmtM) (s : State) := memForm (.cas f) f true (fun c _ => casPlan f c) s

end Sys2Proof.Machine
end

