-- ==== Sys2Proof/Machine/MatrixForms.lean ====
section
/-! DEFINITION. The MATRIX group (12 R229–R242): the firings, and the accumulator actions of a commit. -/

namespace Sys2Proof.Machine
open Sys2Proof.Bits

/-! ## Operand descriptors (12 R231) -/

/-- FSINFO of MATRIX_FAULT (12 R241). -/
def matInfo (reason tile : Nat) : Word := BitVec.ofNat 64 (reason + tile % 4 * 256)

/-- A descriptor's fields. -/
structure Desc where
  addr : Word
  stride : Int
  hv : Bool
  h : Nat

/-- The descriptor that a beat holds; `none` where a "—" field is not zero. -/
def descOf (v : Vec) : Option Desc :=
  if !(field (Vec.lane v 3) 6 26 = 0) || (List.range 12).any (fun k => !(Vec.lane v (4 + k) = 0)) then none
  else some ⟨Vec.lane v 1 ++ Vec.lane v 0, (Vec.lane v 2).toInt, bit (Vec.lane v 3) 0, field (Vec.lane v 3) 1 5⟩

/-- The start of row `q` of plane `e`. -/
def Desc.row (d : Desc) (ps q e : Nat) : Int :=
  (d.addr + BitVec.ofInt 64 ((q : Int) * d.stride) + BitVec.ofNat 64 (128 * e * ps)).toInt

/-- An operand as the firing finds it. -/
inductive MatSrc where
  | rows (rs : List PinRow)
  | mem (es : List Elem)
  | fault (code : Nat) (addr info : Word)
  | held (vas : List Nat)

/-- The rows of a memory operand: reins first, then alignment within a line, then translation as for LD (12 R231, R240). -/
def memRows (c : Fx) (tile n : Nat) (d : Desc) (rows : List (Nat × Nat)) (ps : Nat) : MatSrc :=
  let r := Sparse.get 0 c.m.h d.h
  let ls := rows.map fun x => (⟨x.1, x.2, d.row ps x.1 x.2⟩ : Loc)
  let va := fun (l : Loc) => if d.hv then reinVa c.s c.t.asid r l.rel else l.rel
  let skew := ls.any fun l => !(va l % 4 = 0) || 128 < va l % 128 + n
  match checkLocs c ⟨1, true, false, false, false⟩ d.hv false r n ls with
  | .fault code reason addr =>
    if code = 0x32 then .fault code addr (BitVec.ofNat 64 reason)
    else if skew then .fault 0x21 0 (matInfo 2 tile) else .fault code addr (BitVec.ofNat 64 reason)
  | .held vas => if skew then .fault 0x21 0 (matInfo 2 tile) else .held vas
  | .ok es => if skew then .fault 0x21 0 (matInfo 2 tile) else .mem es

/-- An operand of MMAT of `np` planes (12 R231, R239). -/
def matSrc (c : Fx) (tile ks ps np pin : Nat) (tok : Option Tok) : MatSrc :=
  if !(pin = 0) then
    let rs := ((c.m.pins.find? fun p => p.1 == pin).map fun p => p.2).getD []
    if rs.length < 32 * np then .fault 0x21 0 (matInfo 6 tile)
    else .rows ((rs.take (32 * np)).map fun r => { r with data := r.data.take (4 * ks) })
  else match descOf (optBeat tok 0) with
    | none => .fault 0x21 0 (matInfo 3 tile)
    | some d => memRows c tile (4 * ks) d ((List.range np).flatMap fun e => (List.range 32).map fun q => (q, e)) ps

/-- A row as it is read: through the L1 like a plain load, after the node's own stores (01 R19), with its line's tag and folded
scales (12 R239, R240). -/
def readRow (s : State) (nd : Node) (n : Nat) (e : Elem) : PinRow :=
  let line := lineOf e.pa
  let o := e.pa % 128
  let (data, fmt, sc) := match nd.l1Line line with
    | some l => (l.data, l.fmt, l.scales)
    | none => match s.l2Line line with
      | some l => (nd.ownBytes line l.data, l.fmt, l.scales)
      | none => (nd.ownBytes line (s.memLine line), lineFmt s line, lineScales s line)
  ⟨(data.drop o).take n, fmt, (sc.drop (o / 4)).take (n / 4)⟩

/-- The rows of an operand, once it can be read. -/
def srcRows (s : State) (nd : Node) (n : Nat) : MatSrc → List PinRow
  | .rows rs => rs
  | .mem es => es.map (readRow s nd n)
  | _ => []

/-- The elements that an operand reads. -/
def MatSrc.elems : MatSrc → List Elem
  | .mem es => es
  | _ => []

/-- Whether some row crosses a code half of a blocked line (12 R231). -/
def halfCross (s : State) (nd : Node) (n : Nat) (es : List Elem) : Bool :=
  es.any fun e => (readRow s nd n e).fmt = 12 && 64 < e.pa % 64 + n

/-- The lines of elements that the L1 does not hold. -/
def missing (nd : Node) (es : List Elem) : List Nat := (distinct (es.map fun e => lineOf e.pa)).filter fun l => (nd.l1Line l).isNone

/-- The virtual line of the access that reads a line. -/
def vlineOf (es : List Elem) (line : Nat) : Nat := ((es.find? fun e => lineOf e.pa == line).map fun e => e.va / 128).getD 0

/-- Read the missing lines of elements: each one that the L2 does not hold is filled and draws 256; all enter the L1 (12 R242). -/
def readLines (c : Fx) (es : List Elem) (k : Prog) : Prog :=
  (missing c.nd es).foldr (fun line k =>
    let go := Prog.all [leaveWait (.firing c.n c.q c.tag) line, l1Fill c.n line (vlineOf es line), k]
    .ask fun s => match s.l2Line line with
      | some _ => go
      | none => drawOr c.n 256 c.q c.m.blk.pc c.tag (.seq (fillLine line c.t.part) go)) k

/-- The detecting access of a firing. -/
def fxWho (c : Fx) : Who := ⟨some c.tid, c.n, mkFault c.nd 0x73 c.q c.tag 0 0⟩

/-- Before a firing reads lines: it waits for what an earlier block or iteration has still to perform (12 R240), for another task's line (03 R75), for an atomic of its own node and for a tag of a base die's port
(03 R80), and an error among them is dealt with first; `none` lets it read. -/
def readGate (c : Fx) (draw : Nat) (lines : List Nat) : Option Plan :=
  if readsLater c then some .wait
  else match sliceStop c.s (.firing c.n c.q c.tag) lines with
  | some p => some (.hold p)
  | none => if lines.any fun l => c.nd.ownWaits l || !canHave c.s l then some .wait
    else match lines.find? fun l => (lineTrouble c.s (fxWho c) l).isSome with
    | none => none
    | some l =>
      let p := (lineTrouble c.s (fxWho c) l).getD .skip
      let kills := poisoned c.s l || (match c.s.l2Line l with
        | some x => x.owner.isSome
        | none => false)
      some (if kills then .hold (drawOr c.n draw c.q c.m.blk.pc c.tag p) else .hold p)

/-! ## MMAT (12 R232–R234) -/

/-- The tile type of a pair of tags (12 R232). -/
def pairTy (a b : BitVec 4) (jet : Bool) : Option TileTy :=
  if (a = 7 || a = 8) && a = b then some .fp32
  else if jet then none
  else if a.toNat ≤ 1 && b.toNat ≤ 1 then some .int32
  else if (a = 5 || a = 6) && (b = 5 || b = 6) then some .fp32
  else if a = 12 && b = 12 then some .fp32 else none

/-- The one tag of an operand's rows. -/
def oneTag (rs : List PinRow) : Option (BitVec 4) :=
  match rs with
  | [] => none
  | r :: rs => if rs.all fun x => x.fmt = r.fmt then some r.fmt else none

/-- The firing of MMAT whose operands can be read. -/
def mmatGo (f : FmtX) (c : Fx) (draw np : Nat) (jet : Bool) (a b : MatSrc) : Plan :=
  let ks := f.ksteps.toNat + 1
  let es := a.elems ++ b.elems
  let lines := missing c.nd es
  match readGate c draw lines with
  | some p => p
  | none =>
    let ra := srcRows c.s c.nd (4 * ks) a
    let rb := srcRows c.s c.nd (4 * ks) b
    let bad := fun (reason : Nat) => takeFault c.n (mkFault c.nd 0x21 c.q c.tag 0 (matInfo reason f.acc.toNat))
    let act := if halfCross c.s c.nd (4 * ks) es then bad 2
      else match oneTag ra, oneTag rb with
        | some ta, some tb => (match pairTy ta tb jet with
          | none => bad 1
          | some _ => addAct c.n c.ut c.q c.tag (.mmat f.acc.toNat ks (np - 1) ⟨ta, ra⟩ ⟨tb, rb⟩ jet c.h))
        | _, _ => bad 1
    .act draw (.seq (noteXlate c false es) (readLines c es act))

/-- MMAT (12 R233). -/
def mmatPlan (f : FmtX) (c : Fx) : Plan :=
  let draw := formDraw (.mmat f) c.k
  match c.mode false with
  | .null => c.nullPlan draw
  | .closed => .act draw .skip
  | .go _ =>
    let jet := !(f.pstride = 0)
    let np := if jet then c.k + 1 else 1
    let src := fun pin tok => matSrc c f.acc.toNat (f.ksteps.toNat + 1) f.pstride.toNat np pin tok
    match src (field f.low 14 2) c.l, src (field f.low 12 2) c.r with
    | .fault code addr info, _ => .fault draw code addr info
    | _, .fault code addr info => .fault draw code addr info
    | .held vas, .held ws => .hold (holdPages c.n (vas ++ ws) false c.q c.tag)
    | .held vas, _ => .hold (holdPages c.n vas false c.q c.tag)
    | _, .held ws => .hold (holdPages c.n ws false c.q c.tag)
    | a, b => mmatGo f c draw np jet a b

/-- MMAT (12 R233). -/
def execMmat (f : FmtX) (s : State) := fire (.mmat f) (mmatPlan f) s

/-! ## TFETCH (12 R239) -/

/-- The draw of TFETCH by row: the L1 figure where the line is there or an earlier row brought it (12 R242). -/
def tfetchDraw (nd : Node) : List Elem → List Nat → Nat
  | [], _ => 0
  | e :: es, seen =>
    let line := lineOf e.pa
    (if (nd.l1Line line).isSome || seen.contains line then 32 else 128) + tfetchDraw nd es (line :: seen)

/-- TFETCH (12 R239). -/
def tfetchPlan (f : FmtX) (c : Fx) : Plan :=
  let nl := field f.low 48 14 + 1
  let all := 128 * nl
  match c.mode false with
  | .null => c.nullPlan all
  | .closed => .act all .skip
  | .go _ => match descOf (optBeat c.l 0) with
    | none => .fault all 0x21 0 (matInfo 3 0)
    | some d => match memRows c 0 64 d ((List.range nl).map fun q => (q, 0)) 0 with
      | .fault code addr info => .fault all code addr info
      | .held vas => .hold (holdPages c.n vas false c.q c.tag)
      | src =>
        let es := src.elems
        let draw := tfetchDraw c.nd es []
        let lines := missing c.nd es
        match readGate c draw lines with
        | some p => p
        | none =>
          let pend := Prog.all [ noteXlate c false es,
            addAct c.n c.ut c.q c.tag (.tfetch (field f.low 62 2) (srcRows c.s c.nd 64 src)) ]
          match c.emitPlan draw (leftData c) false pend with
          | .act d p => .act d (readLines c es (if halfCross c.s c.nd 64 es
              then takeFault c.n (mkFault c.nd 0x21 c.q c.tag 0 (matInfo 2 0)) else p))
          | pl => pl
where
  /-- The data of the left operand, passed on as a trigger. -/
  leftData (c : Fx) : TokData := (c.l.map fun t => t.data).getD (.scalar 0)

/-- TFETCH (12 R239). -/
def execTfetch (f : FmtX) (s : State) := fire (.tfetch f) (tfetchPlan f) s

/-! ## The tile forms (12 R237, R238) -/

/-- The data of the trigger, which the form passes on. -/
def triggerData (c : Fx) : TokData := (c.l.map fun t => t.data).getD (.scalar 0)

/-- A tile form that acts at commit and passes its trigger on. -/
def tileForm (i : Instr) (a : Act) (s : State) : Host.Outcome State Fault Refusal :=
  fire i (fun c => match c.mode false with
    | .null => c.nullPlan 24
    | .closed => .act 24 .skip
    | .go _ => c.emitPlan 24 (triggerData c) false (addAct c.n c.ut c.q c.tag a)) s

/-- ACCCLR (12 R237). -/
def execAccclr (f : FmtX) (s : State) := tileForm (.accclr f) (.accClr f.acc.toNat) s
/-- ACCARM (12 R237). -/
def execAccarm (f : FmtX) (s : State) := tileForm (.accarm f) (.accArm f.acc.toNat (field f.low 0 32)) s
/-- ACCREL (12 R237). -/
def execAccrel (f : FmtX) (s : State) := tileForm (.accrel f) (.accRel f.acc.toNat) s
/-- MTRANS (12 R237). -/
def execMtrans (f : FmtX) (s : State) := tileForm (.mtrans f) (.mtrans f.acc.toNat) s

/-- Cell (i, j) of a tile. -/
def Tile.cell (t : Tile) (i j : Nat) : Lane := Sparse.get 0 t.cells (32 * i + j)
/-- The checksum of row i as the cells give it. -/
def Tile.rowSum (t : Tile) (i : Nat) : Lane := (List.range 32).foldl (fun a j => a + t.cell i j) 0
/-- Whether row i differs from its checksum (12 R238). -/
def Tile.rowBad (t : Tile) (i : Nat) : Bool := !(t.rowSum i = Sparse.get 0 t.ck i)
/-- The mask of mismatched rows. -/
def Tile.badRows (t : Tile) : Nat := total ((List.range 32).map fun i => if t.rowBad i then 2 ^ i else 0)

/-- ACCRD (12 R237): it waits while the tile is armed; a checksum mismatch of its row kills the task (24 R403). -/
def accrdPlan (f : FmtX) (c : Fx) : Plan :=
  let t := c.nd.tile f.acc.toNat
  let row := field f.low 59 5
  let half := field f.low 58 1
  let ty := field f.low 54 4
  let rm := if field f.low 51 3 = 6 then field c.m.snap.rmode 0 3 else field f.low 51 3
  let src := if t.ty = .int32 then 3 else 9
  let waits := match t.arm with
    | .armed _ => true
    | _ => false
  match c.mode false with
  | .null => c.nullPlan 24
  | .closed => if waits then .wait else .act 24 .skip
  | .go _ =>
    if waits then .wait
    else if t.rowBad row then
      let info := BitVec.ofNat 64 (f.acc.toNat + 2 ^ row * 2 ^ 32)
      .act 24 (.seq (report c.n (mkFault c.nd 0x72 c.q c.tag 0 info) (some 1)) (killTask c.tid))
    else
      let rs := (List.range 16).map fun l => Num.cvt 32 ty src rm (field f.low 50 1 = 1) (t.cell row (16 * half + l)).toNat
      c.finish 24 (rs.zipIdx.map fun r => (r.2, 0, r.1.2)) (vecData (rs.map fun r => BitVec.ofNat 32 r.1) 0xFFFF)

/-- ACCRD (12 R237). -/
def execAccrd (f : FmtX) (s : State) := fire (.accrd f) (accrdPlan f) s

/-- ACCCHK (12 R238): a mismatch is reported and the block goes on (24 R403). -/
def execAccchk (f : FmtX) (s : State) := fire (.accchk f) (fun c => match c.mode false with
  | .null => c.nullPlan 24
  | .closed => .act 24 .skip
  | .go _ =>
    let bad := (c.nd.tile f.acc.toNat).badRows
    c.emitPlan 24 (vecData (Vec.mk fun l => if l = 0 then BitVec.ofNat 32 bad else 0) 0xFFFF) false
      (Prog.when (!(bad = 0)) (report c.n (mkFault c.nd 0x72 c.q c.tag 0 (BitVec.ofNat 64 (f.acc.toNat + bad * 2 ^ 32))) (some 0)))) s

/-! ## The accumulator actions of a commit (12 R233–R237) -/

/-- Write a cell; its row's checksum follows (12 R229). -/
def Tile.setCell (t : Tile) (i j : Nat) (x : Lane) : Tile :=
  { t with
    ck := Sparse.put 0 t.ck i (Sparse.get 0 t.ck i - t.cell i j + x)
    cells := Sparse.put 0 t.cells (32 * i + j) x }

/-- The values of a row's elements in one step (02 R52, R46; 12 R231). -/
def stepVals (fmt : BitVec 4) (r : PinRow) (st : Nat) : List Num.FVal :=
  let b := (r.data.drop (4 * st)).take 4
  if fmt = 5 || fmt = 6 then b.map fun x => Num.decode (Num.fmtOf fmt.toNat) x.toNat
  else if fmt = 12 then
    let sc := Num.decode Num.bf16 (r.scales.getD st 0).toNat
    b.flatMap fun x => [(Num.mulVal (Num.decode Num.e2m1 (x.toNat % 16)) sc).1, (Num.mulVal (Num.decode Num.e2m1 (x.toNat / 16)) sc).1]
  else [Num.decode (Num.fmtOf fmt.toNat) (ofBytes (b.take 2)), Num.decode (Num.fmtOf fmt.toNat) (ofBytes (b.drop 2))]

/-- The integers of a row's elements in one step. -/
def stepInts (fmt : BitVec 4) (r : PinRow) (st : Nat) : List Int :=
  ((r.data.drop (4 * st)).take 4).map fun x => if fmt = 1 then (x.toNat : Int) else x.toInt

/-- One step on one floating-point cell (02 R52): the exact sum of the products and the cell, rounded once; a NaN among the products
or arising in the sum is invalid. DESIGN CHOICE: a quiet NaN that the cell already holds raises nothing again (log 74). -/
def cellStep (a b : List Num.FVal) (x : Lane) : Lane × Num.Flags :=
  let ps := (a.zip b).map fun e => (Num.mulVal e.1 e.2).1
  if ps.any Num.FVal.isNan then (BitVec.ofNat 32 Num.fp32.nan, Num.NV)
  else
    let r := Num.deliver Num.fp32 0 false (Num.sumVals 0 (Num.decode Num.fp32 x.toNat :: ps))
    (BitVec.ofNat 32 r.1, r.2)

/-- All steps of one cell. -/
def cellSteps (ty : TileTy) (ks : Nat) (fa fb : BitVec 4) (ra rb : PinRow) (x : Lane) : Lane × Num.Flags :=
  (List.range ks).foldl (fun (acc : Lane × Num.Flags) st =>
    if ty = .int32 then
      (acc.1 + BitVec.ofInt 32 (((stepInts fa ra st).zip (stepInts fb rb st)).foldl (fun s e => s + e.1 * e.2) 0), acc.2)
    else
      let r := cellStep (stepVals fa ra st) (stepVals fb rb st) acc.1
      (r.1, acc.2 ||| r.2)) (x, 0)

/-- A product of planes `ea` and `eb` added into a tile: the tile and the flags raised, by lane of the row's half. -/
def tileMul (ty : TileTy) (ks : Nat) (a b : MatOperand) (ea eb : Nat) (t : Tile) : Tile × Num.Flags :=
  (List.range 1024).foldl (fun (acc : Tile × Num.Flags) n =>
    let i := n / 32
    let j := n % 32
    let r := cellSteps ty ks a.fmt b.fmt (a.rows.getD (32 * ea + i) ⟨[], 0, []⟩) (b.rows.getD (32 * eb + j) ⟨[], 0, []⟩) (acc.1.cell i j)
    (acc.1.setCell i j r.1, acc.2 ||| r.2)) (t, 0)

/-- The state of the accumulators in the course of a commit: tiles, raised flags (jet or not), and MMAT's tokens by instruction. -/
structure MatRun where
  tiles : List (Nat × Tile)
  pins : List (Nat × List PinRow)
  fp : Num.Flags
  jet : Word
  emits : List (Nat × Tag × Hdr × TokData)
  /-- Row halves that a deposit of the unit has written: tile, row, slot. -/
  halves : List (Nat × Nat × Nat)

/-- A fault that an accumulator action meets: code and FSINFO. -/
abbrev MatFault := Nat × Word

/-- Tile `t` in the course of a commit. -/
def MatRun.tile (r : MatRun) (t : Nat) : Tile := Sparse.get Tile.reset r.tiles t
/-- Put a tile. -/
def MatRun.put (r : MatRun) (t : Nat) (x : Tile) : MatRun := { r with tiles := Sparse.put Tile.reset r.tiles t x }

/-- count_and_emit (12 R234). -/
def countEmit (r : MatRun) (q : Nat) (tag : Tag) (h : Hdr) (t : Nat) : MatRun :=
  let x := r.tile t
  match x.arm with
  | .armed n =>
    let c := x.cnt + 1
    if n ≤ 1 then
      { r.put t { x with
          arm := .finished
          cnt := c } with
        emits := r.emits ++ [(q, tag, h, vecData (Vec.mk fun l => if l = 0 then BitVec.ofNat 32 c else if l = 1 then BitVec.ofNat 32 t else 0) 0xFFFF)] }
    else r.put t { x with
      arm := .armed (n - 1)
      cnt := c }
  | _ => r

/-- MMAT at its commit (12 R233, R234): its faults come before any effect. -/
def mmatAct (r : MatRun) (q : Nat) (tag : Tag) (t ks k : Nat) (a b : MatOperand) (jet : Bool) (h : Hdr) : Except MatFault MatRun :=
  let ty := (pairTy a.fmt b.fmt jet).getD .fp32
  match (List.range (k + 1)).find? (fun j => 1 ≤ j && !((r.tile (t + j)).arm = .idle)),
        (List.range (k + 1)).find? (fun j => !((r.tile (t + j)).ty = .unset) && !((r.tile (t + j)).ty = ty)) with
  | _, some j => .error (0x21, matInfo 4 (t + j))
  | high, none =>
    if (r.tile t).arm = .finished then .error (0x21, matInfo 5 t)
    else match high with
    | some j => .error (0x21, matInfo 6 (t + j))
    | none =>
      let out := (List.range (k + 1)).map fun j =>
        (List.range (j + 1)).foldl (fun (acc : Tile × Num.Flags) i =>
          let x := tileMul ty ks a b i (j - i) acc.1
          (x.1, acc.2 ||| x.2)) (r.tile (t + j), 0)
      let raised : Raised := out.zipIdx.map fun e => (0, e.2, e.1.2)
      if traps h raised then .error (0x20, trapInfo jet raised)
      else
        let r := out.zipIdx.foldl (fun r e => r.put (t + e.2) { e.1.1 with ty := ty }) r
        let r := if jet then { r with jet := r.jet ||| jflagBits raised } else { r with fp := r.fp ||| orFlags (raised.map fun e => e.2.2) }
        .ok (countEmit r q tag h t)

/-- A deposit at its commit (12 R236). -/
def depositAct (r : MatRun) (row acc slot : Nat) (tok : Tok) : Except MatFault MatRun :=
  if tok.null then .ok r
  else if r.halves.contains (acc, row, slot) then .error (0x21, matInfo 7 acc)
  else
    let base := if slot = 1 then 0 else 16
    let x := ((List.range 16).filter fun l => tok.mask.getLsbD l).foldl
      (fun t l => t.setCell row (base + l) (Vec.lane (tok.beat 0) l)) (r.tile acc)
    .ok { r.put acc x with halves := (acc, row, slot) :: r.halves }

/-- MTRANS of a tile, its checksums recomputed. -/
def Tile.trans (t : Tile) : Tile :=
  let cells := (List.range 1024).foldl (fun m n => Sparse.put 0 m n (t.cell (n % 32) (n / 32))) ([] : List (Nat × Lane))
  let x : Tile := { t with cells := cells }
  { x with ck := (List.range 32).foldl (fun m i => Sparse.put 0 m i (x.rowSum i)) ([] : List (Nat × Lane)) }

/-- One accumulator action (12 R235, R237). -/
def matAct (r : MatRun) (a : PAct) : Except MatFault MatRun :=
  match a.act with
  | .mmat t ks k x y jet h => mmatAct r a.q a.tag t ks k x y jet h
  | .deposit row acc slot tok => depositAct r row acc slot tok
  | .accClr t => .ok (r.put t Tile.reset)
  | .accArm t n =>
    let x := r.tile t
    (match x.arm with
     | .armed _ => .error (0x21, matInfo 5 t)
     | _ => .ok (r.put t { x with
         arm := .armed n
         cnt := 0 }))
  | .accRel t => .ok (r.put t { r.tile t with arm := .idle })
  | .mtrans t => (match (r.tile t).arm with
     | .armed _ => .error (0x21, matInfo 5 t)
     | _ => .ok (r.put t (r.tile t).trans))
  | .tfetch p rows => .ok { r with pins := Sparse.put [] r.pins p rows }
  | _ => .ok r

/-- All accumulator actions of a unit in ascending instruction index, those of one instruction in ascending tag, so that no sum depends on
the order of arrival (12 R235); a fault names its instruction and tag. -/
def matActs (nd : Node) (acts : List PAct) : Except (Nat × Tag × MatFault) MatRun :=
  (sortBy (fun (a : PAct) => a.q * 2 ^ 20 + a.tag.toNat) acts).foldl (fun (r : Except (Nat × Tag × MatFault) MatRun) a => match r with
    | .error e => .error e
    | .ok r => (match matAct r a with
      | .error e => .error (a.q, a.tag, e)
      | .ok r => .ok r)) (.ok ⟨nd.tiles, nd.pins, 0, 0, [], []⟩)

end Sys2Proof.Machine
end

