-- ==== Sys2Proof/Machine/IntForms.lean ====
section
/-! DEFINITION. The INT group (09 R185–R188) and the BIT group (09 R189, R190). -/

namespace Sys2Proof.Machine
open Sys2Proof.Bits

/-! ## INT -/

/-- deliver (09 R185): saturate to the range of TY, wrap, extend into a container of `cont` bits (02 R39). -/
def intDeliver (cont ty : Nat) (sat : BitVec 1) (x : Int) : Nat :=
  Num.writeInt cont ty (if sat = 1 then (if x < Num.intLo ty then Num.intLo ty else if Num.intHi ty < x then Num.intHi ty else x) else x)

/-- An operand read at TY, or unsigned under `.U` (09 R185). -/
def intRead (ty : Nat) (uns : Bool) (x : Nat) : Int := if uns then ((x % 2 ^ Num.width ty : Nat) : Int) else Num.readInt ty x

/-- The quotient toward zero, with the fixed answer for a zero divisor (09 R186). -/
def intDiv (ty : Nat) (uns : Bool) (a b : Int) : Int :=
  if b = 0 then (if uns || ty = 1 then (2 ^ Num.width ty : Nat) - 1 else -1) else Int.tdiv a b

/-- The remainder that goes with it: the dividend for a zero divisor. -/
def intRem (a b : Int) : Int := if b = 0 then a else a - b * Int.tdiv a b

/-- The frame of a two-operand INT form: the exact result, delivered. -/
def intForm (i : Instr) (f : FmtA) (op : Int → Int → Int) (s : State) : Host.Outcome State Fault Refusal :=
  elemForm i f (fun _ cont a b _ => LaneOut.pure (intDeliver cont f.ty.toNat f.sat (op (intRead f.ty.toNat false a) (intRead f.ty.toNat false b)))) s

/-- The frame of an INT form with a `.U` variant, whose result wraps to TY. -/
def intFormU (i : Instr) (f : FmtA) (op : Int → Int → Int) (s : State) : Host.Outcome State Fault Refusal :=
  elemForm i f (fun _ cont a b _ => LaneOut.pure (intDeliver cont f.ty.toNat f.sat
    (op (intRead f.ty.toNat (f.var = 1) a) (intRead f.ty.toNat (f.var = 1) b)))) s

/-- ADD (09 R186). -/
def execAdd (f : FmtA) (s : State) := intForm (.add f) f (fun a b => a + b) s
/-- SUB (09 R186). -/
def execSub (f : FmtA) (s : State) := intForm (.sub f) f (fun a b => a - b) s
/-- MUL (09 R186). -/
def execMul (f : FmtA) (s : State) := intForm (.mul f) f (fun a b => a * b) s
/-- MULH (09 R186): the high half, never saturated. -/
def execMulh (f : FmtA) (s : State) := intFormU (.mulh f) f (fun a b => a * b / 2 ^ Num.width f.ty.toNat) s
/-- DIV (09 R186). -/
def execDiv (f : FmtA) (s : State) := intFormU (.div f) f (fun a b => intDiv f.ty.toNat (f.var = 1) a b) s
/-- REM (09 R186). -/
def execRem (f : FmtA) (s : State) := intFormU (.rem f) f intRem s
/-- NEG (09 R186). -/
def execNeg (f : FmtA) (s : State) := intForm (.neg f) f (fun a _ => -a) s
/-- ABS (09 R186). -/
def execAbs (f : FmtA) (s : State) := intForm (.abs f) f (fun a _ => a.natAbs) s
/-- MIN (09 R186). -/
def execMin (f : FmtA) (s : State) := intFormU (.min f) f (fun a b => if b < a then b else a) s
/-- MAX (09 R186). -/
def execMax (f : FmtA) (s : State) := intFormU (.max f) f (fun a b => if a < b then b else a) s
/-- MADD (09 R183, R186): slot 11 is b, the right operand c, read under R185; the exact value is saturated once. -/
def execMadd (f : FmtA) (s : State) := elemForm (.madd f) f (fun _ cont a c b =>
  let ty := f.ty.toNat
  let rd := intRead ty (f.var = 1)
  let p := rd a * rd b
  let z := rd c
  LaneOut.pure (intDeliver cont ty f.sat (if f.var = 1 then p - z else p + z))) s

/-- Byte `i` of a lane, signed or unsigned. -/
def dotByte (sgn : Bool) (x i : Nat) : Int :=
  let b := x / 2 ^ (8 * i) % 256
  if sgn then Bits.sext 8 b else (b : Int)

/-- DOT4 of two lanes (09 R187). -/
def dot4 (ty : Nat) (us : Bool) (a b : Nat) : Int :=
  (List.range 4).foldl (fun acc i => acc + dotByte (!(ty = 1) && !us) a i * dotByte (!(ty = 1)) b i) 0

/-- DOT4 (09 R187): the result is an INT32. -/
def execDot4 (f : FmtA) (s : State) := elemForm (.dot4 f) f (fun _ cont a b _ =>
  LaneOut.pure (Num.writeInt cont 3 (dot4 f.ty.toNat (f.var = 1) a b))) s

/-- LEA (09 R188): a + sext(b)·2^s modulo 2^64, s in VAR. -/
def execLea (f : FmtA) (s : State) := elemForm (.lea f) f (fun _ _ a b _ =>
  LaneOut.pure (((a : Int) + Num.readInt f.ty.toNat b * 2 ^ f.var.toNat) % 2 ^ 64).toNat) s

/-! ## BIT -/

/-- A BIT result of w bits, extended per TY (09 R190, 02 R39). -/
def bitDeliver (cont ty x : Nat) : Nat := Num.writeInt cont ty ((x % 2 ^ Num.width ty : Nat) : Int)

/-- The frame of a BIT form: `op w x y` on the low w bits of the operands. -/
def bitForm (i : Instr) (f : FmtA) (op : Nat → Nat → Nat → Nat) (s : State) : Host.Outcome State Fault Refusal :=
  elemForm i f (fun _ cont a b _ =>
    let w := Num.width f.ty.toNat
    LaneOut.pure (bitDeliver cont f.ty.toNat (op w (a % 2 ^ w) (b % 2 ^ w)))) s

/-- Ones in w bits. -/
def ones (w : Nat) : Nat := 2 ^ w - 1
/-- x sign-extended from n to w bits. -/
def signTo (w n x : Nat) : Nat := if x / 2 ^ (n - 1) % 2 = 1 then x % 2 ^ n + (2 ^ w - 2 ^ n) else x % 2 ^ n
/-- SAR of w bits: filled with the top bit. -/
def sarW (w x c : Nat) : Nat :=
  let c := if w ≤ c then w else c
  let top := x / 2 ^ (w - 1) % 2
  x / 2 ^ c + (if top = 1 then 2 ^ w - 2 ^ (w - c) else 0)
/-- Rotation left within w bits. -/
def rolW (w x c : Nat) : Nat := let c := c % w
                                x * 2 ^ c % 2 ^ w + x / 2 ^ (w - c)
/-- The bits of x in w bits. -/
def bitList (w x : Nat) : List Bool := (List.range w).map fun k => x.testBit k
/-- The number whose bit k is the k-th of a list. -/
def ofBits : List Bool → Nat
  | [] => 0
  | b :: bs => (if b then 1 else 0) + 2 * ofBits bs
/-- Leading zeros of x within w bits. -/
def clzW (w x : Nat) : Nat := w - Num.bitLen x
/-- p and n of BFX and BFI (09 R189). -/
def bfPos (f : FmtA) : Nat := field f.imm 0 6
/-- n of BFX and BFI. -/
def bfLen (f : FmtA) : Nat := field f.imm 8 6

/-- AND (09 R190). -/
def execAnd (f : FmtA) (s : State) := bitForm (.and f) f (fun _ x y => x &&& y) s
/-- OR (09 R190). -/
def execOr (f : FmtA) (s : State) := bitForm (.or f) f (fun _ x y => x ||| y) s
/-- XOR (09 R190). -/
def execXor (f : FmtA) (s : State) := bitForm (.xor f) f (fun _ x y => x ^^^ y) s
/-- ANDN (09 R190). -/
def execAndn (f : FmtA) (s : State) := bitForm (.andn f) f (fun w x y => x &&& (ones w - y)) s
/-- NOT (09 R190). -/
def execNot (f : FmtA) (s : State) := bitForm (.not f) f (fun w x _ => ones w - x) s
/-- SHL (09 R190). -/
def execShl (f : FmtA) (s : State) := bitForm (.shl f) f (fun w x c => if w ≤ c then 0 else x * 2 ^ c) s
/-- SHR (09 R190). -/
def execShr (f : FmtA) (s : State) := bitForm (.shr f) f (fun w x c => if w ≤ c then 0 else x / 2 ^ c) s
/-- SAR (09 R190). -/
def execSar (f : FmtA) (s : State) := bitForm (.sar f) f sarW s
/-- ROL (09 R190). -/
def execRol (f : FmtA) (s : State) := bitForm (.rol f) f rolW s
/-- CLZ (09 R190). -/
def execClz (f : FmtA) (s : State) := bitForm (.clz f) f (fun w x _ => clzW w x) s
/-- POPC (09 R190). -/
def execPopc (f : FmtA) (s : State) := bitForm (.popc f) f (fun w x _ => ((bitList w x).filter id).length) s
/-- BREV (09 R190). -/
def execBrev (f : FmtA) (s : State) := bitForm (.brev f) f (fun w x _ => ofBits (bitList w x).reverse) s
/-- BFX (09 R190). -/
def execBfx (f : FmtA) (s : State) := bitForm (.bfx f) f (fun w x _ =>
  let v := x / 2 ^ bfPos f % 2 ^ bfLen f
  if f.var = 1 then signTo w (bfLen f) v else v) s
/-- BFI (09 R190). -/
def execBfi (f : FmtA) (s : State) := bitForm (.bfi f) f (fun _ x y =>
  x % 2 ^ bfPos f + y % 2 ^ bfLen f * 2 ^ bfPos f + x / 2 ^ (bfPos f + bfLen f) * 2 ^ (bfPos f + bfLen f)) s
/-- SEXT (09 R190). -/
def execSext (f : FmtA) (s : State) := bitForm (.sext f) f (fun w x _ => signTo w (bfPos f) x) s
/-- ZEXT (09 R190). -/
def execZext (f : FmtA) (s : State) := bitForm (.zext f) f (fun _ x _ => x % 2 ^ bfPos f) s

end Sys2Proof.Machine
end

