-- ==== Sys2Proof/Machine/StreamForms.lean ====
section
/-! DEFINITION. The STREAM group (11 R221–R228): the firings, and what the ordered forms do at a commit. -/

namespace Sys2Proof.Machine
open Sys2Proof.Bits

/-! ## Combining (11 R222) -/

/-- OP of a stream form. -/
def stOp (f : FmtG) : Nat := field f.imm 0 4
/-- TY of a stream form. -/
def stTy (f : FmtG) : Nat := field f.imm 4 4
/-- The rounding mode of a stream form; 110 is RMODE as at map. -/
def stRm (f : FmtG) (rmode : Word) : Nat := if field f.imm 8 3 = 6 then field rmode 0 3 else field f.imm 8 3
/-- SAT of a stream form. -/
def stSat (f : FmtG) : BitVec 1 := f.imm.extractLsb' 11 1

/-- The identity of an OP in a container of `cont` bits. -/
def stIdent (f : FmtG) (cont : Nat) : Nat :=
  let ty := stTy f
  let fm := Num.fmtOf ty
  if 7 ≤ ty then (match stOp f with
    | 0 => fm.zero true
    | 1 => fm.inf false
    | 2 => fm.inf true
    | _ => fm.pack false fm.bias 0)
  else Num.writeInt cont ty (match stOp f with
    | 1 => Num.intHi ty
    | 2 => Num.intLo ty
    | 3 => 1
    | 4 => -1
    | _ => 0)

/-- a ⊕ b, the earlier operand on the left. -/
def stComb (f : FmtG) (rmode : Word) (cont a b : Nat) : Nat × Num.Flags :=
  let ty := stTy f
  let fm := Num.fmtOf ty
  let x := Num.readInt ty a
  let y := Num.readInt ty b
  let w := 2 ^ Num.width ty
  if 7 ≤ ty then (match stOp f with
    | 0 => Num.fadd fm (stRm f rmode) (stSat f = 1) false a b
    | 1 => Num.fminmax fm false a b
    | 2 => Num.fminmax fm true a b
    | _ => Num.fmul fm (stRm f rmode) (stSat f = 1) a b)
  else (match stOp f with
    | 0 => intDeliver cont ty (stSat f) (x + y)
    | 1 => intDeliver cont ty 0 (if y < x then y else x)
    | 2 => intDeliver cont ty 0 (if x < y then y else x)
    | 3 => intDeliver cont ty (stSat f) (x * y)
    | 4 => Num.writeInt cont ty ((a % w &&& b % w : Nat) : Int)
    | 5 => Num.writeInt cont ty ((a % w ||| b % w : Nat) : Int)
    | _ => Num.writeInt cont ty ((a % w ^^^ b % w : Nat) : Int), 0)

/-- One level of the tree of 02 R53: adjacent pairs combine; `st` lanes lie under each value, and flags are noted on the first. -/
def redLevel (f : FmtG) (rmode : Word) (st pos : Nat) : List Nat → List Nat × List (Nat × Num.Flags)
  | a :: b :: xs =>
    let r := stComb f rmode 32 a b
    let t := redLevel f rmode st (pos + 2 * st) xs
    (r.1 :: t.1, (pos, r.2) :: t.2)
  | xs => (xs, [])

/-- The tree of 02 R53 over sixteen values. -/
def redTree (f : FmtG) (rmode : Word) (xs : List Nat) : Nat × List (Nat × Num.Flags) :=
  let l1 := redLevel f rmode 1 0 xs
  let l2 := redLevel f rmode 2 0 l1.1
  let l3 := redLevel f rmode 4 0 l2.1
  let l4 := redLevel f rmode 8 0 l3.1
  (l4.1.headD 0, l1.2 ++ l2.2 ++ l3.2 ++ l4.2)

/-- The one value of a fold over one lane, written at TY: extended for an integer type (02 R39), a NaN made canonical (02 R40). -/
def stFirst (f : FmtG) (x : Nat) : Nat :=
  if 7 ≤ stTy f then (let fm := Num.fmtOf (stTy f)
    if (Num.decode fm x).isNan then fm.nan else x % 2 ^ fm.bits)
  else Num.writeInt 32 (stTy f) (Num.readInt (stTy f) x)

/-- The left folds of 02 R53, with the flags of each step. The first combination takes the first lane itself, so that a signalling NaN in it raises
invalid (02 R40). -/
def scanFold (f : FmtG) (rmode : Word) : List Nat → List (Nat × Num.Flags)
  | [] => []
  | x :: xs => (stFirst f x, 0) :: xs.foldl (fun acc y => acc ++ [stComb f rmode 32 ((acc.getLast?.map fun e => e.1).getD x) y]) []

/-- The operand lanes of a beat with the identity where the mask bit is 0. -/
def stLanes (f : FmtG) (v : Vec) (m : BitVec 16) : List Nat :=
  (List.range 16).map fun k => if m.getLsbD k then (Vec.lane v k).toNat else stIdent f 32

/-- The frame of RED and SCAN (11 R223): `beat` gives one beat of the result with flags by lane. -/
def redForm (i : Instr) (mask : BitVec 16 → BitVec 16) (beat : Fx → Vec → BitVec 16 → Vec × List (Nat × Num.Flags)) (s : State) :
    Host.Outcome State Fault Refusal :=
  fire i (fun c => match c.mode false with
    | .null => c.nullPlan (formDraw i c.k)
    | .closed => .act (formDraw i c.k) .skip
    | .go g =>
      let m := optMask c.l
      let rs := (List.range (if c.h.plane = 2 then c.k + 1 else 1)).map fun j => beat c (optBeat c.l j) m
      match laneGate c.h g c.l (rs.map fun r => r.1) (mask m) with
      | none => .act (formDraw i c.k) .skip
      | some d => c.finish (formDraw i c.k) (rs.zipIdx.flatMap fun r => r.1.2.map fun e => (e.1, r.2, e.2)) d) s

/-- RED (11 R223). -/
def execRed (f : FmtG) (s : State) := redForm (.red f) (fun _ => 0xFFFF) (fun c v m =>
  let r := redTree f c.m.snap.rmode (stLanes f v m)
  (Vec.fill (BitVec.ofNat 32 r.1), r.2)) s
/-- SCAN (11 R223). -/
def execScan (f : FmtG) (s : State) := redForm (.scan f) id (fun c v m =>
  let r := scanFold f c.m.snap.rmode (stLanes f v m)
  (Vec.mk fun k => if m.getLsbD k then BitVec.ofNat 32 (r.getD k (0, 0)).1 else Vec.lane v k, r.zipIdx.map fun e => (e.2, e.1.2))) s

/-! ## STEER (11 R226) -/

/-- The two tokens of STEER: data and null mark. -/
def steerOuts (c : Fx) : (TokData × Bool) × (TokData × Bool) :=
  let d := (c.l.map fun t => t.data).getD (.scalar 0)
  let no := (nullData c.h.plane.toNat c.k, true)
  let tl := gateLanes 1 (c.p.getD (mkTok 0 (.scalar 0) false))
  let yes := if c.h.plane = 0 then (optScalar c.p).getLsbD 0 else tl.getLsbD 0
  if c.h.plane = 0 || c.h.plane = 3 then (if yes then ((d, false), no) else (no, (d, false)))
  else match d with
    | .beats bs m => ((.beats bs (m &&& tl), false), (.beats bs (m &&& ~~~tl), false))
    | .scalar _ => ((d, false), (d, false))

/-- STEER (11 R226). -/
def execSteer (f : FmtG) (s : State) := fire (.steer f) (fun c => match c.mode true with
  | .null => c.nullPlan (formDraw (.steer f) c.k)
  | _ =>
    let o := steerOuts c
    match tagRes c.t c.tag c.h.tagop.toNat with
    | .wait => .wait
    | .fault r => .fault (formDraw (.steer f) c.k) 0x10 0 (BitVec.ofNat 64 r)
    | .ok tg cl => .act (formDraw (.steer f) c.k) (.all [ takeClaim c.tid c.n c.ut cl,
        emitTo c.n c.ut c.q c.tag c.h.t0 (mkTok tg o.1.1 o.1.2),
        emitTo c.n c.ut c.q c.tag c.h.t1 (mkTok tg o.2.1 o.2.2) ])) s

/-! ## The ordered forms (11 R224, R225) -/

/-- Whether a token is accepted (02 R54, 11 R224): its iteration lies within 64 of the oldest uncommitted one. -/
def accepted (c : Fx) : Bool :=
  (tagIter c.tag + 256 - commitPoint c.t (tagColour c.tag) c.n c.m.blk.pc) % 256 < 64

/-- The state of the ordered stream forms of the block at an address (11 R224). -/
def Node.streamsAt (nd : Node) (pc : BitVec 58) : List StreamSt := ((nd.streams.find? fun e => e.1 == pc).map fun e => e.2).getD []

/-- Set that state; a block whose forms hold none has no entry. -/
def Node.putStreams (nd : Node) (pc : BitVec 58) (sts : List StreamSt) : Node :=
  let rest := nd.streams.filter fun e => !(e.1 == pc)
  { nd with streams := if sts = [] then rest else rest ++ [(pc, sts)] }

/-- The colours for which a form of a mapped block holds state, or is about to. -/
def streamColours (nd : Node) (m : Mapped) (q : Nat) : List Nat :=
  distinct (((nd.streamsAt m.blk.pc).filter fun x => x.q == q).flatMap (fun x => x.cols.map fun y => y.colour) ++
    (m.units.flatMap fun u => u.acts.filterMap fun a => match a.act with
      | .stream _ _ => if a.q = q then some (tagColour a.tag) else none
      | _ => none))

/-- Whether a form may take a token of this colour: it holds state for it, or for fewer than four. -/
def streamRoom (c : Fx) : Bool :=
  let cs := streamColours c.nd c.m c.q
  cs.contains (tagColour c.tag) || decide (cs.length < 4)

/-- The firing of an ordered form: the token goes into the unit's pending state. -/
def orderedForm (i : Instr) (take : Fx → Option (Tok × Option Tok)) (s : State) : Host.Outcome State Fault Refusal :=
  fire i (fun c =>
    if !accepted c || !streamRoom c then .wait
    else match take c with
      | none => .fault (formDraw i c.k) 0x10 0 0x0B
      | some (t, g) => .act (formDraw i c.k) (addAct c.n c.ut c.q c.tag (.stream t g))) s

/-- The left operand as a token. -/
def leftTok (c : Fx) : Tok := c.l.getD (mkTok c.tag (.scalar 0) true)

/-- ACCUM (11 R225). -/
def execAccum (f : FmtG) (s : State) := orderedForm (.accum f) (fun c => some (leftTok c, none)) s
/-- FILTER (11 R225). -/
def execFilter (f : FmtG) (s : State) := orderedForm (.filter f) (fun c => some (leftTok c, c.p)) s
/-- COMPACT (11 R225). -/
def execCompact (f : FmtG) (s : State) := orderedForm (.compact f) (fun c => some (leftTok c, none)) s

/-- MERGE of two tokens under one tag (11 R225); `none` is FLOW_FAULT 0x0B. -/
def mergeTok (a b : Tok) : Option Tok :=
  if a.null then some b
  else if b.null then some a
  else match a.data, b.data with
    | .beats xs m, .beats ys n =>
      if a.rein || !(m &&& n = 0) then none
      else some { a with data := .beats (xs.zipIdx.map fun e => Vec.mk fun k =>
          if m.getLsbD k then Vec.lane e.1 k else Vec.lane (ys.getD e.2 []) k) (m ||| n) }
    | _, _ => none

/-- MERGE (11 R225): judged at the firing; on the W plane two non-null tokens are a fault as on the S plane. -/
def execMerge (f : FmtG) (s : State) := orderedForm (.merge f) (fun c =>
  let b := c.r.getD (leftTok c)
  if c.h.plane = 3 && !(leftTok c).null && !b.null then none
  else (mergeTok (leftTok c) b).map fun t => (t, none)) s

/-! ## What a commit does to the state of the ordered forms (11 R225, R227) -/

/-- A colour for which nothing is held. -/
def StreamCol.fresh (c : Nat) : StreamCol := ⟨c, 0, .scalar 0, 0, []⟩

/-- The state of form `q` for a colour, or a fresh one. -/
def streamCol (sts : List StreamSt) (q c : Nat) : StreamCol :=
  ((sts.find? fun x => x.q == q).bind fun x => x.cols.find? fun y => y.colour == c).getD (StreamCol.fresh c)

/-- Hold or release the state of form `q` for a colour. -/
def setStream (sts : List StreamSt) (q c : Nat) (col : Option StreamCol) : List StreamSt :=
  let old := ((sts.find? fun x => x.q == q).map fun x => x.cols.filter fun y => !(y.colour == c)).getD []
  let cols := old ++ col.toList
  let rest := sts.filter fun x => !(x.q == q)
  if cols = [] then rest else insertBy (fun x => x.q) ⟨q, cols⟩ rest

/-- A token emitted at a commit: its tag before TAGOP, its data, its null mark. -/
structure Emit where
  tag : Tag
  data : TokData
  null : Bool
  deriving DecidableEq, Repr

/-- What one token does to an ordered form: emissions, the state held afterwards (none: released), the flags raised. -/
structure StreamEff where
  out : List Emit
  col : Option StreamCol
  fls : Raised

/-- ACCUM's starting value. -/
def accIdent (f : FmtG) (plane k : Nat) : TokData :=
  if plane = 0 then .scalar (BitVec.ofNat 64 (stIdent f 64))
  else .beats (List.replicate (if plane = 2 then k + 1 else 1) (Vec.fill (BitVec.ofNat 32 (stIdent f 32)))) 0

/-- ACCUM's combine of a term, with its flags. -/
def accAdd (f : FmtG) (rmode : Word) (acc : TokData) (x : Tok) : TokData × Raised :=
  match acc with
  | .scalar w =>
    let r := stComb f rmode 64 w.toNat x.scalar.toNat
    (.scalar (BitVec.ofNat 64 r.1), [(0, 0, r.2)])
  | .beats bs m =>
    let rs := bs.zipIdx.map fun e => (List.range 16).map fun k =>
      if x.mask.getLsbD k then stComb f rmode 32 (Vec.lane e.1 k).toNat (Vec.lane (x.beat e.2) k).toNat else ((Vec.lane e.1 k).toNat, 0)
    (.beats (rs.map fun l => l.map fun r => BitVec.ofNat 32 r.1) (m ||| x.mask),
     rs.zipIdx.flatMap fun l => l.1.zipIdx.map fun r => (r.2, l.2, r.1.2))

/-- ACCUM at a commit. -/
def accumEff (f : FmtG) (plane k : Nat) (rmode : Word) (tag : Tag) (col : StreamCol) (x : Tok) : StreamEff :=
  let start := if col.terms = 0 then accIdent f plane k else col.acc
  if f.count = 0 && x.null then ⟨[⟨tag, start, false⟩], none, []⟩
  else
    let r := if x.null then (start, []) else accAdd f rmode start x
    let n := col.terms + 1
    if !(f.count = 0) && n = f.count.toNat then ⟨[⟨tag, r.1, false⟩], none, r.2⟩
    else ⟨[], some { col with
      acc := r.1
      terms := n }, r.2⟩

/-- The element that FILTER passes (08 R173), if any. -/
def filterPass (h : Hdr) (x p : Tok) : Option TokData :=
  if p.null then none
  else if h.plane = 0 then (if gateScalar h.pmode (p.scalar.getLsbD 0) then some x.data else none)
  else if h.plane = 3 then (if (gateLanes h.pmode p).getLsbD 0 then some x.data else none)
  else match x.data with
    | .beats bs m => laneGate h (gateLanes h.pmode p) (some x) bs m
    | .scalar _ => none

/-- FILTER at a commit. -/
def filterEff (h : Hdr) (k : Nat) (c : Nat) (col : StreamCol) (x : Tok) (p : Option Tok) : StreamEff :=
  if x.null then ⟨[⟨mkTag c col.next, nullData h.plane.toNat k, true⟩], none, []⟩
  else match p.bind (filterPass h x) with
    | none => ⟨[], some col, []⟩
    | some d => ⟨[⟨mkTag c col.next, d, false⟩], some { col with next := (col.next + 1) % 256 }, []⟩

/-- The token that COMPACT makes of its buffer. -/
def bufData (nb : Nat) (buf : List (List Lane)) : TokData :=
  .beats ((List.range nb).map fun j => Vec.mk fun l => (buf.getD l []).getD j 0) (maskOf fun l => l < buf.length)

/-- COMPACT at a commit. -/
def compactEff (h : Hdr) (k : Nat) (c : Nat) (col : StreamCol) (x : Tok) : StreamEff :=
  let nb := if h.plane = 2 then k + 1 else 1
  if x.null then
    let fl := if col.buf = [] then [] else [⟨mkTag c col.next, bufData nb col.buf, false⟩]
    ⟨fl ++ [⟨mkTag c ((col.next + fl.length) % 256), nullData h.plane.toNat k, true⟩], none, []⟩
  else if h.plane = 0 || h.plane = 3 then ⟨[⟨mkTag c col.next, x.data, false⟩], some { col with next := (col.next + 1) % 256 }, []⟩
  else
    let r := ((List.range 16).filter fun l => x.mask.getLsbD l).foldl (fun (acc : List Emit × StreamCol) l =>
      let b := acc.2.buf ++ [(List.range nb).map fun j => Vec.lane (x.beat j) l]
      if b.length = 16 then (acc.1 ++ [⟨mkTag c acc.2.next, bufData nb b, false⟩], { acc.2 with
        buf := []
        next := (acc.2.next + 1) % 256 })
      else (acc.1, { acc.2 with buf := b })) (([] : List Emit), col)
    ⟨r.1, some r.2, []⟩

/-- MERGE at a commit: the token was formed at the firing; a null ends the colour's stream. -/
def mergeEff (tag : Tag) (col : StreamCol) (x : Tok) : StreamEff :=
  ⟨[⟨tag, x.data, x.null⟩], if x.null then none else some col, []⟩

/-- What the commit of a firing of an ordered form does. -/
def streamEff (i : Instr) (k : Nat) (rmode : Word) (tag : Tag) (col : StreamCol) (x : Tok) (p : Option Tok) : StreamEff :=
  match i with
  | .accum f => accumEff f f.h.plane.toNat k rmode tag col x
  | .filter f => filterEff f.h k (tagColour tag) col x p
  | .compact f => compactEff f.h k (tagColour tag) col x
  | _ => mergeEff tag col x

end Sys2Proof.Machine
end

