-- ==== Sys2Proof/Machine/TaskForms.lean ====
section
/-! DEFINITION. The TASK group (14 R287, R288) and the SYSTEM group (14 R289, R290; 07 R147–R151) as firings. -/

namespace Sys2Proof.Machine
open Sys2Proof.Bits

/-! ## TASK -/

/-- A TASK form: its request goes to the hub when the block commits; the answer is a deferred register write (14 R287). -/
def hubForm (i : Instr) (f : FmtE) (req : Fx → Except Plan HubReq) (s : State) : Host.Outcome State Fault Refusal :=
  fire i (fun c => match c.mode false with
    | .null => c.emitPlan 64 (.scalar 0) true .skip
    | .closed => .act 64 .skip
    | .go _ => match req c with
      | .error p => p
      | .ok r => .act 64 (addAct c.n c.ut c.q c.tag (.hub r (deferOf c f.h.t0)))) s

/-- The address of a record: aligned to 64, translated and checked at the firing as a load, or as a store (14 R287). -/
def recordAddr (c : Fx) (write : Bool) : Except Plan (Nat × Nat) :=
  let a := (optScalar c.l).toNat
  if !(a % 64 = 0) then .error (.fault 64 0x30 (optScalar c.l) 1)
  else if 2 ^ 57 ≤ a then .error (.fault 64 0x30 (optScalar c.l) 6)
  else match c.xlate false a with
    | .fault => .error (.hold (holdPage c.n a write false false c.q c.tag))
    | .entry w =>
      if !(entryClass w = 0) then .error (.fault 64 0x30 (optScalar c.l) 3)
      else if (if write then !entryWr w else !entryRd w) then .error (.fault 64 0x30 (optScalar c.l) 4)
      else .ok (a, entryPa w a)

/-- QPUSH (14 R288). -/
def execQpush (f : FmtE) (s : State) := hubForm (.qpush f) f (fun c =>
  (recordAddr c false).map fun a => .qpush f.chan.toNat c.t.asid a.1 a.2) s
/-- QPOP (14 R288). -/
def execQpop (f : FmtE) (s : State) := hubForm (.qpop f) f (fun c => (recordAddr c true).map fun a => .qpop f.chan.toNat a.1 a.2) s
/-- QSTAT (14 R288). -/
def execQstat (f : FmtE) (s : State) := hubForm (.qstat f) f (fun _ => .ok (.qstat f.chan.toNat)) s
/-- CHGRD (14 R288). -/
def execChgrd (f : FmtE) (s : State) := hubForm (.chgrd f) f (fun _ => .ok .chgrd) s
/-- CHGASK (14 R288, 07 R136): n from the card field, or where that is 0 from the left token. -/
def execChgask (f : FmtE) (s : State) := hubForm (.chgask f) f (fun c =>
  .ok (.chgask (if f.card = 0 then field (optScalar c.l) 0 32 else field f.card 0 32))) s
/-- TLAUNCH (14 R288). -/
def execTlaunch (f : FmtE) (s : State) := hubForm (.tlaunch f) f (fun c => (recordAddr c false).map fun a => .tlaunch c.t.asid a.1 a.2) s

/-! ## SYSTEM -/

/-- A SYSTEM form that emits nothing and acts at commit. -/
def sysForm (i : Instr) (act : Fx → Option Act) (s : State) : Host.Outcome State Fault Refusal :=
  fire i (fun c => match c.mode false with
    | .null | .closed => .act 4 .skip
    | .go _ => .act 4 (match act c with
      | some a => addAct c.n c.ut c.q c.tag a
      | none => .skip)) s

/-- TRAP (14 R290): the fault TRAP with the code. -/
def execTrap (f : FmtY) (s : State) := fire (.trap f) (fun c => match c.mode false with
  | .null | .closed => .act 4 .skip
  | .go _ => .fault 4 0x50 0 (BitVec.ofNat 64 (field f.imm 0 16))) s

/-- FRET (14 R290): acts at commit; a reserved action is ignored. -/
def execFret (f : FmtY) (s : State) := sysForm (.fret f) (fun c =>
  let a := field (optScalar c.l) 16 2
  if 2 ≤ a then none else some (.fret (field (optScalar c.l) 0 11) a)) s

/-- NODEID of a node of package `pkg` (07 R148). -/
def nodeId (pkg n : Nat) : Word :=
  BitVec.ofNat 64 (n % 2048 + nodeX n * 2 ^ 11 + nodeY n * 2 ^ 17 + nodeDie n * 2 ^ 23 + nodeQuad n * 2 ^ 25 + nodeCluster n * 2 ^ 34 +
    pkg * 2 ^ 41)

/-- The value of a CSR as it stood at map (07 R147–R151, 06 R114). -/
def csrValue (c : Fx) (x : Nat) : Word :=
  let sn := c.m.snap
  if x = 0 then nodeId c.s.hub.package c.n
  else if x = 1 then BitVec.ofNat 64 (c.tid % 2 ^ 32)
  else if x = 2 then sn.tbase
  else if x = 0x10 then sn.fpstat
  else if x = 0x11 then sn.jflags
  else if x = 0x12 then sn.rmode
  else if x = 0x13 then BitVec.ofNat 64 sn.jord
  else if x = 0x14 then sn.rngkey
  else if x = 0x20 then sn.chgAllot
  else if x = 0x21 then sn.chgDrawn
  else if 0x100 ≤ x && x ≤ 0x13F then sn.fwin.getD (x - 0x100) 0
  else if 0x200 ≤ x && x ≤ 0x202 then (match sn.mon[x - 0x200]? with
    | some (v, ok) => BitVec.ofNat 64 (v.toNat + if ok then 2 ^ 63 else 0)
    | none => 0)
  else if 0x300 ≤ x && x ≤ 0x31F then
    BitVec.ofNat 64 (total ((List.range 64).map fun b => if sn.bad.contains (64 * (x - 0x300) + b) then 2 ^ b else 0))
  else if 0x8000 ≤ x && x ≤ 0x8007 then sn.fs.getD (x - 0x8000) 0
  else 0

/-- CSRRD (07 R151). -/
def execCsrrd (f : FmtY) (s : State) := fire (.csrrd f) (fun c => match c.mode false with
  | .null => c.nullPlan 4
  | .closed => .act 4 .skip
  | .go _ => c.emitPlan 4 (.scalar (csrValue c f.csr.toNat)) false .skip) s

/-- CSRWR (07 R137, R151): writes at commit, and emits its left token. -/
def execCsrwr (f : FmtY) (s : State) := fire (.csrwr f) (fun c => match c.mode false with
  | .null => c.nullPlan 4
  | .closed => .act 4 .skip
  | .go _ => c.emitPlan 4 (.scalar (optScalar c.l)) false
      (addAct c.n c.ut c.q c.tag (.csrwr f.csr.toNat (if f.imm.getLsbD 67 then f.imm.setWidth 64 else optScalar c.l)))) s

/-- BKPT (14 R290). -/
def execBkpt (f : FmtY) (s : State) := sysForm (.bkpt f) (fun _ => some (.bkpt (f.imm.setWidth 16))) s
/-- TBASE (14 R290): the timebase at the firing. -/
def execTbase (f : FmtY) (s : State) := fire (.tbase f) (fun c => match c.mode false with
  | .null => c.nullPlan 4
  | .closed => .act 4 .skip
  | .go _ => c.emitPlan 4 (.scalar c.s.tbase) false .skip) s
/-- TLBINV (14 R290). -/
def execTlbinv (f : FmtY) (s : State) := sysForm (.tlbinv f) (fun c =>
  some (.tlbinv (field f.imm 66 2 = 1) (optScalar c.l).toNat)) s
/-- CODESYNC (14 R290, 07 R146). -/
def execCodesync (f : FmtY) (s : State) := sysForm (.codesync f) (fun _ => some .codesync) s
/-- MLOG (14 R290). -/
def execMlog (f : FmtY) (s : State) := sysForm (.mlog f) (fun c => some (.mlog (f.imm.setWidth 16) (optScalar c.l))) s

end Sys2Proof.Machine
end

