-- ==== Sys2Proof/Machine/MapCheck.lean ====
section
/-! DEFINITION. What map refuses (07 R139–R145): the header's fields, the targets of an instruction in its block, the rules of the
whole block, JORDX. -/

namespace Sys2Proof.Machine
open Sys2Proof.Bits

/-! ## The header (07 R140–R142) -/

/-- KIND. -/
def hKind (b : Fetched) : Nat := field (b.hdr.getD 0 0) 120 8
/-- NINS. -/
def hNins (b : Fetched) : Nat := field (b.hdr.getD 0 0) 113 7 + 1
/-- NMEM. -/
def hNmem (b : Fetched) : Nat := field (b.hdr.getD 0 0) 106 7
/-- NEXIT. -/
def hNexit (b : Fetched) : Nat := field (b.hdr.getD 0 0) 102 4
/-- JORDX. -/
def hJordx (b : Fetched) : Nat := field (b.hdr.getD 0 0) 99 3
/-- LWIN. -/
def hLwin (b : Fetched) : Nat := field (b.hdr.getD 0 0) 91 8
/-- STOREMASK. -/
def hStores (b : Fetched) : Nat := field (b.hdr.getD 0 0) 0 64

/-- A header register read (07 R141). -/
structure HRead where
  valid : Bool
  plane : Nat
  reg : Nat
  fe : Nat
  dash : Nat
  target : BitVec 12
  raw : Nat
  deriving DecidableEq, Repr

/-- Read `j` of a header. -/
def hRead (b : Fetched) (j : Nat) : HRead :=
  let w : BitVec 32 := (b.hdr.getD (1 + j / 4) 0).extractLsb' (32 * (j % 4)) 32
  ⟨bit w 31, field w 30 1, field w 24 6, field w 22 2, field w 12 10, w.extractLsb' 0 12, w.toNat⟩

/-- The valid reads with their numbers. -/
def hReads (b : Fetched) : List (Nat × HRead) := ((List.range 8).map fun j => (j, hRead b j)).filter fun r => r.2.valid

/-- A header register write (07 R142). -/
structure HWrite where
  valid : Bool
  plane : Nat
  reg : Nat
  defer : Bool
  raw : Nat
  deriving DecidableEq, Repr

/-- Write `j` of a header. -/
def hWrite (b : Fetched) (j : Nat) : HWrite :=
  let w : BitVec 16 := (b.hdr.getD 3 0).extractLsb' (16 * j) 16
  ⟨bit w 15, field w 14 1, field w 8 6, bit w 7, w.toNat⟩

/-- The valid writes. -/
def hWrites (b : Fetched) : List HWrite := ((List.range 8).map (hWrite b)).filter fun w => w.valid

/-- The INDEX in SPACE 001 of a register of a plane. -/
def regIndex (plane reg : Nat) : Nat := if plane = 0 then reg else 64 + reg

/-- The registers of the jet group of an order (02 R56). -/
def jetWidth (k : Nat) : Nat := if k = 0 then 1 else if k = 1 then 2 else if k ≤ 3 then 4 else 8

/-- The instructions of a block, where each decodes. -/
def blockInstrs (b : Fetched) : List (Option Instr) := b.ins.map fun w => match decode w with
  | .ok i => some i
  | .error _ => none

/-- Instruction `q` of a block. -/
def Fetched.instr (b : Fetched) (q : Nat) : Option Instr := (b.ins[q]?).bind fun w => match decode w with
  | .ok i => some i
  | .error _ => none

/-- The two targets of an instruction. -/
def targetsOf (i : Instr) : List (BitVec 12) := [i.hdr.t0, i.hdr.t1]

/-- Whether a consumer has a slot of a kind (07 R129). -/
def hasSlot (i : Instr) (slot : Nat) : Bool :=
  if slot = 1 then true else if slot = 2 then needsRight i else !(i.hdr.pmode = 0)

/-- Check 3 (07 R145): every field of the header, and the rules of reads and writes. A read of the V plane may feed every slot that takes no control-plane
token (DEDUCED, log 22). -/
def headerOk (b : Fetched) : Bool :=
  let w0 := b.hdr.getD 0 0
  let loop := hKind b = 0xB2
  let all := (List.range 8).map (hRead b)
  let ws := hWrites b
  let idx := ws.map fun w => regIndex w.plane w.reg
  (!loop || hNins b ≤ 64) && hNmem b ≤ 64 && 1 ≤ hNexit b && hNexit b ≤ 8 &&
  (if loop then 1 ≤ hLwin b else hLwin b = 0) && field w0 64 27 = 0 && hStores b < 2 ^ hNmem b &&
  all.all (fun r => if r.valid then
      r.dash = 0 && (r.plane = 0 || r.reg < 32) && r.fe ≤ 2 && field r.target 7 3 = 0 && !(field r.target 10 2 = 0) &&
      (match b.instr (field r.target 0 7) with
       | some i => hasSlot i (field r.target 10 2) &&
          (inPlanes i (field r.target 10 2)).any (fun p => if r.plane = 0 then p = 0 else !(p = 0)) &&
          (!(r.plane = 1 && inPlanes i (field r.target 10 2) = [2]) || r.reg % jetWidth (hJordx b) = 0)
       | none => decide (field r.target 0 7 < hNins b))
    else r.raw = 0) &&
  decide ((distinct ((hReads b).map fun r => r.2.target.toNat)).length = (hReads b).length) &&
  ((List.range 8).map (hWrite b)).all (fun w => if w.valid then field (BitVec.ofNat 16 w.raw) 0 7 = 0 && (w.plane = 0 || w.reg < 32)
    else w.raw = 0) &&
  decide ((distinct idx).length = idx.length) &&
  idx.all (fun x => b.ins.any fun w => [w.extractLsb' 96 12, w.extractLsb' 84 12].any fun (t : BitVec 12) =>
    !(field t 10 2 = 0) && field t 7 3 = 1 && field t 0 7 = x)

/-! ## The targets of an instruction in its block (07 R129) -/

/-- The producers that may feed a deferred write (01 R31): a load, an atomic, a CAS, a versioned store, T0 of an engine form with
CTOK, a TASK form. -/
def feedsDefer (i : Instr) (first : Bool) : Bool :=
  Instr.isOpc i [0x180, 0x181, 0x182, 0x186, 0x1A0] || feedsOnlyDefer i first
where
  /-- Producers whose result comes after the commit, so that only a deferred write can take it. -/
  feedsOnlyDefer (i : Instr) (first : Bool) : Bool :=
    Instr.isOpc i [0x1A1, 0x1A3, 0x1A4] || groupOf i = 16 || (groupOf i = 15 && first && (match i.body with
      | .e f => f.flags.getLsbD 0
      | _ => false))

/-- The planes of the producers to which a slot is open: the left and right slots of a MATRIX form and the card of an issuing form take a
producer of PLANE 01 or 11 (12 R230, 14 R272). -/
def producerFits (i j : Instr) (slot : Nat) : Bool :=
  if slot ≤ 2 && (groupOf j = 11 || Instr.isOpc j [0x1E0, 0x1E3, 0x1E4, 0x1E5, 0x1E9]) then planeOf i = 1 || planeOf i = 3 else true

/-- Whether a producer's target fits the block: consumer and slot, header entry, declared port. A rein token has one consumer, so that its port has one
edge (04 R84; DEDUCED, log 86). -/
def targetFits (b : Fetched) (ports : List Nat) (i : Instr) (first : Bool) (t : BitVec 12) : Bool :=
  let slot := field t 10 2
  let idx := field t 0 7
  let rein := i.opc = 0x1C6
  if slot = 0 then true
  else match field t 7 3 with
    | 0 => (match b.instr idx with
      | none => decide (idx < hNins b)
      | some j => hasSlot j slot && producerFits i j slot &&
        (if rein then slot = 1 && reinSlot j else (inPlanes j slot).any fun p => (outPlanes i).contains p))
    | 1 => !rein && (hWrites b).any fun w => regIndex w.plane w.reg = idx &&
        (if w.defer then feedsDefer i first else !(feedsDefer.feedsOnlyDefer i first)) &&
        (!(planeOf i = 2 && outPlanes i = [2]) || (idx - 64) % jetWidth (hJordx b) = 0)
    | 2 => ports.contains idx && (!rein || ports.count idx = 1)
    | _ => !rein

/-- Check 4 for one instruction: what it is by itself, its targets, and no earlier CSRWR to its register (07 R151). -/
def instrFits (b : Fetched) (ports : List Nat) (q : Nat) (i : Instr) : Bool :=
  instrOk i (hJordx b) (bit b.pc 57) && targetFits b ports i true i.hdr.t0 && targetFits b ports i false i.hdr.t1 &&
  (match i with
   | .csrwr f => !((blockInstrs b).take q).any fun o => match o with
      | some (.csrwr g) => g.csr = f.csr
      | _ => false
   | _ => true)

/-! ## The whole block (07 R143; 08 R152, R158, R159, R169; 10 R216; 11 R224; 13 LOC) -/

/-- LSID, whether a holder, whether store-like, of a format M form. -/
def lsidOf (i : Instr) : Option (Nat × Bool × Bool) :=
  match i.body with
  | .m f => some (f.lsid.toNat, !(i.opc = 0x189), Instr.isOpc i [0x183, 0x184, 0x185, 0x187, 0x1A1, 0x1A3, 0x1A4])
  | _ => none

/-- Exit number of an EXIT form. -/
def exitOf (i : Instr) : Option Nat :=
  match i.body with
  | .b f => some f.exit.toNat
  | _ => none

/-- The register of a PUTG. -/
def putgOf (i : Instr) : Option Nat :=
  match i with
  | .putg f => some (field f.imm 0 7)
  | _ => none

/-- No element twice. -/
def noneTwice (l : List Nat) : Bool := decide ((distinct l).length = l.length)

/-- Check 5 (07 R145). -/
def blockOk (b : Fetched) : Bool :=
  let is := (blockInstrs b).filterMap id
  let loop := hKind b = 0xB2
  let ls := is.filterMap lsidOf
  let hs := (ls.filter fun l => l.2.1).map fun l => l.1
  let exits := is.filterMap exitOf
  let puts := is.filterMap putgOf
  let csrs := is.filterMap fun i => match i with
    | .csrwr f => some f.csr.toNat
    | _ => none
  let jset := (is.filter fun i => match i with
    | .jordSet _ => true
    | _ => false).length
  let jclr := (is.filter fun i => match i with
    | .jflagClr _ => true
    | _ => false).length
  let wins := is.filterMap fun i => match i with
    | .lenter f => some f.win.toNat
    | _ => none
  ls.all (fun l => l.1 < hNmem b) && noneTwice hs && decide (hs.length = hNmem b) &&
  decide (total ((ls.filter fun l => l.2.1 && l.2.2).map fun l => 2 ^ l.1) = hStores b) &&
  decide (exits.length = hNexit b) && noneTwice exits && exits.all (fun e => e < hNexit b) &&
  decide ((distinct wins).length ≤ 1) && noneTwice puts &&
  puts.all (fun p => !((hWrites b).any fun w => regIndex w.plane w.reg = p)) &&
  jset + (if csrs.contains 0x13 then 1 else 0) ≤ 1 && jclr + (if csrs.contains 0x11 then 1 else 0) ≤ 1 &&
  (if loop then
     jset = 0 && jclr = 0 && (hReads b).all (fun r => !(r.2.fe = 2)) && is.all fun i => !(Instr.isOpc i [2, 3, 4])
   else is.all fun i => !(Instr.isOpc i [0x142, 0x143, 0x144, 0x146]) && (match i.body with
     | .m f => !(groupOf i = 12 && isStream i f)
     | _ => true))

/-! ## The first failure (07 R145, R365) -/

/-- Bytes of a block. -/
def blockBytes (b : Fetched) : Nat := 64 + 16 * hNins b

/-- Whether a block lies in the image's code extent (07 R145 check 2, 16 R317); the Stable's code store has none. -/
def inExtent (t : Task) (b : Fetched) : Bool :=
  let a := field b.pc 0 57
  let lo := (t.trec.getD 0 0).toNat + t.img.codeOff
  bit b.pc 57 || (decide (lo ≤ a) && decide (a + blockBytes b ≤ lo + t.img.codeLen))

/-- The output ports that the image declares for a node by its edges (16 R317). -/
def nodePorts (t : Task) (n : Nat) : List Nat :=
  (t.img.edges.filter fun e => match t.img.bound[e.src]? with
    | some b => nodeAt (t.x + b.x) (t.y + b.y) == n
    | none => false).map fun e => e.port

/-- The first failing check: code, place, FSINFO, and the address where the code has one. -/
def mapFailure (t : Task) (n jord : Nat) (b : Fetched) : Option (Nat × Nat × Nat × Word) :=
  let a : Word := (b.pc.extractLsb' 0 57).setWidth 64
  if !(hKind b = 0xB1 || hKind b = 0xB2) then some (1, 0x7F, 0, a)
  else if !inExtent t b then some (2, 0x7F, 0, a)
  else if !headerOk b then some (3, 0x7F, 3, 0)
  else
    match (blockInstrs b).zipIdx.find? (fun e => match e.1 with
      | some i => !instrFits b (nodePorts t n) e.2 i
      | none => true) with
    | some e => some (3, e.2, 4, 0)
    | none =>
      if !blockOk b then some (3, 0x7E, 5, 0)
      else if (blockInstrs b).any (fun o => match o with
          | some i => jetWork i
          | none => false) && !(hJordx b = jord) then some (4, 0x7F, jord + hJordx b * 8, 0)
      else none

end Sys2Proof.Machine
end

