-- ==== Sys2Proof/Machine/BlockMap.lean ====
section
/-! DEFINITION. Fetch and map (01 R16, R17, R30; 07 R145, R146; 08 R152, R153; 22 R361, R365), and the injection of header reads. -/

namespace Sys2Proof.Machine
open Sys2Proof.Bits

/-! ## Header reads (01 R30, 08 R152) -/

/-- The commit units for which the mapped block's header reads are due: CTAG; in a loop-resident block every live iteration of
CTAG's colour that has not committed here, in the order in which they started. -/
def readUnits (nd : Node) (t : Task) (n : Nat) (m : Mapped) : List Tag :=
  let ct := ctagOf nd m
  let c := tagColour ct
  if !m.loop then [ct]
  else match t.frame c with
    | some f =>
      if f.kind = .loop || f.kind = .tagSpace then
        (f.live.dropWhile fun i => !(i == commitPoint t c n m.blk.pc)).map (mkTag c)
      else [ct]
    | none => [ct]

/-- The registers that a read reads: one, or for a J-plane slot the jet group. -/
def readRegs (m : Mapped) (r : HRead) : List Nat :=
  match m.blk.instr (field r.target 0 7) with
  | some i => if r.plane = 1 && inPlanes i (field r.target 10 2) = [2] then (List.range (m.snap.jord + 1)).map (r.reg + ·) else [r.reg]
  | none => [r.reg]

/-- Whether a register is full. -/
def regFull (nd : Node) (plane reg : Nat) : Bool := if plane = 0 then (nd.sreg reg).full else (nd.vreg reg).full

/-- The reads of a node's mapped block that are due, not yet injected, and whose registers are full. -/
def dueReads (s : State) (n : Nat) : List (Nat × HRead × Tag) :=
  let nd := s.node n
  match nd.cur, s.taskOf n with
  | some m, some t =>
    if bit nd.fs.code 63 then [] else
    (hReads m.blk).flatMap fun r => (readUnits nd t n m).filterMap fun ut =>
      if m.reads.contains (r.1, ut) || !((readRegs m r.2).all fun g => regFull nd r.2.plane g) then none else some (r.1, r.2, ut)
  | _, _ => []

/-- The data that a read injects: a vector's mask is all ones (01 R29). -/
def readData (nd : Node) (r : HRead) (gs : List Nat) : TokData :=
  if r.plane = 0 then .scalar (nd.sreg r.reg).val
  else .beats (gs.map fun g => Vec.mk fun k => Vec.lane (nd.vreg g).val k) 0xFFFF

/-- Inject one read's token; a broken register is a silicon error (24 R394). -/
def injectRead (n : Nat) (x : Nat × HRead × Tag) : Prog :=
  .ask fun s =>
    let nd := s.node n
    match nd.cur, nd.task with
    | some m, some tid =>
      let gs := readRegs m x.2.1
      if gs.any fun g => regBad nd (regIndex x.2.1.plane g) then
        tokenError n n tid (tagColour (ctagOf nd m)) ⟨0x70, freePlace s, m.blk.pc, x.2.2, 0, parityInfo (nodeX n) (nodeY n) 2 .data⟩
      else
        .seq (.upd (.node n fun nd => nd.onCur fun m => { m with
            reads := m.reads ++ [(x.1, x.2.2)]
            takes := if x.2.1.fe = 2 then m.takes ++ gs.map (regIndex x.2.1.plane) else m.takes }))
          (arrive n (field x.2.1.target 0 7) (field x.2.1.target 10 2)
            { mkTok x.2.2 (readData nd x.2.1 gs) false with inner := some x.2.2 } none)
    | _, _ => .skip

/-- Inject every read of a node that is due; a read that an error has overtaken is left. -/
def injectReads (n : Nat) : Prog :=
  .ask fun s => Prog.each (dueReads s n) fun x => .ask fun s => Prog.when ((dueReads s n).contains x) (injectRead n x)

/-! ## Fetch (07 R146, 22 R365) -/

/-- A fault of a fetch or of a map: PLACE 0x7F, no tag. -/
def fetchFault (pc : BitVec 58) (reason : Nat) (addr : Word) : FaultRec := ⟨0x30, 0x7F, pc, 0, addr, BitVec.ofNat 64 reason⟩

/-- What stops a fetch: the pages that are not mapped, each by its first address in the range; a page without EX; a wait; the arrival at a slice where it
waits; an error. -/
inductive FetchStop where
  | held (vas : List Nat)
  | noEx (va : Nat)
  | wait
  | enter (p : Prog)
  | trouble (p : Prog)

/-- The pages that a range touches, each by its first address in the range. -/
def pageStarts (a len : Nat) : List Nat :=
  (List.range (len / 2 ^ 16 + 2)).filterMap fun k =>
    let p := (a / 2 ^ 16 + k) * 2 ^ 16
    if p < a + len then some (if p < a then a else p) else none

/-- The lines of a virtual range that the node's tables map. -/
def fetchLines (s : State) (n : Nat) (t : Task) (a len : Nat) : List Nat :=
  distinct ((List.range (len / 16)).filterMap fun k => match translate s (nodeDie n) t.asid (a + 16 * k) with
    | .fault => none
    | .entry w => some (lineOf (entryPa w (a + 16 * k))))

/-- What stops a block fetch of `len` bytes at `a` (22 R365, 23 R376, 03 R62, R75): pages not mapped or still held, EX clear, a line of another task,
a line that cannot be had yet (03 R80), an error. -/
def fetchStop (s : State) (n tid : Nat) (t : Task) (pc : BitVec 58) (a len : Nat) : Option FetchStop :=
  let nd := s.node n
  let starts := pageStarts a len
  let missing := starts.filter fun v => nd.held.any (fun h => h.page == v / 2 ^ 16) || (match translate s (nodeDie n) t.asid v with
    | .fault => true
    | .entry _ => false)
  if !(missing = []) then some (.held missing)
  else
    match starts.find? (fun v => match translate s (nodeDie n) t.asid v with
        | .fault => false
        | .entry w => !entryEx w) with
    | some v => some (.noEx v)
    | none =>
      let lines := fetchLines s n t a len
      if lines.any nd.ownWaits then some .wait
      else match sliceStop s (.fetch n) lines with
        | some p => some (.enter p)
        | none => if lines.any (fun l => !canHave s l) then some .wait
          else (lines.findSome? (lineTrouble s ⟨some tid, n, ⟨0x73, 0x7F, pc, 0, 0, 0⟩⟩)).map .trouble

/-- The lines that a fetch has read: it waits for none of them any longer, and each is in the L2 where a way can be had (03 R74). -/
def fetchFills (n part : Nat) (lines : List Nat) : Prog := .seq (keepWaits (.fetch n) []) (Prog.each lines fun l => fillLine l part)

/-- The bytes of a range as the home slices hold them, after the node's own stores (07 R146, 01 R19). -/
def fetchBytes (s : State) (n : Nat) (t : Task) (a len : Nat) : List Byte :=
  (List.range len).map fun k => match translate s (nodeDie n) t.asid (a + k) with
    | .entry w =>
      let pa := entryPa w (a + k)
      if (s.node n).wq.isEmpty then s.byteNow pa else ((s.node n).ownBytes (lineOf pa) (s.lineNow (lineOf pa))).getD (pa % 128) 0
    | .fault => 0

/-- The 128-bit words of a byte list. -/
def quadsOf : Nat → List Byte → List Quad
  | 0, _ => []
  | k + 1, bs => wordOfBytes bs :: quadsOf k (bs.drop 16)

/-- The bytes of the Stable's code store from an offset on: the image set as it was loaded. -/
def stableBytes (s : State) (a len : Nat) : List Byte := (List.range len).map fun k => s.hub.fw.getD (a + k) 0

/-- Put a fetched block in its place. -/
def fetchDone (n : Nat) (pre : Bool) (b : Fetched) : Prog :=
  .upd (.node n fun nd => if pre then { nd with prefetched := some b } else { nd with
    fetched := some b
    fs := { nd.fs with pend := false } })

/-- Read the block at `pc` for context `ctx`; a prefetch that meets anything is dropped, but an error that it finds is seen to (26 R419). -/
def fetchBlock (n ctx : Nat) (pc : BitVec 58) (pre : Bool) : Prog :=
  .ask fun s =>
    let nd := s.node n
    match nd.task, s.taskOf n with
    | some tid, some t =>
      let a := field pc 0 57
      let stop := fun (x : FetchStop) => match x with
        | .held vas => Prog.when (!pre) (Prog.each vas fun v => holdPage n v false true true 0x7F 0)
        | .noEx v => Prog.when (!pre) (takeFault n (fetchFault pc 4 (BitVec.ofNat 64 v)))
        | .wait => .skip
        | .enter p => Prog.when (!pre) p
        | .trouble p => p
      if bit pc 57 then
        let h := quadsOf 4 (stableBytes s a 64)
        let b : Fetched := ⟨ctx, pc, h, []⟩
        fetchDone n pre { b with ins := quadsOf (hNins b) (stableBytes s (a + 64) (16 * hNins b)) }
      else match fetchStop s n tid t pc a 64 with
        | some x => stop x
        | none =>
          let b : Fetched := ⟨ctx, pc, quadsOf 4 (fetchBytes s n t a 64), []⟩
          if !(hKind b = 0xB1 || hKind b = 0xB2) || !inExtent t b then .seq (fetchFills n t.part (fetchLines s n t a 64)) (fetchDone n pre b)
          else match fetchStop s n tid t pc a (blockBytes b) with
            | some x => stop x
            | none => .all [ Prog.each (pageStarts a (blockBytes b)) fun v => touchTlb (nodeDie n) t.asid v,
                fetchFills n t.part (fetchLines s n t a (blockBytes b)),
                fetchDone n pre { b with ins := quadsOf (hNins b) (fetchBytes s n t (a + 64) (16 * hNins b)) } ]
    | _, _ => .skip

/-- Whether a node of a running task may fetch or map: no fault recorded, not suspended, not halted. -/
def mayRun (s : State) (n : Nat) : Bool :=
  let nd := s.node n
  (match s.taskOf n with
   | some t => decide (t.st = .running) || decide (t.st = .loading)
   | none => false) && !bit nd.fs.code 63 && !nd.suspended && !nd.halted

/-- The address to which a taken exit of the unit leads, as a program counter and, where bits 63:57 are set, the whole destination. -/
def exitPc (pc : BitVec 58) (e : ExitTaken) : BitVec 58 × Option Word := splitDest pc e.dest

/-- What BLOCK_FETCH may do next: fetch the next context's block, or prefetch the block to which the mapped one's exit leads. -/
inductive FetchJob where
  | now (ctx : Nat) (c : Ctx)
  | ahead (ctx : Nat) (pc : BitVec 58)

/-- The fetch that is due at a node. -/
def fetchJob (s : State) (n : Nat) : Option FetchJob :=
  let nd := s.node n
  if !mayRun s n || nd.fetched.isSome then none
  else match nd.cur with
    | none => match nd.nextCtx with
      | none => none
      | some c =>
        if (match nd.prefetched with
            | some p => p.ctx == c && p.pc == (nd.ctx c).pc && (nd.ctx c).wide.isNone
            | none => false) then none else some (.now c (nd.ctx c))
    | some m =>
      if m.loop || nd.prefetched.isSome then none
      else match (m.unit (ctagOf nd m)).exit with
        | some e => if Instr.isOpc e.form [0, 1, 2, 3] && (exitPc m.blk.pc e).2.isNone then some (.ahead m.blk.ctx (exitPc m.blk.pc e).1) else none
        | none => none

/-- BLOCK_FETCH (07 R146). -/
def execBlockFetch (n : Nat) (s : State) : Host.Outcome State Fault Refusal :=
  match fetchJob s n with
  | none => .refused .notEnabled
  | some (.ahead c pc) => (fetchBlock n c pc true).done s
  | some (.now c x) => (match x.wide with
    | some d => takeFault n (fetchFault x.pc 6 d)
    | none => fetchBlock n c x.pc false).done s

/-! ## Map (07 R145) -/

/-- The control registers as they stand, for CSRRD (07 R151, 06 R114). -/
def snapOf (s : State) (n : Nat) (b : Fetched) : Snap :=
  let nd := s.node n
  let die := nodeDie n
  let mon := (s.hub.mons.find? fun e => e.1 == nodeCluster n).map fun e => e.2
  { fpstat := nd.fpstat
    jflags := nd.jflags
    rmode := nd.rmode
    jord := nd.jord
    rngkey := nd.rngkey
    tbase := s.tbase
    chgAllot := BitVec.ofNat 64 (nd.crib.remaining % 2 ^ 56)
    chgDrawn := BitVec.ofNat 64 (nd.crib.drawn % 2 ^ 56)
    mon := (match mon with
      | some x => [(x.temp, true), (x.volt, true), (x.proc, true)]
      | none => [(0, false), (0, false), (0, false)])
    bad := s.hub.bad
    fwin := (List.range 64).map fun k => s.fwin (ownDie s die) (k / 4) (k % 4)
    fs := [nd.fs.code, nd.fs.pc, nd.fs.tag, nd.fs.addr, nd.fs.info, b.pc.setWidth 64, 0, if nd.fs.pend then 1 else 0] }

/-- The block that is to be mapped: the fetched one, or the prefetched one where it is the next context's. -/
def mapJob (s : State) (n : Nat) : Option Fetched :=
  let nd := s.node n
  if !mayRun s n || nd.cur.isSome then none
  else match nd.fetched with
    | some b => some b
    | none => match nd.prefetched, nd.nextCtx with
      | some p, some c => if p.ctx = c && p.pc = (nd.ctx c).pc && (nd.ctx c).wide.isNone then some p else none
      | _, _ => none

/-- The first empty register that a read in trap mode names (01 R30). -/
def trapEmpty (nd : Node) (m : Mapped) : Option Nat :=
  (hReads m.blk).findSome? fun r => if !(r.2.fe = 1) then none
    else ((readRegs m r.2).find? fun g => !regFull nd r.2.plane g).map (regIndex r.2.plane)

/-- The map's draw under the context's colour; a refused one is a SHORTFALL at place 0x7F with no tag (07 R150). -/
def mapDraw (n draw : Nat) (pc : BitVec 58) (colour : Nat) (k : Prog) : Prog :=
  .ask fun s =>
    if draw ≤ (s.node n).crib.remaining then
      .seq (.upd (.node n fun nd => { nd with crib := nd.crib.draw draw colour })) k
    else shortfall n draw 0x7F pc 0

/-- Map a block (07 R145; 01 R17): the draw stands whatever follows. -/
def mapBlock (n : Nat) (b : Fetched) : Prog :=
  .ask fun s =>
    let ct := ((s.node n).ctx b.ctx).ctag
    .seq (.upd (.node n fun nd => { nd with
        fetched := none
        prefetched := none }))
      (mapDraw n (16 + 2 * hNins b) b.pc (tagColour ct)
        (.ask fun s => match s.taskOf n with
          | none => .skip
          | some t => match mapFailure t n (s.node n).jord b with
            | some (code, place, info, addr) => takeFault n ⟨code, place, b.pc, 0, addr, BitVec.ofNat 64 info⟩
            | none =>
              let nd := s.node n
              let m : Mapped := {
                blk := b
                snap := snapOf s n b
                h := nd.h
                pins := nd.pins
                units := if hKind b = 0xB2 then [] else [CUnit.fresh ct]
                reads := []
                latches := []
                takes := []
                ready := []
                faults := []
                under := none }
              match trapEmpty nd m with
              | some g => takeFault n ⟨5, 0x7F, b.pc, 0, 0, BitVec.ofNat 64 g⟩
              | none => .seq (.upd (.node n fun nd => { nd with cur := some m })) (injectReads n)))

/-- BLOCK_MAP (07 R145). -/
def execBlockMap (n : Nat) (s : State) : Host.Outcome State Fault Refusal :=
  match mapJob s n with
  | none => .refused .notEnabled
  | some b => (mapBlock n b).done s

end Sys2Proof.Machine
end

