-- ==== Sys2Proof/Machine/Ports.lean ====
section
/-! DEFINITION. The output ports of a node: their edges, the draws of a token's hops, and sending a token (01 R12; 06 R111; 16 R317). -/

namespace Sys2Proof.Machine
open Sys2Proof.Bits

/-! ## Tokens on their way (01 R12; 06 R111; 16 R317) -/

/-- The edges of a node's output port, with their numbers. -/
def portEdges (t : Task) (n port : Nat) : List (Nat × Edge) :=
  (t.img.edges.zipIdx.filter fun e => e.1.port == port && (match t.img.bound[e.1.src]? with
    | some b => nodeAt (t.x + b.x) (t.y + b.y) == n
    | none => false)).map fun e => (e.2, e.1)

/-- The position of the node at which an edge ends. -/
def edgeEnd (t : Task) (e : Edge) : Nat × Nat :=
  match t.img.bound[e.dst]? with
  | some b => (t.x + b.x, t.y + b.y)
  | none => (t.x, t.y)

/-- Units that one hop of a token draws (06 R110, R112): a jet pays for each beat. -/
def hopDraw (tok : Tok) : Nat :=
  match tok.data with
  | .scalar _ => 1
  | .beats bs _ => 6 * (if bs.length = 0 then 1 else bs.length)

/-- The hop draws of a token that leaves a node by a port. -/
def outDraw (t : Task) (n port : Nat) (tok : Tok) : Nat :=
  total ((portEdges t n port).map fun e => hops (nodeX n) (nodeY n) (edgeEnd t e.2).1 (edgeEnd t e.2).2 * hopDraw tok)

/-- Send a token out of a port: one flit on each edge that starts there (DESIGN CHOICE, log 86: 01 R12 and 07 R129 speak of one; a block
whose rein token would leave by a port with several edges is refused, `targetFits`). -/
def sendOut (n port : Nat) (tok : Tok) : Prog :=
  .ask fun s => match (s.node n).task, s.taskOf n with
    | some tid, some t => .upd (.flits fun l => l ++ (portEdges t n port).map fun e =>
        { task := tid, edge := e.1, tok := { tok with edge := some e.1 }, x := nodeX n, y := nodeY n,
          dstX := (edgeEnd t e.2).1, dstY := (edgeEnd t e.2).2, q := e.2.q, slot := e.2.slot })
    | _, _ => .skip

/-- A token leaves a node by a port: the node pays its hops then (06 R111). Those of a block that halts the node are paid too; a completion token
(place 0x7E) that a halted node sends is no activity that it pays for. -/
def leaveBy (n port : Nat) (tok : Tok) (by_ : Issued) : Prog :=
  .ask fun s =>
    let d := ((s.taskOf n).map fun t => outDraw t n port tok).getD 0
    if d = 0 || ((s.node n).halted && by_.q = 0x7E) then sendOut n port tok else drawFor n d by_ (sendOut n port tok)

end Sys2Proof.Machine
end

