-- ==== Sys2Proof/Machine/EngineForms.lean ====
section
/-! DEFINITION. The ENGINE group (14 R270–R286) as firings, and what acceptance and the engines need of a card. -/

namespace Sys2Proof.Machine
open Sys2Proof.Bits

/-! ## Cards as beats (14 R270) -/

/-- The eight words of a card. -/
def cardWords (v : Vec) : CardWords := (List.range 8).map fun w => Vec.lane v (2 * w + 1) ++ Vec.lane v (2 * w)

/-- Word `k` of a card. -/
def cw (ws : CardWords) (k : Nat) : Word := ws.getD k 0
/-- Field of word `k`. -/
def cf (ws : CardWords) (k lo len : Nat) : Nat := field (cw ws k) lo len

/-- A region: first address, length, whether written. -/
structure Region where
  base : Nat
  len : Nat
  write : Bool
  deriving DecidableEq, Repr

/-- Bytes of an element of a TOPK or COLL type. -/
def cardElem (ty : Nat) : Nat := if ty = 7 then 2 else 4

/-- Bytes that a COLL card writes (14 R279). -/
def collLen (ws : CardWords) : Nat :=
  let len := cf ws 2 0 40
  let nm := cf ws 3 16 8 + 1
  match cf ws 3 8 4 with
  | 1 => len * nm
  | 2 => len / nm
  | _ => len

/-- The read and write footprints of a card (14 R277–R281), with `sa` and `da` added to source and destination addresses. -/
def footprint (cls : Nat) (ws : CardWords) (sa da : Nat) : List Region :=
  let a := fun k => (cw ws k).toNat
  match cls with
  | 0 => [⟨a 0 + sa, cf ws 2 0 40, false⟩, ⟨a 1 + da, cf ws 2 0 40, true⟩]
  | 1 => [⟨a 2 + sa, 4 * cf ws 3 32 32, false⟩, ⟨a 0 + sa, a 5, false⟩, ⟨a 1 + da, cf ws 3 32 32 * cf ws 3 0 32, true⟩]
  | 2 => [⟨a 0 + sa, cf ws 2 0 40, false⟩, ⟨a 1 + da, collLen ws, true⟩]
  | 3 =>
    let rows := cf ws 3 32 32
    let k := cf ws 5 0 4
    [⟨a 0 + sa, (rows - 1) * a 4 + cf ws 3 0 32 * cardElem (cf ws 5 4 4), false⟩, ⟨a 1 + da, 4 * k * rows, true⟩, ⟨a 2 + da, 4 * k * rows, true⟩]
  | _ => [⟨a 0 + da, cf ws 1 0 32 * 65536, true⟩]

/-- The regions that acceptance checks: the footprints, and the member array of COLL. -/
def checkedRegions (cls : Nat) (ws : CardWords) : List Region :=
  footprint cls ws 0 0 ++ (if cls = 2 then [⟨(cw ws 5).toNat, cf ws 3 16 8 + 1, false⟩] else [])

/-- Whether two regions meet. -/
def Region.meets (a b : Region) : Bool := decide (a.base < b.base + b.len) && decide (b.base < a.base + a.len) && decide (0 < a.len) && decide (0 < b.len)

/-- HVS, HS, HVD, HD of a card. -/
def cardHvs (ws : CardWords) : Bool := bit (cw ws 7) 4
/-- HS. -/
def cardHs (ws : CardWords) : Nat := cf ws 7 5 5
/-- HVD. -/
def cardHvd (ws : CardWords) : Bool := bit (cw ws 7) 10
/-- HD. -/
def cardHd (ws : CardWords) : Nat := cf ws 7 11 5

/-- Whether words 0 to 6 of a card keep the limits of its class (14 R277–R281, R291). Overlap of a COPY is judged where both
regions are plain addresses or offsets through one register. -/
def wordsOk (cls : Nat) (ws : CardWords) : Bool :=
  let z := fun (ks : List Nat) => ks.all fun k => cw ws k = 0
  let mul := fun k (m : Nat) => (cw ws k).toNat % m = 0
  match cls with
  | 0 => mul 0 128 && mul 1 128 && !(cf ws 2 0 40 = 0) && cf ws 2 40 24 = 0 && z [3, 4, 5, 6] &&
    (match footprint 0 ws 0 0 with
     | a :: b :: _ => !(a.meets b && decide (cardHvs ws = cardHvd ws) && (!cardHvs ws || decide (cardHs ws = cardHd ws)))
     | _ => true)
  | 1 => mul 1 4 && mul 2 4 && !(cf ws 3 32 32 = 0) && cf ws 3 0 32 % 4 = 0 && 4 ≤ cf ws 3 0 32 && cf ws 3 0 32 ≤ 65536 &&
    cf ws 3 0 32 ≤ (cw ws 4).toNat && !(cw ws 5 = 0) && z [6]
  | 2 =>
    let len := cf ws 2 0 40
    let nm := cf ws 3 16 8 + 1
    let kind := cf ws 3 8 4
    let rank := cf ws 3 24 8
    mul 0 128 && mul 1 128 && !(len = 0) && cf ws 2 40 24 = 0 && cf ws 3 0 4 ≤ 2 && [3, 7, 9].contains (cf ws 3 4 4) &&
    kind ≤ 3 && cf ws 3 12 4 = 0 && 2 ≤ nm && rank < nm && cf ws 3 32 32 = 0 && z [6] &&
    (!(kind = 1 || kind = 2) || len % 128 = 0) && (!(kind = 2) || len % (128 * nm) = 0)
  | 3 =>
    let ty := cf ws 5 4 4
    (ty = 7 || ty = 9) && mul 0 (cardElem ty) && !(cf ws 3 32 32 = 0) && !(cf ws 3 0 32 = 0) && cf ws 3 0 32 ≤ 2 ^ 31 &&
    cf ws 3 0 32 * cardElem ty ≤ (cw ws 4).toNat && 1 ≤ cf ws 5 0 4 && cf ws 5 0 4 ≤ 8 && cf ws 5 8 56 = 0 && z [6]
  | _ => mul 0 65536 && !(cw ws 1 = 0) && cf ws 1 32 32 = 0 && cf ws 2 1 63 = 0 && cf ws 3 8 56 = 0 && z [4, 5, 6]

/-- Whether the two regions of a COPY card lie apart, where their reins put them (14 R277): `sa` and `da` are what the reins add. -/
def copyApart (cls : Nat) (ws : CardWords) (sa da : Nat) : Bool :=
  !(cls = 0) || match footprint 0 ws sa da with
    | a :: b :: _ => !a.meets b
    | _ => true

/-- The "—" bits of word 7. -/
def word7Ok (ws : CardWords) : Bool := cf ws 7 16 2 = 0 && cf ws 7 0 4 = 0

/-! ## Tickets (14 R271) -/

/-- STATE of a card. -/
def CardSt.code : CardSt → Nat
  | .queued => 0
  | .running => 1
  | .parked => 2
  | .finished => 3
  | .failed => 4
  | .cancelled => 5

/-- The fields of a ticket as they are laid out in its lanes. -/
def ticketVec (node seq cls chan state : Nat) (fb : Bool) (ptr reason : Nat) (nv : Bool) (owner : Nat) : Vec :=
  Vec.mk fun l => BitVec.ofNat 32 (match l with
    | 0 => node % 2048 + seq % 65536 * 2 ^ 16
    | 1 => cls % 16 + chan % 64 * 2 ^ 4 + state % 8 * 2 ^ 10 + (if fb then 2 ^ 13 else 0)
    | 2 => ptr % 2 ^ 32
    | 3 => ptr / 2 ^ 32
    | 4 => reason % 256 + (if nv then 256 else 0)
    | 5 => owner % 1024
    | _ => 0)

/-- PTR of card `k` (14 R271, 03 R78): the bytes from the start of the destination that have been written and performed; a line that another package has
not acknowledged is not performed (05 R91). -/
def Card.done (s : State) (k : Nat) (c : Card) : Nat :=
  (s.mirror.filter fun w => w.card == some k).foldl (fun p w => if w.below < p then w.below else p) c.ptr

/-- The ticket of card `k` as it stands. -/
def Card.ticket (s : State) (k : Nat) (c : Card) : Vec :=
  ticketVec c.node c.seq c.cls c.chan c.st.code c.fb (c.done s k) c.reason c.nv c.owner

/-- NODE, SEQ, CLASS, CHANNEL, OWNER of a ticket. -/
def tkNode (v : Vec) : Nat := field (Vec.lane v 0) 0 11
/-- SEQ. -/
def tkSeq (v : Vec) : Nat := field (Vec.lane v 0) 16 16
/-- CLASS. -/
def tkClass (v : Vec) : Nat := field (Vec.lane v 1) 0 4
/-- CHANNEL. -/
def tkChan (v : Vec) : Nat := field (Vec.lane v 1) 4 6
/-- OWNER. -/
def tkOwner (v : Vec) : Nat := field (Vec.lane v 5) 0 10

/-! ## Completion tokens (14 R273) -/

/-- The output port that a card's completion token leaves by. -/
def Card.port? (c : Card) : Option Nat := if !(field c.t0 10 2 = 0) && field c.t0 7 3 = 2 then some (field c.t0 0 7) else none

/-- Give out the completion token of a final card: to its deferred register, or out of its port, where the node pays the hops. A swept node's token
waits in its saved commit stream. -/
def tellOne (k : Nat) (c : Card) : Prog :=
  .seq (onCard k fun c => { c with told := true }) (match c.wb, c.port? with
    | some d, _ => .ask fun s => .upd (.results fun l => l ++ [⟨d, vecData (c.ticket s k) 0xFFFF⟩])
    | none, some p => .ask fun s => match s.task c.task with
      | none => .skip
      | some t =>
        let tok := mkTok c.tag (vecData (c.ticket s k) 0xFFFF) false
        let by_ := Issued.plain s.ctr 0x7E c.tag 0
        let r := homeRef s c.task t c.m
        if r < 2048 then leaveBy r p tok by_ else onRef r fun nd => { nd with wq := nd.wq ++ [.out p tok by_] }
    | none, none => .skip)

/-- The final cards of a node whose completion tokens are still to leave by a port, in the order in which they became final (14 R273). -/
def portTells (s : State) (tid m p : Nat) : List (Card × Nat) :=
  sortBy (fun (e : Card × Nat) => e.1.finAt.getD 0) (s.cards.zipIdx.filter fun e =>
    e.1.task == tid && e.1.m == m && e.1.st.final && !e.1.told && !e.1.port && e.1.wb.isNone && e.1.port? == some p)

/-- Give them out as far as the node's stores that lie before the cards have been performed (05 R94). -/
def tellPort (tid m p : Nat) : Nat → Prog
  | 0 => .skip
  | k + 1 => .ask fun s => match portTells s tid m p with
    | (c, j) :: _ => if c.entered then .seq (tellOne j c) (tellPort tid m p k) else .skip
    | [] => .skip

/-- Give out the completion token of card `k` when its turn has come: it is final, the node's earlier stores have been performed, and tokens of cards
that became final before it have left by its port. -/
def tellCard (k : Nat) : Prog :=
  .ask fun s => match s.cards[k]? with
    | none => .skip
    | some c => match c.wb, c.port? with
      | none, some p => tellPort c.task c.m p s.cards.length
      | _, _ => Prog.when (c.st.final && c.entered && !c.told && !c.port) (tellOne k c)

/-- A card's place in the commit stream has come: it may start, and one that is already final gives its token (05 R94). -/
def enterCard (k : Nat) : Prog := .seq (onCard k fun c => { c with entered := true }) (tellCard k)

/-! ## Stock kernels (15 R310) -/

/-- The node halts when context 0 has stopped and every spawned context has ended (08 R153). -/
def Node.checkHalt (nd : Node) : Node :=
  if (nd.ctx 0).st = .halted && ((List.range 8).filter fun k => 1 ≤ k).all fun k => decide ((nd.ctx k).st = .none) then
    { nd with halted := true } else nd

/-- A card that ran as a stock kernel and is final gives its context and its colour back. -/
def endKernel (k : Nat) : Prog :=
  .ask fun s => match s.cards[k]?.bind fun c => (s.task c.task).map fun t => (c, t) with
    | none => .skip
    | some (c, t) =>
      let r := homeRef s c.task t c.m
      match (refNode s r).ctxs.find? fun e => decide (e.2.st = .kernel k) with
      | none => .skip
      | some e => .seq (onRef r fun nd => { nd with ctxs := Sparse.put Ctx.reset nd.ctxs e.1 Ctx.reset }.checkHalt)
          (.upd (.task c.task fun o => o.map (Task.release (tagColour e.2.ctag))))

/-! ## Issuing forms (14 R272, R273) -/

/-- A rein register as a firing that holds no LSID sees it: as the unit's rein forms have left it, else as it stood at map (04 R85). -/
def Fx.reinNow (c : Fx) (reg : Nat) : Quad := c.rein (2 ^ 16) reg

/-- What a rein adds to an address. -/
def reinAdd (s : State) (asid : Nat) (on : Bool) (r : Quad) : Nat := if on then (reinVa s asid r 0).toNat else 0

/-- Whether the words of an issuing form's card keep their limits (14 R277–R281, R291). -/
def Fx.cardOk (c : Fx) (cls : Nat) (ws : CardWords) : Bool :=
  wordsOk cls ws && word7Ok ws && copyApart cls ws (reinAdd c.s c.t.asid (cardHvs ws) (c.reinNow (cardHs ws)))
    (reinAdd c.s c.t.asid (cardHvd ws) (c.reinNow (cardHd ws)))

/-- An issuing form of class `cls`. -/
def issueForm (i : Instr) (f : FmtE) (cls : Nat) (s : State) : Host.Outcome State Fault Refusal :=
  fire i (fun c => match c.mode false with
    | .null => c.nullPlan 64
    | .closed => .act 64 .skip
    | .go _ =>
      let ws := cardWords (optBeat c.l 0)
      let seq := c.nd.cards
      if !c.cardOk cls ws then .fault 64 0x40 0 1
      else
        let tk := vecData (ticketVec c.n seq cls f.chan.toNat 0 false 0 0 false c.t.owner) 0xFFFF
        let ctok := f.flags.getLsbD 0
        match tagRes c.t c.tag c.h.tagop.toNat with
        | .wait => .wait
        | .fault r => .fault 64 0x10 0 (BitVec.ofNat 64 r)
        | .ok tg cl => .act 64 (.all [ takeClaim c.tid c.n c.ut cl,
            .upd (.node c.n fun nd => { nd with cards := nd.cards + 1 }),
            addAct c.n c.ut c.q c.tag (.card cls f.chan.toNat f.flags seq ws (if ctok then c.h.t0 else 0) tg),
            Prog.when (!ctok) (emitTo c.n c.ut c.q c.tag c.h.t0 (mkTok tg tk false)),
            emitTo c.n c.ut c.q c.tag c.h.t1 (mkTok tg tk false) ])) s

/-- COPY (14 R273, R277). -/
def execCopy (f : FmtE) (s : State) := issueForm (.copy f) f 0 s
/-- GATHER (14 R273, R278). -/
def execGather (f : FmtE) (s : State) := issueForm (.gather f) f 1 s
/-- COLL (14 R273, R279). -/
def execColl (f : FmtE) (s : State) := issueForm (.coll f) f 2 s
/-- TOPK (14 R273, R280). -/
def execTopk (f : FmtE) (s : State) := issueForm (.topk f) f 3 s
/-- MIRROR (14 R273, R281). -/
def execMirror (f : FmtE) (s : State) := issueForm (.mirror f) f 4 s

/-! ## Waiting, inspecting, cancelling (14 R282, R283) -/

/-- What a ticket names: an accepted card; a card of a unit that has not committed, and whether it has been cancelled; or one too old to be known. -/
inductive Named where
  | card (k : Nat) (c : Card)
  | pending (ut : Tag) (seq : Nat) (cancelled : Bool)
  | unknown

/-- The card of an uncommitted unit of the firing's block that a ticket number names. -/
def pendingCard (c : Fx) (num : Nat) : Option (Tag × Nat) :=
  c.m.units.findSome? fun u => u.acts.findSome? fun a => match a.act with
    | .card _ _ _ q _ _ _ => if q % 65536 = num then some (u.tag, q) else none
    | _ => none

/-- The tickets that a card's node has issued after the card's own: those of a discarded block and the cards of engine ports are none (14 R271, R275). -/
def laterTickets (s : State) (c : Card) : Nat :=
  (s.cards.filter fun b => b.task == c.task && b.m == c.m && !b.port && decide (c.seq < b.seq)).length

/-- The card that a ticket names (14 R271): the node keeps the state of the last 256 tickets it has issued. -/
def namedCard (c : Fx) (v : Vec) : Named :=
  match (c.s.cards.zipIdx.filter fun e => e.1.node == tkNode v && e.1.seq % 65536 == tkSeq v && e.1.task == c.tid && !e.1.port &&
      decide (laterTickets c.s e.1 < 256)).getLast? with
    | some e => .card e.2 e.1
    | none => match (if tkNode v = c.n then pendingCard c (tkSeq v) else none) with
      | some x => .pending x.1 x.2 (c.m.units.any fun u => u.acts.any fun a => decide (a.act = .cancel x.2))
      | none => .unknown

/-- The ticket token with another STATE: of an unknown card only the state is given (14 R271), the rest of its status is free. -/
def unknownTicket (c : Fx) (v : Vec) : Vec := Vec.mk fun l =>
  if l = 1 then setField (Vec.lane v 1) 10 4 (7 + 8 * field (Config.freeLane c.s.ctr 1) 13 1)
  else if 2 ≤ l && l ≤ 4 then Config.freeLane c.s.ctr l else Vec.lane v l

/-- The ticket token with a STATE. -/
def stateTicket (v : Vec) (st : Nat) : Vec := Vec.mk fun l => if l = 1 then setField (Vec.lane v 1) 10 3 st else Vec.lane v l

/-- The ticket as it stands for a named card. -/
def namedTicket (c : Fx) (v : Vec) : Named → Vec
  | .card k x => x.ticket c.s k
  | .pending _ _ cancelled => stateTicket v (if cancelled then 5 else 0)
  | .unknown => unknownTicket c v

/-- A form on a ticket: class, channel and owner must match (14 R282, R291). -/
def ticketForm (i : Instr) (f : FmtE) (plan : Fx → Vec → Named → Plan) (s : State) : Host.Outcome State Fault Refusal :=
  fire i (fun c => match c.mode false with
    | .null => c.nullPlan 64
    | .closed => .act 64 .skip
    | .go _ =>
      let v := optBeat c.l 0
      if !(tkClass v = f.eng.toNat && tkChan v = f.chan.toNat && tkOwner v = c.t.owner % 1024) then .fault 64 0x40 0 2
      else plan c v (namedCard c v)) s

/-- Emit a ticket; an acquire at package scope invalidates the node's L1 (14 R283, 03 R64). -/
def emitTicket (c : Fx) (v : Vec) (acquire : Bool) (before : Prog) : Plan :=
  c.emitPlan 64 (vecData v 0xFFFF) false (.all [ before, .upd .fresh,
    Prog.when acquire (.upd (.node c.n fun nd => nd.l1Clear)) ])

/-- WPWAIT (14 R283): it ends when PTR reaches p or the card is final. -/
def execWpwait (f : FmtE) (s : State) := ticketForm (.wpwait f) f (fun c v nm => match nm with
  | .card k x => if field f.card 0 40 ≤ x.done c.s k || x.st.final then emitTicket c (x.ticket c.s k) true .skip else .wait
  | .pending _ _ x => if field f.card 0 40 = 0 || x then emitTicket c (namedTicket c v nm) true .skip else .wait
  | .unknown => emitTicket c (unknownTicket c v) true .skip) s

/-- CWAIT (14 R283). -/
def execCwait (f : FmtE) (s : State) := ticketForm (.cwait f) f (fun c v nm => match nm with
  | .card k x => if x.st.final then emitTicket c (x.ticket c.s k) true .skip else .wait
  | .pending _ _ x => if x then emitTicket c (namedTicket c v nm) true .skip else .wait
  | .unknown => emitTicket c (unknownTicket c v) true .skip) s

/-- WPRD (14 R283). -/
def execWprd (f : FmtE) (s : State) := ticketForm (.wprd f) f (fun c v nm => emitTicket c (namedTicket c v nm) false .skip) s
/-- CSTAT (14 R283). -/
def execCstat (f : FmtE) (s : State) := ticketForm (.cstat f) f (fun c v nm => emitTicket c (namedTicket c v nm) false .skip) s

/-- CCANCEL (14 R283). Each engine step of the model is whole, so a running card stands at a step boundary and stops there. -/
def execCcancel (f : FmtE) (s : State) := ticketForm (.ccancel f) f (fun c v nm =>
  if f.eng = 2 || f.eng = 4 then emitTicket c (namedTicket c v nm) false .skip
  else match nm with
    | .card k x => if x.st.final then emitTicket c (x.ticket c.s k) false .skip
      else emitTicket c ({ x with st := .cancelled }.ticket c.s k) false (.all [ onCard k fun y => { y with st := .cancelled, finAt := some c.s.ctr },
        tellCard k, endKernel k ])
    | .pending ut q _ => emitTicket c (stateTicket v 5) false (addAct c.n ut c.q c.tag (.cancel q))
    | .unknown => emitTicket c (unknownTicket c v) false .skip) s

end Sys2Proof.Machine
end

