-- ==== Sys2Proof/Machine/Queues.lean ====
section
/-! DEFINITION. Launch queues (15 R297), the hub's answers to TASK forms (14 R288; 06 R116), and the tokens of an unmap or an
invalidation (03 R70, R71). -/

namespace Sys2Proof.Machine
open Sys2Proof.Bits

/-! ## Queues (15 R297) -/

/-- A queue before RINGS has set one. -/
def Queue.reset : Queue := ⟨[], [], 0, 0⟩
/-- Launch queue `q` of a partition. -/
def Part.queue (p : Part) (q : Nat) : Queue := Sparse.get Queue.reset p.queues q

/-- The field of word `k` of a task record. -/
def recField (r : List Word) (k lo len : Nat) : Nat := field (r.getD k 0) lo len

/-- A record with its STATUS. -/
def recStatus (r : List Word) (st : Nat) : List Word := r.modify 6 fun w => setField w 32 8 st

/-- Whether queue `q` can take an entry. -/
def queueRoom (s : State) (p q : Nat) : Bool :=
  let x := (s.part p).queue q
  (x.ring = [] && x.hw.length < 32) || x.ring.length < x.cap

/-- Enter a record in a queue that has room, with STATUS 0x00, stamped with the enqueue count (14 R288, 15 R297). -/
def pushQueue (p q : Nat) (r : List Word) (va asid : Nat) : Prog :=
  .ask fun s =>
    let e : QEntry := ⟨recStatus r 0, va, asid, s.hub.enq + 1, 0⟩
    .all [ writeStatus asid va 0 (recField r 6 0 32), .upd (.hub fun h => { h with enq := h.enq + 1 }),
      .upd (.part p fun x => { x with queues := Sparse.upd Queue.reset x.queues q fun y =>
        if y.ring = [] && y.hw.length < 32 then { y with hw := y.hw ++ [e] } else { y with ring := y.ring ++ [e] } }) ]

/-- The ring's head moves up while the hardware part has a free place. -/
def Queue.refill (y : Queue) : Queue :=
  let n := 32 - y.hw.length
  { y with
    hw := y.hw ++ y.ring.take n
    ring := y.ring.drop n }

/-- A queue without the entry stamped `enq`. -/
def Queue.without (enq : Nat) (y : Queue) : Queue :=
  Queue.refill { y with
    hw := y.hw.filter fun e => !(e.enq == enq)
    ring := y.ring.filter fun e => !(e.enq == enq) }

/-- Launches of committed tasks enter queue 0 of their partition while it has room (14 R288, 15 R297). -/
def enterLaunches (p : Nat) : Nat → Prog
  | 0 => .skip
  | k + 1 => .ask fun s => match (s.part p).launching with
    | [] => .skip
    | l :: _ => if queueRoom s p 0 then
        .all [ .upd (.part p fun x => { x with launching := x.launching.drop 1 }), pushQueue p 0 l.trec l.va l.asid, enterLaunches p k ]
      else .skip

/-- Every launch that finds room enters its queue. -/
def enterAll (p : Nat) : Prog := .ask fun s => enterLaunches p (s.part p).launching.length

/-- Remove the entry stamped `enq` from a queue; launches that waited for room come in. -/
def dropQueue (p q enq : Nat) : Prog :=
  .seq (.upd (.part p fun x => { x with queues := Sparse.upd Queue.reset x.queues q (Queue.without enq) })) (enterAll p)

/-! ## Bytes as a node sees them (05 R93) -/

/-- Bytes at a physical address, with the node's own stores that are still on their way. -/
def nodeBytes (s : State) (n pa len : Nat) : List Byte :=
  let line := lineOf pa
  (((s.node n).ownBytes line (s.lineNow line)).drop (pa % 128)).take len

/-! ## The hub's answers (14 R288) -/

/-- Send a scalar to the deferred register of an answer. -/
def answer (dst : Option Defer) (x : Nat) : Prog :=
  match dst with
  | some d => .upd (.results fun l => l ++ [⟨d, .scalar (BitVec.ofNat 64 x)⟩])
  | none => .skip

/-- Whether the request of a TASK form must wait at the commit: for another task's line (03 R75), or for an atomic of its own node. -/
def hubWaits (s : State) (nd : Node) (owner : Nat) (r : HubReq) : Bool :=
  match r with
  | .qpush _ _ _ pa => foreign s (some owner) (lineOf pa) || nd.ownWaits (lineOf pa)
  | .qpop _ _ pa => foreign s (some owner) (lineOf pa)
  | .tlaunch _ _ pa => foreign s (some owner) (lineOf pa) || nd.ownWaits (lineOf pa)
  | _ => false

/-- The draws of a task's bound nodes (06 R114). -/
def taskDrawn (s : State) (tid : Nat) (t : Task) : Nat := total (t.img.bound.map fun b => (nodeRec s tid t b).crib.drawn)

/-- The shares that a task's bound nodes have, in packets, as their cribs hold them now. What a resumed task drew before its sweep is no longer part of
a share; how it counts toward the allotment is the model's choice: it does not (DESIGN CHOICE, log 67). -/
def taskShares (s : State) (tid : Nat) (t : Task) : Nat := total (t.img.bound.map fun b => (nodeRec s tid t b).crib.share / 64)

/-- The code of CHGASK (14 R288, 06 R116). Where several conditions fail at once, the first in this order is told (DESIGN CHOICE, log 67). -/
def askCode (s : State) (tid : Nat) (t : Task) (n : Nat) : Nat :=
  if n = 0 then 3
  else if !t.topup then 1
  else if (s.part t.part).quota < n then 2
  else if 2 ^ 48 - 1 < taskShares s tid t + n then 3
  else 0

/-- A request taken at a commit of node `n`. -/
def hubRequest (n tid : Nat) (r : HubReq) (dst : Option Defer) : Prog :=
  .ask fun s => match s.task tid with
    | none => .skip
    | some t => match r with
      | .qpush q _ va pa =>
        let rec8 := wordsOf 8 (nodeBytes s n pa 64)
        let x := (s.part t.part).queue q
        let held := (x.hw.length + x.ring.length) % 2 ^ 32
        if !(recField rec8 2 26 6 = t.part) then answer dst (2 + held * 2 ^ 8)
        else if !queueRoom s t.part q then answer dst (1 + held * 2 ^ 8)
        else .seq (pushQueue t.part q rec8 va (recField rec8 5 0 11)) (answer dst ((held + 1) % 2 ^ 32 * 2 ^ 8))
      | .qpop q va pa =>
        (match ((s.part t.part).queue q).hw with
         | [] => answer dst 1
         | e :: _ => .all [ dropQueue t.part q e.enq,
             .upd (.node n fun nd => { nd with wq := nd.wq ++ [.store (.bytes [(⟨va, pa, 64, 0, 0⟩, bytesOf e.trec)] 0) 0 0 (Issued.plain s.ctr 0x7E 0 0)] }),
             answer dst 0 ])
      | .qstat q =>
        let x := (s.part t.part).queue q
        answer dst ((x.hw.length + x.ring.length) % 2 ^ 32 + x.cap % 2 ^ 32 * 2 ^ 32)
      | .chgrd => answer dst (taskDrawn s tid t)
      | .chgask k =>
        let code := askCode s tid t k
        .seq (Prog.when (code = 0) (.all [
            .upd (.part t.part fun x => { x with quota := x.quota - k }),
            .upd (.node n fun nd => { nd with crib := nd.crib.grant k }),
            .upd (.task tid fun o => o.map fun t => { t with
              granted := true
              allot := t.allot + k }) ]))
          (answer dst ((if code = 0 then k % 2 ^ 32 else 0) + code * 2 ^ 32))
      | .tlaunch _ va pa =>
        let rec8 := wordsOf 8 (nodeBytes s n pa 64)
        if !(recField rec8 2 26 6 = t.part) then answer dst 2
        else if 16 ≤ t.launches.length then answer dst 1
        else .seq (.upd (.task tid fun o => o.map fun t => { t with launches := t.launches ++ [⟨rec8, va, recField rec8 5 0 11⟩] }))
          (answer dst 0)

/-! ## Unmaps (03 R70, R71) -/

/-- The nodes of an ASID, by task and place in its rectangle. -/
def asidNodes (s : State) (asid : Nat) (ok : Node → Bool) : List (Nat × Nat) :=
  s.nodes.filterMap fun e => match e.2.task with
    | some tid => (match s.task tid with
      | some t => if t.asid = asid && ok e.2 then some (tid, nodeM t e.1) else none
      | none => none)
    | none => none

/-- The saved nodes of an ASID's swept tasks that still have stores on their way (23 R379). -/
def asidSaved (s : State) (asid : Nat) : List (Nat × Nat) :=
  s.tasks.flatMap fun e => match e.2 with
    | some t => if t.asid = asid then (t.savedNodes.filter fun x => !(x.2.wq = [])).map fun x => (e.1, x.1) else []
    | none => []

/-- Whether a node is a streaming node: its mapped block has a load or store with LOC 10 (03 R70). -/
def Node.streaming (nd : Node) : Bool :=
  match nd.cur with
  | some m => m.blk.ins.any fun w => match decode w with
    | .ok j => (match holder j with
      | some g => isStream j g
      | none => false)
    | .error _ => false
  | none => false

/-- Invalidate the TLB's entries of a page, or of a whole ASID (03 R70, R71): re-latch tokens enter its streaming nodes, drain tokens its
nodes' ports; where a frame leaves with the page, it waits for them. -/
def invalidate (asid : Nat) (page : Option Nat) (frame : Option Nat) : Prog :=
  .ask fun s =>
    let id := s.ctr
    .all [ .upd .fresh,
           .upd (.tlb fun l => l.filter fun t => !(t.asid == asid && (match page with
             | some p => t.page == p * 2 ^ 16 / 2 ^ t.bits
             | none => true))),
           .upd (.relatch fun l => l ++ (asidNodes s asid Node.streaming).map fun n => ⟨n.1, n.2, id, id, none⟩),
           .upd (.drains fun l => l ++ (asidNodes s asid (fun _ => true) ++ asidSaved s asid).map fun n => ⟨n.1, n.2, id, id⟩),
           Prog.when frame.isSome (.upd (.unmaps fun l => l ++ [⟨id, asid, page.getD 0, frame⟩])),
           closeUnmaps ]

end Sys2Proof.Machine
end

