-- ==== Sys2Proof/Machine/ReinForms.lean ====
section
/-! DEFINITION. The REIN group (13 R264–R267; 04 R83–R90). -/

namespace Sys2Proof.Machine
open Sys2Proof.Bits

/-- The rein that a rein token carries in its lowest 128 bits (04 R84). -/
def tokRein (t : Option Tok) : Quad :=
  let v := optBeat t 0
  Vec.lane v 3 ++ Vec.lane v 2 ++ Vec.lane v 1 ++ Vec.lane v 0

/-- The beat of a rein token: the rein in bits 127:0, the rest zero (04 R84). -/
def reinVec (r : Quad) : Vec :=
  [r.extractLsb' 0 32, r.extractLsb' 32 32, r.extractLsb' 64 32, r.extractLsb' 96 32] ++ List.replicate 12 0

/-- The source rein of a form (13 R264): register H, or the token of the left slot. -/
def srcRein (c : Fx) (f : FmtM) : Quad := if f.hv = 1 then c.rein f.lsid.toNat f.hreg.toNat else tokRein c.l

/-- Write a result rein into a register as the form's effect at its LSID (13 R265); a live rein that it overwrites, other than
the form's own source, is dropped first. -/
def putRein (c : Fx) (f : FmtM) (reg : Nat) (r : Quad) (own : Bool) : Prog :=
  let old := c.rein f.lsid.toNat reg
  let (a, fg, n) := reinSpan old
  .seq (Prog.when (!own && !(a = 0)) (addAct c.n c.ut c.q c.tag (.cover (.dec a fg n))))
    (onUnit c.n c.ut fun u => { u with hNew := u.hNew ++ [(f.lsid.toNat, reg, r)] })

/-- Note a coverage change to be made at commit (04 R87). -/
def noteCover (c : Fx) (cv : Cover) : Prog := addAct c.n c.ut c.q c.tag (.cover cv)

/-- The LSID of a rein form resolves at the firing (13 R247). -/
def reinDone (c : Fx) (f : FmtM) : Prog := onUnit c.n c.ut fun u => u.setLsid f.lsid.toNat .done

/-- WIDEN at the firing of a rein form (13 R266). -/
def reinWiden (c : Fx) : Plan := .fault 64 0x32 0 (BitVec.ofNat 64 c.q)

/-- Emit the LEN of a rein as a scalar (13 R264). -/
def emitLen (c : Fx) (r : Quad) (before : Prog) : Plan := c.emitPlan 64 (.scalar (BitVec.ofNat 64 (rLen r))) false before

/-- Whether bits above 39 of a numeric operand are zero (13 R264). -/
def numOk (t : Option Tok) : Bool := field (optScalar t) 40 24 = 0
/-- Bits 39:0 of a numeric operand. -/
def num40 (t : Option Tok) : Nat := field (optScalar t) 0 40

/-- The lowest run of `n` free granules of an arena (04 R86). -/
def freeRun (a : Arena) (n : Nat) : Option Nat :=
  (List.range (a.size / 4096 + 1 - n)).find? fun f => (List.range n).all fun k => !(a.taken.contains (f + k))

/-- REINMK (04 R86, 13 R266): the run is reserved at the firing and covered at commit; no run, or n = 0, gives the null rein. -/
def reinmkPlan (f : FmtM) (c : Fx) : Plan :=
  let id := field (optScalar c.r) 0 10
  if !numOk c.l || !numOk c.r || id = 1023 then reinWiden c
  else match c.s.arena c.t.asid id with
    | none => reinWiden c
    | some a =>
      let n := num40 c.l
      let g := ceilDiv n 4096
      match (if n = 0 || a.size / 4096 < g then none else freeRun a g) with
      | none => emitLen c 0 (.seq (reinDone c f) (putRein c f f.hreg.toNat 0 false))
      | some fst =>
        let r := mkRein id a.gen.toNat 15 (fst * 4096) n
        emitLen c r (.all [ reinDone c f, putRein c f f.hreg.toNat r false, noteCover c (.mk id fst g),
          onUnit c.n c.ut fun u => { u with claims := .run id fst g :: u.claims },
          onArena c.t.asid id fun a => { a with taken := a.taken ++ (List.range g).map (fst + ·) } ])

/-- REINDUP (04 R86). -/
def reindupPlan (f : FmtM) (c : Fx) : Plan :=
  let r := srcRein c f
  let (a, fg, n) := reinSpan r
  if !bit r 98 then reinWiden c
  else emitLen c r (.all [ reinDone c f, putRein c f (field f.low 26 5) r false, noteCover c (.inc a fg n) ])

/-- REINSPL (04 R86): the lower part stays in H, the upper goes to HB. -/
def reinsplPlan (f : FmtM) (c : Fx) : Plan :=
  let r := srcRein c f
  let p := num40 c.l
  if !numOk c.l || !bit r 98 || rLen r < p then reinWiden c
  else
    let lo := mkRein (rArena r) (rGen r) (rRights r) (rBase r) p
    let hi := mkRein (rArena r) (rGen r) (rRights r) (rBase r + p) (rLen r - p)
    let cut := rBase r + p
    emitLen c lo (.all [ reinDone c f, putRein c f f.hreg.toNat lo true, putRein c f (field f.low 26 5) hi false,
      Prog.when (0 < p && p < rLen r && !(cut % 4096 = 0)) (noteCover c (.inc (rArena r) (cut / 4096) 1)) ])

/-- The coverage that leaves a span narrowed from granules (f, n) to (f', n'): the runs below and above (04 R86). -/
def leaving (a f n f' n' : Nat) : List Cover :=
  if n' = 0 then [.dec a f n] else [.dec a f (f' - f), .dec a (f' + n') (f + n - (f' + n'))]

/-- REINNAR (04 R86): lo and hi lie in the present span, the mask adds no right. -/
def reinnarPlan (f : FmtM) (c : Fx) : Plan :=
  let r := srcRein c f
  let lo := num40 c.l
  let hi := num40 c.r
  let m := field f.low 22 4
  if !numOk c.l || !numOk c.r || hi < lo || rLen r < hi || !(m &&& (15 - rRights r) = 0) then reinWiden c
  else
    let r' := mkRein (rArena r) (rGen r) (rRights r &&& m) (rBase r + lo) (hi - lo)
    let (a, fg, n) := reinSpan r
    let (fg', n') := granules (rBase r + lo) (hi - lo)
    emitLen c r' (.all [ reinDone c f, putRein c f f.hreg.toNat r' true,
      Prog.when (!(a = 0)) (Prog.each (leaving a fg n fg' n') fun cv => noteCover c cv) ])

/-- REINDROP (04 R86): of a register, or of a token. -/
def reindropPlan (f : FmtM) (c : Fx) : Plan :=
  let r := srcRein c f
  let (a, fg, n) := reinSpan r
  c.emitPlan 64 (.scalar 0) false (.all [ reinDone c f,
    Prog.when (f.hv = 1) (putRein c f f.hreg.toNat 0 true),
    Prog.when (!(a = 0)) (noteCover c (.dec a fg n)) ])

/-- The T1 scalar of REINQ: LEN in bits 39:0, the rights in bits 63:60 (13 R264). -/
def lenRights (r : Quad) : Word := BitVec.ofNat 64 (rLen r + rRights r * 2 ^ 60)

/-- REINQ (04 R86, 13 R265): with HV = 0 the token's rein moves into H. T0 takes BASE, T1 LEN with rights. -/
def reinqPlan (f : FmtM) (c : Fx) : Plan :=
  let r := srcRein c f
  match tagRes c.t c.tag c.h.tagop.toNat with
  | .wait => .wait
  | .fault e => .fault 64 0x10 0 (BitVec.ofNat 64 e)
  | .ok tg cl => .act 64 (.all [ takeClaim c.tid c.n c.ut cl, reinDone c f,
      Prog.when (f.hv = 0) (putRein c f f.hreg.toNat r false),
      emitTo c.n c.ut c.q c.tag c.h.t0 (mkTok tg (.scalar (BitVec.ofNat 64 (rBase r))) false),
      emitTo c.n c.ut c.q c.tag c.h.t1 (mkTok tg (.scalar (lenRights r)) false) ])

/-- REINSEND (13 R267): to a port within the task, or to a rein input of another task, which needs SEND. -/
def reinsendPlan (f : FmtM) (c : Fx) : Plan :=
  let r := srcRein c f
  let d := optScalar c.r
  let clear := Prog.when (f.hv = 1) (putRein c f f.hreg.toNat 0 true)
  if c.h.t0 = 0 then
    if !bit r 99 || !(field d 35 29 = 0) then reinWiden c
    else .act 64 (.all [ reinDone c f, clear, addAct c.n c.ut c.q c.tag (.reinTo (field d 0 32) (field d 32 3) r) ])
  else match tagRes c.t c.tag c.h.tagop.toNat with
    | .wait => .wait
    | .fault e => .fault 64 0x10 0 (BitVec.ofNat 64 e)
    | .ok tg cl => .act 64 (.all [ takeClaim c.tid c.n c.ut cl, reinDone c f, clear,
        emitTo c.n c.ut c.q c.tag c.h.t0 { mkTok tg (vecData (reinVec r) 0xFFFF) false with rein := true } ])

/-- REINMK (13 R264). -/
def execReinmk (f : FmtM) (s : State) := memForm (.reinmk f) f false (fun c _ => reinmkPlan f c) s
/-- REINDUP (13 R264). -/
def execReindup (f : FmtM) (s : State) := memForm (.reindup f) f false (fun c _ => reindupPlan f c) s
/-- REINSPL (13 R264). -/
def execReinspl (f : FmtM) (s : State) := memForm (.reinspl f) f false (fun c _ => reinsplPlan f c) s
/-- REINNAR (13 R264). -/
def execReinnar (f : FmtM) (s : State) := memForm (.reinnar f) f false (fun c _ => reinnarPlan f c) s
/-- REINDROP (13 R264). -/
def execReindrop (f : FmtM) (s : State) := memForm (.reindrop f) f false (fun c _ => reindropPlan f c) s
/-- REINQ (13 R264). -/
def execReinq (f : FmtM) (s : State) := memForm (.reinq f) f false (fun c _ => reinqPlan f c) s
/-- REINSEND (13 R264). -/
def execReinsend (f : FmtM) (s : State) := memForm (.reinsend f) f false (fun c _ => reinsendPlan f c) s

end Sys2Proof.Machine
end

