-- ==== Sys2Proof/Machine/CommitCheck.lean ====
section
/-! DEFINITION. The first step of a commit (01 R18–R20, R32; 11 R224–R227; 12 R235–R241; 23 R382): completeness, the checks, the waits. -/

namespace Sys2Proof.Machine
open Sys2Proof.Bits

/-! ## Completeness (01 R18) -/

/-- Whether every valid register write of the header has its value, a null, or is marked as deferred: the mark alone meets it (01 R18). -/
def writesMet (m : Mapped) (u : CUnit) : Bool :=
  (hWrites m.blk).all fun w => w.defer || u.acts.any fun a => match a.act with
    | .regWrite r _ _ => r == regIndex w.plane w.reg
    | _ => false

/-- Whether the tokens that wait at a place belong to a commit unit: in a loop-resident block by their tag; in a plain block when they bear
the block's tag or one of them was made by the block. -/
def placeOf (nd : Node) (m : Mapped) (u : CUnit) (x : Nat × Tag) : Bool :=
  decide (x.2 = u.tag) ||
  (!m.loop && [1, 2, 3].any fun slot => match nd.waiting x.1 slot x.2 with
    | some t => t.inner.isSome
    | none => false)

/-- Whether an instruction of the unit has all its operands and has not fired: the execute phase is not over (01 R17, R25; DEDUCED, log 60). -/
def firingsLeft (nd : Node) (m : Mapped) (u : CUnit) : Bool :=
  nd.places.any fun x => placeOf nd m u x && match m.blk.instr x.1 with
    | some i => nd.allThere i x.1 x.2
    | none => false

/-- Whether a commit unit is complete. A load that a NULLST has nulled still emits its null token when it returns, so a unit waits
for it (13 R255). -/
def unitDone (nd : Node) (m : Mapped) (u : CUnit) : Bool :=
  u.exit.isSome && (List.range (hNmem m.blk)).all (fun k => (u.lsid k).resolved) && writesMet m u &&
    !(nd.loads.any fun l => l.unit == u.tag) && !firingsLeft nd m u

/-- The unit that BLOCK_COMMIT may commit: the block's own, or in a loop-resident block the colour's next iteration (01 R20). -/
def unitOf (t : Task) (n : Nat) (nd : Node) (m : Mapped) (colour : Nat) : Tag :=
  if m.loop then mkTag colour (commitPoint t colour n m.blk.pc) else ctagOf nd m

/-- Whether an exit continues the loop of its block (01 R20). -/
def continues (m : Mapped) (e : ExitTaken) : Bool :=
  m.loop && Instr.isOpc e.form [0, 1] && decide (exitPc m.blk.pc e = (m.blk.pc, none))

/-! ## Tokens that a commit itself emits -/

/-- An emission of a commit, before its TAGOP: the instruction, the tag of its firing, its header, its tag, data and null mark. -/
structure CEmit where
  q : Nat
  ftag : Tag
  h : Hdr
  tag : Tag
  data : TokData
  null : Bool
  deriving DecidableEq, Repr

/-- Take a claim on a task's frames (08 R163). -/
def claimFrames (t : Task) : Option Claim → Task
  | some (.slot c j) => t.onFrame c fun f => { f with
      live := f.live ++ [j]
      free := f.free - 1 }
  | _ => t

/-- The emissions with their final tags and claims, or what stops them. -/
inductive Tagged where
  | ok (l : List (CEmit × Tag)) (cl : List Claim) (t : Task)
  | wait
  | fault (q : Nat) (tag : Tag) (reason : Nat)

/-- Apply the TAGOPs one after the other. -/
def tagEmits (t : Task) (es : List CEmit) : Tagged :=
  es.foldl (fun acc e => match acc with
    | .ok l cl t => (match tagRes t e.tag e.h.tagop.toNat with
      | .ok tg c => .ok (l ++ [(e, tg)]) (cl ++ c.toList) (claimFrames t c)
      | .wait => .wait
      | .fault r => .fault e.q e.ftag r)
    | x => x) (.ok [] [] t)

/-- What one target makes of a token at commit: a token for the block, or an action. -/
inductive AtTarget where
  | arrive (q slot : Nat) (tok : Tok)
  | act (a : Act)

/-- A token and one target of its producer (07 R129). -/
def atTarget (t : BitVec 12) (tok : Tok) : Option AtTarget :=
  let slot := field t 10 2
  let idx := field t 0 7
  if slot = 0 then none
  else match field t 7 3 with
    | 0 => some (.arrive idx slot tok)
    | 1 => some (.act (.regWrite idx tok.data tok.null))
    | 2 => some (.act (.out idx tok))
    | 3 => some (.act (.engine idx tok))
    | _ => some (.act (.deposit (idx / 4) (idx % 4) slot tok))

/-- The targets' shares of an emission. -/
def emitShares (e : CEmit × Tag) : List AtTarget :=
  let tok := mkTok e.2 e.1.data e.1.null
  [atTarget e.1.h.t0 tok, atTarget e.1.h.t1 tok].filterMap id

/-! ## The ordered stream forms (11 R225, R227) -/

/-- The streams, the raised flags and the emissions after a unit's stream actions, or a trap. -/
structure StreamRun where
  sts : List StreamSt
  fp : Num.Flags
  jet : Word
  emits : List CEmit
  trap : Option (Nat × Tag × Word)

/-- Run a unit's stream actions in ascending index on the state that the node holds for the block. -/
def runStreams (nd : Node) (m : Mapped) (u : CUnit) : StreamRun :=
  (sortBy (fun (a : PAct) => a.q) u.acts).foldl (fun (r : StreamRun) a => match a.act, m.blk.instr a.q with
    | .stream x p, some i =>
      let c := tagColour a.tag
      let e := streamEff i m.snap.jord m.snap.rmode a.tag (streamCol r.sts a.q c) x p
      let trap := if r.trap.isNone && traps i.hdr e.fls then some (a.q, a.tag, trapInfo (i.hdr.plane = 2) e.fls) else r.trap
      { sts := setStream r.sts a.q c e.col
        fp := if i.hdr.plane = 2 then r.fp else r.fp ||| orFlags (e.fls.map fun f => f.2.2)
        jet := if i.hdr.plane = 2 then r.jet ||| jflagBits e.fls else r.jet
        emits := r.emits ++ e.out.map fun o => ⟨a.q, a.tag, i.hdr, o.tag, o.data, o.null⟩
        trap := trap }
    | _, _ => r) ⟨nd.streamsAt m.blk.pc, 0, 0, [], none⟩

/-- Put an emission's actions in the place of the action that made it; in-block tokens are listed apart. -/
def spliceActs (acts : List PAct) (es : List (CEmit × Tag)) (isSrc : Act → Bool) : List PAct :=
  acts.flatMap fun a => if isSrc a.act then
      a :: (es.filter fun e => e.1.q == a.q && e.1.ftag == a.tag).flatMap fun e => (emitShares e).filterMap fun x => match x with
        | .act b => some ⟨a.q, a.tag, b⟩
        | .arrive _ _ _ => none
    else [a]

/-- The tokens that a commit's emissions bring to the block itself. -/
def emitArrivals (es : List (CEmit × Tag)) : List (Nat × Nat × Tok) :=
  es.flatMap fun e => (emitShares e).filterMap fun x => match x with
    | .arrive q slot tok => some (q, slot, tok)
    | .act _ => none

/-! ## The provisional-write budget (03 R73, 23 R382) -/

/-- The lines that a store-like operation makes provisional; RECLAIM makes none. -/
def provOf : StoreOp → List Nat
  | .reclaim _ _ => []
  | op => op.lines

/-- The lines that a task's committed blocks have made provisional, or will when their stores are performed. -/
def heldLines (s : State) (tid : Nat) (t : Task) : List Nat :=
  let ofNode := fun (nd : Node) => nd.wq.flatMap fun w => match w with
    | .store op _ _ _ => provOf op
    | _ => []
  distinct (provLines s t.owner ++ (s.nodes.flatMap fun e => if e.2.task = some tid then ofNode e.2 else []) ++
    t.savedNodes.flatMap fun e => ofNode e.2)

/-- The lines that a unit's actions would add. -/
def unitLines (acts : List PAct) : List Nat :=
  acts.flatMap fun a => match a.act with
    | .store _ _ _ op => provOf op
    | .hub (.qpop _ _ pa) _ => [lineOf pa]
    | _ => []

/-- PBUDGET of a task (01 R34). -/
def pbudget (t : Task) : Nat := recField t.trec 2 32 32

/-! ## Engine queues (15 R296) -/

/-- The queue that a card joins on its die: a copy channel, a gather engine, a base die, the collective engine; MIRROR has none. -/
def cardQueue (cls chan : Nat) : Option (Nat × Nat) :=
  if cls = 0 || cls = 1 || cls = 3 then some (cls, chan) else if cls = 2 then some (2, 0) else none

/-- The die of a card's engine: the collective engine is one for the whole package (01 R13, 14 R279), and stands for die 4. -/
def Card.site (c : Card) : Nat := if c.cls = 2 then 4 else c.die

/-- The cards of a partition that stand in a queue of a die, or of the package. -/
def queueUse (s : State) (die : Nat) (k : Nat × Nat) (extra : Nat → Nat) (p : Nat) : Nat :=
  (s.cards.filter fun c => (c.site == die || c.cls == 2) && !c.st.final && cardQueue c.cls c.chan == some k && (match s.task c.task with
    | some t => t.part = p
    | none => false)).length + extra p

/-- The cards of a unit's actions, each with its place among them, in the order in which they join their queues: those of issuing forms in ascending
index (14 R270), then those that came by engine ports, in the order in which their producers fired (01 R19). -/
def cardActs (acts : List PAct) : List (PAct × Nat) :=
  sortBy (fun (e : PAct × Nat) => e.1.q) (acts.zipIdx.filter fun e => match e.1.act with
    | .card _ _ _ _ _ _ _ => true
    | _ => false) ++ acts.zipIdx.filter fun e => match e.1.act with
    | .engine _ tok => !tok.null
    | _ => false

/-- Class and channel of every card that the actions issue, in that order. -/
def issues (acts : List PAct) : List (Nat × Nat) :=
  (cardActs acts).filterMap fun e => match e.1.act with
    | .card cls ch _ _ _ _ _ => some (cls, ch)
    | .engine cls tok => some (cls, field (cw (cardWords (tok.beat 0)) 7) 26 6)
    | _ => none

/-- Whether every card finds a place. -/
def cardsFit (s : State) (die p : Nat) (l : List (Nat × Nat)) : Bool :=
  l.zipIdx.all fun e => match cardQueue e.1.1 e.1.2 with
    | none => true
    | some k =>
      let mine := ((l.take e.2).filter fun x => cardQueue x.1 x.2 == some k).length
      poolFree s 32 (queueUse s die k fun q => if q = p then mine else 0) (fun q => (s.part q).cardMin) none p

/-! ## The judgement (01 R19) -/

/-- A unit that may commit: everything that its effects need. -/
structure Commit where
  n : Nat
  tid : Nat
  t : Task
  m : Mapped
  u : CUnit
  acts : List PAct
  arrivals : List (Nat × Nat × Tok)
  claims : List Claim
  sts : List StreamSt
  mat : MatRun
  fp : BitVec 5
  jet : Word
  exit : ExitTaken
  ends : Bool

/-- What the first step of a commit finds. -/
inductive Judge where
  | notThere
  | wait
  | fault (f : FaultRec)
  | ok (c : Commit)

/-- The fault with the lowest index, then the lowest tag (22 R362). -/
def firstFault (l : List (Nat × Tag × Nat × Word)) : Option (Nat × Tag × Nat × Word) :=
  (sortBy (fun (x : Nat × Tag × Nat × Word) => x.1 * 2 ^ 20 + x.2.1.toNat) l).head?

/-- Whether a register waits for a deferred value that is still outstanding (01 R32). -/
def defWaits (nd : Node) (m : Mapped) (acts : List PAct) : Bool :=
  acts.any fun a => match a.act with
    | .regWrite r v null => !null && !((hWrites m.blk).any fun w => w.defer && regIndex w.plane w.reg == r) &&
        (List.range (match v with
          | .beats bs _ => if bs.length = 0 then 1 else bs.length
          | .scalar _ => 1)).any fun j => nd.defs.any fun d => d.reg == r + j
    | .putg r _ => nd.defs.any fun d => d.reg == r
    | _ => false

/-- The accumulator actions' input and the source of an MMAT's emission. -/
def isMmat : Act → Bool
  | .mmat _ _ _ _ _ _ _ => true
  | _ => false
/-- The source of an ordered form's emission. -/
def isStreamAct : Act → Bool
  | .stream _ _ => true
  | _ => false

/-- Judge the commit of unit `ut` (01 R19). -/
def judgeUnit (s : State) (n tid : Nat) (t : Task) (m : Mapped) (u : CUnit) (e : ExitTaken) : Judge :=
  let nd := s.node n
  let mk := fun (code place : Nat) (tag : Tag) (info : Word) => Judge.fault ⟨code, place, m.blk.pc, tag, 0, info⟩
  let sr := runStreams nd m u
  match tagEmits t sr.emits with
  | .wait => .wait
  | tg =>
    let (ses, cl, t1) := match tg with
      | .ok l c t1 => (l, c, t1)
      | _ => ([], [], t)
    let acts := spliceActs u.acts ses isStreamAct
    let mr := matActs nd acts
    let ends := m.loop && !continues m e
    let faults := (match sr.trap with
        | some x => [(x.1, x.2.1, 0x20, x.2.2)]
        | none => []) ++ (match tg with
        | .fault q g r => [(q, g, 0x10, BitVec.ofNat 64 r)]
        | _ => []) ++ (match mr with
        | .error x => [(x.1, x.2.1, x.2.2.1, x.2.2.2)]
        | .ok _ => []) ++ (match sr.sts with
        | x :: _ => if ends then [(x.q, u.tag, 0x10, BitVec.ofNat 64 (0x0C + x.q % 256 * 256))] else []
        | [] => [])
    match firstFault faults, mr with
    | some f, _ => mk f.2.2.1 f.1 f.2.1 f.2.2.2
    | none, .error _ => .wait
    | none, .ok mat =>
      match tagEmits t1 (mat.emits.map fun x => ⟨x.1, x.2.1, x.2.2.1, x.2.1, x.2.2.2, false⟩) with
      | .wait => .wait
      | .fault q g r => mk 0x10 q g (BitVec.ofNat 64 r)
      | .ok mes cl2 _ =>
        let acts := spliceActs acts mes isMmat
        let held := heldLines s tid t
        let all := distinct (held ++ unitLines acts)
        if held.length < all.length && pbudget t < all.length then mk 0x33 0x7E u.tag (BitVec.ofNat 64 (held.length % 2 ^ 32))
        else if defWaits nd m acts || !cardsFit s (nodeDie n) t.part (issues acts) || acts.any (fun a => match a.act with
            | .hub r _ => hubWaits s nd t.owner r
            | _ => false) then .wait
        else .ok { n := n, tid := tid, t := t, m := m, u := u, acts := acts
                   arrivals := emitArrivals (ses ++ mes)
                   claims := cl ++ cl2
                   sts := sr.sts
                   mat := mat
                   fp := u.fpFlags ||| sr.fp ||| mat.fp
                   jet := u.jFlags ||| sr.jet ||| mat.jet
                   exit := e
                   ends := ends }

/-- Whether a fault found in the block lets a unit go on: none has been found, or the unit was complete by then (22 R362). -/
def Mapped.spares (m : Mapped) (ut : Tag) : Bool := m.faults = [] || (m.loop && m.under.any fun u => u.2.contains ut)

/-- Judge BLOCK_COMMIT at a node. -/
def judge (s : State) (n colour : Nat) : Judge :=
  let nd := s.node n
  match nd.cur, nd.task, s.taskOf n with
  | some m, some tid, some t =>
    let u := m.unit (unitOf t n nd m colour)
    (match u.exit with
     | some e => if unitDone nd m u && m.spares u.tag then judgeUnit s n tid t m u e else .notThere
     | none => .notThere)
  | _, _, _ => .notThere

/-- Whether a judgement lets the unit commit or fail. -/
def Judge.due : Judge → Bool
  | .ok _ | .fault _ => true
  | _ => false

/-! ## What every step notes of the mapped blocks (01 R20, 22 R362) -/

/-- The units of a loop-resident block that are ready to commit: one for each colour. -/
def readyUnits (s : State) (n : Nat) (t : Task) (nd : Node) (m : Mapped) : List Tag :=
  (distinct (m.units.map fun u => tagColour u.tag)).filterMap fun c => if (judge s n c).due then some (unitOf t n nd m c) else none

/-- The mapped block with its ready units in the order in which they have become ready, and, where a fault has been found, what was under way. -/
def Mapped.noted (s : State) (n : Nat) (t : Task) (nd : Node) (m : Mapped) : Mapped :=
  let now := if m.loop then readyUnits s n t nd m else []
  { m with
    ready := m.ready.filter now.contains ++ now.filter fun u => !m.ready.contains u
    under := if m.faults = [] || m.under.isSome then m.under else some
      (nd.places.filter (fun x => match m.blk.instr x.1 with
         | some i => nd.allThere i x.1 x.2
         | none => false),
       if m.loop then (m.units.filter fun u => unitDone nd m u && !(m.faults.any fun f => f.tag == u.tag)).map fun u => u.tag else []) }

/-- Note it of every node. -/
def noteBlocks : Prog :=
  .ask fun s => Prog.each s.nodes fun e => match e.2.cur, s.taskOf e.1 with
    | some m, some t =>
      let x := m.noted s e.1 t e.2
      Prog.when (!(x.ready == m.ready && x.under == m.under)) (.upd (.node e.1 fun nd => { nd with cur := some x }))
    | _, _ => .skip

/-- Whether a colour's unit is the next to commit: in a loop-resident block the first that became ready (01 R20). -/
def readyFirst (s : State) (n colour : Nat) : Bool :=
  match (s.node n).cur, s.taskOf n with
  | some m, some t => !m.loop || m.ready.head?.all fun x => x == unitOf t n (s.node n) m colour
  | _, _ => true

/-- Whether the faults of a mapped block can be settled: nothing that was complete has still to commit (22 R362). -/
def settleReady (s : State) (n : Nat) : Bool :=
  match (s.node n).cur with
  | some m => !(m.faults = []) && (match m.under with
      | some u => u.2.all fun ut => (match judge s n (tagColour ut) with
          | .notThere => true
          | _ => false)
      | none => false)
  | none => false

end Sys2Proof.Machine
end

