-- ==== Sys2Proof/Machine/Commit.lean ====
section
/-! DEFINITION. The second step of a commit (01 R19, R20, R29–R32; 05 R94; 08 R154, R158, R166–R170; 14 R270, R273, R275; 24 R396). -/

namespace Sys2Proof.Machine
open Sys2Proof.Bits

/-! ## Registers (08 R169; 01 R29, R31) -/

/-- Mark a register empty. -/
def Node.emptyReg (nd : Node) (r : Nat) : Node :=
  if r < 64 then { nd with s := Sparse.upd SReg.reset nd.s r fun x => { x with full := false } }
  else { nd with v := Sparse.upd VReg.reset nd.v (r - 64) fun x => { x with full := false } }

/-- Write a register and set it full; a V register takes all 16 lanes, a jet group one register for each beat. -/
def Node.writeReg (nd : Node) (r : Nat) (d : TokData) : Node :=
  match d with
  | .scalar w =>
    if r < 64 then { nd with s := Sparse.put SReg.reset nd.s r ⟨w, true, true⟩ }
    else { nd with v := Sparse.put VReg.reset nd.v (r - 64) ⟨Vec.fill (w.setWidth 32), true, true⟩ }
  | .beats bs _ =>
    if r < 64 then { nd with s := Sparse.put SReg.reset nd.s r ⟨(Vec.lane (bs.getD 0 []) 0).setWidth 64, true, true⟩ }
    else { nd with v := bs.zipIdx.foldl (fun v b => Sparse.put VReg.reset v (r - 64 + b.2) ⟨Vec.mk fun k => Vec.lane b.1 k, true, true⟩) nd.v }

/-- Write a predicate register (08 R170). -/
def Node.writeP (nd : Node) (k : Nat) (d : TokData) : Node :=
  { nd with p := Sparse.put 0 nd.p k (match d with
    | .scalar w => if w.getLsbD 0 then 0xFFFF else 0
    | .beats bs m => maskOf fun l => m.getLsbD l && (Vec.lane (bs.getD 0 []) l).getLsbD 0) }

/-- Whether a header entry defers the write of a register. -/
def defers (m : Mapped) (r : Nat) : Bool := (hWrites m.blk).any fun w => w.defer && regIndex w.plane w.reg == r

/-- The deferred writes that the actions issue, numbered from `base` on (01 R31): action number, register, and the value where the
producer, a load, has it already. A deferred entry whose producer has not fired when its unit commits issues none, and its register stays as it is
(DESIGN CHOICE, log 86). -/
def deferred (m : Mapped) (base : Nat) (acts : List PAct) : List (Nat × PendDef) :=
  acts.zipIdx.filterMap fun e =>
    let mk := fun (r : Nat) (v : Option TokData) => some (e.2, (⟨r, base + e.2, v⟩ : PendDef))
    match e.1.act with
    | .regWrite r v null => if !null && defers m r then mk r (some v) else none
    | .store _ _ _ (.rmw _ _ (some d)) => mk d.reg none
    | .store _ _ _ (.stv _ _ _ (some d)) => mk d.reg none
    | .hub _ (some d) => mk d.reg none
    | .card _ _ _ _ _ t0 _ => if !(field t0 10 2 = 0) && field t0 7 3 = 1 then mk (field t0 0 7) none else none
    | _ => none

/-- The register actions of a unit in the order of 08 R169. -/
def commitRegs (c : Commit) (base : Nat) (nd : Node) : Node :=
  let empties := (if c.m.loop then [] else c.m.takes) ++ c.acts.filterMap fun a => match a.act with
    | .empty r => some r
    | _ => none
  let nd := empties.foldl Node.emptyReg nd
  let nd := c.acts.foldl (fun nd a => match a.act with
    | .regWrite r v null => if null || defers c.m r then nd else nd.writeReg r v
    | .putg r v => if r < 96 then nd.writeReg r v else nd.writeP (r - 96) v
    | _ => nd) nd
  (deferred c.m base c.acts).foldl (fun nd d => { nd.emptyReg d.2.reg with
    defs := nd.defs ++ [{ d.2 with val := none }] }) nd

/-! ## Control registers (07 R147, R151; 02 R49, R55, R56) -/

/-- Write a control register; "—" bits stay zero. -/
def Node.writeCsr (nd : Node) (csr : Nat) (w : Word) : Node :=
  let fs := nd.fs
  if csr = 0x10 then { nd with fpstat := w &&& 0x1F }
  else if csr = 0x11 then { nd with jflags := w &&& ~~~jflagsDash }
  else if csr = 0x12 then (if field w 0 3 ≤ 4 then { nd with rmode := w &&& 7 } else nd)
  else if csr = 0x13 then { nd with jord := field w 0 3 }
  else if csr = 0x14 then { nd with rngkey := w }
  else if csr = 0x8000 then { nd with fs := { fs with code := w &&& 0x8000_0000_00FF_FFFF } }
  else if csr = 0x8001 then { nd with fs := { fs with pc := (w.extractLsb' 0 58).setWidth 64 } }
  else if csr = 0x8002 then { nd with fs := { fs with tag := (w.extractLsb' 0 20).setWidth 64 } }
  else if csr = 0x8003 then { nd with fs := { fs with addr := w } }
  else if csr = 0x8004 then { nd with fs := { fs with info := w } }
  else if csr = 0x8007 then { nd with fs := { fs with pend := w.getLsbD 0 } }
  else nd

/-- The control registers after a commit: written values first, then the unit's flags (07 R151, 10 R215). -/
def commitCsrs (c : Commit) (nd : Node) : Node :=
  let nd := c.acts.foldl (fun nd a => match a.act with
    | .csrwr r w => nd.writeCsr r w
    | .jordSet k => { nd with jord := k % 8 }
    | .jflagClr m => { nd with jflags := nd.jflags &&& ~~~m }
    | _ => nd) nd
  { nd with
    fpstat := nd.fpstat ||| c.fp.setWidth 64
    jflags := nd.jflags ||| c.jet }

/-! ## The commit stream (05 R93, R94) -/

/-- A store-like operation with the number of its deferred result. -/
def StoreOp.number (id : Nat) : StoreOp → StoreOp
  | .rmw e f (some d) => .rmw e f (some { d with id := id })
  | .stv e x dl (some d) => .stv e x dl (some { d with id := id })
  | op => op

/-- Whether a fence of the unit with a lower LSID orders a store-like behind lower ones (13 R248 rule 3): ORD 00, 10 or 11, at a scope that `ok` admits. -/
def fenced (m : Mapped) (u : CUnit) (lsid : Nat) (ok : BitVec 3 → Bool) : Bool :=
  m.blk.ins.any fun w => match decode w with
    | .ok j => (match holder j with
      | some g => j.opc = 0x18B && !(g.ord = 1) && g.lsid.toNat < lsid && ok g.scope && !(u.lsid g.lsid.toNat = .nulled)
      | none => false)
    | .error _ => false

/-- The widest scope of the unit's fences with a higher LSID that satisfy `ok`: they order later blocks' operations behind the store-like (05 R101). -/
def fencedBy (m : Mapped) (u : CUnit) (lsid : Nat) (ok : FmtM → Bool) : Option Nat :=
  m.holders.foldl (fun acc j => match holder j.1 with
    | some g => if j.1.opc = 0x18B && lsid < j.2 && ok g && !(u.lsid j.2 = .nulled) then some (match acc with
        | some x => if x < g.scope.toNat then g.scope.toNat else x
        | none => g.scope.toNat) else acc
    | none => acc) none

/-- Whether a store-like reads as well: a FENCE with ORD 01 orders later operations behind it (05 R101). -/
def StoreOp.reads : StoreOp → Bool
  | .rmw _ _ _ => true
  | _ => false

/-- The stores of a unit in ascending LSID, as items of the commit stream; `reserve` says of a colour whether its draws are the reserve's. -/
def unitStores (m : Mapped) (u : CUnit) (base : Nat) (reserve : Nat → Bool) (acts : List PAct) : List (Nat × WItem) :=
  (sortBy (fun (e : PAct × Nat) => match e.1.act with
      | .store l _ _ _ => l
      | _ => 0) (acts.zipIdx.filter fun e => match e.1.act with
      | .store _ _ _ _ => true
      | _ => false)).filterMap fun e => match e.1.act with
    | .store l o sc op => some (l, .store (op.number (base + e.2)) o sc {
        order := base
        q := e.1.q
        tag := e.1.tag
        pc := m.blk.pc
        far := fenced m u l fun sc => sc = 5
        ldHold := fencedBy m u l fun g => g.ord = 0 || g.ord = 3 || (g.ord = 1 && op.reads)
        stHold := fencedBy m u l fun g => !(g.ord = 1) || op.reads
        reserve := reserve (tagColour e.1.tag) })
    | _ => none

/-- Whether a scratchpad store takes effect at the commit itself (03 R66, 05 R91): no fence and no acquire at quad scope or wider, of its own block or
of an earlier one, orders it behind an item that is still to be performed (05 R92, R101, R102), and no scratchpad store of its node waits before it. -/
def padNow (m : Mapped) (u : CUnit) (lsid : Nat) (before : List WItem) : Bool :=
  !(before.any fun w => match w with
    | .store (.scratch _) _ _ _ => true
    | .store _ _ _ b => fenced m u lsid (fun sc => !(sc = 0)) || b.stHold.any fun sc => !(sc = 0)
    | _ => false) && !(before.any fun w => w.acquire.any fun sc => !(sc = 0))

/-- The stores of a unit: those that join the commit stream, and the scratchpad stores that take effect at once; `wq` is what stands in the
stream already, `late` says that a fence or an acquire at domain scope waits for other packages. -/
def commitStores (m : Mapped) (u : CUnit) (base : Nat) (reserve : Nat → Bool) (acts : List PAct) (wq : List WItem) (late : Bool) :
    List WItem × List (Nat × List Byte) :=
  (unitStores m u base reserve acts).foldl (fun acc e => match e.2 with
    | .store (.scratch es) _ _ b => if padNow m u e.1 (wq ++ acc.1) && !late && !b.far then (acc.1, acc.2 ++ es) else (acc.1 ++ [e.2], acc.2)
    | w => (acc.1 ++ [w], acc.2)) ([], [])

/-- The place of a firing in the order in which the instructions of a unit fired. -/
def CUnit.firedAt (u : CUnit) (q : Nat) (tag : Tag) : Nat := (u.fired.findIdx? fun f => f.q == q && f.tag == tag).getD u.fired.length

/-- The tokens that leave by ports, in the order in which their producers fired (01 R19): a load's token too, which its return made. -/
def commitOuts (u : CUnit) (pc : BitVec 58) (base : Nat) (reserve : Nat → Bool) (acts : List PAct) : List WItem :=
  (sortBy (fun (a : PAct) => u.firedAt a.q a.tag) acts).filterMap fun a => match a.act with
    | .out p tok => some (.out p tok { Issued.plain base a.q a.tag pc with reserve := reserve (tagColour a.tag) })
    | _ => none

/-- What the node's L1 does with a store of its own (13 R251, 03 R72). -/
def l1After (nd : Node) : WItem → Node
  | .store (.bytes es loc) _ _ _ =>
    if loc = 1 then es.foldl (fun nd e => nd.l1Drop (lineOf e.1.pa)) nd else es.foldl (fun nd e => nd.l1Store e.1.pa e.2) nd
  | .store (.rmw e _ _) _ _ _ => nd.l1Drop (lineOf e.pa)
  | .store (.stv e _ _ _) _ _ _ => nd.l1Drop (lineOf e.pa)
  | _ => nd

/-! ## The head of the commit stream (05 R94) -/

/-- The section of quad `q`'s scratchpad in the context area of a task (15 R308). -/
def padSection (t : Task) (q : Nat) : Nat := (t.trec.getD 4 0).toNat + 2 ^ 18 + t.img.width * t.img.height / 2 * 2 ^ 20 + q * 0xC0000

/-- Write a byte of a task's context area. -/
def ctxWrite (t : Task) (va : Nat) (b : Byte) : Prog :=
  .ask fun s => match walk s t.asid va with
    | .entry w => devWrite (entryPa w va) [b]
    | .fault => .skip

/-- One byte of a scratchpad store of a saved node: it reaches the saved section of its tile where that has been saved, else the quad. -/
def savedPadByte (t : Task) (m off : Nat) (b : Byte) : Prog :=
  let w := t.img.width / 2
  let q := m / w / 2 * (t.img.width / 4) + m % w / 2
  if t.savedTiles.contains (4 * q + off / 2 ^ 18) then ctxWrite t (padSection t q + off) b
  else .upd (.pad (nodeQuad (nodeOfM t m) * 2 ^ 20 + off) b)

/-- Scratchpad stores of a node, or of a saved node (05 R91, 15 R308). -/
def padStore (r : Nat) (es : List (Nat × List Byte)) : Prog :=
  if r < 2048 then Prog.each es fun e => Prog.each e.2.zipIdx fun x => .upd (.pad (nodeQuad r * 2 ^ 20 + e.1 + x.2) x.1)
  else .ask fun s => match s.task (r / 2048) with
    | none => .skip
    | some t => Prog.each es fun e => Prog.each e.2.zipIdx fun x => savedPadByte t (r % 2048) (e.1 + x.2) x.1

/-- What node number `m` of a task still waits for in other packages, before a token, a card or a scratchpad store behind it may go: a write before a
FENCE at domain scope, an acquire at that scope (05 R92, R101). -/
def headWaits (s : State) (tid m : Nat) : Bool := farWait s tid m fun w => w.acq || w.holdsWrites

/-- Whether the item at the head of a commit stream may go though no store lies before it (05 R94, R101; 13 R248 rule 3). -/
def headGoes (s : State) (tid m : Nat) : WItem → Bool
  | .store (.scratch _) _ _ b => !headWaits s tid m && !(b.far && farWait s tid m fun _ => true)
  | .store _ _ _ _ => false
  | _ => !headWaits s tid m

/-- `headGoes` for the node or saved node that a reference names. -/
def refGoes (s : State) (r : Nat) (w : WItem) : Bool :=
  match refTask s r with
  | some tid => headGoes s tid (((s.task tid).map fun t => refM t r).getD 0) w
  | none => true

/-- Let go of what stands at the head of the commit stream and no store lies before (05 R94): tokens leave, cards may start. -/
def releaseHead (n : Nat) : Nat → Prog
  | 0 => .skip
  | k + 1 => .ask fun s => match (s.node n).wq with
    | [] => .skip
    | w :: _ => Prog.when (refGoes s n w) (.all [ .upd (.node n fun nd => { nd with wq := nd.wq.drop 1 }),
        (match w with
         | .out p tok b => leaveBy n p tok b
         | .card j => enterCard j
         | .store (.scratch es) _ _ _ => padStore n es
         | _ => .skip), releaseHead n k ])

/-- Release every item at the head of a node's commit stream. -/
def releaseStream (n : Nat) : Prog := .ask fun s => releaseHead n (s.node n).wq.length

/-! ## Cards (14 R270, R273, R275) -/

/-- Whether a card's regions keep within its reins (04 R85): the rein registers as they stand after the commit. -/
def reinsAllow (s : State) (asid : Nat) (nd : Node) (cls : Nat) (ws : CardWords) : Bool :=
  (checkedRegions cls ws).all fun r =>
    if r.write then !(cardHvd ws) || reinOk s asid (nd.hreg (cardHd ws)) r.base r.len false true
    else !(cardHvs ws) || reinOk s asid (nd.hreg (cardHs ws)) r.base r.len true false

/-- Whether a card that came by an engine port is one that an issuing form would take (14 R275). -/
def portCardOk (cls chan : Nat) (flags : BitVec 8) (ws : CardWords) : Bool :=
  cls ≤ 4 && chan ≤ channelMax cls && flags.toNat ≤ (if cls = 2 || cls = 4 then 1 else 3) && wordsOk cls ws

/-- Accept a card (14 R270): its regions are checked, and it joins its queue behind the node's stores. -/
def acceptCard (n tid : Nat) (by_ : PAct) (pc : BitVec 58) (cls chan : Nat) (flags : BitVec 8) (seq : Nat) (ws : CardWords) (t0 : BitVec 12) (tag : Tag) (wb : Option Defer)
    (port cancelled : Bool) : Prog :=
  .ask fun s => match s.task tid with
    | none => .skip
    | some t =>
      let nd := s.node n
      let src := reinAdd s t.asid (cardHvs ws) (nd.hreg (cardHs ws))
      let dst := reinAdd s t.asid (cardHvd ws) (nd.hreg (cardHd ws))
      let bad := if port && !(portCardOk cls chan flags ws && copyApart cls ws src dst) then some 2 else if !reinsAllow s t.asid nd cls ws then some 1 else none
      let st := if cancelled then CardSt.cancelled else match bad with
        | some _ => .failed
        | none => .queued
      let c : Card := {
        node := n
        m := nodeM t n
        q := by_.q
        ftag := by_.tag
        pc := pc
        seq := seq
        cls := cls
        chan := chan
        flags := flags
        words := ws
        task := tid
        owner := t.owner
        die := nodeDie n
        st := st
        fb := false
        ptr := 0
        reason := if cancelled then 0 else bad.getD 0
        nv := false
        step := 0
        src := src
        dst := dst
        accepted := s.tbase
        order := s.ctr
        t0 := t0
        tag := tag
        wb := wb
        finAt := if st.final then some s.ctr else none
        told := false
        held := none
        port := port
        entered := false }
      .all [ .upd .fresh, .upd (.cards fun l => l ++ [c]),
             .upd (.node n fun nd => { nd with wq := nd.wq ++ [.card s.cards.length] }) ]

/-- The cards of a unit join their queues; a card cancelled before its block committed is never started (14 R283). -/
def commitCards (c : Commit) (base : Nat) : Prog :=
  Prog.each (cardActs c.acts) fun e => match e.1.act with
    | .card cls ch fl seq ws t0 tag =>
      let d : Option Defer := if !(field t0 10 2 = 0) && field t0 7 3 = 1 then some ⟨c.tid, nodeM c.t c.n, field t0 0 7, base + e.2⟩ else none
      acceptCard c.n c.tid e.1 c.m.blk.pc cls ch fl seq ws t0 tag d false (c.acts.any fun a => decide (a.act = .cancel seq))
    | .engine cls tok => .ask fun s =>
        let ws := cardWords (tok.beat 0)
        .seq (.upd (.node c.n fun nd => { nd with cards := nd.cards + 1 }))
          (acceptCard c.n c.tid e.1 c.m.blk.pc cls (cf ws 7 26 6) (BitVec.ofNat 8 (cf ws 7 18 8)) (s.node c.n).cards ws 0 tok.tag none true false)
    | _ => .skip

/-! ## Exits, spawns, joins (08 R152–R158, R166, R167) -/

/-- The colours under which an activation has run, from the one that its handle names through its re-issues (24 R398). -/
def Task.names (t : Task) : Nat → Nat → List Nat
  | 0, c => [c]
  | k + 1, c => match (t.frame c).bind fun f => f.joinedAs with
    | some d => c :: t.names k d
    | none => [c]

/-- Whether the activation of a handle's colour has ended. -/
def Task.over (t : Task) (c : Nat) : Bool := ((t.names 3 c).getLast?.bind t.frame).all fun f => f.ended

/-- The joined colours whose activations have ended. -/
def Task.joinedOver (t : Task) : List Nat := (t.frames.filter fun f => f.2.joined && t.over f.1).map fun f => f.1

/-- Free the joined colours whose activations have ended; contexts wait for them no longer (08 R167). -/
def joinUp (tid : Nat) : Prog :=
  .ask fun s => match s.task tid with
    | none => .skip
    | some t =>
      .seq (Prog.each ((s.nodes.filter fun e => e.2.task == some tid).map fun e => e.1) fun n => .upd (.node n fun nd => { nd with
            ctxs := nd.ctxs.map fun x => (x.1, { x.2 with joins := x.2.joins.filter fun c => !t.over c }) }))
        (Prog.each (t.joinedOver.flatMap (t.names 3)) fun c => .upd (.task tid fun o => o.map (Task.release c)))

/-- What a taken exit does to its context (08 R158). -/
def commitExit (c : Commit) : Prog :=
  let k := c.m.blk.ctx
  let e := c.exit
  let setPc := fun (f : Ctx → Ctx) => Prog.upd (.node c.n fun nd => { nd with ctxs := Sparse.upd Ctx.reset nd.ctxs k f })
  let go := exitPc c.m.blk.pc e
  match e.form with
  | .br _ => setPc fun x => { x with
      pc := go.1
      wide := go.2 }
  | .bri _ => setPc fun x => { x with
      pc := go.1
      wide := go.2 }
  | .call _ => setPc fun x => { x with
      pc := go.1
      wide := go.2
      ctag := mkTag e.colour 0 }
  | .calli _ => setPc fun x => { x with
      pc := go.1
      wide := go.2
      ctag := mkTag e.colour 0 }
  | .ret _ => .ask fun s =>
    let ct := ((s.node c.n).ctx k).ctag
    (match (s.task c.tid).bind fun t => t.frame (tagColour ct) with
     | some f =>
       let done : Prog := .upd (.task c.tid fun o => o.map fun t => t.onFrame (tagColour ct) fun f => { f with ended := true })
       if f.kind = .call then .seq done (setPc fun x => { x with
         pc := f.ret
         wide := f.wide
         ctag := f.parent })
       else .all [ done, setPc fun _ => Ctx.reset, joinUp c.tid ]
     | none => setPc fun _ => Ctx.reset)
  | _ => setPc fun x => { x with st := .halted }

/-- SPAWN and JOIN at the commit (08 R166, R167). -/
def commitThreads (c : Commit) : Prog :=
  .seq (Prog.each c.acts fun a => match a.act with
    | .spawn k col entry wide => .upd (.node c.n fun nd => { nd with ctxs := Sparse.upd Ctx.reset nd.ctxs k fun _ => ⟨entry, mkTag col 0, .ready, wide, []⟩ })
    | .join col => .seq (.upd (.task c.tid fun o => o.map fun t => t.onFrame col fun f => { f with joined := true }))
        (.upd (.node c.n fun nd => { nd with ctxs := Sparse.upd Ctx.reset nd.ctxs c.m.blk.ctx fun x => { x with joins := x.joins ++ [col] } }))
    | _ => .skip) (joinUp c.tid)

/-! ## The colour table (24 R396; 01 R20) -/

/-- Whether a firing emitted: its gate did not fail. -/
def firedOpen (i : Instr) (ops : List (Nat × Tok)) : Bool :=
  if ops.any (fun o => o.2.null) || thirdData i || i.hdr.pmode = 0 then true
  else match ops.find? fun o => o.1 == 3 with
    | none => true
    | some p => if i.hdr.plane = 0 then gateScalar i.hdr.pmode (p.2.scalar.getLsbD 0) else !(gateLanes i.hdr.pmode p.2 = 0)

/-- Whether a request to the hub stores a record (14 R288). -/
def HubReq.stores : HubReq → Bool
  | .qpop _ _ _ => true
  | _ => false

/-- The colours whose ESC a unit sets (24 R396). -/
def escColours (c : Commit) : List Nat :=
  distinct ((c.acts.filterMap fun a =>
    let col := some (tagColour a.tag)
    match a.act with
    | .hub r d => if d.isSome || r.stores then col else none
    | .store _ _ _ _ | .cover _ | .reinTo _ _ _ | .card _ _ _ _ _ _ _ | .engine _ _ | .putg _ _ | .empty _ | .csrwr _ _ | .jordSet _
    | .jflagClr _ | .mmat _ _ _ _ _ _ _ | .deposit _ _ _ _ | .accClr _ | .accArm _ _ | .accRel _ | .mtrans _ => col
    | .regWrite _ _ null => if null then none else col
    | .out _ tok => if tagColour tok.tag = tagColour a.tag then none else col
    | _ => none) ++
   (c.u.fired.filterMap fun f => match c.m.blk.instr f.q with
    | some i =>
      if firedOpen i f.ops && (groupOf i = 14 || i.hdr.tagop = 4 || i.hdr.tagop = 5 || i.hdr.tagop = 6 || i.opc = 0x25)
      then some (tagColour f.tag) else none
    | none => none))

/-- Advance the commit point of a colour in a block (01 R20); colour 0 gets a frame for it. -/
def advancePoint (t : Task) (c n : Nat) (pc : BitVec 58) : Task :=
  let t := if t.frames.any (fun f => f.1 == c) then t else { t with frames := t.frames ++ [(c, Frame.make .root 0)] }
  t.onFrame c fun f =>
    let n := nodeM t n
    let e := ((f.points.find? fun p => p.1 == n && p.2.1 == pc.toNat).map fun p => p.2.2).getD 0
    { f with points := (n, pc.toNat, (e + 1) % 256) :: f.points.filter fun p => !(p.1 == n && p.2.1 == pc.toNat) }

/-- What LEXIT and TFREE leave in the colour table at a commit (08 R164, R165). -/
def commitFrames (c : Commit) (t : Task) : Task :=
  let t := c.acts.foldl (fun t a => match a.act with
    | .lexit col => t.onFrame col fun f => { f with lexit := true }
    | _ => t) t
  let t := (escColours c).foldl (fun t col => t.onFrame col fun f => { f with esc := true }) t
  if c.m.loop then advancePoint t (tagColour c.u.tag) c.n c.m.blk.pc else t

/-! ## End-of-stream tokens on memory edges (04 R90) -/

/-- The memory edges whose end-of-stream token the unit has consumed at their destination. -/
def streamEnds (c : Commit) : List Nat :=
  c.u.fired.flatMap fun f => f.ops.filterMap fun o => match o.2.edge with
    | some e => if o.2.null && tagColour o.2.tag = 0 then some e else none
    | none => none

/-- Drop the rein of an ended memory edge. -/
def dropEdge (tid k : Nat) : Prog :=
  .ask fun s => match s.task tid with
    | some t => (match t.img.edges[k]? with
      | some e => if e.mem && !(e.rein = 0) then
          let (a, f, n) := reinSpan e.rein
          .seq (applyCover t.asid tid (.dec a f n))
            (.upd (.task tid fun o => o.map fun t => { t with img := { t.img with edges := t.img.edges.modify k fun e => { e with rein := 0 } } }))
        else .skip
      | none => .skip)
    | none => .skip

/-! ## Everything else that acts at a commit -/

/-- The system actions of a unit. -/
def commitSystem (c : Commit) : Prog :=
  Prog.each c.acts fun a => match a.act with
    | .cover cv => applyCover c.t.asid c.tid cv
    | .reinTo to_ input r => .upd (.task c.tid fun o => o.map fun t => { t with sends := t.sends ++ [(to_, input, r, c.tid)] })
    | .fret n act => farrierReturn n act
    | .tlbinv all va => invalidate c.t.asid (if all then none else some (va % 2 ^ 57 / 2 ^ 16)) none
    | .codesync => .upd (.node c.n fun nd => { nd with prefetched := none })
    | .mlog code x => .ask fun s => pushMsg c.t.part [BitVec.ofNat 64 (c.tid * 2 ^ 32 + code.toNat * 2 ^ 16), x, s.tbase, 0]
    | .bkpt code => .ask fun s =>
      if bit (s.part c.t.part).w0 61 then .seq (.upd (.node c.n fun nd => { nd with suspended := true }))
        (alert 0x0104 [BitVec.ofNat 64 (c.t.part % 64 + c.n % 2048 * 2 ^ 16 + code.toNat * 2 ^ 48), c.m.blk.pc.setWidth 64, s.tbase])
      else .skip
    | _ => .skip

/-- The hub's requests of a unit, each with the number of its deferred answer. -/
def commitHub (c : Commit) (base : Nat) : Prog :=
  Prog.each c.acts.zipIdx fun e => match e.1.act with
    | .hub r d => hubRequest c.n c.tid r (d.map fun x => { x with id := base + e.2 })
    | _ => .skip

/-- The results of loads that a deferred write takes: they are there at once. -/
def commitLoaded (c : Commit) (base : Nat) : Prog :=
  .upd (.results fun l => l ++ (deferred c.m base c.acts).filterMap fun d => d.2.val.map fun v => ⟨⟨c.tid, nodeM c.t c.n, d.2.reg, d.2.id⟩, v⟩)

/-- Tokens that the unit made for its own block become ordinary ones. -/
def Node.settleInner (nd : Node) (ut : Tag) : Node :=
  let f := fun (t : Tok) => if t.inner = some ut then { t with inner := none } else t
  { nd with
    entries := nd.entries.map fun e => (e.1, { e.2 with
      left := e.2.left.map f
      right := e.2.right.map f
      pred := e.2.pred.map f })
    spill := nd.spill.map fun x => { x with tok := f x.tok } }

/-- The registers, tiles, commit stream and control registers of the node after the commit. -/
def commitNode (c : Commit) (base : Nat) (late : Bool) (nd : Node) : Node :=
  let sts := (commitStores c.m c.u base c.t.reissued c.acts nd.wq late).1
  let nd := commitCsrs c (commitRegs c base (nd.settleInner c.u.tag))
  let nd := (sortBy (fun (e : Nat × Nat × Quad) => e.1) c.u.hNew).foldl (fun nd e => { nd with h := Sparse.put 0 nd.h e.2.1 e.2.2 }) nd
  let nd := sts.foldl l1After nd
  { nd with
    tiles := c.mat.tiles
    pins := c.mat.pins
    streams := (nd.putStreams c.m.blk.pc c.sts).streams
    wq := nd.wq ++ sts }

/-- The unit leaves the mapped block, whose later iterations see the H registers that it has written (04 R85); a block whose only unit it is, or
whose loop it ends, is unmapped (01 R17, R20); faults found in the block are settled with it (22 R362). -/
def commitUnmap (c : Commit) : Prog :=
  let next := Prog.all [ commitExit c, .upd (.node c.n fun nd => { nd with
    cur := none
    lastCtx := c.m.blk.ctx
    held := nd.held.filter fun h => h.fetch }) ]
  if !c.m.loop then next
  else
    let left := c.m.units.filter fun u => !(u.tag == c.u.tag)
    if !c.ends then .upd (.node c.n fun nd => nd.onCur fun m => { m with
      units := left
      h := nd.h })
    else
      let lost := left.filter fun u => !(u.fired = [])
      .all [ .ask fun s =>
               let found := ((s.node c.n).cur.map fun m => m.faults).getD []
               (match orderFaults (found ++ ((sortBy (fun (u : CUnit) => u.tag.toNat) lost).take 1).map fun u =>
                   ⟨0x10, 0x7E, c.m.blk.pc, u.tag, 0, 0x0D⟩) with
                | f :: fs => .seq (.upd (.node c.n fun nd => nd.record f)) (Prog.each (f :: fs) fun x => report c.n x none)
                | [] => .skip),
             releaseClaims c.tid c.t.asid left,
             .upd (.node c.n fun nd => { nd.giveBack left with
               loads := nd.loads.filter fun l => !(left.any fun u => u.tag == l.unit) }),
             next ]

/-- The effects of a commit (01 R19). Tokens that leave pay their hops as they do (06 R111); a node that halts with this block has not halted before
they have. -/
def commitEffects (c : Commit) : Prog :=
  .ask fun s =>
    let base := s.ctr
    let late := headWaits s c.tid (nodeM c.t c.n)
    .all [ Prog.each c.acts fun _ => .upd .fresh,
           padStore c.n (commitStores c.m c.u base c.t.reissued c.acts (s.node c.n).wq late).2,
           .upd (.node c.n (commitNode c base late)),
           .upd (.task c.tid fun o => o.map fun t => commitFrames c ((c.claims.foldl (fun t cl => claimFrames t (some cl)) t))),
           commitLoaded c base,
           commitSystem c,
           commitHub c base,
           Prog.each (streamEnds c) fun k => dropEdge c.tid k,
           .upd (.node c.n fun nd => { nd with wq := nd.wq ++ commitOuts c.u c.m.blk.pc base c.t.reissued c.acts }),
           commitCards c base,
           refundPass c.n,
           commitThreads c,
           commitUnmap c,
           Prog.each c.arrivals fun a => arrive c.n a.1 a.2.1 a.2.2 none,
           releaseStream c.n,
           .upd (.node c.n Node.checkHalt),
           injectReads c.n ]

/-- The error that the hub meets as it reads the record of a TASK form (26 R419, 14 R288): it is seen to before the unit commits. -/
def hubTrouble (s : State) (c : Commit) : Option Prog :=
  let who := fun (a : PAct) => (⟨some c.tid, c.n, ⟨0x73, a.q, c.m.blk.pc, a.tag, 0, 0⟩⟩ : Who)
  c.acts.findSome? fun a => match a.act with
    | .hub (.qpush _ _ _ pa) _ => lineTrouble s (who a) (lineOf pa)
    | .hub (.tlaunch _ _ pa) _ => lineTrouble s (who a) (lineOf pa)
    | _ => none

/-- BLOCK_COMMIT (01 R19, R20): the checks, then the effects; a failed check discards the unit with its fault. -/
def execBlockCommit (n colour : Nat) (s : State) : Host.Outcome State Fault Refusal :=
  match judge s n colour with
  | .notThere => .refused .notEnabled
  | .wait => .next s
  | .fault f => if readyFirst s n colour then (takeFault n f).done s else .refused .notEnabled
  | .ok c => if readyFirst s n colour then ((hubTrouble s c).getD (commitEffects c)).done s else .refused .notEnabled

end Sys2Proof.Machine
end

