-- ==== Sys2Proof/Machine/Slices.lean ====
section
/-! DEFINITION. What the home slices and base dies do with a node's loads and stores (03 R65, R72–R77, R80; 05 R91–R95; 13 R247, R250,
R251, R255, R259–R263, R269; 24 R410), and the draws of the lines they fill. -/

namespace Sys2Proof.Machine
open Sys2Proof.Bits

/-! ## Loads at the home slice (03 R65, R75, R76) -/

/-- Change load `k` of a node. -/
def onLoad (n k : Nat) (f : PLoad → PLoad) : Prog := .upd (.node n fun nd => { nd with loads := nd.loads.modify k f })

/-- Whether a load allocates in the L1: LOC 01 does not (13 R252), nor does LDV. -/
def loadAllocates (l : PLoad) : Bool :=
  match l.instr.body with
  | .m f => l.want.isNone && !(field f.low 29 2 = 1)
  | _ => false

/-- The retained entry that an LDV takes (03 R76): the smallest version that equals or exceeds `v`; the word itself where nothing
has been written to it. -/
def ldvEntry (w : VerWord) (now : Word) (v : Nat) : Option (Word × Nat) :=
  if !verGe w.ver v then none
  else match w.hist.filter fun h => verGe h.ver v with
    | [] => some (now, w.ver)
    | h :: hs =>
      let best := hs.foldl (fun (b : Hist) x => if (x.ver + 2 ^ 32 - v % 2 ^ 32) % 2 ^ 32 < (b.ver + 2 ^ 32 - v % 2 ^ 32) % 2 ^ 32 then x else b) h
      some (best.data, best.ver)

/-- Serve a load at the home slice of a line: the line's bytes with the node's own stores on their way, or for LDV the wanted entry;
`none` where it waits there. -/
def serveLoad (s : State) (n k line : Nat) (l : PLoad) : Option Prog :=
  let va := ((l.es.find? fun e => lineOf e.pa == line).map fun e => e.va).getD 0
  match wqOverlay (s.node n) line (s.lineNow line) with
  | none => none
  | some bs =>
    let take := fun (f : PLoad → PLoad) => Prog.seq (onLoad n k fun x => { (f x) with
        got := x.got ++ [(line, bs)]
        wait := x.wait.drop 1 }) (Prog.when (loadAllocates l) (l1Fill n line (va / 128)))
    match l.want, l.es with
    | some v, e :: _ => (ldvEntry (s.verWord e.pa) (BitVec.ofNat 64 (ofBytes ((bs.drop (e.pa % 128)).take 8))) v).map fun x =>
        take fun y => { y with ver := some x }
    | _, _ => some (take id)

/-- The firing that an access belongs to, for the record of an error (26 R420). -/
def loadWho (s : State) (n tid : Nat) (l : PLoad) : Who := ⟨some tid, n, mkFault (s.node n) 0x73 l.q l.tag 0 0⟩

/-- An access that was released and then waits for something else, a version or a directory entry, no longer stands in the way of those that arrived
after it. -/
def stepAside (s : State) (who : Party) (line : Nat) : Option Prog := if waitsAt s who line then some (leaveWait who line) else none

/-- What SLICE_READ does for load `k` of a node: it is served, it meets an error, it asks for a fill, it begins to wait for another task's line (03
R75); `none` where it is held (such a line, an earlier arrival, a version not reached, a fill under way). -/
def readJob (s : State) (n k : Nat) : Option Prog :=
  let nd := s.node n
  match nd.loads[k]?, nd.task with
  | some l, some tid =>
    (match l.wait with
     | [] => none
     | line :: _ => match sliceTurn s (.load n l.order) line with
       | .wait => none
       | .enter => some (enterWait (.load n l.order) line)
       | .go => match lineTrouble s (loadWho s n tid l) line with
         | some p => some p
         | none =>
           if (s.l2Line line).isSome then
             ((serveLoad s n k line l).map (.seq (leaveWait (.load n l.order) line))).or (stepAside s (.load n l.order) line)
           else if asked s line then none
           else some (askLine n line ⟨tid, l.q, l.tag, (mkFault nd 0 0 0 0 0).pc, some l.order, none⟩))
  | _, _ => none

/-- SLICE_READ (03 R65). -/
def execSliceRead (n k : Nat) (s : State) : Host.Outcome State Fault Refusal :=
  match readJob s n k with
  | some p => p.done s
  | none => .refused .notEnabled

/-! ## The base dies (03 R80) -/

/-- Whether two requests share their port. -/
def samePort (a b : BReq) : Bool := a.die == b.die && a.slice == b.slice && a.bdie == b.bdie

/-- The tag that request `k` takes: the lowest free one of its port, in the order of presentation. -/
def requestTag (s : State) (k : Nat) : Option Nat :=
  match s.breqs[k]? with
  | none => none
  | some b =>
    if b.tag.isSome || (s.breqs.take k).any fun a => samePort a b && a.tag.isNone then none
    else (List.range 8).find? fun g => !(s.breqs.any fun a => samePort a b && a.tag == some g)

/-- BASE_DIE_REQUEST (03 R80): a request takes its tag. -/
def execBaseDieRequest (k : Nat) (s : State) : Host.Outcome State Fault Refusal :=
  match requestTag s k with
  | some g => (Prog.upd (.breqs fun l => l.modify k fun b => { b with tag := some g })).done s
  | none => .refused .notEnabled

/-- The request that may be answered: it has its tag, and no earlier one of its line is outstanding. -/
def replyJob (s : State) (k : Nat) : Option BReq :=
  match s.breqs[k]? with
  | none => none
  | some b => if b.tag.isSome && !((s.breqs.take k).any fun a => samePort a b && a.line == b.line) then some b else none

/-- The load of a node, by its place in the order of issue, that waits for a line. -/
def waitingLoad (nd : Node) (order line : Nat) : Option (Nat × PLoad) :=
  (nd.loads.zipIdx.find? fun e => e.1.order == order && e.1.wait.head? == some line).map fun e => (e.2, e.1)

/-- What a line that has arrived does for the firing that asked for it, where no way could be had: the load is answered from the bypass
buffer (03 R74); a PREF fills the L1 (13 R254). -/
def arrived (n line : Nat) (w : Fill) : Prog :=
  .ask fun s =>
    if !((s.node n).task = some w.task) then .skip
    else match w.load, w.l1 with
      | some o, _ => (match waitingLoad (s.node n) o line with
        | none => .skip
        | some (j, l) =>
          if (s.l2Line line).isSome || !(sliceTurn s (.load n o) line = .go) then .skip
          else match lineTrouble s (loadWho s n w.task l) line with
            | some p => p
            | none => (serveLoad s n j line l).getD .skip)
      | none, some v => if foreign s ((s.task w.task).map fun t => t.owner) line then .skip
        else (lineTrouble s Who.none line).getD (l1Fill n line v)
      | none, none => .skip

/-- A line read comes back (03 R80): it fills the L2, and the firing for which it came draws the fill (06 R111, 13 R269). -/
def readReply (b : BReq) : Prog :=
  match b.why with
  | none => .skip
  | some w => .ask fun s =>
    let part := ((s.task w.task).map fun t => t.part).getD 0
    let k := .seq (arrived b.node b.line w) (Prog.each b.also fun x => arrived x.1 b.line x.2)
    if (s.l2Line b.line).isSome then k
    else .seq (fillLine b.line part)
      (if (s.node b.node).task = some w.task && !(s.node b.node).halted then drawOr b.node 256 w.q w.pc w.tag k else k)

/-- BASE_DIE_REPLY (03 R80): the tag is freed; a codeword beyond correction is repaired or poisoned first (24 R409). -/
def execBaseDieReply (k : Nat) (s : State) : Host.Outcome State Fault Refusal :=
  match replyJob s k with
  | none => .refused .notEnabled
  | some b =>
    let free : Prog := .upd (.breqs fun l => l.eraseIdx k)
    if b.write.isSome then free.done s
    else match (brokenWords s b.line).head? with
      | some c => (memoryUe c).done s
      | none => (Prog.seq free (readReply b)).done s

/-! ## A load's value returns (13 R247, R250, R255, R259) -/

/-- The elements' values from the bytes of their lines. -/
def loadVals (l : PLoad) : List (Nat × Nat × Nat) :=
  l.es.map fun e => (e.lane, e.coef, match l.got.find? fun g => g.1 == lineOf e.pa with
    | some g => ofBytes ((g.2.drop (e.pa % 128)).take e.w)
    | none => 0)

/-- Whether a load acts as an acquire (13 R248, R259). -/
def loadAcquires (l : PLoad) : Bool :=
  match l.instr.body with
  | .m f => l.want.isSome || f.ord = 1 || f.ord = 3
  | _ => false

/-- What a returned load emits to T0 and T1. -/
def loadTokens (l : PLoad) (k : Nat) (null : Bool) : TokData × TokData :=
  let h := l.instr.hdr
  if null then (nullData h.plane.toNat k, nullData h.plane.toNat k)
  else match l.ver, l.instr.body with
    | some v, _ => (.scalar v.1, .scalar (BitVec.ofNat 64 v.2))
    | none, .m f => let d := loadResult h.plane.toNat k f.ty (loadVals l)
      (d, d)
    | none, _ => (.scalar 0, .scalar 0)

/-- Emit what a load returned and resolve its LSID. -/
def loadEmit (n : Nat) (l : PLoad) (k : Nat) (tid : Nat) (tg : Tag) (cl : Option Claim) (null : Bool) : Prog :=
  let h := l.instr.hdr
  let d := loadTokens l k null
  .all [ onUnit n l.unit fun u => if null then u else u.setLsid l.lsid .done,
         takeClaim tid n l.unit cl,
         Prog.when (loadAcquires l && !null) (.upd (.node n fun nd => nd.l1Clear)),
         emitTo n l.unit l.q l.tag h.t0 (mkTok tg d.1 null),
         emitTo n l.unit l.q l.tag h.t1 (mkTok tg d.2 null) ]

/-- The return of load `j`: the value is emitted; a nulled load emits a null token (13 R255). `none` where its TAGOP
waits for a slot (08 R163), or the load still waits for a line. -/
def returnJob (s : State) (n j : Nat) : Option Prog :=
  let nd := s.node n
  match nd.loads[j]?, nd.cur, nd.task, s.taskOf n with
  | some l, some m, some tid, some t =>
    let u := m.unit l.unit
    let null := decide (u.lsid l.lsid = .nulled)
    let drop : Prog := .upd (.node n fun nd => { nd with loads := nd.loads.eraseIdx j })
    if bit nd.fs.code 63 then some drop
    else if !(l.wait = []) && !null then none
    else
      match tagRes t l.tag l.instr.hdr.tagop.toNat with
      | .wait => none
      | .fault r => some (.seq drop (takeFault n (mkFault nd 0x10 l.q l.tag 0 (BitVec.ofNat 64 r))))
      | .ok tg cl => some (.seq drop (loadEmit n l m.snap.jord tid tg cl null))
  | _, _, _, _ => none

/-- LOAD_VALUE_RETURN (13 R247). -/
def execLoadValueReturn (n k : Nat) (s : State) : Host.Outcome State Fault Refusal :=
  match returnJob s n k with
  | some p => p.done s
  | none => .refused .notEnabled

/-! ## Stores at the home slice (03 R72–R77) -/

/-- The virtual ranges of a store-like operation. -/
def StoreOp.spans : StoreOp → List (Nat × Nat)
  | .bytes es _ => es.map fun e => (e.1.va, e.1.w)
  | .rmw e _ _ => [(e.va, e.w)]
  | .stv e _ _ _ => [(e.va, e.w)]
  | .reclaim _ _ => []
  | .scratch _ => []

/-- Whether an earlier incomplete card of the task has a footprint that the store overlaps (03 R77). -/
def cardBlocks (s : State) (tid : Nat) (op : StoreOp) (by_ : Issued) : Bool :=
  s.cards.any fun c => c.task == tid && !c.st.final && decide (c.order < by_.order) &&
    (footprint c.cls c.words c.src c.dst).any fun r => op.spans.any fun p => decide (r.base < p.1 + p.2) && decide (p.1 < r.base + r.len)

/-- The elements that one visit to the slice performs, and those that remain. -/
def splitLine (line : Nat) (es : List (Elem × List Byte)) : List (Elem × List Byte) × List (Elem × List Byte) :=
  (es.takeWhile fun e => lineOf e.1.pa == line, es.dropWhile fun e => lineOf e.1.pa == line)

/-- A store of the node is at the head of its commit stream and may be performed: its release conditions hold (05 R92), no earlier card
holds it (03 R77), its line is not another task's and can be had (03 R74, R75, R80), and an STV finds a history entry (03 R76). A store behind a
FENCE at domain scope waits for the mirror partners as a release at that scope does (13 R248 rule 3), and one of a later block behind such a FENCE,
or behind an acquire at that scope, for what those wait for (05 R92, R101). -/
def mayPerform (s : State) (tid : Nat) (t : Task) (m : Nat) (op : StoreOp) (ord : BitVec 2) (scope : BitVec 3) (by_ : Issued) : Bool :=
  let release := ord = 2 || ord = 3 || (match op with
    | .stv _ _ _ _ => true
    | _ => false)
  !((by_.far || (release && scope = 5)) && farWait s tid m fun _ => true) && !headWaits s tid m && !cardBlocks s tid op by_ &&
  (match op.nextLine with
   | none => true
   | some line => (match op with
      | .reclaim _ _ => !foreign s (some t.owner) line
      | .stv _ _ _ _ => !writeWaits s t.owner t.part line && canHave s line && histFree s line t.part
      | _ => !writeWaits s t.owner t.part line && canHave s line))

/-- Elements of one line as (offset, length) pieces. -/
def linePieces (es : List (Elem × List Byte)) : List (Nat × Nat) := es.map fun x => (x.1.pa % 128, x.2.length)

/-- An error that a store meets at its line (26 R419): an atomic reads the whole line, a store reads what it writes in part. -/
def performTrouble (s : State) (w : Who) (op : StoreOp) : Option Prog :=
  match op with
  | .bytes ((e, b) :: es) _ => storeTrouble s w (lineOf e.pa) (linePieces (splitLine (lineOf e.pa) ((e, b) :: es)).1)
  | .rmw e _ _ => lineTrouble s w (lineOf e.pa)
  | .stv e _ _ _ => storeTrouble s w (lineOf e.pa) [(e.pa % 128, 8)]
  | _ => none

/-- Whether a write to a line is performed only when another package has acknowledged it (05 R91). -/
def awaits (s : State) (line : Nat) : Bool := s.hub.mirrored.any (fun x => x.1 == line) || !(paPackage (line * 128) = s.hub.package)

/-- A write to a mirrored line is sent to the partner as well, and is durable when it acknowledges (05 R91, 14 R281); a write to a line of another package
is performed when its home slice has acknowledged it (05 R91). `w` says what waits for the acknowledgement. -/
def duplicate (line : Nat) (w : MirWait) : Prog :=
  .ask fun s => .seq (match s.hub.mirrored.find? fun x => x.1 == line with
      | some x => .all [ .upd (.mirror fun l => l ++ [{ w with line := line, part := x.2.1, far := false, since := s.tbase }]),
          .upd (.hub fun h => { h with acked := h.acked.filter fun y => !(y == line) }), sendCopy line x.2.2 ]
      | none => .skip)
    (Prog.when (!(paPackage (line * 128) = s.hub.package)) (.upd (.mirror fun l => l ++
      [{ w with line := line, part := ((s.task w.task).map fun t => t.part).getD 0, far := true, since := s.tbase }])))

/-- What waits for the acknowledgement of a store's write, beside its result and its acquire. -/
def storeWait (tid m : Nat) (by_ : Issued) (res : Option DefRes) (acq : Bool) : MirWait where
  line := 0
  part := 0
  m := m
  task := tid
  card := none
  below := 0
  by_ := some by_
  res := res
  acq := acq
  far := false
  lost := false
  since := 0

/-- A store has been performed, or waits for other packages to acknowledge it (05 R91): with it the result of an atomic or versioned store goes to its
deferred register (01 R31), and an acquire ends, which invalidates the node's L1 (03 R64). An acquire at a narrower scope than the domain orders nothing
against the acknowledgement (05 R92): it ends at the home slice. -/
def performed (r tid m line : Nat) (by_ : Issued) (acq : Bool) (scope : BitVec 3) (res : Option DefRes) : Prog :=
  .ask fun s =>
    let clear : Prog := Prog.when acq (onRef r Node.l1Clear)
    if awaits s line then .seq (Prog.when (scope != 5) clear) (duplicate line (storeWait tid m by_ res (acq && scope = 5)))
    else .seq clear (.upd (.results fun l => l ++ res.toList))

/-- Apply a store-like operation at its home slice; what remains of it stays at the head of the commit stream. -/
def applyStore (r tid : Nat) (t : Task) (m : Nat) (op : StoreOp) (ord : BitVec 2) (scope : BitVec 3) (by_ : Issued) : Prog :=
  let rest := fun (es : List (Elem × List Byte)) (loc : BitVec 2) => onRef r fun nd => { nd with
    wq := if es = [] then nd.wq.drop 1 else .store (.bytes es loc) ord scope by_ :: nd.wq.drop 1 }
  let gone : Prog := onRef r fun nd => { nd with wq := nd.wq.drop 1 }
  let acq : Bool := ord = 1 || ord = 3
  match op with
  | .bytes ((e, b) :: es) loc =>
    let sp := splitLine (lineOf e.pa) ((e, b) :: es)
    .all [ Prog.each sp.1 fun x => writeBytes t.owner t.part 2 x.1.pa x.2, freshen t.owner (lineOf e.pa) (linePieces sp.1), rest sp.2 loc,
           performed r tid m (lineOf e.pa) by_ acq scope none ]
  | .rmw e f d => .ask fun s =>
    let w := (rmwApply f 0).2
    let old := ofBytes (bytesNow s e.pa w)
    .all [ writeBytes t.owner t.part 2 e.pa (toBytes w (rmwApply f old).1), gone,
           performed r tid m (lineOf e.pa) by_ acq scope (d.map fun x => ⟨x, .scalar (rmwResult w old f)⟩) ]
  | .stv e x dl d =>
    .all [ verSave tid e.pa, writeBytes t.owner t.part 2 e.pa (toBytes 8 x.toNat), verAdvance e.pa x dl (some tid), gone,
           .ask fun s => performed r tid m (lineOf e.pa) by_ acq scope (d.map fun y => ⟨y, .scalar (BitVec.ofNat 64 (s.verWord e.pa).ver)⟩) ]
  | .reclaim e v => .all [ .ask fun s =>
      let w := s.verWord e.pa
      .upd (.ver (e.pa / 8) { w with hist := w.hist.filter fun h => verGe h.ver v || decide (h.ver = w.ver) }), gone ]
  | _ => gone

/-- Whether performing a store fills a line from memory. -/
def storeFills (s : State) (op : StoreOp) : Bool :=
  match op, op.nextLine with
  | .reclaim _ _, _ => false
  | _, some line => (s.l2Line line).isNone && (roomFor s line).isSome
  | _, none => false

/-- Cards at the head of a swept node's commit stream may start, and scratchpad stores go into the saved section; its tokens wait for the task to
resume. -/
def releaseCards (r : Nat) : Nat → Prog
  | 0 => .skip
  | k + 1 => .ask fun s => match (refNode s r).wq with
    | .store (.scratch es) o sc b :: _ => Prog.when (refGoes s r (.store (.scratch es) o sc b))
        (.all [ padStore r es, onRef r fun nd => { nd with wq := nd.wq.drop 1 }, releaseCards r k ])
    | .card j :: _ => Prog.when (refGoes s r (.card j)) (.all [ onRef r fun nd => { nd with wq := nd.wq.drop 1 }, enterCard j, releaseCards r k ])
    | _ => .skip

/-- Let go of what stands at the head of a node's or a saved node's commit stream. -/
def releaseRef (r : Nat) : Prog := if r < 2048 then releaseStream r else .ask fun s => releaseCards r (refNode s r).wq.length

/-- What SLICE_WRITE_PERFORM does for the node or saved node that a reference names. The line that a store fills draws 256 from the
crib of a node that has not halted (13 R269, 06 R111); the record that QPOP writes is no store form and draws nothing more. -/
def performJob (s : State) (r : Nat) : Option Prog :=
  let nd := refNode s r
  match nd.wq, refTask s r with
  | .store op ord scope by_ :: _, some tid =>
    (match s.task tid with
     | none => none
     | some t =>
       let m := if r < 2048 then nodeM t r else r % 2048
       let turn := (op.nextLine.map (sliceTurn s (.store r))).getD .go
       let leave := (op.nextLine.map (leaveWait (.store r))).getD .skip
       if turn = .enter && !cardBlocks s tid op by_ then op.nextLine.map (enterWait (.store r))
       else if !(turn = .go) then none
       else if !mayPerform s tid t m op ord scope by_ then op.nextLine.bind fun l => if canHave s l then stepAside s (.store r) l else none
       else
         let w : Who := ⟨some tid, if r < 2048 then r else nodeOfM t m, ⟨0x73, by_.q, by_.pc, by_.tag, 0, 0⟩⟩
         match performTrouble s w op with
         | some p => some p
         | none =>
           let go : Prog := .all [ leave, applyStore r tid t m op ord scope by_, releaseRef r ]
           some (if storeFills s op && by_.q != 0x7E && !nd.halted then drawFor r 256 by_ go else go))
  | _, _ => none

/-- SLICE_WRITE_PERFORM (03 R72): the head of a commit stream. -/
def execSliceWritePerform (n : Nat) (s : State) : Host.Outcome State Fault Refusal :=
  match performJob s n with
  | some p => p.done s
  | none => .refused .notEnabled

end Sys2Proof.Machine
end

