-- ==== Sys2Proof/Machine/Tokens.lean ====
section
/-! DEFINITION. Tokens on the mesh (01 R12, R24, R26; 15 R294, R306; 22 R368, R369; 24 R394, R395; 04 R90), iterations that retire (01
R27; 08 R158, R164, R165) and deferred results (01 R31, R32). -/

namespace Sys2Proof.Machine
open Sys2Proof.Bits

/-! ## TOKEN_HOP (01 R12, 15 R294, 24 R395) -/

/-- Take flit `k` off the mesh. -/
def dropFlit (k : Nat) : Prog := .upd (.flits fun l => l.eraseIdx k)

/-- The node that stands for a position: the position's own, or for a scratchpad tile the node with the lower x in the same quad
row (24 R395). -/
def markedNode (x y : Nat) : Nat := if isNodePos x y then nodeAt x y else nodeAt (x / 4 * 4 + y % 2) y

/-- The rectangle of a partition: x, y, width, height (15 R293). -/
def Part.rect (p : Part) : Nat × Nat × Nat × Nat :=
  (4 * field p.w0 14 4, 2 * field p.w0 9 5, 4 * (field p.w0 5 4 + 1), 2 * (field p.w0 0 5 + 1))

/-- Whether a rectangle holds a position. -/
def inRect (r : Nat × Nat × Nat × Nat) (x y : Nat) : Bool := r.1 ≤ x && x < r.1 + r.2.2.1 && r.2.1 ≤ y && y < r.2.1 + r.2.2.2

/-- The position at which a token's edge starts. -/
def edgeStart (t : Task) (k : Nat) : Nat × Nat :=
  match (t.img.edges[k]?).bind fun e => t.img.bound[e.src]? with
  | some b => (t.x + b.x, t.y + b.y)
  | none => (t.x, t.y)

/-- Whether the router at a position forwards a token: both its ends lie in the rectangle of the partition there (15 R294). -/
def forwards (s : State) (x y : Nat) (src dst : Nat × Nat) : Bool :=
  match s.parts.find? fun e => e.2.en && inRect e.2.rect x y with
  | some e => inRect e.2.rect src.1 src.2 && inRect e.2.rect dst.1 dst.2
  | none => true

/-- One hop of a flit: the router that it enters checks its parity and its partition. -/
def hopFlit (k : Nat) (f : Flit) : Prog :=
  .ask fun s =>
    let p := nextHop f.x f.y f.dstX f.dstY
    if !(f.tok.par = .good) then
      .seq (dropFlit k) (tokenError (markedNode p.1 p.2) (markedNode f.x f.y) f.task (tagColour f.tok.tag)
        (mkFault (refNode s (siteRef s f.task (markedNode p.1 p.2))) 0x70 (freePlace s) f.tok.tag 0 (parityInfo f.x f.y 0 f.tok.par)))
    else match s.task f.task with
      | none => dropFlit k
      | some t =>
        if forwards s p.1 p.2 (edgeStart t f.edge) (f.dstX, f.dstY) then .upd (.flits fun l => l.modify k fun f => { f with
            x := p.1
            y := p.2 })
        else .seq (dropFlit k) (.upd (.hub fun h => { h with dropped := h.dropped + 1 }))

/-- The flit that TOKEN_HOP `k` moves: one that has not reached its destination. -/
def hopJob (s : State) (k : Nat) : Option Flit :=
  match s.flits[k]? with
  | some f => if f.x = f.dstX && f.y = f.dstY then none else some f
  | none => none

/-- TOKEN_HOP (01 R12). -/
def execTokenHop (k : Nat) (s : State) : Host.Outcome State Fault Refusal :=
  match hopJob s k with
  | some f => (hopFlit k f).done s
  | none => .refused .notEnabled

/-! ## TOKEN_ARRIVAL (01 R24) -/

/-- Where an arriving token goes: into its node, into the park buffer of a node that a dusk token has taken from its task (15 R306), or
nowhere yet. -/
inductive Landing where
  | node (n : Nat)
  | park (n : Nat)
  | wait
  deriving DecidableEq, Repr

/-- The landing of a flit at its destination node: an incoming task's token waits for its quad to start. -/
def landing (s : State) (f : Flit) : Landing :=
  let n := nodeAt f.dstX f.dstY
  if (s.node n).task = some f.task then .node n
  else match s.task f.task with
    | some t => if t.sweeping then .park n else .wait
    | none => .wait

/-- Whether flit `k` is the first on its edge: tokens of one port for one slot arrive in the order of their emission (01 R12). -/
def firstOnEdge (s : State) (k : Nat) (f : Flit) : Bool := !((s.flits.take k).any fun g => g.task == f.task && g.edge == f.edge)

/-- Park a token (15 R306); one that finds no room is handled as MATCH_FULL (22 R368). -/
def parkTok (n tid : Nat) (f : Flit) : Prog :=
  .ask fun s =>
    let nd := s.node n
    if 65536 < total (nd.spill.map fun x => tokBytes x.tok) + nd.parkBytes + tokBytes f.tok then colourFault n tid 0x12 f.q f.slot f.tok.tag
    else .upd (.node n fun nd => { nd with park := nd.park ++ [⟨f.q, f.slot, f.tok, some f.edge⟩] })

/-- What a memory edge does with a token that arrives over it (04 R90): after the end-of-stream token no other is accepted. -/
def overEdge (n tid edge q : Nat) (tok : Tok) (k : Prog) : Prog :=
  .ask fun s => match (s.task tid).bind fun t => t.img.edges[edge]? with
    | none => k
    | some e =>
      if e.mem && e.ended then
        let r := mkFault (s.node n) 0x10 q tok.tag 0 0x0E
        .seq (.upd (.node n fun nd => nd.record r)) (report n r none)
      else if e.mem && tok.null && tagColour tok.tag = 0 then
        .seq (.upd (.task tid fun o => o.map fun t => { t with img := { t.img with
          edges := t.img.edges.modify edge fun e => { e with ended := true } } })) k
      else k

/-- Whether a token's colour has been re-issued under another: such a token is dropped on arrival (24 R398). -/
def purged (s : State) (tid : Nat) (tok : Tok) : Bool :=
  ((s.task tid).bind fun t => t.frame (tagColour tok.tag)).any fun f => f.joinedAs.isSome

/-- A flit leaves the mesh at its destination. -/
def landFlit (k : Nat) (f : Flit) (inNode : Nat → Prog) (l : Landing) : Prog :=
  .ask fun s => if purged s f.task f.tok then dropFlit k else match l with
  | .node n => .seq (dropFlit k) (overEdge n f.task f.edge f.q f.tok (inNode n))
  | .park n => .seq (dropFlit k) (parkTok n f.task f)
  | .wait => .skip

/-- The flit that TOKEN_ARRIVAL `k` takes in, with its landing. -/
def arrivalJob (s : State) (k : Nat) : Option (Flit × Landing) :=
  match s.flits[k]? with
  | some f => if f.x = f.dstX && f.y = f.dstY && firstOnEdge s k f && !(landing s f = .wait) then some (f, landing s f) else none
  | none => none

/-- TOKEN_ARRIVAL (01 R24). -/
def execTokenArrival (k : Nat) (s : State) : Host.Outcome State Fault Refusal :=
  match arrivalJob s k with
  | some (f, l) => (landFlit k f (fun n => arrive n f.q f.slot f.tok (some f.edge)) l).done s
  | none => .refused .notEnabled

/-! ## ESCAPE_CHANNEL_TIMEOUT (22 R369) -/

/-- Whether a hop crosses a die-to-die link (01 R12). -/
def crossesDie (x y : Nat) (p : Nat × Nat) : Bool := !(dieAt x y = dieAt p.1 p.2)

/-- The flit that waits at a die-to-die link, with its landing. -/
def escapeJob (s : State) (k : Nat) : Option (Flit × Landing) :=
  match hopJob s k with
  | some f => if crossesDie f.x f.y (nextHop f.x f.y f.dstX f.dstY) && firstOnEdge s k f && !(landing s f = .wait) then
      some (f, landing s f) else none
  | none => none

/-- Write a token into a node's spill area, where it waits as a spilled token (22 R368, R369; 01 R26); parity and a second token for its slot are found
as of any arrival (22 R367). -/
def spillArrive (n q slot : Nat) (tok : Tok) (edge : Option Nat) : Prog :=
  .ask fun s =>
    let nd := s.node n
    match nd.task with
    | none => .skip
    | some tid =>
      if !(tok.par = .good) then nodeParity n 3 tok
      else if nd.isDup q slot tok.tag then arrive n q slot tok edge
      else if 61440 < nd.spillBytes + tokBytes tok then colourFault n tid 0x12 q slot tok.tag
      else .upd (.node n fun nd => { nd with spill := nd.spill ++ [⟨q, slot, tok, edge⟩] })

/-- ESCAPE_CHANNEL_TIMEOUT (22 R369). -/
def execEscapeChannelTimeout (k : Nat) (s : State) : Host.Outcome State Fault Refusal :=
  match escapeJob s k with
  | some (f, l) => (landFlit k f (fun n => spillArrive n f.q f.slot f.tok (some f.edge)) l).done s
  | none => .refused .notEnabled

/-! ## ITERATION_RETIRE (01 R27; 08 R158, R164, R165) -/

/-- Whether a node holds a token, a load or an uncommitted pass whose tag satisfies `p`. -/
def Node.holds (p : Tag → Bool) (nd : Node) : Bool :=
  nd.entries.any (fun e => p e.2.tag) || nd.spill.any (fun x => p x.tok.tag) || nd.park.any (fun x => p x.tok.tag) ||
  nd.wq.any (fun w => match w with
    | .out _ tok _ => p tok.tag
    | _ => false) || nd.loads.any (fun l => p l.tag) ||
  (match nd.cur with
   | some m => m.units.any fun u => u.fired.any (fun f => p f.tag) || u.acts.any (fun a => match a.act with
       | .out _ tok => p tok.tag
       | _ => p a.tag)
   | none => false)

/-- Whether anything of a task carries a tag that satisfies `p`: a token on a node, in a saved section, parked or on the mesh, or a
block pass that has not committed. -/
def tagInUse (s : State) (tid : Nat) (t : Task) (p : Tag → Bool) : Bool :=
  s.nodes.any (fun e => e.2.task == some tid && e.2.holds p) || t.savedNodes.any (fun e => e.2.holds p) ||
  t.parked.any (fun x => p x.2.tok.tag) || s.flits.any (fun f => f.task == tid && p f.tok.tag)

/-- Whether a context runs under a colour. -/
def colourRuns (s : State) (tid : Nat) (t : Task) (c : Nat) : Bool :=
  let runs := fun (nd : Node) => nd.ctxs.any fun x => tagColour x.2.ctag == c && !(decide (x.2.st = .none))
  s.nodes.any (fun e => e.2.task == some tid && runs e.2) || t.savedNodes.any (fun e => runs e.2)

/-- What ITERATION_RETIRE does for a colour and an iteration. -/
inductive Retire where
  /-- An iteration of a loop, or one that ITER stepping started in a tag space, retires and returns its slot (01 R27, 08 R163). -/
  | iter
  /-- A slot that TFREE marked becomes free. -/
  | slot
  /-- The colour is freed. -/
  | colour
  deriving DecidableEq, Repr

/-- What is due for a colour and an iteration of a task (01 R27; 08 R158, R163–R165). -/
def retireJob (s : State) (tid c i : Nat) : Option Retire :=
  match s.task tid with
  | none => none
  | some t => match t.frame c with
    | none => none
    | some f =>
      let free := !(tagInUse s tid t fun g => tagColour g == c)
      match f.kind with
      | .loop =>
        if f.live.contains i && !(tagInUse s tid t fun g => g == mkTag c i) then some .iter
        else if f.lexit && f.live = [] && free then some .colour else none
      | .tagSpace =>
        if f.freeing.contains i && !(tagInUse s tid t fun g => g == mkTag c i) then some .slot
        else if f.live.contains i && !f.given.contains i && !(tagInUse s tid t fun g => g == mkTag c i) then some .iter
        else if f.live = [] && free && f.owner.isNone then some .colour else none
      | .call => if f.ended && free && !(colourRuns s tid t c) then some .colour else none
      | _ => none

/-- Return a slot of a colour's window. -/
def returnSlot (tid c i : Nat) : Prog :=
  .upd (.task tid fun o => o.map fun t => t.onFrame c (Frame.giveSlot i))

/-- Forget that header reads were injected for a tag: the next iteration of that number is another. -/
def forgetReads (tid : Nat) (tag : Tag) : Prog :=
  .ask fun s => Prog.each ((s.nodes.filter fun e => e.2.task == some tid).map fun e => e.1) fun n =>
    .upd (.node n fun nd => nd.onCur fun m => { m with reads := m.reads.filter fun r => !(r.2 == tag) })

/-- ITERATION_RETIRE (01 R27). -/
def execIterationRetire (tid c i : Nat) (s : State) : Host.Outcome State Fault Refusal :=
  match retireJob s tid c i with
  | some .colour => (Prog.upd (.task tid fun o => o.map (Task.release c))).done s
  | some _ => (Prog.seq (returnSlot tid c i) (forgetReads tid (mkTag c i))).done s
  | none => .refused .notEnabled

/-! ## DEFERRED_WRITE_ARRIVAL (01 R31, R32) -/

/-- Complete the deferred writes of a register that may complete, in issue order: the register becomes full with the last. -/
def Node.complete : Nat → Nat → Node → Node
  | 0, _, nd => nd
  | k + 1, r, nd => match nd.defs.find? fun d => d.reg == r with
    | some d => (match d.val with
      | some v =>
        let nd := { nd with defs := nd.defs.filter fun x => !(decide (x = d)) }
        if nd.defs.any fun x => x.reg == r then Node.complete k r nd else nd.writeReg r v
      | none => nd)
    | none => nd

/-- The node takes the result of a deferred write; one that was cancelled takes none. -/
def Node.deliver (d : DefRes) (nd : Node) : Node :=
  if nd.defs.any fun x => x.reg == d.dst.reg && x.id == d.dst.id then
    let nd := { nd with defs := nd.defs.map fun x => if x.reg = d.dst.reg && x.id = d.dst.id then { x with val := some d.val } else x }
    Node.complete nd.defs.length d.dst.reg nd
  else nd

/-- DEFERRED_WRITE_ARRIVAL (01 R31): a result for a swept node is kept in its saved section. -/
def execDeferredWriteArrival (k : Nat) (s : State) : Host.Outcome State Fault Refusal :=
  match s.results[k]? with
  | none => .refused .notEnabled
  | some d => (Prog.seq (.upd (.results fun l => l.eraseIdx k)) (match s.task d.dst.task with
      | some t =>
        let r := homeRef s d.dst.task t d.dst.m
        .seq (onRef r (Node.deliver d)) (Prog.when (r < 2048) (injectReads r))
      | none => .skip)).done s

end Sys2Proof.Machine
end

