-- ==== Sys2Proof/Machine/TaskEnd.lean ====
section
/-! DEFINITION. The end of a task (01 R33; 06 R118; 03 R75; 15 R303), and what becomes of its reins (04 R87–R90; 13 R267). -/

namespace Sys2Proof.Machine
open Sys2Proof.Bits

/-! ## Reins that a task holds (04 R82) -/

/-- The rein that a token carries, if it carries one. -/
def markedRein (t : Tok) : List Quad := if t.rein then [tokRein (some t)] else []

/-- The reins that a node holds: in H registers, in marked tokens, in its commit stream. -/
def nodeReins (nd : Node) : List Quad :=
  nd.h.map (fun e => e.2) ++
  (nd.entries.flatMap fun e => (e.2.left.toList ++ e.2.right.toList ++ e.2.pred.toList).flatMap markedRein) ++
  (nd.spill.flatMap fun x => markedRein x.tok) ++
  nd.wq.flatMap fun w => match w with
    | .out _ tok _ => markedRein tok
    | _ => []

/-- The reins that a task holds: on its nodes, in its saved sections, on the mesh, parked, on its memory edges, and on their way to it. -/
def taskReins (s : State) (tid : Nat) (t : Task) : List Quad :=
  (s.nodes.flatMap fun e => if e.2.task = some tid then nodeReins e.2 else []) ++ (t.savedNodes.flatMap fun e => nodeReins e.2) ++
  (s.flits.flatMap fun f => if f.task = tid then markedRein f.tok else []) ++ (t.parked.flatMap fun x => markedRein x.2.tok) ++
  ((parkNodes t).flatMap fun n => (s.node n).park.flatMap fun x => markedRein x.tok) ++
  (t.img.edges.flatMap fun e => if e.mem && !(e.rein = 0) then [e.rein] else []) ++
  s.reins.flatMap fun r => if r.1 = tid then [r.2.2.1] else []

/-! ## REINSEND to another task (04 R89) -/

/-- The node of the receiver and the H register that an input number names. -/
def reinInput (t : Task) (input : Nat) : Option (Nat × Nat) :=
  (t.img.reinIns.find? fun x => x.1 == input).bind fun x => (t.img.bound[x.2.1]?).map fun b => (boundM t b, x.2.2)

/-- Drop a rein that cannot be delivered: device entry 0x0002 (23 R380, R381). -/
def undeliverable (part asid to_ input : Nat) (r : Quad) (sender : Nat) : Prog :=
  .all [ dropRein asid sender r, deviceEntry part sender 2 (BitVec.ofNat 64 (to_ % 2 ^ 32 + input % 8 * 2 ^ 32)) ]

/-- A pending REINSEND at its sender's commit: it goes on its way where the receiver is admitted in the partition and ASID. -/
def sendRein (t : Task) (x : Nat × Nat × Quad × Nat) : Prog :=
  .ask fun s => match s.task x.1 with
    | some u => if !(u.st = .ending) && u.part = t.part && u.asid = t.asid && (reinInput u x.2.1).isSome then
        .upd (.reins fun l => l ++ [x]) else undeliverable t.part t.asid x.1 x.2.1 x.2.2.1 x.2.2.2
    | none => undeliverable t.part t.asid x.1 x.2.1 x.2.2.1 x.2.2.2

/-- Write a delivered rein into the receiver's register, unless that holds a live rein (13 R267). -/
def deliverRein (t : Task) (x : Nat × Nat × Quad × Nat) (ref h : Nat) : Prog :=
  .ask fun s =>
    if !((refNode s ref).hreg h = 0) then .seq (undeliverable t.part t.asid x.1 x.2.1 x.2.2.1 x.2.2.2) (releasePending t.asid x.2.2.2)
    else .seq (onRef ref fun nd => { nd with h := Sparse.put 0 nd.h h x.2.2.1 })
      (.upd (.task x.1 fun o => o.map fun t => { t with received := t.received ++ [x.2.2.1] }))

/-- What REIN_DELIVERY does with the rein on its way at place `k`: it waits for a block boundary of the receiving node. -/
def reinJob (s : State) (k : Nat) : Option Prog :=
  match s.reins[k]? with
  | none => none
  | some x => (s.task x.1).bind fun t => (reinInput t x.2.1).bind fun d =>
      let ref := homeRef s x.1 t d.1
      if (refNode s ref).cur.isSome then none
      else some (.seq (.upd (.reins fun l => l.eraseIdx k)) (deliverRein t x ref d.2))

/-- REIN_DELIVERY (13 R267, 04 R89). -/
def execReinDelivery (k : Nat) (s : State) : Host.Outcome State Fault Refusal :=
  match reinJob s k with
  | some p => p.done s
  | none => .refused .notEnabled

/-! ## TASK_COMMIT (06 R118, 03 R75) -/

/-- Whether a node of a task is done: halted within its charge, no fault recorded, its stores performed (01 R33, 22 R361). -/
def Node.ended (nd : Node) : Bool :=
  nd.halted && !bit nd.fs.code 63 && nd.wq.all fun w => match w with
    | .out _ _ _ => true
    | _ => false

/-- Whether a task has finished: every bound node has halted and every card is final. -/
def taskDone (s : State) (tid : Nat) (t : Task) : Bool :=
  (t.st = .running || t.st = .swept) && t.doomed.isNone && t.img.bound.all (fun b => (nodeRec s tid t b).ended) &&
    s.cards.all fun c => !(c.task == tid) || (c.st.final && c.entered)

/-- The owner tag is marked committed: the task's lines become ordinary, its journals and undo data are discarded (03 R75, 06 R118 step 1). -/
def commitOwner (tid : Nat) (t : Task) : Prog :=
  .all [ .ask fun s => Prog.each s.l2 fun e => match e.2 with
           | some l => if l.owner = some t.owner then .upd (.l2 e.1 (some { l with owner := none })) else .skip
           | none => .skip,
         .upd (.held fun h => h.filter fun x => !(x.owner == t.owner)),
         .ask fun s => Prog.each (s.vers.filter fun v => v.2.hist.any fun h => h.task == some tid) fun v =>
           .upd (.ver v.1 { v.2 with hist := v.2.hist.map fun h => if h.task = some tid then { h with task := none } else h }),
         .upd (.task tid fun o => o.map fun t => { t with
           journal := []
           verUndo := []
           deadUndo := []
           coverUndo := [] }) ]

/-- A task that has ended keeps nothing but what its slot still needs. -/
def closeTask (t : Task) : Task :=
  { t with
    st := .ending
    frames := []
    savedNodes := []
    launches := []
    savedTiles := []
    parked := []
    received := []
    sends := []
    dusk := t.dusk.filter fun d => d.incoming.isSome }

/-- COMMIT A TASK, in the order of 06 R118. -/
def commitTask (tid : Nat) (t : Task) : Prog :=
  .all [ commitOwner tid t,
         Prog.each t.sends (sendRein t),
         .ask fun s => Prog.each (taskReins s tid t) (dropRein t.asid tid),
         .upd (.reins fun l => l.filter fun r => !(r.1 == tid)),
         releasePending t.asid tid,
         settle tid 2,
         .upd (.part t.part fun x => { x with launching := x.launching ++ t.launches }),
         enterAll t.part,
         .upd (.mirror fun l => l.filter fun w => !(w.task == tid && w.lost)),
         Prog.each (parkNodes t) fun n => .upd (.node n fun nd => { nd with park := [] }),
         freeNodes tid,
         .upd (.task tid fun o => o.map closeTask) ]

/-- TASK_COMMIT (06 R118). -/
def execTaskCommit (tid : Nat) (s : State) : Host.Outcome State Fault Refusal :=
  match s.task tid with
  | some t => if taskDone s tid t then (commitTask tid t).done s else .refused .notEnabled
  | none => .refused .notEnabled

/-! ## OWNER_TAG_CLEARED (03 R75, 15 R303) -/

/-- The ended task whose slot an owner tag names, once nothing of it is left: no marked line, no dusk token, no account to settle. -/
def slotJob (s : State) (owner : Nat) : Option Nat :=
  s.tasks.findSome? fun e => match e.2 with
    | some t => if t.owner = owner && t.st = .ending && t.closing.isNone && t.dusk.isNone && (provLines s owner = []) then some e.1 else none
    | none => none

/-- OWNER_TAG_CLEARED (03 R75): the slot is free again. -/
def execOwnerTagCleared (owner : Nat) (s : State) : Host.Outcome State Fault Refusal :=
  match slotJob s owner with
  | some tid => (Prog.upd (.task tid fun _ => none)).done s
  | none => .refused .notEnabled

/-! ## IRE_FREE (04 R88) -/

/-- The bytes of a granule of an arena, as a virtual range. -/
def granuleHas (base g va : Nat) : Bool := base + g * 4096 ≤ va && va < base + (g + 1) * 4096

/-- Whether a node still has an access to a granule on its way. -/
def granuleBusy (base g : Nat) (nd : Node) : Bool :=
  nd.loads.any (fun l => l.es.any fun e => granuleHas base g e.va) || nd.wq.any fun w => match w with
    | .store op _ _ _ => op.spans.any fun p => granuleHas base g p.1 || (p.1 < base + g * 4096 && base + g * 4096 < p.1 + p.2)
    | _ => false

/-- Whether an access to a granule of an ASID is still on its way to the home slices (04 R88 step 2). -/
def granuleInFlight (s : State) (asid base g : Nat) : Bool :=
  s.tasks.any fun e => match e.2 with
    | some t => t.asid == asid && (s.nodes.any (fun n => n.2.task == some e.1 && granuleBusy base g n.2) ||
        t.savedNodes.any fun n => granuleBusy base g n.2)
    | none => false

/-- The arena in which a granule is pending free with every lowering task ended and no access on its way. -/
def ireJob (s : State) (asid arena g : Nat) : Option Arena :=
  match s.arena asid arena with
  | some a => if a.pending.any (fun p => p.1 == g && p.2 = []) && Sparse.get 0 a.count g = 0 && !granuleInFlight s asid a.base g then some a else none
  | none => none

/-- IRE_FREE (04 R88): the granule is zeroed and returned to the free pool. -/
def execIreFree (asid arena granule : Nat) (s : State) : Host.Outcome State Fault Refusal :=
  match ireJob s asid arena granule with
  | some a => (Prog.seq (zeroGranule asid a.base granule) (onArena asid arena fun x => { x with
      taken := x.taken.filter fun g => !(g == granule)
      pending := x.pending.filter fun p => !(p.1 == granule) })).done s
  | none => .refused .notEnabled

end Sys2Proof.Machine
end

