-- ==== Sys2Proof/Machine/Ostler.lean ====
section
/-! DEFINITION. The Ostler: reading, checking and relocating an image (16 R316, R317; 15 R299), creating covered arenas (04 R81), edge
regions (04 R90), dividing the charge (06 R106), and the nodes as they are loaded (15 R303; 01 R29). -/

namespace Sys2Proof.Machine
open Sys2Proof.Bits

/-! ## Reading an image (16 R317) -/

/-- The little-endian field of `n` bytes at an offset. -/
def le (bs : List Byte) (off n : Nat) : Nat := ofBytes ((bs.drop off).take n)

/-- Whether a field is zero. -/
def leZero (bs : List Byte) (off n : Nat) : Bool := ((bs.drop off).take n).all fun b => b = 0

/-- The rest of an image's header and its relocations, as (offset, kind). -/
structure ImgRest where
  relocated : Nat
  dataOff : Nat
  dataLen : Nat
  zeroLen : Nat
  relocs : List (Nat × Nat)
  deriving DecidableEq, Repr

/-- The entries of a table: `n` pieces of `w` bytes. -/
def pieces (w : Nat) : Nat → List Byte → List (List Byte)
  | 0, _ => []
  | n + 1, bs => bs.take w :: pieces w n (bs.drop w)

/-- Whether a page may hold any part of an image: mapped normal, with RD (16 R316). -/
def imgPage (w : Word) : Bool := entryClass w = 0 && entryRd w

/-- A node entry, if its zero bytes are zero. -/
def readBound (b : List Byte) : Option Bound :=
  if leZero b 16 16 then some ⟨le b 0 1, le b 1 1, le b 2 1, le b 3 1, le b 6 2, le b 8 8⟩ else none

/-- An edge entry, if its zero bytes are zero and its KIND is not reserved. -/
def readEdge (b : List Byte) : Option Edge :=
  if leZero b 14 18 && le b 7 1 ≤ 1 then some {
    src := le b 0 2
    port := le b 2 1
    dst := le b 3 2
    q := le b 5 1
    slot := le b 6 1
    mem := le b 7 1 = 1
    quad := le b 8 2
    bytes := le b 10 4
    rein := 0
    ended := false } else none

/-- An arena entry. -/
def readArena (b : List Byte) : Option Nat := if leZero b 8 8 then some (le b 0 8) else none
/-- A rein input. -/
def readReinIn (b : List Byte) : Option (Nat × Nat × Nat) := if leZero b 4 4 then some (le b 0 1, le b 1 2, le b 3 1) else none
/-- A relocation. -/
def readReloc (b : List Byte) : Option (Nat × Nat) := if leZero b 12 4 && 1 ≤ le b 8 4 && le b 8 4 ≤ 3 then some (le b 0 8, le b 8 4) else none

/-- Read a table of `n` entries of `w` bytes at a virtual address. -/
def readTable {α : Type} (s : State) (asid va w n : Nat) (f : List Byte → Option α) : Option (List α) :=
  (vbytes s asid va (w * n) imgPage).bind fun bs => (pieces w n bs).mapM f

/-- Read an image at a virtual address of an ASID; `none` where it is not an image as 16 R317 lays it out. -/
def readImage (s : State) (asid va : Nat) : Option (Image × ImgRest) :=
  (vbytes s asid va 80 imgPage).bind fun h =>
    let nn := le h 12 2
    let ne := le h 14 2
    let na := le h 16 2
    let nr := le h 18 1
    if !(le h 0 8 = 0x31474D4958495242) || !(leZero h 20 4) || !(leZero h 76 4) || 1 < le h 19 1 then none
    else
      (readTable s asid (va + 80) 32 nn readBound).bind fun bound =>
      (readTable s asid (va + 80 + 32 * nn) 32 ne readEdge).bind fun edges =>
      (readTable s asid (va + 80 + 32 * nn + 32 * ne) 16 na readArena).bind fun arenas =>
      (readTable s asid (va + 80 + 32 * nn + 32 * ne + 16 * na) 8 nr readReinIn).bind fun reinIns =>
      (readTable s asid (va + le h 64 8) 16 (le h 72 4) readReloc).map fun relocs =>
        ({ width := le h 8 2
           height := le h 10 2
           codeOff := le h 24 8
           codeLen := le h 32 8
           bound := bound
           edges := edges
           arenas := arenas
           reinIns := reinIns },
         { relocated := le h 19 1
           dataOff := le h 40 8
           dataLen := le h 48 8
           zeroLen := le h 56 8
           relocs := relocs })

/-! ## Checking it (15 R299 check 2; 16 R316, R317, R319) -/

/-- The offset at which the zero section begins. -/
def ImgRest.zeroOff (r : ImgRest) : Nat := r.dataOff + ceilDiv r.dataLen 64 * 64

/-- Whether the image's own fields keep their limits: its rectangle is whole quads (01 R15), its nodes stand on distinct node positions
within it with resources that a node gives, its edges join them, its quads' stream buffers fit 768 KiB. -/
def imageOk (i : Image) : Bool :=
  let n := i.bound.length
  i.width % 4 = 0 && i.height % 2 = 0 && 4 ≤ i.width && i.width ≤ 64 && 2 ≤ i.height && i.height ≤ 64 && i.codeOff % 64 = 0 && 1 ≤ n &&
  i.bound.all (fun b => b.x < i.width && b.y < i.height && (b.x + b.y) % 2 = 0 && 1 ≤ b.weight && 1 ≤ b.contexts && b.contexts ≤ 8 &&
    b.mtch ≤ 256 && b.entry % 64 = 0 && b.entry < i.codeLen) &&
  noneTwice (i.bound.map fun b => b.y * 64 + b.x) &&
  i.edges.all (fun e => e.src < n && e.dst < n && e.port < 128 && e.q < 128 && 1 ≤ e.slot && e.slot ≤ 3 &&
    (e.mem || e.quad < i.width / 4 * (i.height / 2))) &&
  (List.range (i.width / 4 * (i.height / 2))).all (fun q =>
    total ((i.edges.filter fun e => !e.mem && e.quad == q).map fun e => e.bytes) ≤ 768 * 1024) &&
  i.arenas.all (fun a => 0 < a && a % 2 ^ 16 = 0 && a ≤ 2 ^ 39) &&
  i.reinIns.all (fun r => r.1 ≤ 7 && r.2.1 < n && r.2.2 < 32) && noneTwice (i.reinIns.map fun r => r.1)

/-- Whether every page of a virtual range is mapped and passes a check: `k` bounds the pages looked at, and the first one that fails ends the
search. -/
def pagesPass (s : State) (asid : Nat) (ok : Word → Bool) : Nat → Nat → Nat → Bool
  | 0, _, _ => true
  | k + 1, a, len => if len = 0 then true else
    match walk s asid a with
    | .fault => false
    | .entry w => ok w && (let step := 2 ^ 16 - a % 2 ^ 16
        if len ≤ step then true else pagesPass s asid ok k (a + step) (len - step))

/-- Whether every page of a virtual range passes a check. -/
def rangePass (s : State) (asid a len : Nat) (ok : Word → Bool) : Bool := a + len ≤ 2 ^ 57 && pagesPass s asid ok (len / 2 ^ 16 + 2) a len

/-- Whether an image's pages are mapped as 16 R316 requires. -/
def imageMapped (s : State) (asid va : Nat) (i : Image) (r : ImgRest) : Bool :=
  let norm := fun (w : Word) => imgPage w
  rangePass s asid va (r.zeroOff + r.zeroLen) norm && rangePass s asid va (i.codeOff + i.codeLen) norm &&
  rangePass s asid (va + i.codeOff) i.codeLen (fun w => imgPage w && entryEx w) &&
  rangePass s asid (va + r.dataOff) r.dataLen (fun w => imgPage w && entryWr w) &&
  rangePass s asid (va + r.zeroOff) r.zeroLen (fun w => imgPage w && entryWr w)

/-! ## Ranges of memory (04 R81, 16 R316) -/

/-- The physical pieces (first address, length) of a virtual range. -/
def physPieces (s : State) (asid : Nat) : Nat → Nat → Nat → List (Nat × Nat)
  | 0, _, _ => []
  | k + 1, a, len => if len = 0 then [] else
    let step := 2 ^ 16 - a % 2 ^ 16
    let n := if len ≤ step then len else step
    (match walk s asid a with
     | .entry w => [(entryPa w a, n)]
     | .fault => []) ++ physPieces s asid k (a + n) (len - n)

/-- Whether an address lies in one of the pieces. -/
def inPieces (ps : List (Nat × Nat)) (pa : Nat) : Bool := ps.any fun p => p.1 ≤ pa && pa < p.1 + p.2

/-- Zero a virtual range as the device does: memory, L2 copies and journalled contents; poison is gone with its codewords. -/
def zeroVa (asid a len : Nat) : Prog :=
  .ask fun s =>
    let ps := physPieces s asid (len / 2 ^ 16 + 2) a len
    let blank := fun (line : Nat) (bs : List Byte) => (List.range 128).map fun k => if inPieces ps (line * 128 + k) then (0 : Byte) else bs.getD k 0
    .all [ Prog.each (s.mem.filter fun c => inPieces ps c.1) fun c => .upd (.mem c.1 0),
           Prog.each s.l2 fun e => match e.2 with
             | some l => .upd (.l2 e.1 (some { l with data := blank e.1 l.data }))
             | none => .skip,
           Prog.each (s.poison.filter fun c => inPieces ps (c.1 * 64) && inPieces ps (c.1 * 64 + 63)) fun c => .upd (.poison c.1 false),
           .upd (.hub fun h => { h with memUe := h.memUe.filter fun c => !(inPieces ps (c * 64) && inPieces ps (c * 64 + 63)) }),
           Prog.each (s.tasks.map fun e => e.1) fun t => .upd (.task t fun o => o.map fun tk => { tk with
             deadUndo := tk.deadUndo.filter fun c => !(inPieces ps (c * 64) && inPieces ps (c * 64 + 63))
             journal := tk.journal.map fun j => { j with old := blank j.line j.old } }) ]

/-- Put an arena into the table (04 R81): it is zeroed, every granule free; its generation is what earlier destructions left. -/
def createArena (asid id base size die : Nat) : Prog :=
  .seq (zeroVa asid base size) (.upd (.hub fun h =>
    let gen := ((h.arenas.find? fun a => a.1 == (asid, id)).map fun a => a.2.gen).getD 0
    { h with arenas := (h.arenas.filter fun a => !(a.1 == (asid, id))) ++ [((asid, id), {
        live := true
        gen := gen
        base := base
        size := size
        die := die
        count := []
        taken := []
        pending := [] })] }))

/-! ## Arenas that an image declares (04 R81) -/

/-- The covered pages of an ASID that are mapped and lie in no live arena, in ascending order. -/
def coveredPages (s : State) (asid : Nat) : List Nat :=
  sortBy id ((s.parts.flatMap fun e => (e.2.frames.filter fun f => f.asid == asid).map fun f => f.req.page).filter fun p =>
    (match walk s asid (p * 2 ^ 16) with
     | .entry w => entryClass w = 1
     | .fault => false) && !(s.hub.arenas.any fun a => a.1.1 == asid && a.2.live && a.2.base / 2 ^ 16 ≤ p && p < (a.2.base + a.2.size) / 2 ^ 16))

/-- The lowest run of `n` consecutive pages of a list. -/
def pageRun (ps : List Nat) (n : Nat) : Option Nat := ps.find? fun p => (List.range n).all fun k => ps.contains (p + k)

/-- The lowest arena ids of an ASID that are not in use. -/
def freeIds (s : State) (asid : Nat) : List Nat :=
  ((List.range 1022).map (· + 1)).filter fun i => (s.arena asid i).isNone

/-- Where the image's arenas go: ids and virtual bases; `none` where they cannot all be created. Each takes the lowest free id and the lowest run of
covered pages, its die is that of the rectangle's origin, and the Ostler never destroys one (04 R81 leaves all of this open; DESIGN CHOICE, log 89). -/
def placeArenas : List Nat → List Nat → List Nat → Option (List (Nat × Nat × Nat))
  | [], _, _ => some []
  | _ :: _, [], _ => none
  | a :: as, i :: is, ps => (pageRun ps (a / 2 ^ 16)).bind fun p =>
      (placeArenas as is (ps.filter fun x => !(p ≤ x && x < p + a / 2 ^ 16))).map fun r => (i, p * 2 ^ 16, a) :: r

/-! ## Memory edges (04 R90) -/

/-- The granules that an edge's bytes take. -/
def edgeGranules (e : Edge) : Nat := ceilDiv e.bytes 4096

/-- The runs that the image's memory edges take in their order, as (edge number, first granule). -/
def edgeRuns (a : Arena) : List (Edge × Nat) → Option (List (Nat × Nat))
  | [] => some []
  | (e, k) :: es =>
    if !e.mem || e.bytes = 0 then edgeRuns a es
    else (freeRun a (edgeGranules e)).bind fun g =>
      (edgeRuns { a with taken := a.taken ++ (List.range (edgeGranules e)).map (g + ·) } es).map fun r => (k, g) :: r

/-- Whether the edge arena could hold the image's memory edges at all. -/
def edgeArenaOk (s : State) (asid : Nat) (i : Image) : Bool :=
  let need := total ((i.edges.filter fun e => e.mem).map fun e => edgeGranules e * 4096)
  if i.edges.all fun e => !e.mem then true
  else match s.arena asid 1023 with
    | some a => decide (need ≤ a.size)
    | none => false

/-- The runs for the edges, where they are free now. -/
def edgeRoom (s : State) (asid : Nat) (i : Image) : Option (List (Nat × Nat)) :=
  if i.edges.all fun e => !e.mem then some []
  else match s.arena asid 1023 with
    | some a => edgeRuns a i.edges.zipIdx
    | none => none

/-- The rein of an edge's region. -/
def edgeRein (a : Arena) (e : Edge) (g : Nat) : Quad := mkRein 1023 a.gen.toNat 15 (g * 4096) e.bytes

/-- Give the edges their reins, and take their granules. -/
def takeEdges (asid tid : Nat) (runs : List (Nat × Nat)) : Prog :=
  Prog.each runs fun r => .ask fun s => match s.arena asid 1023, (s.task tid).bind fun t => t.img.edges[r.1]? with
    | some a, some e =>
      .all [ .upd (.task tid fun o => o.map fun t => { t with
               img := { t.img with edges := t.img.edges.modify r.1 fun e => { e with rein := edgeRein a e r.2 } } }),
             onArena asid 1023 fun a => { a with taken := a.taken ++ (List.range (edgeGranules e)).map (r.2 + ·) },
             applyCover asid tid (.mk 1023 r.2 (edgeGranules e)) ]
    | _, _ => .skip

/-! ## Relocation (16 R316) -/

/-- Add to a relocated field in place: a data word, IMM64 of format G (bits 63:0), or IMM64 of format A (bits 83:20). -/
def relocate (asid va add : Nat) (r : Nat × Nat) : Prog :=
  .ask fun s =>
    let a := va + r.1
    let n := if r.2 = 1 then 8 else 16
    match vbytes s asid a n (fun _ => true) with
    | none => .skip
    | some bs =>
      let w := ofBytes bs
      let lo := if r.2 = 3 then 20 else 0
      let old := w / 2 ^ lo % 2 ^ 64
      let w2 := w - old * 2 ^ lo + (old + add) % 2 ^ 64 * 2 ^ lo
      Prog.each (toBytes n w2).zipIdx fun b => match walk s asid (a + b.2) with
        | .entry e => devWrite (entryPa e (a + b.2)) [b.1]
        | .fault => .skip

/-- The first admission of an image: relocate it, zero its zero section, mark it, and create the arenas that it declares. -/
def firstAdmission (asid va : Nat) (r : ImgRest) (arenas : List (Nat × Nat × Nat)) (die : Nat) : Prog :=
  .all [ Prog.each r.relocs (relocate asid va (va + r.dataOff)),
         zeroVa asid (va + r.zeroOff) r.zeroLen,
         .ask fun s => (match walk s asid (va + 19) with
           | .entry w => devWrite (entryPa w (va + 19)) [1]
           | .fault => .skip),
         Prog.each arenas fun a => createArena asid a.1 a.2.1 a.2.2 die ]

/-! ## Charge (06 R106) -/

/-- The shares of the bound nodes in packets, by their place in the image: the rest goes one each in ascending relative node number. -/
def shares (allot : Nat) (w : Nat) (bs : List Bound) : List Nat :=
  let sum := total (bs.map fun b => b.weight)
  let base := bs.map fun b => if sum = 0 then 0 else allot * b.weight / sum
  let rest := allot - total base
  let order := sortBy (fun (e : Nat × Nat) => e.1) (bs.zipIdx.map fun e => (e.1.y * (w / 2) + e.1.x / 2, e.2))
  base.zipIdx.map fun e => e.1 + if order.findIdx (fun o => o.2 == e.2) < rest then 1 else 0

/-! ## Nodes as they are loaded (15 R303; 01 R29; 08 R152; 06 R107, R108) -/

/-- An unbound node of a rectangle: halted from load (01 R33). -/
def unboundNode (tid : Nat) : Node := { Node.reset with task := some tid }

/-- A bound node at load: context 0 ready at its entry block, its crib sealed with its share. -/
def boundNode (tid va : Nat) (i : Image) (b : Bound) (share : Nat) : Node :=
  { Node.reset with
    task := some tid
    halted := false
    ctxs := [(0, ⟨BitVec.ofNat 58 ((va + i.codeOff + b.entry) % 2 ^ 57), 0, .ready, none, []⟩)]
    crib := Crib.seal share 0 0 Crib.reset }

/-- The records of every node of a task's rectangle at load, by number m. -/
def loadNodes (tid va allot : Nat) (i : Image) : List (Nat × Node) :=
  let sh := shares allot i.width i.bound
  (List.range (i.width * i.height / 2)).map fun m => (m, match i.bound.zipIdx.find? fun e => e.1.y * (i.width / 2) + e.1.x / 2 == m with
    | some e => boundNode tid va i e.1 (sh.getD e.2 0)
    | none => unboundNode tid)

end Sys2Proof.Machine
end

