-- ==== Sys2Proof/Machine/Admission.lean ====
section
/-! DEFINITION. Bids and admission (15 R297–R303; 23 R389; 06 R106, R125), and the quads that load a task (15 R303, R305, R306). -/

namespace Sys2Proof.Machine
open Sys2Proof.Bits

/-! ## Loading a quad (15 R303 step 4, R305, R306) -/

/-- The quads of a rectangle, in ascending y and then x. -/
def quadCount (t : Task) : Nat := t.img.width / 4 * (t.img.height / 2)
/-- The positions of quad `q` of a task's rectangle, in ascending y and then x. -/
def quadPositions (t : Task) (q : Nat) : List (Nat × Nat) :=
  rectPositions (t.x + q % (t.img.width / 4) * 4) (t.y + q / (t.img.width / 4) * 2) 4 2
/-- The nodes of quad `q` of a task's rectangle. -/
def quadNodes (t : Task) (q : Nat) : List Nat :=
  ((quadPositions t q).filter fun p => isNodePos p.1 p.2).map fun p => nodeAt p.1 p.2
/-- The quad of the package at quad `q` of a task's rectangle. -/
def quadPlace (t : Task) (q : Nat) : Nat := quadAt (t.x + q % (t.img.width / 4) * 4) (t.y + q / (t.img.width / 4) * 2)

/-- A tile whose cells and checksums disagree at a save or a restore kills the task (24 R403). -/
def checkTiles (n tid : Nat) (nd : Node) : Prog :=
  match nd.tiles.find? fun e => !(e.2.badRows = 0) with
  | none => .skip
  | some e => .ask fun s =>
    .all [ report n (mkFault nd 0x72 (freePlace s) 0 0 (BitVec.ofNat 64 (e.1 + e.2.badRows * 2 ^ 32))) (some 1), .upd .fresh, killTask tid ]

/-- Change a task that is loading. -/
def whileLoading (tid : Nat) (k : Task → Prog) : Prog :=
  .ask fun s => match s.task tid with
    | some t => if t.st = .loading then k t else .skip
    | none => .skip

/-- A node takes its saved section, or at an admission its record at load: what remains in its crib is sealed as a new share (06 R117). -/
def startNode (tid n : Nat) : Prog :=
  whileLoading tid fun t =>
    let m := nodeM t n
    let old := Sparse.get Node.reset t.savedNodes m
    .all [ .upd (.node n fun nd => { old with
             park := nd.park
             crib := Crib.seal (old.crib.charge / 64) (old.crib.unfed / 64) old.crib.drawn old.crib }),
           .upd (.task tid fun o => o.map fun t => { t with savedNodes := t.savedNodes.filter fun e => !(e.1 == m) }),
           checkTiles n tid old ]

/-- The bytes other than zero of a page of the context area, by their distance from its first address. -/
def ctxBytes (s : State) (asid va : Nat) : List (Nat × Byte) :=
  match walk s asid va with
  | .fault => []
  | .entry w =>
    let pa := entryPa w va
    let at_ := distinct ((s.mem.map fun c => c.1) ++ s.l2.flatMap fun e => (List.range 128).map fun k => e.1 * 128 + k)
    (at_.filter fun x => x / 2 ^ 16 = pa / 2 ^ 16).filterMap fun x => let b := s.byteNow x
      if b = 0 then none else some (x - pa, b)

/-- Restore a saved tile of a quad's scratchpad from the context area (15 R308). -/
def loadTile (t : Task) (q tile : Nat) : Prog :=
  Prog.each (List.range 4) fun k => .ask fun s =>
    let off := tile * 2 ^ 18 + k * 2 ^ 16
    Prog.each (ctxBytes s t.asid (padSection t q + off)) fun b => .upd (.pad (quadPlace t q * 2 ^ 20 + off + b.1) b.2)

/-- The scratchpad of a quad below 0x000C_0000: zeroed, then as it was saved (03 R66). -/
def loadPad (tid q : Nat) : Prog :=
  whileLoading tid fun t => .ask fun s =>
    let base := quadPlace t q * 2 ^ 20
    .all [ Prog.each (s.pads.filter fun b => base ≤ b.1 && b.1 < base + 0xC0000) fun b => .upd (.pad b.1 0),
           Prog.each (t.savedTiles.filter fun e => e / 4 == q) fun e => loadTile t q (e % 4),
           .upd (.task tid fun o => o.map fun t => { t with savedTiles := t.savedTiles.filter fun e => !(e / 4 == q) }) ]

/-- A parked token is delivered (15 R306); one that came over a memory edge meets what the edge does then (04 R90). -/
def deliverParked (tid : Nat) (t : Task) (x : Nat × Spilled) : Prog :=
  let n := nodeOfM t x.1
  let go := arrive n x.2.q x.2.slot x.2.tok x.2.edge
  match x.2.edge with
  | some e => overEdge n tid e x.2.q x.2.tok go
  | none => go

/-- The last quad of a task has started: at an admission TASKID and STATUS 0x01 are written (15 R303 step 5); its slice begins (15 R307), and its
parked tokens are delivered (15 R306). -/
def taskStarted (tid : Nat) : Prog :=
  whileLoading tid fun t => if t.started.length < quadCount t then .skip else
    .all [ Prog.when (!t.announced) (writeStatus t.recAsid t.recVa 1 tid),
           .ask fun s => .upd (.task tid fun o => o.map fun t => { t with
             st := .running
             announced := true
             sliceFrom := s.tbase
             parked := [] }),
           Prog.each t.parked (deliverParked tid t),
           replaceTask tid ]

/-- Every position of quad `q` loads the task, and the quad starts. -/
def startQuad (tid q : Nat) : Prog :=
  whileLoading tid fun t =>
    .all [ Prog.each (quadNodes t q) (startNode tid), loadPad tid q,
           whileLoading tid fun _ => .all [
             .upd (.task tid fun o => o.map fun t => { t with started := t.started ++ [q] }),
             Prog.each (quadNodes t q) releaseStream,
             taskStarted tid ] ]

/-- Every quad of a task starts. -/
def startAll (tid : Nat) : Prog := whileLoading tid fun t => Prog.each (List.range (quadCount t)) (startQuad tid)

/-! ## Bids (15 R298) -/

/-- Who bids: a record in the hardware part of a queue, or a swept task. -/
inductive Bidder where
  | new (q : Nat) (e : QEntry)
  | swept (tid : Nat) (t : Task)
  deriving DecidableEq, Repr

/-- A bid with what its rank and its bypass count are made of. -/
structure Bid where
  prio : Nat
  enq : Nat
  bypass : Nat
  who : Bidder
  deriving DecidableEq, Repr

/-- Whether a bid ranks above another: PRIO, then the lower enqueue count. -/
def Bid.above (a b : Bid) : Bool := decide (b.prio < a.prio) || (decide (a.prio = b.prio) && decide (a.enq < b.enq))

/-- The bids of a partition in rank order. A swept task whose end is decided is not resumed (24 R400). -/
def bids (s : State) (p : Nat) : List Bid :=
  sortLe Bid.above (((s.part p).queues.flatMap fun e => e.2.hw.map fun x => ⟨recField x.trec 2 21 3, x.enq, x.bypass, .new e.1 x⟩) ++
    s.tasks.filterMap fun e => match e.2 with
      | some t => if t.part = p && t.st = .swept && t.doomed.isNone then some ⟨t.prio, t.enq, t.bypass, .swept e.1 t⟩ else none
      | none => none)

/-! ## The checks (15 R299) -/

/-- Whether a line of a range of memory is some task's provisional or held line: the Ostler waits for it (03 R75). -/
def rangeOwned (s : State) (asid a len : Nat) : Bool :=
  let ps := physPieces s asid (len / 2 ^ 16 + 2) a len
  let hit := fun (line : Nat) => ps.any fun p => decide (line * 128 < p.1 + p.2) && decide (p.1 < line * 128 + 128)
  s.l2.any (fun e => match e.2 with
    | some l => l.owner.isSome && hit e.1
    | none => false) || s.held.any fun h => hit h.line

/-- The ranges of an image that the Ostler reads: its header and tables, and before its first admission all of it. -/
def imageRanges (s : State) (asid va : Nat) : List (Nat × Nat) :=
  (va, 80) :: (match vbytes s asid va 80 imgPage with
    | none => []
    | some h => [(va + 80, 32 * le h 12 2 + 32 * le h 14 2 + 16 * le h 16 2 + 8 * le h 18 1), (va + le h 64 8, 16 * le h 72 4)] ++
        if le h 19 1 = 0 then [(va, le h 40 8 + le h 48 8 + 64 + le h 56 8)] else [])

/-- Whether the Ostler must wait for lines of an image. -/
def imageOwned (s : State) (asid va : Nat) : Bool := (imageRanges s asid va).any fun r => rangeOwned s asid r.1 r.2

/-- The error that the Ostler meets as it reads an image (26 R419). -/
def imageTrouble (s : State) (asid va : Nat) : Option Prog :=
  let broken := (s.l2.filterMap fun e => e.2.bind fun l => if l.ue = [] && !l.tagUe then none else some e.1) ++ s.hub.memUe.map (· / 2)
  if broken = [] then none
  else (imageRanges s asid va).findSome? fun r =>
    let ps := physPieces s asid (r.2 / 2 ^ 16 + 2) r.1 r.2
    (broken.filter fun line => ps.any fun p => decide (line * 128 < p.1 + p.2) && decide (p.1 < line * 128 + 128)).findSome? (readTrouble s)

/-- What the checks have found of a record that may be admitted: its image, and where the arenas go that it declares. -/
structure Cand where
  img : Image
  rest : ImgRest
  arenas : List (Nat × Nat × Nat)
  deriving DecidableEq, Repr

/-- The outcome of the checks of R299: rejected under a number of R389, waiting for a line, or for the ASID with the size of its rectangle, or passed. -/
inductive RecCheck where
  | reject (k : Nat)
  | wait (size : Option (Nat × Nat))
  | pass (c : Cand)
  deriving DecidableEq, Repr

/-- ALLOT of a record. -/
def recAllot (r : List Word) : Nat := recField r 1 0 48
/-- PBUDGET of a record. -/
def recBudget (r : List Word) : Nat := recField r 2 32 32
/-- ASID of a record. -/
def recAsid (r : List Word) : Nat := recField r 5 0 11

/-- Whether an ASID has an admitted or swept task. -/
def asidBusy (s : State) (asid : Nat) : Bool :=
  s.tasks.any fun e => match e.2 with
    | some t => t.asid == asid && (!(decide (t.st = .ending)) || t.closing.isSome)
    | none => false

/-- Whether CTX maps normal, writable pages for the whole context area (15 R308). -/
def ctxOk (s : State) (asid ctx : Nat) (i : Image) : Bool :=
  ctx % 2 ^ 16 = 0 && rangePass s asid ctx (2 ^ 18 + i.width * i.height / 2 * 2 ^ 20 + i.width * i.height / 8 * (3 * 2 ^ 18))
    (fun w => entryClass w = 0 && entryWr w)

/-! ### Links between planes (01 R22; DEDUCED, log 69) -/

/-- The block at an address of an image's code section, where it is a block that lies within the section. -/
def imageBlock (s : State) (asid va : Nat) (i : Image) (a : Nat) : Option Fetched :=
  let lo := va + i.codeOff
  let stop := lo + i.codeLen
  if a < lo || stop < a + 64 then none
  else (vbytes s asid a 64 imgPage).bind fun h =>
    let b : Fetched := ⟨0, BitVec.ofNat 58 a, quadsOf 4 h, []⟩
    if !(hKind b = 0xB1 || hKind b = 0xB2) || stop < a + 64 + 16 * hNins b then none
    else (vbytes s asid (a + 64) (16 * hNins b) imgPage).map fun is => { b with ins := quadsOf (hNins b) is }

/-- The blocks that a block names: where its exits, calls and spawns lead, and where its calls return to. -/
def namedBlocks (b : Fetched) : List Nat :=
  ((blockInstrs b).filterMap id).flatMap fun i => match i with
    | .br f => [relDest b.pc f.boff]
    | .call f => [relDest b.pc f.boff, nextBlock b.pc (hNins b)]
    | .calli _ => [nextBlock b.pc (hNins b)]
    | .spawn f => [relDest b.pc (f.imm.extractLsb' 0 60)]
    | _ => []

/-- The blocks of a node, from the addresses in `todo` on; `k` bounds the search. -/
def nodeBlocks (s : State) (asid va : Nat) (i : Image) : Nat → List Nat → List Nat → List Fetched
  | 0, _, _ => []
  | _, [], _ => []
  | k + 1, a :: as, seen =>
    if seen.contains a then nodeBlocks s asid va i k as seen
    else match imageBlock s asid va i a with
      | none => nodeBlocks s asid va i k as (a :: seen)
      | some b => b :: nodeBlocks s asid va i k (namedBlocks b ++ as) (a :: seen)

/-- Whether blocks send a control-plane token to a port. -/
def sendsScalar (bs : List Fetched) (port : Nat) : Bool :=
  bs.any fun b => ((blockInstrs b).filterMap id).any fun j =>
    outPlanes j = [0] && (targetsOf j).any fun t => !(field t 10 2 = 0) && field t 7 3 = 2 && field t 0 7 = port

/-- Whether every block of a node that has the slot reads the data plane there, and one has it. -/
def dataSlot (bs : List Fetched) (q slot : Nat) : Bool :=
  let ps := bs.filterMap fun b => (b.instr q).bind fun j => if hasSlot j slot then some (inPlanes j slot) else none
  !ps.isEmpty && ps.all fun p => !p.contains 0

/-- Whether no edge of an image leads from a control-plane producer to a data-plane slot. -/
def linksOk (s : State) (asid va : Nat) (i : Image) : Bool :=
  let blocks := fun (n : Nat) => nodeBlocks s asid va i (256 * (i.codeLen / 64 + 1)) [va + i.codeOff + (i.bound.map fun b => b.entry).getD n 0] []
  i.edges.all fun e => !(sendsScalar (blocks e.src) e.port && dataSlot (blocks e.dst) e.q e.slot)

/-- The checks that need the image, in their order (23 R389). -/
def checkImage (s : State) (p : Nat) (r : List Word) (i : Image) (rest : ImgRest) : RecCheck :=
  let asid := recAsid r
  let rect := (s.part p).rect
  let va := (r.getD 0 0).toNat
  if !(imageOk i && imageMapped s asid va i rest && linksOk s asid va i) || 8388608 < recBudget r || !edgeArenaOk s asid i then .reject 2
  else
    let later : List (Nat × Nat × Nat) → RecCheck := fun as =>
      if rect.2.2.1 < i.width || rect.2.2.2 < i.height then .reject 3
      else if recAllot r < i.bound.length then .reject 4
      else if !ctxOk s asid (r.getD 4 0).toNat i then .reject 5
      else .pass ⟨i, rest, as⟩
    if rest.relocated = 1 || i.arenas = [] then later []
    else if asidBusy s asid then .wait (some (i.width, i.height))
    else match placeArenas i.arenas (freeIds s asid) (coveredPages s asid) with
      | none => .reject 2
      | some as => later as

/-- Whether the Groom has still to write an entry of an ASID (25 R413): what an image needs may be among its pages. -/
def dueAny (s : State) (asid : Nat) : Bool := s.parts.any fun e => e.2.frames.any fun f => f.asid == asid && f.due

/-- The checks of a record that bids in partition `p`. -/
def checkRecord (s : State) (p : Nat) (r : List Word) : RecCheck :=
  let asid := recAsid r
  let va := (r.getD 0 0).toNat
  let base := field (s.part p).w0 42 11
  if !(recField r 2 26 6 = p && (s.part p).en && base ≤ asid && asid < base + field (s.part p).w0 30 12) then .reject 1
  else if !(va % 64 = 0) then .reject 2
  else if imageOwned s asid va then .wait none
  else match (match readImage s asid va with
    | none => RecCheck.reject 2
    | some (i, rest) => checkImage s p r i rest) with
    | .reject k => if dueAny s asid then .wait none else .reject k
    | c => c

/-! ## Placements (15 R300) and what an admission takes -/

/-- Whether two rectangles share a position. -/
def overlaps (a b : Nat × Nat × Nat × Nat) : Bool :=
  decide (a.1 < b.1 + b.2.2.1) && decide (b.1 < a.1 + a.2.2.1) && decide (a.2.1 < b.2.1 + b.2.2.2) && decide (b.2.1 < a.2.1 + a.2.2.2)

/-- The rectangle of a task. -/
def Task.rect (t : Task) : Nat × Nat × Nat × Nat := (t.x, t.y, t.img.width, t.img.height)

/-- Whether a rectangle holds a bad node. -/
def rectBad (s : State) (r : Nat × Nat × Nat × Nat) : Bool := s.hub.bad.any fun n => inRect r (nodeX n) (nodeY n)

/-- The placement of a rectangle in a partition: the first origin on its quad grid that is free. -/
def placement (s : State) (p w h : Nat) : Option (Nat × Nat) :=
  let r := (s.part p).rect
  let fits := fun (o : Nat × Nat) => o.1 + w ≤ r.1 + r.2.2.1 && o.2 + h ≤ r.2.1 + r.2.2.2 && !rectBad s (o.1, o.2, w, h) &&
    !(s.tasks.any fun e => match e.2 with
      | some t => (t.st = .running || t.st = .loading) && overlaps t.rect (o.1, o.2, w, h)
      | none => false)
  ((List.range (r.2.2.2 / 2)).flatMap fun j => (List.range (r.2.2.1 / 4)).map fun i => (r.1 + 4 * i, r.2.1 + 2 * j)).find? fits

/-- Slots of a die's slot table that a partition holds. -/
def slotsOf (s : State) (die p : Nat) : Nat :=
  (s.tasks.filter fun e => match e.2 with
    | some t => t.owner / 256 == die && t.part == p
    | none => false).length

/-- The lowest free slot of a die, where the partition may take one (15 R296). -/
def freeSlot (s : State) (die p : Nat) : Option Nat :=
  if poolFree s 256 (slotsOf s die) (fun q => (s.part q).slotMin) none p then
    (List.range 256).find? fun k => !(s.tasks.any fun e => match e.2 with
      | some t => t.owner == die * 256 + k
      | none => false)
  else none

/-- Journal entries of a die that a partition has reserved (03 R74). -/
def journalOf (s : State) (die p : Nat) : Nat :=
  total (s.tasks.map fun e => match e.2 with
    | some t => if t.owner / 256 = die && t.part = p && !(t.st = .ending) then recBudget t.trec else 0
    | none => 0)

/-- Whether a partition may reserve `n` more journal entries of a die. -/
def journalRoom (s : State) (die p n : Nat) : Bool :=
  n = 0 || poolFree s 8388608 (fun q => journalOf s die q + if q = p then n - 1 else 0) (fun q => (s.part q).jrnMin) none p

/-! ## Verdicts -/

/-- What the arbiter finds of a bid: it is rejected, it waits (and counts for 15 R301 as one without a placement, or not), or it has its origin. -/
inductive Verdict where
  | reject (k : Nat)
  | wait (placeless : Bool)
  | admitted (o : Nat × Nat) (c : Option Cand)
  deriving DecidableEq, Repr

/-- Whether a bid counts as one without a placement (15 R301): it has none, or it has one whose die has no slot for it (23 R389). -/
def placeless (s : State) (p : Nat) (o : Option (Nat × Nat)) : Bool :=
  match o with
  | none => true
  | some o => (freeSlot s (dieAt o.1 o.2) p).isNone

/-- Judge a bid, with `place` as its way to find an origin. -/
def verdict (s : State) (p : Nat) (place : Nat → Nat → Option (Nat × Nat)) (b : Bid) : Verdict :=
  match b.who with
  | .swept _ t => (match place t.img.width t.img.height with
    | some o => .admitted o none
    | none => .wait true)
  | .new _ e => match checkRecord s p e.trec with
    | .reject k => .reject k
    | .wait size => .wait (size.any fun z => placeless s p (place z.1 z.2))
    | .pass c => match place c.img.width c.img.height with
      | none => .wait true
      | some o =>
        if recAllot e.trec ≤ (s.part p).quota && logRoom s p && (freeSlot s (dieAt o.1 o.2) p).isSome &&
            journalRoom s (dieAt o.1 o.2) p (recBudget e.trec) && (edgeRoom s (recAsid e.trec) c.img).isSome then .admitted o (some c)
        else .wait (placeless s p (some o))

/-- BYPASS of a partition. -/
def Part.bound (p : Part) : Nat := field p.w0 53 8

/-- The bid for which the partition reserves (15 R301). -/
def reservingBid (s : State) (p : Nat) : Option Bid :=
  let bs := bids s p
  match bs.find? fun b => (s.part p).reserving == some b.enq with
  | some b => some b
  | none => bs.find? fun b => (s.part p).bound ≤ b.bypass

/-- Whether admissions of a partition have stopped: the part is too hot (21 R355), or the partition is stranded (01 R37). -/
def admissionStopped (s : State) (p : Nat) : Bool := !(s.power = .running) || s.hub.thermal || (s.part p).stranded

/-! ## Acting on a verdict -/

/-- The next TASKID, and the count moved on. -/
def withTaskId (k : Nat → Prog) : Prog :=
  .ask fun s => .seq (.upd (.hub fun h => { h with nextTask := h.nextTask + 1 })) (k s.hub.nextTask)

/-- End a record that was never admitted: TASKID and STATUS, a zero-draw meter record, DONE (01 R34, 06 R119). -/
def endRecord (p : Nat) (e : QEntry) (tid status : Nat) (before : Prog) : Prog :=
  .all [ writeStatus e.asid e.va status tid,
         beforeStamp p,
         .ask fun s => appendLog p (meterBody (stamp (s.part p).opened s.tbase) 0 0 0 0 tid p status 0 0),
         before,
         writeDone e.asid (e.trec.getD 7 0).toNat status ]

/-- Reject a record under check `k` (23 R389). -/
def rejectRecord (p q : Nat) (e : QEntry) (k : Nat) : Prog :=
  withTaskId fun tid => .seq (endRecord p e tid 0x80 (deviceEntry p tid 1 (BitVec.ofNat 64 k))) (dropQueue p q e.enq)

/-- The bind record and state of a task at its admission. -/
def newTask (p owner : Nat) (b : Bid) (e : QEntry) (o : Nat × Nat) (i : Image) (tid : Nat) (now : Word) : Task where
  trec := e.trec
  recVa := e.va
  recAsid := e.asid
  part := p
  asid := recAsid e.trec
  prio := b.prio
  topup := field (e.trec.getD 2 0) 20 1 = 1
  enq := b.enq
  owner := owner
  st := .loading
  x := o.1
  y := o.2
  img := i
  frames := []
  journal := []
  verUndo := []
  deadUndo := []
  coverUndo := []
  sends := []
  launches := []
  received := []
  allot := recAllot e.trec
  granted := false
  admitted := now
  sliceFrom := now
  ran := 0
  dusk := none
  savedNodes := loadNodes tid (e.trec.getD 0 0).toNat (recAllot e.trec) i
  savedTiles := []
  parked := []
  started := []
  refused := []
  doomed := none
  closing := none
  announced := false
  bypass := 0

/-- Admit a record at an origin (15 R303 steps 1 to 3); its quads are still to load. -/
def admitNew (p : Nat) (b : Bid) (q : Nat) (e : QEntry) (o : Nat × Nat) (c : Cand) : Prog :=
  withTaskId fun tid => .ask fun s =>
    let die := dieAt o.1 o.2
    let owner := die * 256 + (freeSlot s die p).getD 0
    let va := (e.trec.getD 0 0).toNat
    .all [ .upd (.part p fun x => { x with quota := x.quota - recAllot e.trec }),
           .upd (.task tid fun _ => some (newTask p owner b e o c.img tid s.tbase)),
           Prog.when (c.rest.relocated = 0) (firstAdmission (recAsid e.trec) va c.rest c.arenas die),
           .ask fun s => takeEdges (recAsid e.trec) tid ((edgeRoom s (recAsid e.trec) c.img).getD []),
           dropQueue p q e.enq ]

/-- Give a bid its origin: a new task is admitted, a swept one takes its place again; `k` goes on with its TASKID. -/
def admitBid (p : Nat) (b : Bid) (o : Nat × Nat) (c : Option Cand) (k : Nat → Prog) : Prog :=
  .seq (.upd (.part p fun x => if x.reserving = some b.enq then { x with reserving := none } else x)) (match b.who, c with
    | .new q e, some c => .ask fun s => .seq (admitNew p b q e o c) (k s.hub.nextTask)
    | .swept tid _, _ => .seq (.upd (.task tid fun u => u.map fun t => { t with
        st := .loading
        x := o.1
        y := o.2
        started := []
        bypass := 0 })) (k tid)
    | _, _ => .skip)

/-- Count a bypass of a waiting bid, up to the bound. -/
def countBypass (p : Nat) (b : Bid) : Prog :=
  match b.who with
  | .new q _ => .upd (.part p fun x => { x with queues := Sparse.upd Queue.reset x.queues q fun y =>
      { y with hw := y.hw.map fun e => if e.enq = b.enq then { e with bypass := e.bypass + 1 } else e } })
  | .swept tid _ => .upd (.task tid fun o => o.map fun t => { t with bypass := t.bypass + 1 })

/-- The bypasses of an admission (15 R301): while no task reserves, each bid above that lacks a placement counts one, and the highest that
reaches the bound reserves. -/
def countBypasses (s : State) (p : Nat) (place : Nat → Nat → Option (Nat × Nat)) (b : Bid) : Prog :=
  if (reservingBid s p).isSome then .skip else
  let over_ := (bids s p).filter fun x => x.above b && verdict s p place x = .wait true
  .seq (Prog.each over_ (countBypass p)) (match over_.find? fun x => (s.part p).bound ≤ x.bypass + 1 with
    | some x => .upd (.part p fun y => { y with reserving := some x.enq })
    | none => .skip)

/-! ## AREA_BIDDING (15 R300, R301) -/

/-- What the arbiter does next: an error in an image that bids is seen to; then the first bid in rank order that is rejected or admitted. While a task reserves, only it and those above
it are admitted. -/
def arbiterJob (s : State) (p : Nat) : Option Prog :=
  let place := placement s p
  ((bids s p).findSome? fun b => match b.who with
    | .new _ e => imageTrouble s (recAsid e.trec) (e.trec.getD 0 0).toNat
    | _ => none).or <| (bids s p).findSome? fun b => match verdict s p place b, b.who with
    | .reject k, .new q e => if logRoom s p then some (rejectRecord p q e k) else none
    | .admitted o c, _ =>
      if admissionStopped s p || (match reservingBid s p with
        | some r => r.above b
        | none => false) then none
      else some (.seq (countBypasses s p place b) (admitBid p b o c startAll))
    | _, _ => none

/-- AREA_BIDDING (15 R300). -/
def execAreaBidding (p : Nat) (s : State) : Host.Outcome State Fault Refusal :=
  match arbiterJob s p with
  | some a => a.done s
  | none => .refused .notEnabled

end Sys2Proof.Machine
end

