-- ==== Sys2Proof/Machine/Farrier.lean ====
section
/-! DEFINITION. The Farrier (22 R373–R375; 23 R376–R378, R387), unmaps with their tokens (03 R70, R71; 23 R379), and the crib's own events (06
R108; 24 R404). -/

namespace Sys2Proof.Machine
open Sys2Proof.Bits

/-! ## FARRIER_ACTION (22 R373) -/

/-- Act on a fault report: the record first, then the abort with STATUS 0x82; of a task that is ending the record says superseded. -/
def actOn (r : Report) : Prog :=
  .ask fun s => match r.task with
    | some tid => if taskLive s tid then .seq (farrierRecord r 1) (abortTask tid 0x82) else farrierRecord r 2
    | none => farrierRecord r 2

/-- FARRIER_ACTION (22 R373): reports are taken in the order in which they came. -/
def execFarrierAction (k : Nat) (s : State) : Host.Outcome State Fault Refusal :=
  match k, s.hub.reports with
  | 0, r :: _ => (Prog.seq (.upd (.hub fun h => { h with reports := h.reports.drop 1 })) (actOn r)).done s
  | _, _ => .refused .notEnabled

/-! ## PAGE_FAULT_RESOLVE (23 R377, R378, R387) -/

/-- The frame that the Groom may map for a page report: assigned to the page, its class not reserved, with the right that the access
needs. -/
def groomFinds (s : State) (asid : Nat) (p : PageReport) : Option FrameReq :=
  match assigned s asid p.page with
  | some (_, f) => if !(f.req.cls = 3) && (if p.exec then f.req.ex else if p.write then f.req.wr else f.req.rd) then some f.req else none
  | none => none

/-- Forget a held page of a node: its firings translate afresh. -/
def Node.unhold (page : Nat) (nd : Node) : Node := { nd with held := nd.held.filter fun h => !(h.page == page) }

/-- Release every firing and card of a task that is held on a page. A streaming node that holds one gets a re-latch token, which releases its firings
when it passes (23 R378). -/
def releasePage (tid page : Nat) : Prog :=
  .ask fun s =>
    let ns := (s.nodes.filter fun e => e.2.task == some tid && e.2.held.any fun h => h.page == page).map fun e => e.1
    let id := s.ctr
    .all [ .upd .fresh,
           .upd (.relatch fun l => l ++ (match s.task tid with
             | some t => (ns.filter fun n => (s.node n).streaming).map fun n => ⟨tid, nodeM t n, id, id, some page⟩
             | none => [])),
           Prog.each (ns.filter fun n => !(s.node n).streaming) fun n => .upd (.node n (Node.unhold page)),
           .upd (.cards fun l => l.map fun c => if c.task = tid && c.held = some page then { c with held := none } else c) ]

/-- What PAGE_FAULT_RESOLVE does with a page report; one of a task that is committing or aborting, or has ended, is recorded with ACTION 2 (22
R373). -/
def resolvePage (p : PageReport) : Prog :=
  .ask fun s => match p.rep.task.bind fun tid => (s.task tid).map fun t => (tid, t) with
    | none => farrierRecord p.rep 2
    | some (tid, t) => if !taskLive s tid then farrierRecord p.rep 2 else match groomFinds s t.asid p with
      | some f => .all [ mapFrame t.asid f, releasePage tid p.page, farrierRecord p.rep 0 ]
      | none => .seq (farrierRecord p.rep 1) (abortTask tid 0x82)

/-- PAGE_FAULT_RESOLVE (23 R377). -/
def execPageFaultResolve (k : Nat) (s : State) : Host.Outcome State Fault Refusal :=
  match s.hub.pages[k]? with
  | some p => (Prog.seq (.upd (.hub fun h => { h with pages := h.pages.eraseIdx k })) (resolvePage p)).done s
  | none => .refused .notEnabled

/-! ## UNMAP and its tokens (03 R70, R71; 23 R379) -/

/-- Whether a live arena of an ASID holds a page. -/
def inArena (s : State) (asid page : Nat) : Bool :=
  s.hub.arenas.any fun a => a.1.1 == asid && a.2.live && a.2.base / 2 ^ 16 ≤ page && page < (a.2.base + a.2.size) / 2 ^ 16

/-- The leaf that UNMAP clears: a valid one, outside every arena (04 R81). -/
def unmapJob (s : State) (asid va : Nat) : Option Word :=
  match leafKey s asid va with
  | none => none
  | some k =>
    let w := Sparse.get 0 s.tables k
    if bit w 63 && !inArena s asid (va / 2 ^ 16) then some w else none

/-- Free the history of the versioned words of a frame (23 R385). -/
def dropHistory (frame : Nat) : Prog :=
  .ask fun s => Prog.each (s.vers.filter fun v => v.1 * 8 / 2 ^ 16 == frame) fun v => .upd (.ver v.1 { v.2 with hist := [] })

/-- UNMAP (03 R70): the entry is cleared, the TLB's copy invalidated, and the tokens injected. -/
def execUnmap (asid va : Nat) (s : State) : Host.Outcome State Fault Refusal :=
  match unmapJob s asid va with
  | none => .refused .notEnabled
  | some w => (Prog.all [ clearLeaf asid va, Prog.when (entryClass w = 2) (dropHistory (field w 16 36)),
      invalidate asid (some (va % 2 ^ 57 / 2 ^ 16)) (some (field w 16 36)) ]).done s

/-- Whether a node still has a store to be performed that was committed before a count. -/
def Node.olderStores (before : Nat) (nd : Node) : Bool :=
  nd.wq.any fun w => match w with
    | .store _ _ _ b => b.order < before
    | _ => false

/-- Whether a node still has a load or a store that issued before a count. -/
def Node.older (before : Nat) (nd : Node) : Bool := nd.loads.any (fun l => l.order < before) || nd.olderStores before

/-- Whether an action stores to a frame when it takes effect: a store-like, a record that QPOP writes. -/
def Act.pends (frame : Nat) : Act → Bool
  | .store _ _ _ op => op.lines.any fun l => l * 128 / 2 ^ 16 == frame
  | .hub (.qpop _ _ pa) _ => pa / 2 ^ 16 == frame
  | _ => false

/-- Whether a node has a store to a frame that was translated before the frame was taken away: pending in its mapped block, or committed and still to
be performed. -/
def Node.pends (frame : Nat) (nd : Node) : Bool :=
  (match nd.cur with
   | some m => m.units.any fun u => u.acts.any fun a => a.act.pends frame
   | none => false) ||
  nd.wq.any fun w => match w with
    | .store op _ _ _ => op.lines.any fun l => l * 128 / 2 ^ 16 == frame
    | _ => false

/-- Whether a load is one of a streaming form. -/
def PLoad.streams (l : PLoad) : Bool :=
  match holder l.instr with
  | some f => isStream l.instr f
  | none => false

/-- The frame that an unmap takes away. -/
def unmapFrame (s : State) (id : Nat) : Option Nat := (s.unmaps.find? fun u => u.id == id).bind fun u => u.frame

/-- Whether a re-latch token may pass: the node has completed what it had issued, through a latch also what it issued since to the frame that
leaves; a swept node has no latches (23 R379). -/
def reLatchJob (s : State) (k : Nat) : Option (ReLatch × Nat) :=
  match s.relatch[k]? with
  | none => none
  | some r => match s.task r.task with
    | none => none
    | some t =>
      let ref := homeRef s r.task t r.m
      let nd := s.node ref
      let gone := fun (p : Nat → Bool) => (unmapFrame s r.unmap).any p
      if ref < 2048 && (nd.olderStores r.before || gone nd.pends ||
          nd.loads.any fun l => l.streams && (l.order < r.before || gone fun f => l.es.any fun e => e.pa / 2 ^ 16 == f)) then none
      else some (r, ref)

/-- RE_LATCH_TOKEN (03 R70, 23 R378): the node drops its latches, and firings that were held for the token's page are released. -/
def execReLatchToken (k : Nat) (s : State) : Host.Outcome State Fault Refusal :=
  match reLatchJob s k with
  | none => .refused .notEnabled
  | some (r, ref) => (Prog.all [ .upd (.relatch fun l => l.eraseIdx k),
      Prog.when (ref < 2048) (.upd (.node ref fun nd => (match r.page with
        | some p => nd.unhold p
        | none => nd).onCur fun m => { m with latches := [] })), closeUnmaps ]).done s

/-- Whether a drain token may pass: no request that issued before it is left, and no pending store to the frame that is leaving. -/
def drainJob (s : State) (k : Nat) : Bool :=
  match s.drains[k]? with
  | none => false
  | some d => match s.task d.task with
    | none => true
    | some t =>
      let nd := refNode s (homeRef s d.task t d.m)
      !(nd.older d.before) && !(unmapFrame s d.unmap).any fun f => nd.pends f

/-- DRAIN_TOKEN (03 R71). -/
def execDrainToken (k : Nat) (s : State) : Host.Outcome State Fault Refusal :=
  if drainJob s k then (Prog.seq (.upd (.drains fun l => l.eraseIdx k)) closeUnmaps).done s else .refused .notEnabled

/-! ## The crib (06 R108, 24 R404) -/

/-- CRIB_BUDGET_END (06 R108): the crib is cut off and sealed. -/
def execCribBudgetEnd (n : Nat) (s : State) : Host.Outcome State Fault Refusal :=
  if (s.node n).task.isSome && (s.node n).crib.unfed = 0 && !(s.node n).crib.sealed then
    (Prog.upd (.node n fun nd => { nd with crib := { nd.crib with sealed := true } })).done s
  else .refused .notEnabled

/-- A crib that measures below its count (24 R404): it is restored, all twelve segments connected, and the node is bad; where it loses
faster than the feed restores it, the task is killed. -/
def mismatch (n tid measured : Nat) (fast : Bool) : Prog :=
  .ask fun s =>
    let f := mkFault (s.node n) 0x74 (freePlace s) 0 0 (BitVec.ofNat 64 ((s.node n).crib.charge % 2 ^ 32 + measured % 2 ^ 32 * 2 ^ 32))
    if fast then .all [ report n f (some 1), .upd .fresh, markBad n, killTask tid ]
    else .all [ report n f (some 0), .upd .fresh, markBad n,
      .upd (.node n fun nd => { nd with crib := { nd.crib with segments := 4095 } }), replaceTask tid ]

/-- CHARGE_MISMATCH (24 R404). -/
def execChargeMismatch (n measured : Nat) (fast : Bool) (s : State) : Host.Outcome State Fault Refusal :=
  match (s.node n).task with
  | some tid => if measured < (s.node n).crib.charge then (mismatch n tid measured fast).done s else .refused .notEnabled
  | none => .refused .notEnabled

end Sys2Proof.Machine
end

