-- ==== Sys2Proof/Machine/Meter.lean ====
section
/-! DEFINITION. Accounting periods (06 R120, R121, R125) and signatures of the usage log (06 R126). -/

namespace Sys2Proof.Machine
open Sys2Proof.Bits

/-! ## Periods -/

/-- PERIOD_AUTO_OPEN (06 R121, R125): as soon as the period reservation is whole; the counter is carried forward. -/
def execPeriodAutoOpen (p : Nat) (s : State) : Host.Outcome State Fault Refusal :=
  if periodDue s p && periodWhole s p then (autoOpen p).done s else .refused .notEnabled

/-! ## Signatures -/

/-- The signed message (06 R126). -/
def signMessage (p n : Nat) (head : List Byte) : List Byte := toBytes 8 n ++ toBytes 1 p ++ List.replicate 7 0 ++ head

/-- A 32-bit number as RFC 8554 writes it: most significant byte first. -/
def u32 (x : Nat) : List Byte := (toBytes 4 x).reverse

/-- The 2828 bytes of a signature with leaf `q` (06 R126, in the order of RFC 8554): q, the LM-OTS type with C and 67 values, the LMS type, the path. -/
def signature (q : Nat) (msg : List Byte) : List Byte :=
  u32 q ++ u32 3 ++ (List.range (32 + 67 * 32)).map (Config.otsPart q msg) ++ u32 8 ++ (List.range (20 * 32)).map (Config.lmsPath q)

/-- Whether the key has a leaf left. -/
def leafLeft (s : State) : Bool := s.hub.leaf < 2 ^ 20

/-- Sign the chain head `head` of a log of `n` records: the leaf index moves on first. -/
def signAt (p n : Nat) (head : List Byte) : Prog :=
  .ask fun s =>
    let q := s.hub.leaf
    .seq (.upd (.hub fun h => { h with leaf := h.leaf + 1 }))
      (.upd (.part p fun x => { x with sigs := x.sigs ++ [⟨n, q, signature q (signMessage p n head)⟩] }))

/-- LOG_SIGN_256 (06 R126): the chain head after every 256th record, in order, while the key has leaves. -/
def execLogSign256 (p : Nat) (s : State) : Host.Outcome State Fault Refusal :=
  match (s.part p).toSign with
  | (n, head) :: rest => if leafLeft s then (Prog.seq (signAt p n head) (.upd (.part p fun x => { x with toSign := rest }))).done s
      else .refused .notEnabled
  | [] => .refused .notEnabled

end Sys2Proof.Machine
end

