-- ==== Sys2Proof/Machine/Commands.lean ====
section
/-! DEFINITION. The Wenfisil commands of the hub (21 R347–R353, R355, R357, R358; 15 R293–R297; 03 R68; 04 R81; 06 R120–R126; 22 R375) but for
the two starts. -/

namespace Sys2Proof.Machine
open Sys2Proof.Bits

/-! ## Sequence numbers and responses (21 R348, R349, R352) -/

/-- What a command comes to: a status, the response's body once the effect is complete, and the effect. -/
structure Reply where
  status : Nat
  body : State → List Byte
  effect : Prog

/-- Done, with an effect and no body. -/
def Reply.ok (p : Prog) : Reply := ⟨0, fun _ => [], p⟩
/-- Done, with a body and no effect. -/
def Reply.tell (bs : List Byte) : Reply := ⟨0, fun _ => bs, .skip⟩
/-- Malformed (0x04). -/
def Reply.malformed : Reply := ⟨4, fun _ => [], .skip⟩
/-- Partition not idle (0x05). -/
def Reply.busy : Reply := ⟨5, fun _ => [], .skip⟩
/-- Key unwrap or signature failure (0x06). -/
def Reply.badKey : Reply := ⟨6, fun _ => [], .skip⟩
/-- Refused by a rule (0x02): the first body word is a condition that the spec does not number. -/
def Reply.refused : Reply := ⟨2, fun s => bytesOf [Config.freeCode s.ctr], .upd .fresh⟩
/-- Refused with a condition that the spec numbers. -/
def Reply.refusedWith (k : Nat) : Reply := ⟨2, fun _ => toBytes 8 k, .skip⟩

/-- Send a response with the next device SEQ; it is stored where the command was executed. -/
def respond (opc status : Nat) (ref : Word) (body : List Byte) (store : Bool) : Prog :=
  .upd (.hub fun h =>
    let m : Msg := ⟨opc, 1, status, h.devSeq + 1, ref, body⟩
    { h with
      devSeq := h.devSeq + 1
      outbox := h.outbox ++ [m]
      stored := if store then (h.stored ++ [(ref, m)]).drop (h.stored.length + 1 - 64) else h.stored })

/-- Execute a command that stands next in order, and answer it. -/
def execute (opc : Nat) (seq : Word) (r : Reply) : Prog :=
  .all [ .upd (.hub fun h => { h with lastCmd := seq }), r.effect, .ask fun s => respond opc r.status seq (r.body s) true ]

/-- A command that is not next: the stored response once more, or STATUS 0x03. -/
def outOfOrder (opc : Nat) (seq : Word) : Prog :=
  .ask fun s => match s.hub.stored.find? fun e => e.1 == seq with
    | some e => if s.hub.lastCmd.toNat - seq.toNat < 64 && seq.toNat ≤ s.hub.lastCmd.toNat then
        .upd (.hub fun h => { h with outbox := h.outbox ++ [e.2] }) else respond opc 3 seq [] false
    | none => respond opc 3 seq [] false

/-- Whether a command is executed as the part stands (21 R352, R354): `inSafe` ones in the safe state as well; while a start is in progress only HEALTH
and IDENTITY, beside SYNC. -/
def accepts (p : Power) (opc : Nat) (inSafe : Bool) : Bool :=
  match p with
  | .off => false
  | .safe => inSafe
  | .starting => opc == 0x80 || opc == 0x82
  | .running => true

/-- A command that reaches the hub: one that stands next in order goes on with `k`; a command with a nonzero "—" field is malformed. -/
def inOrder (opc : Nat) (c : Cmd) (inSafe : Bool) (k : Host.Outcome State Fault Refusal) (s : State) : Host.Outcome State Fault Refusal :=
  if s.power = .off then .refused .notEnabled
  else if !accepts s.power opc inSafe then (respond opc 1 c.seq [] false).done s
  else if !(c.seq = s.hub.lastCmd + 1) then (outOfOrder opc c.seq).done s
  else if c.dash then (execute opc c.seq .malformed).done s
  else k

/-- A command that the hub answers. `run` gives `none` while the command must wait. -/
def hubCommand (opc : Nat) (c : Cmd) (inSafe : Bool) (run : State → Option Reply) (s : State) : Host.Outcome State Fault Refusal :=
  inOrder opc c inSafe (match run s with
    | some r => (execute opc c.seq r).done s
    | none => .refused .notEnabled) s

/-- The command codes that the hub knows (21 R351). -/
def knownOpcs : List Nat :=
  [0x01, 0x10, 0x11, 0x12, 0x13, 0x20, 0x30, 0x40, 0x50, 0x60, 0x61, 0x70, 0x71, 0x72, 0x73, 0x80, 0x81, 0x82, 0x90, 0xA0, 0xF0, 0xF1]

/-- A message with an unknown OPC or a reserved KIND (21 R351): malformed, in its place in the order of commands. -/
def unknownMessage (opc kind : Nat) (seq : Word) (s : State) : Host.Outcome State Fault Refusal :=
  if knownOpcs.contains opc && kind ≤ 2 then .refused .notEnabled
  else inOrder opc ⟨seq, false⟩ false ((execute opc seq .malformed).done s) s

/-! ## Links -/

/-- NON_ROD_PACKET (21 R347): dropped, and counted. -/
def execNonRodPacket (s : State) : Host.Outcome State Fault Refusal :=
  (Prog.upd (.hub fun h => { h with nonRod := h.nonRod + 1 })).done s

/-- SYNC (21 R349): SEQ 0 both ways; nothing is counted or stored. -/
def execSync (c : Cmd) (s : State) : Host.Outcome State Fault Refusal :=
  if s.power = .off then .refused .notEnabled
  else
    let bad := c.dash || !(c.seq = 0)
    (Prog.upd (.hub fun h => { h with
      outbox := h.outbox ++ [⟨1, 1, if bad then 4 else 0, 0, 0, if bad then [] else bytesOf [h.lastCmd, h.devSeq]⟩] })).done s

/-! ## Partitions (15 R293–R296) -/

/-- Whether a partition has a task queued. -/
def partQueued (s : State) (p : Nat) : Bool := (s.part p).queues.any fun q => !(q.2.hw = []) || !(q.2.ring = [])
/-- Whether a partition holds a task: queued, admitted or swept. -/
def partBusy (s : State) (p : Nat) : Bool := partQueued s p || !(partTasks s p = [])

/-- The eight by four positions of the Stable's cluster. -/
def stableRect (s : State) : Nat × Nat × Nat × Nat := (8 * (s.hub.stable % 8), 4 * (s.hub.stable / 8), 8, 4)

/-- The other enabled partitions. -/
def others (s : State) (p : Nat) : List Part := (s.parts.filter fun e => e.2.en && !(e.1 == p)).map fun e => e.2

/-- First ASID and number of ASIDs of a partition. -/
def Part.asids (x : Part) : Nat × Nat := (field x.w0 42 11, field x.w0 30 12)

/-- Whether the rectangle of an enabled entry keeps R294. -/
def rectOk (s : State) (p : Nat) (x : Part) : Bool :=
  let r := x.rect
  r.1 + r.2.2.1 ≤ 64 && r.2.1 + r.2.2.2 ≤ 64 && !overlaps r (stableRect s) && !((others s p).any fun y => overlaps r y.rect)

/-- Whether the ASIDs of an enabled entry are its own. -/
def asidsOk (s : State) (p : Nat) (x : Part) : Bool :=
  let a := x.asids
  1 ≤ a.2 && a.1 + a.2 ≤ 2048 && !((others s p).any fun y => decide (a.1 < y.asids.1 + y.asids.2) && decide (y.asids.1 < a.1 + a.2))

/-- Whether the minima of the enabled partitions fit the pools (15 R296). -/
def minimaOk (s : State) (p : Nat) (x : Part) : Bool :=
  let sum := fun (f : Part → Nat) => total ((x :: others s p).map f)
  sum Part.slotMin ≤ 256 && sum Part.hldMin ≤ 65536 && sum Part.histMin ≤ 16384 && sum Part.cardMin ≤ 32 && sum Part.jrnMin ≤ 8388608

/-- Whether an entry may be written as `x`, pools and places apart: what a partition that is in use lets change. -/
def partChange (s : State) (p : Nat) (x : Part) : Option Reply :=
  let o := s.part p
  let same := fun (keep0 keep1 : Word) => decide ((o.w0 ^^^ x.w0) &&& ~~~keep0 = 0) && decide ((o.w1 ^^^ x.w1) &&& ~~~keep1 = 0) && decide (o.w2 = x.w2)
  let soft := same 0x5FE0_0000_0000_0000 0xFFFF_FF00_0000_0000
  let move := o.stranded && partTasks s p = [] && same 0x3_FFFF 0
  if !o.en then none
  else if soft then none
  else if partBusy s p && !(move && x.en && rectOk s p x) then some .busy
  else if !x.en && (s.hub.mirrored.any (fun m => m.2.1 == p) ||
      s.hub.arenas.any fun a => a.2.live && decide (o.asids.1 ≤ a.1.1) && decide (a.1.1 < o.asids.1 + o.asids.2)) then some .refused
  else none

/-- A partition as it is created: a fresh log and fresh rings; key, frames, queues and mirror range are what their commands have set. -/
def Part.create (x : Part) (now : Word) : Part :=
  { Part.reset with
    w0 := x.w0
    w1 := x.w1
    w2 := x.w2
    key := x.key
    quota := x.quota
    queues := x.queues
    logCap := x.logCap
    opened := now
    frames := x.frames
    mirBase := x.mirBase
    mirLen := x.mirLen
    partner := x.partner }

/-- PART (15 R293, R294, R296). -/
def execPart (c : Cmd) (p : Nat) (w0 w1 w2 : Word) (s : State) : Host.Outcome State Fault Refusal :=
  hubCommand 0x10 c false (fun s =>
    let o := s.part p
    let x : Part := { o with
      w0 := w0
      w1 := w1
      w2 := w2 }
    let moved := !(decide ((o.w0 ^^^ w0) &&& 0x3_FFFF = 0))
    some (if !(p < 48 && field w0 18 12 = 0) then .malformed
      else if field w0 53 8 = 0 then .refused
      else match partChange s p x with
        | some r => r
        | none =>
          if x.en && !((rectOk s p x || (o.en && o.stranded && !moved)) && asidsOk s p x && minimaOk s p x) then .refused
          else .ok (.upd (.part p fun y =>
            let y : Part := { y with
              w0 := w0
              w1 := w1
              w2 := w2
              stranded := y.stranded && x.en && !moved }
            if x.en && !o.en then y.create s.tbase else y)))) s

/-- What stands in the frames written under a partition's key slot is lost to a reader under another key (03 R67). -/
def lapseKey (p : Nat) : Prog :=
  .ask fun s => Prog.each ((s.hub.slotOf.filter fun e => e.2 == p).map fun e => e.1) fun f => .seq (dropLines f) (garbleFrame f)

/-- Install a key pair in a partition's slot (15 R295). -/
def installKey (p : Nat) (k : List Byte) : Prog :=
  .ask fun s => .seq (Prog.when ((s.part p).key.isSome && !((s.part p).key == some k)) (lapseKey p)) (.upd (.part p fun x => { x with key := some k }))

/-- KEY (15 R295). -/
def execKey (c : Cmd) (p : Nat) (wrap : List Byte) (s : State) : Host.Outcome State Fault Refusal :=
  hubCommand 0x11 c false (fun s => some (
    if !(p < 48 && wrap.length = 72) then .malformed
    else if partBusy s p then .busy
    else match Config.unwrapKey wrap with
      | none => .badKey
      | some k => if k.take 32 = k.drop 32 then .badKey else .ok (installKey p k))) s

/-- RINGS (15 R297, 06 R125, 14 R281). -/
def execRings (c : Cmd) (p : Nat) (bases : List Word) (caps : List Nat) (logCap mirBase mirLen partner : Nat) (s : State) :
    Host.Outcome State Fault Refusal :=
  hubCommand 0x12 c false (fun s => some (
    if !(p < 48 && bases.length = 16 && caps.length = 16 && partner < 256) then .malformed
    else if partBusy s p then .busy
    else if logCap < 8 || logCap < (s.part p).log.length then .refused
    else .ok (.seq (.upd (.part p fun x => { x with
      queues := (List.range 16).foldl (fun qs k => Sparse.upd Queue.reset qs k fun y => { y with
        base := bases.getD k 0
        cap := caps.getD k 0 }) x.queues
      logCap := logCap
      mirBase := mirBase
      mirLen := mirLen
      partner := partner })) (enterAll p)))) s

/-- Whether an ASID lies in a partition's range. -/
def asidIn (s : State) (p asid : Nat) : Bool := (s.part p).asids.1 ≤ asid && asid < (s.part p).asids.1 + (s.part p).asids.2

/-! ## FRAMES (15 R295; 03 R62, R76; 21 R351) -/

/-- Whether a frame may be assigned to a partition: it is backed, not the device's own, and nobody else's. -/
def frameOk (s : State) (p : Nat) (f : FrameReq) : Bool :=
  paBacked (f.frame * 2 ^ 16) && f.frame < 2 ^ 36 && localAddr (f.frame * 2 ^ 16) % dieBytes < deviceBase &&
  (match frameOwner s f.frame with
   | some q => q = p
   | none => true)

/-- Whether a frame is on its way out of an ASID (03 R71). -/
def frameLeaving (s : State) (f : FrameReq) : Bool := s.unmaps.any fun u => u.frame == some f.frame

/-- A frame comes under a partition's key slot: what was written there under another slot is no plaintext any more (03 R67, 15 R295). -/
def takeSlot (p frame : Nat) : Prog :=
  .ask fun s =>
    .seq (Prog.when (s.hub.slotOf.any fun e => e.1 == frame && !(e.2 == p)) (.seq (dropLines frame) (garbleFrame frame)))
      (.upd (.hub fun h => { h with slotOf := (frame, p) :: h.slotOf.filter fun e => !(e.1 == frame) }))

/-- Assign a frame to a page of an ASID, and write its entry: of a page that has none, at once or later (25 R413). A page that is mapped versioned for the first time is zero, words and versions; a frame that
the page had before returns to the partition, once the unmap that takes it away is complete (03 R71). -/
def assignFrame (p asid : Nat) (f : FrameReq) : Prog :=
  .ask fun s =>
    let old := match walk s asid (f.page * 2 ^ 16) with
      | .entry w => some w
      | .fault => none
    let fresh := match old with
      | some w => !(entryClass w = 2 && field w 16 36 = f.frame)
      | none => true
    .all [ .upd (.part p fun x => { x with
             frames := (x.frames.filter fun g => !(g.asid == asid && g.req.page == f.page)) ++ [⟨asid, f, !(f.cls = 3)⟩] }),
           takeSlot p f.frame,
           (if f.cls = 3 || (old.isNone && !Config.groomAtOnce s.ctr) then clearLeaf asid (f.page * 2 ^ 16) else mapFrame asid f),
           .upd .fresh,
           (match old with
            | some w => if f.cls = 3 || !(w = leafWord f) then
                invalidate asid (some f.page) (if field w 16 36 = f.frame && !(f.cls = 3) then none else some (field w 16 36)) else .skip
            | none => .skip),
           (match assigned s asid f.page with
            | some g => Prog.when (!(old.any fun w => field w 16 36 == g.2.req.frame) && !frameLeaving s g.2.req) (returnFrame g.2.req.frame)
            | none => .skip),
           Prog.when (f.cls = 2 && fresh) (.seq (zeroVa asid (f.page * 2 ^ 16) (2 ^ 16)) (.ask fun s =>
             Prog.each (s.vers.filter fun v => v.1 * 8 / 2 ^ 16 == f.frame) fun v => .upd (.ver v.1 VerWord.reset))) ]

/-- FRAMES (15 R295): all of the list or nothing. -/
def execFrames (c : Cmd) (p asid : Nat) (fs : List FrameReq) (s : State) : Host.Outcome State Fault Refusal :=
  hubCommand 0x13 c false (fun s =>
    if !(p < 48 && asid < 2048 && fs.all fun f => f.page < 2 ^ 41) then some .malformed
    else if !(asidIn s p asid && fs.all fun f => frameOk s p f && !inArena s asid f.page) then some .refused
    else if fs.any (frameLeaving s) then none
    else some (.ok (Prog.each fs (assignFrame p asid)))) s

/-! ## QUOTA (06 R120, R121, R125) -/

/-- QUOTA. -/
def execQuota (c : Cmd) (p : Nat) (counter : Word) (period : Option Lane) (s : State) : Host.Outcome State Fault Refusal :=
  hubCommand 0x20 c false (fun s => some (
    if !(p < 48) then .malformed
    else match period with
      | none => .ok (.upd (.part p fun x => { x with quota := counter.toNat }))
      | some n => if periodWhole s p then .ok (openPeriod p n counter.toNat) else .refused)) s

/-! ## ARENA (04 R81) -/

/-- Whether every page of a range is mapped covered, on frames of the partition. -/
def coveredBy (s : State) (p asid base size : Nat) : Bool :=
  (List.range (size / 2 ^ 16)).all fun k => (match walk s asid (base + k * 2 ^ 16) with
    | .entry w => entryClass w = 1 && decide (frameOwner s (field w 16 36) = some p)
    | .fault => false)

/-- ARENA, create. A range that meets a live arena and an id in use are refused with STATUS 0x02 (04 R81 does not say; DESIGN CHOICE, log 32). -/
def execArenaCreate (c : Cmd) (p asid id base size die : Nat) (s : State) : Host.Outcome State Fault Refusal :=
  hubCommand 0x30 c false (fun s =>
    if !(p < 48 && asid < 2048) then some .malformed
    else if !(asidIn s p asid && 1 ≤ id && id ≤ 1023 && base % 2 ^ 16 = 0 && size % 2 ^ 16 = 0 && 0 < size && size ≤ 2 ^ 39 &&
      base + size ≤ 2 ^ 57 && die < 4) then some .refused
    else if asidBusy s asid then some .busy
    else if (s.arena asid id).isSome || s.hub.arenas.any (fun a => a.1.1 == asid && a.2.live && decide (base < a.2.base + a.2.size) &&
      decide (a.2.base < base + size)) then some .refused
    else if !coveredBy s p asid base size then if dueAny s asid then none else some .refused
    else some (.ok (createArena asid id base size die))) s

/-- ARENA, destroy: the generation moves on. No rule says when a partition is being torn down (04 R81), so the exception for it is never taken (DESIGN
CHOICE, log 32). -/
def execArenaDestroy (c : Cmd) (p asid id : Nat) (s : State) : Host.Outcome State Fault Refusal :=
  hubCommand 0x30 c false (fun s => some (
    if !(p < 48 && asid < 2048) then .malformed
    else if !(asidIn s p asid && 1 ≤ id && id ≤ 1023) then .refused
    else match s.arena asid id with
      | none => if asidBusy s asid then .busy else .refused
      | some a => if !(a.count = []) || !(a.pending = []) then .refused
        else if asidBusy s asid then .busy
        else .ok (onArena asid id fun a => { a with
          live := false
          gen := a.gen + 1 }))) s

/-! ## IMAGE and FWIN (21 R351; 03 R68; 02 R47) -/

/-- Write bytes at a virtual address of an ASID as the device does. -/
def hostWrite (asid va : Nat) (bs : List Byte) : Prog :=
  .ask fun s => Prog.each ((physPieces s asid (bs.length / 2 ^ 16 + 2) va bs.length).foldl
      (fun (acc : Nat × List (Nat × List Byte)) pc => (acc.1 + pc.2, acc.2 ++ [(pc.1, (bs.drop acc.1).take pc.2)])) (0, [])).2
    fun w => devWrite w.1 w.2

/-- IMAGE: between tasks of the ASID. -/
def execImage (c : Cmd) (p asid va : Nat) (bytes : List Byte) (s : State) : Host.Outcome State Fault Refusal :=
  hubCommand 0x40 c false (fun s =>
    if !(p < 48 && asid < 2048 && bytes.length ≤ 2 ^ 20) then some .malformed
    else if !asidIn s p asid then some .refused
    else if asidBusy s asid then some .busy
    else if !rangePass s asid va bytes.length (fun _ => true) then if dueAny s asid then none else some .refused
    else if rangeOwned s asid va bytes.length then none
    else some (.ok (hostWrite asid va bytes))) s

/-- A format window's four words. -/
structure Win where
  w0 : Word
  w1 : Word
  w2 : Word
  w3 : Word

/-- First byte, size, format, start of the scales and stride of a window. -/
def Win.base (w : Win) : Nat := field w.w0 0 52
/-- Bytes of the window. -/
def Win.size (w : Win) : Nat := field w.w1 0 52 + 1 - w.base
/-- The scale region that a window has: FP4 blocked only. -/
def Win.scales (w : Win) : Option (Nat × Nat) :=
  if field w.w2 52 4 = 12 then some (field w.w2 0 52, w.size / 4 + 2 * ceilDiv w.size (if field w.w3 0 32 = 0 then 1 else field w.w3 0 32)) else none
/-- Whether the window is active. -/
def Win.on (w : Win) : Bool := bit w.w3 63
/-- The ranges of physical bytes that a window covers. -/
def Win.ranges (w : Win) : List (Nat × Nat) := ((w.base, w.size) :: w.scales.toList).filter fun r => 0 < r.2

/-- Window `k` of a die of the domain as it stands. -/
def winNow (s : State) (die k : Nat) : Win := ⟨s.fwin die k 0, s.fwin die k 1, s.fwin die k 2, s.fwin die k 3⟩

/-- Whether two ranges meet. -/
def meet (a b : Nat × Nat) : Bool := decide (a.1 < b.1 + b.2) && decide (b.1 < a.1 + a.2)

/-- Whether a range of physical bytes lies in a die's memory. -/
def inDie (die : Nat) (r : Nat × Nat) : Bool := 0 < r.2 && dieBase die ≤ r.1 && r.1 + r.2 ≤ dieBase die + dieBytes

/-- Whether an active window keeps its own limits (03 R68). -/
def Win.ok (die : Nat) (w : Win) : Bool :=
  w.base % 128 = 0 && field w.w1 0 52 % 128 = 127 && w.base ≤ field w.w1 0 52 && inDie die (w.base, w.size) &&
  [0, 1, 5, 6, 7, 8, 9, 12].contains (field w.w2 52 4) &&
  (match w.scales with
   | none => true
   | some r => w.size % 128 = 0 && field w.w3 0 32 % 128 = 0 && !(field w.w3 0 32 = 0) && r.1 % 128 = 0 && inDie die r && !meet r (w.base, w.size))

/-- Whether the windows of a die are as they may be once window `k` is `w`. -/
def winsOk (s : State) (die k : Nat) (w : Win) : Bool :=
  let all := ((List.range 16).map fun j => (j, if j = k then w else winNow s die j)).filter fun e => e.2.on
  all.all fun e => e.2.ok die && all.all fun g => e.1 == g.1 || e.2.ranges.all fun a => g.2.ranges.all fun b => !meet a b

/-- Whether a task stands in the way of a window's rewrite: one of a partition with a frame in its old or new ranges. -/
def winBusy (s : State) (rs : List (Nat × Nat)) : Bool :=
  s.parts.any fun e => !(partTasks s e.1 = []) && e.2.frames.any fun f => rs.any fun r => meet r (f.req.frame * 2 ^ 16, 2 ^ 16)

/-- The ranges of a window's old and new contents, scale regions included (03 R68). -/
def winRanges (s : State) (die win : Nat) (w : Win) : List (Nat × Nat) := (winNow s die win).ranges ++ w.ranges

/-- Whether the bits named "—" of a window's four words are zero. -/
def winZeros (w : Win) : Bool := field w.w0 52 12 = 0 && field w.w1 52 12 = 0 && field w.w2 56 8 = 0 && field w.w3 32 31 = 0

/-- Write a window of a die of the domain: what the L2 holds of its ranges is written back and dropped first (02 R47). -/
def putWindow (s : State) (die win : Nat) (w : Win) : Prog :=
  .seq (Prog.each (winRanges s die win w) fun r => flushRange r.1 (r.1 + r.2 - 1)) (.upd (.hub fun h => { h with
    fwins := (die * 16 + win, [w.w0, w.w1, w.w2, w.w3]) :: h.fwins.filter fun e => !(e.1 == die * 16 + win) }))

/-- FWIN (03 R68). -/
def execFwin (c : Cmd) (die win : Nat) (w0 w1 w2 w3 : Word) (s : State) : Host.Outcome State Fault Refusal :=
  hubCommand 0x50 c false (fun s =>
    let w : Win := ⟨w0, w1, w2, w3⟩
    let d := ownDie s die
    some (if !(die < 4 && win < 16 && winZeros w) then .malformed
      else if winBusy s (winRanges s d win w) then .busy
      else if !winsOk s d win w then .refused
      else .ok (putWindow s d win w))) s

/-- A window's words without their bits named "—" (00 R6). -/
def Win.clean (w : Win) : Win := ⟨w.w0 &&& 0xF_FFFF_FFFF_FFFF, w.w1 &&& 0xF_FFFF_FFFF_FFFF, w.w2 &&& 0xFF_FFFF_FFFF_FFFF, w.w3 &&& 0x8000_0000_FFFF_FFFF⟩

/-- The Ostler writes a window (03 R68): the write waits for a moment between tasks of the window; one that breaks a rule leaves the window as it is. Bits
named "—" are ignored (00 R6). -/
def ostlerWindow (die win : Nat) (w : Win) (s : State) : Host.Outcome State Fault Refusal :=
  let d := ownDie s die
  let w := w.clean
  if !(s.power = .running && die < 4 && win < 16) || winBusy s (winRanges s d win w) then .refused .notEnabled
  else if !winsOk s d win w then .next s
  else (putWindow s d win w).done s

/-! ## ENQUEUE and CANCEL (21 R351; 01 R34; 06 R119) -/

/-- ENQUEUE: the record is written at its VA, then pushed. -/
def execEnqueue (c : Cmd) (p queue : Nat) (record : List Word) (va : Nat) (s : State) : Host.Outcome State Fault Refusal :=
  hubCommand 0x60 c false (fun s =>
    let asid := recAsid record
    some (if !(p < 48 && queue < 16 && record.length = 8) then .malformed
      else if !(va % 64 = 0 && va < 2 ^ 57) || !(recField record 2 26 6 = p) || !asidIn s p asid || !queueRoom s p queue then .refused
      else .ok (.all [ groomNow asid va, .ask fun s => (match walk s asid va with
          | .entry w => if entryWr w then devWrite (entryPa w va) (bytesOf record) else .skip
          | .fault => .skip), pushQueue p queue record va asid ]))) s

/-- The oldest queued record of a partition at a VA, with its queue. -/
def queuedAt (s : State) (p va : Nat) : Option (Nat × QEntry) :=
  (sortBy (fun (e : Nat × QEntry) => e.2.enq) ((s.part p).queues.flatMap fun q => (q.2.hw ++ q.2.ring).map fun e => (q.1, e))).find?
    fun e => e.2.va == va

/-- CANCEL. -/
def execCancel (c : Cmd) (p : Nat) (byVa : Bool) (x : Word) (s : State) : Host.Outcome State Fault Refusal :=
  hubCommand 0x61 c false (fun s =>
    let live := (partTasks s p).any fun tid => if byVa then ((s.task tid).map fun t => t.recVa) == some x.toNat else tid == x.toNat
    some (if !(p < 48) then .malformed
      else match if byVa then queuedAt s p x.toNat else none with
        | some (q, e) => if logRoom s p then
            .ok (withTaskId fun tid => .seq (dropQueue p q e.enq) (endRecord p e tid 0x84 .skip)) else .refused
        | none => if live then .refusedWith 1 else .refusedWith 2)) s

/-! ## Logs and rings (06 R124–R126; 14 R290; 22 R375) -/

/-- LOGFETCH: records, then every signature whose N lies in range, each as N and its bytes. -/
def execLogfetch (c : Cmd) (p first count : Nat) (s : State) : Host.Outcome State Fault Refusal :=
  hubCommand 0x70 c false (fun s =>
    let x := s.part p
    let recs := (x.log.zipIdx.filter fun e => first ≤ e.2 + x.logFirst && e.2 + x.logFirst < first + count).map fun e => e.1
    let sigs := (x.sigs.filter fun g => first ≤ g.n && g.n < first + count).map fun g => toBytes 8 g.n ++ g.bytes
    some (if !(p < 48 && count ≤ 256) then .malformed else .tell (recs ++ sigs).flatten)) s

/-- LOGACK: records below N are freed. -/
def execLogack (c : Cmd) (p n : Nat) (s : State) : Host.Outcome State Fault Refusal :=
  hubCommand 0x71 c false (fun s =>
    let x := s.part p
    some (if !(p < 48) then .malformed
      else if x.nrec < n then .refused
      else .ok (.upd (.part p fun x => { x with
        log := x.log.drop (n - x.logFirst)
        logFirst := if x.logFirst < n then n else x.logFirst })))) s

/-- SIGN: the chain head, now. The head of a log with no record is the PREV that its first record will have; a spent key is answered with STATUS 0x02
(DESIGN CHOICE, log 67). -/
def execSign (c : Cmd) (p : Nat) (s : State) : Host.Outcome State Fault Refusal :=
  hubCommand 0x72 c false (fun s => some (
    if !(p < 48) then .malformed
    else if !leafLeft s then .refused
    else .ok (signAt p (s.part p).nrec (s.part p).prev))) s

/-- MSGFETCH: the message ring, its drop counter, the fault ring and its drop counter; all are cleared. -/
def execMsgfetch (c : Cmd) (p : Nat) (s : State) : Host.Outcome State Fault Refusal :=
  hubCommand 0x73 c false (fun s =>
    let x := s.part p
    some (if !(p < 48) then .malformed
      else ⟨0, fun _ => bytesOf ([BitVec.ofNat 64 x.msgs.length, BitVec.ofNat 64 x.msgDrop, BitVec.ofNat 64 x.faults.length, BitVec.ofNat 64 x.faultDrop] ++
          x.msgs.flatten ++ x.faults.flatten),
        .upd (.part p fun x => { x with
          msgs := []
          msgDrop := 0
          faults := []
          faultDrop := 0 })⟩)) s

/-! ## State of the part (21 R351, R355, R357) -/

/-- The bad-node register as 32 words (01 R11). -/
def badWords (s : State) : List Word :=
  (List.range 32).map fun k => BitVec.ofNat 64 (total ((List.range 64).map fun b => if s.hub.bad.contains (64 * k + b) then 2 ^ b else 0))

/-- A mask of numbers below 64. -/
def maskWord (f : Nat → Bool) : Word := BitVec.ofNat 64 (total ((List.range 64).map fun b => if f b then 2 ^ b else 0))

/-- The body of HEALTH: start state, bad-node register, key leaves left, dropped packets and tokens; what alerts have announced and still holds (23 R391):
stranded partitions, partitions without their mirror, suspended nodes, clusters above 105 degrees, slices that are disabled, ways that are quarantined;
corrected errors, the last fault records. -/
def healthWords (s : State) : List Word :=
  let h := s.hub
  [BitVec.ofNat 64 (h.startKind + h.stable * 2 ^ 8 + if h.thermal then 2 ^ 16 else 0)] ++ badWords s ++
  [BitVec.ofNat 64 (2 ^ 20 - h.leaf), BitVec.ofNat 64 h.nonRod, BitVec.ofNat 64 h.dropped,
   maskWord fun p => p < 48 && (s.part p).stranded, maskWord fun p => p < 48 && h.unmirrored.contains p] ++
  ((List.range 32).map fun k => maskWord fun b => (s.node (64 * k + b)).suspended) ++
  [maskWord h.above105.contains, maskWord fun b => h.above105.contains (64 + b),
   BitVec.ofNat 64 (h.slicesOff.length + h.quarantine.length * 2 ^ 16 + h.corrected.length * 2 ^ 32)] ++
  h.slicesOff.map (fun e => BitVec.ofNat 64 (e.1 + e.2 * 2 ^ 16)) ++
  h.quarantine.map (fun e => BitVec.ofNat 64 (e.1 + e.2.1 * 2 ^ 16 + e.2.2.1 * 2 ^ 24 + e.2.2.2 * 2 ^ 40)) ++
  h.corrected.map (fun e => BitVec.ofNat 64 (e.1 + e.2.1 * 2 ^ 8 + e.2.2 * 2 ^ 16)) ++ h.last.flatten

/-- HEALTH. -/
def execHealth (c : Cmd) (s : State) : Host.Outcome State Fault Refusal :=
  hubCommand 0x80 c true (fun s => some (.tell (bytesOf (healthWords s)))) s

/-- The three monitor words of a cluster as last sampled (07 R149). -/
def monWords (s : State) (cl : Nat) : List Word :=
  match s.hub.mons.find? fun m => m.1 == cl with
  | some m => [m.2.temp, m.2.volt, m.2.proc].map fun v => BitVec.ofNat 64 (2 ^ 63 + v.toNat)
  | none => [0, 0, 0]

/-- MONITOR. -/
def execMonitor (c : Cmd) (first count : Nat) (s : State) : Host.Outcome State Fault Refusal :=
  hubCommand 0x81 c false (fun s => some (
    if !(first + count ≤ 128) then .malformed
    else .tell (bytesOf ((List.range count).flatMap fun k => monWords s (first + k))))) s

/-- The 56 bytes of the device LMS public key (21 R357, in the order of RFC 8554): LMS type, LM-OTS type, I, root. -/
def publicKey : List Byte := u32 8 ++ u32 3 ++ (List.range 16).map Config.keyI ++ (List.range 32).map Config.keyRoot

/-- IDENTITY. -/
def execIdentity (c : Cmd) (s : State) : Host.Outcome State Fault Refusal :=
  hubCommand 0x82 c true (fun s =>
    some (.tell ((List.range 16).map Config.serial ++ publicKey ++ toBytes 8 (2 ^ 20 - s.hub.leaf) ++ (List.range 32).map Config.fwKeyHash))) s

/-- A node that DEBUG may act on: of a task of partition `p`, with DEBUG set. -/
def debugOk (s : State) (p node : Nat) : Bool :=
  bit (s.part p).w0 61 && (match s.taskOf node with
    | some t => t.part == p
    | none => false)

/-- DEBUG, resume (14 R290). -/
def execDebugResume (c : Cmd) (p node : Nat) (s : State) : Host.Outcome State Fault Refusal :=
  hubCommand 0x90 c false (fun s => some (
    if !(p < 48 && node < 2048) then .malformed
    else if !debugOk s p node then .refused
    else .ok (.upd (.node node fun nd => { nd with suspended := false })))) s

/-- DEBUG, suspend. -/
def execDebugSuspend (c : Cmd) (p node : Nat) (s : State) : Host.Outcome State Fault Refusal :=
  hubCommand 0x90 c false (fun s => some (
    if !(p < 48 && node < 2048) then .malformed
    else if !debugOk s p node then .refused
    else .ok (.upd (.node node fun nd => { nd with suspended := true })))) s

/-- FWUPDATE (21 R358): stored for the next start. -/
def execFwupdate (c : Cmd) (image : List Byte) (s : State) : Host.Outcome State Fault Refusal :=
  hubCommand 0xA0 c true (fun _ => some (
    if Config.fwVerify image then .ok (.upd (.hub fun h => { h with fwNext := some image })) else .badKey)) s

end Sys2Proof.Machine
end

