-- ==== Sys2Proof/Machine/Engines.lean ====
section
/-! DEFINITION. The engines at work (14 R276–R286; 03 R77–R79; 15 R309, R310; 23 R386–R388; 24 R410; 05 R91): which card an engine serves,
and one step of each class. -/

namespace Sys2Proof.Machine
open Sys2Proof.Bits

/-! ## Which card an engine serves (14 R270; 03 R77; 15 R309) -/

/-- Whether two cards of a task have overlapping footprints of which one is written (03 R77). -/
def footprintsMeet (a b : Card) : Bool :=
  (footprint a.cls a.words a.src a.dst).any fun r => (footprint b.cls b.words b.src b.dst).any fun x => (r.write || x.write) && r.meets x

/-- Whether an earlier card of the task holds a card back: by its footprint, or as one of its channel that has not started. -/
def heldBack (s : State) (c : Card) : Bool :=
  s.cards.any fun b => b.task == c.task && b.order < c.order && !b.st.final &&
    (footprintsMeet b c || (decide (c.st = .queued) && decide (b.st = .queued) && b.cls == c.cls && b.chan == c.chan && b.site == c.site))

/-- Whether a card may step at all: its place in the commit stream has come, and nothing holds it. -/
def cardOpen (s : State) (c : Card) : Bool :=
  c.entered && !c.st.final && !(c.st = .parked) && c.held.isNone && taskOpen s c.task && !heldBack s c
where
  /-- The task has not ended. -/
  taskOpen (s : State) (tid : Nat) : Bool := match s.task tid with
    | some t => !(t.st = .ending)
    | none => false

/-- What ranks a card within its partition: in rank mode PRIO, TASKID and SEQ, in deadline mode acceptance (15 R309). -/
def cardKey (s : State) (c : Card) : Nat × Nat × Nat × Nat :=
  match s.task c.task with
  | some t => if bit (s.part t.part).w0 62 then (0, 0, 0, c.order) else (7 - t.prio, c.task, c.seq, c.order)
  | none => (0, 0, 0, c.order)

/-- Whether a key comes before another. -/
def keyBefore (a b : Nat × Nat × Nat × Nat) : Bool :=
  decide (a.1 < b.1) || (decide (a.1 = b.1) && (decide (a.2.1 < b.2.1) || (decide (a.2.1 = b.2.1) &&
    (decide (a.2.2.1 < b.2.2.1) || (decide (a.2.2.1 = b.2.2.1) && decide (a.2.2.2 < b.2.2.2))))))

/-- The partition of a card's task. -/
def cardPart (s : State) (c : Card) : Nat := ((s.task c.task).map fun t => t.part).getD 0

/-- Whether a queue turns to partition `p` before partition `q`, having served `last` (15 R309). -/
def turnBefore (last p q : Nat) : Bool := (p + 48 - (last + 1)) % 48 < (q + 48 - (last + 1)) % 48

/-- Whether a card may fall back to a stock kernel: DEADLINE has passed before it started (14 R286); its engine starts it no more (23 R388). -/
def lateCard (s : State) (c : Card) : Bool :=
  decide (c.st = .queued) && c.flags.getLsbD 1 && bit (s.part (cardPart s c)).w0 62 && !(cf c.words 7 32 32 = 0) &&
    decide (cf c.words 7 32 32 < s.tbase.toNat - c.accepted.toNat) && (c.cls = 0 || c.cls = 1 || c.cls = 3) && !c.fb

/-- Whether its queue serves card `k` next, among the cards of the queue that have a step to take. -/
def served (s : State) (c : Card) (steps : Card → Bool) : Bool :=
  match cardQueue c.cls c.chan with
  | none => true
  | some key =>
    let last := ((s.hub.turns.find? fun t => t.1 == c.site && t.2.1 == key.1 && t.2.2.1 == key.2).map fun t => t.2.2.2).getD 47
    !(s.cards.any fun b => b.site == c.site && cardQueue b.cls b.chan == some key && !b.fb && !lateCard s b && cardOpen s b && steps b &&
      (turnBefore last (cardPart s b) (cardPart s c) ||
       (cardPart s b == cardPart s c && keyBefore (cardKey s b) (cardKey s c))))

/-- The queue has served a card's partition. -/
def noteTurn (c : Card) : Prog :=
  match cardQueue c.cls c.chan with
  | none => .skip
  | some key => .ask fun s => .upd (.hub fun h => { h with
      turns := (c.site, key.1, key.2, cardPart s c) :: h.turns.filter fun t => !(t.1 == c.site && t.2.1 == key.1 && t.2.2.1 == key.2) })

/-! ## A card that becomes final -/

/-- Card `k` ends in a final state: its completion token is given, a kernel's context freed. -/
def endCard (k : Nat) (st : CardSt) (reason : Nat) : Prog :=
  .ask fun s => .all [ onCard k fun c => { c with
           st := st
           reason := reason
           finAt := some s.ctr }, .upd .fresh, tellCard k, endKernel k ]

/-- Whether every step of a card has been taken (14 R277–R281). -/
def Card.workDone (c : Card) : Bool :=
  match c.cls with
  | 0 => cf c.words 2 0 40 ≤ c.ptr
  | 2 => collLen c.words ≤ c.ptr
  | 4 => cf c.words 1 0 32 * 2 ^ 16 ≤ c.ptr
  | _ => cf c.words 3 32 32 ≤ c.step

/-- Whether lines that a card has written or copied wait for another package's acknowledgement (05 R91, 14 R281). -/
def cardAwaits (s : State) (k : Nat) : Bool := s.mirror.any fun w => w.card == some k

/-- A card whose steps have all been taken is final when what it wrote has been performed; a COLL card waits for the other members as well. -/
def finishCard (k : Nat) : Prog :=
  .ask fun s => match s.cards[k]? with
    | some c => Prog.when (c.workDone && !(c.cls = 2) && !c.st.final && !cardAwaits s k) (endCard k .finished 0)
    | none => .skip

/-- A step that the crib cannot cover (23 R386): the card fails, or is parked where a top-up may come. -/
def lacksCharge (k : Nat) : Prog :=
  .ask fun s => match s.cards[k]?.bind fun c => (s.task c.task).map fun t => (c, t) with
    | none => .skip
    | some (c, t) => if t.topup && !(refNode s (homeRef s c.task t c.m)).halted then onCard k fun c => { c with st := .parked }
      else .seq (shortEntry t.part c) (endCard k .failed 6)

/-! ## One step of an engine -/

/-- What a step reads and writes (virtual ranges and bytes), what it draws for `n` lines touched, and what it leaves: bytes written, NV,
or a reason for which the card fails after the lines have been looked at. -/
structure EStep where
  reads : List (Nat × Nat)
  writes : List (Nat × List Byte)
  draw : Nat → Nat
  bytes : Nat
  nv : Bool
  fail : Option Nat

/-- What an engine finds at a line of the address space (14 R276). -/
inductive EngAcc where
  | ok (line : Nat)
  | refuse
  | hold
  deriving DecidableEq, Repr

/-- The lines of virtual ranges, by number. -/
def vaLines (rs : List (Nat × Nat)) : List Nat :=
  distinct (rs.flatMap fun r => if r.2 = 0 then [] else (List.range ((r.1 + r.2 - 1) / 128 - r.1 / 128 + 1)).map fun k => r.1 / 128 + k)

/-- What an engine finds at line `v` of the address space for card `c`. -/
def engineAccess (s : State) (t : Task) (c : Card) (write : Bool) (v : Nat) : EngAcc :=
  if 2 ^ 57 ≤ v * 128 then .refuse
  else match translate s c.die t.asid (v * 128) with
    | .fault => .hold
    | .entry w =>
      let cls := entryClass w
      if (if write then entryWr w && !(cls = 2) && !inScales s (entryPa w (v * 128)) && !(c.cls = 4 && cls = 1) else entryRd w) &&
        (!(cls = 1) || (if write then cardHvd c.words else cardHvs c.words)) then .ok (lineOf (entryPa w (v * 128))) else .refuse

/-- The byte at a virtual address as an engine reads it. -/
def engByte (s : State) (t : Task) (c : Card) (va : Nat) : Byte :=
  match translate s c.die t.asid va with
  | .entry w => s.byteNow (entryPa w va)
  | .fault => 0

/-- Bytes at a virtual address as an engine reads them. -/
def engBytes (s : State) (t : Task) (c : Card) (va n : Nat) : List Byte := (List.range n).map fun k => engByte s t c (va + k)

/-- An access of an engine for its task's card: the firing that issued the card made it (26 R420). -/
def engWho (c : Card) : Who := ⟨some c.task, c.node, ⟨0x73, c.q, c.pc, c.ftag, 0, 0⟩⟩

/-- A card held on a page that is not mapped (23 R387): the page is reported unless the node's cards have reported it. -/
def holdCard (k va : Nat) (write : Bool) : Prog :=
  .ask fun s => match s.cards[k]? with
    | none => .skip
    | some c =>
      let f : FaultRec := ⟨0x31, 0x7D, 0, 0, BitVec.ofNat 64 va, if write then 1 else 0⟩
      let rep : Report := { reportOf s c.node f with
        node := c.node
        task := some c.task
        part := cardPart s c }
      let seen := s.cards.any fun b => b.task == c.task && b.m == c.m && b.held == some (va / 2 ^ 16)
      .all [ onCard k fun c => { c with
               held := some (va / 2 ^ 16)
               st := .running },
             Prog.when (!seen) (.upd (.hub fun h => { h with pages := h.pages ++ [⟨rep, va / 2 ^ 16, write, false⟩] })) ]

/-- The lines that a step fills from memory. -/
def stepFills (s : State) (lines : List Nat) : Nat := (lines.filter fun l => (s.l2Line l).isNone && (roomFor s l).isSome).length

/-- What waits for the acknowledgement of a card's write: its PTR beyond what it had finished before (14 R271). -/
def cardWait (k : Nat) (c : Card) : MirWait where
  line := 0
  part := 0
  m := c.m
  task := c.task
  card := some k
  below := c.ptr
  by_ := none
  res := none
  acq := false
  far := false
  lost := false
  since := 0

/-- Write bytes at a virtual address for a card: its lines become provisional, and a mirrored line goes to the partner as well. -/
def engWrite (k : Nat) (c : Card) (t : Task) (va : Nat) (bs : List Byte) : Prog :=
  Prog.each (vaLines [(va, bs.length)]) fun v => .ask fun s => match translate s c.die t.asid (v * 128) with
    | .fault => .skip
    | .entry w =>
      let lo := if va < v * 128 then v * 128 else va
      let hi := if va + bs.length < v * 128 + 128 then va + bs.length else v * 128 + 128
      .seq (writeLineC t.owner t.part (lineOf (entryPa w lo)) (lo % 128) ((bs.drop (lo - va)).take (hi - lo)))
        (duplicate (lineOf (entryPa w lo)) (cardWait k c))

/-- A step's effects, once its draw is taken. -/
def stepEffects (k : Nat) (c : Card) (t : Task) (e : EStep) (reads : List Nat) : Prog :=
  .all [ Prog.each reads fun l => fillLine l t.part,
         Prog.each e.writes fun w => engWrite k c t w.1 w.2,
         onCard k fun c => { c with
           st := .running
           ptr := c.ptr + e.bytes
           nv := c.nv || e.nv
           step := c.step + 1 },
         (match e.fail with
          | some r => endCard k .failed r
          | none => finishCard k) ]

/-- A step that may go on takes its draw: an engine from the node's crib, where too little parks the card; a stock kernel as its own
instructions do (14 R284, R286; 23 R388). -/
def payStep (k : Nat) (c : Card) (t : Task) (draw : Nat) (go : Prog) : Prog :=
  .ask fun s =>
    let r := homeRef s c.task t c.m
    if c.fb then .seq (.upd .fresh) (drawOr r (Config.kernelDraw s.ctr) 0x7E 0 0 go)
    else if draw ≤ (refNode s r).crib.remaining then .seq (onRef r fun nd => { nd with crib := nd.crib.draw draw (tagColour c.tag) }) go
    else lacksCharge k

/-- PBUDGET exceeded by an engine's write ends the task as a commit's would (03 R73, 23 R382). -/
def engineBudget (c : Card) (count : Nat) : Prog :=
  .ask fun s => Prog.when (taskLive s c.task) (.seq (farrierRecord { reportOf s c.node ⟨0x33, 0x7D, 0, 0, 0, BitVec.ofNat 64 (count % 2 ^ 32)⟩ with
      node := c.node
      task := some c.task
      part := cardPart s c } 1) (abortTask c.task 0x82))

/-- What a step finds at each line of the address space that it touches: the line, whether it writes it, and the access. -/
def stepAccess (s : State) (c : Card) (t : Task) (e : EStep) : List (Nat × Bool × EngAcc) :=
  (vaLines e.reads).map (fun v => (v, false, engineAccess s t c false v)) ++
    (vaLines (e.writes.map fun w => (w.1, w.2.length))).map fun v => (v, true, engineAccess s t c true v)

/-- The physical lines that a step reads or writes, where it may touch all of them. -/
def stepLines (s : State) (c : Card) (t : Task) (e : EStep) : List Nat :=
  let acc := stepAccess s c t e
  if acc.all fun a => match a.2.2 with
    | .ok _ => true
    | _ => false
  then distinct (acc.filterMap fun a => match a.2.2 with
    | .ok l => some l
    | _ => none)
  else []

/-- The line at which a step arrives to wait for another task's line (03 R75). -/
def stepEnters (s : State) (c : Card) (t : Task) (e : EStep) : Option Nat :=
  match (stepLines s c t e).find? fun l => !(sliceTurn s (.card c.order) l == .go) with
  | some l => if sliceTurn s (.card c.order) l = .enter then some l else none
  | none => none

/-- What a step does, or `none` where it waits for a line (03 R74, R75, R80). -/
def engineStep (s : State) (k : Nat) (c : Card) (t : Task) (e : EStep) : Option Prog :=
  let wr := vaLines (e.writes.map fun w => (w.1, w.2.length))
  let rd := vaLines e.reads
  let acc := stepAccess s c t e
  match acc.find? fun a => match a.2.2 with
    | .ok _ => false
    | _ => true with
  | some (v, w, .hold) => some (holdCard k (v * 128) w)
  | some _ => some (endCard k .failed 1)
  | none =>
    let lines := fun (w : Bool) => distinct (acc.filterMap fun a => match a.2.2 with
      | .ok l => if a.2.1 = w then some l else none
      | _ => none)
    let trouble := match (lines false).findSome? (lineTrouble s (engWho c)) with
      | some p => some p
      | none => e.writes.findSome? fun x => (vaLines [(x.1, x.2.length)]).findSome? fun v => match engineAccess s t c true v with
        | .ok l =>
          let lo := if x.1 < v * 128 then v * 128 else x.1
          let hi := if x.1 + x.2.length < v * 128 + 128 then x.1 + x.2.length else v * 128 + 128
          storeTrouble s (engWho c) l [(lo % 128, hi - lo)]
        | _ => none
    let held := heldLines s c.task t
    let all := distinct (held ++ lines true)
    let touched := stepLines s c t e
    if touched.any (fun l => !(sliceTurn s (.card c.order) l == .go) || !canHave s l) then none
    else if (lines true).any (writeWaits s t.owner t.part) then touched.findSome? (stepAside s (.card c.order))
    else match trouble with
      | some p => some p
      | none =>
        if held.length < all.length && pbudget t < all.length then some (engineBudget c held.length)
        else
          let n := (distinct (rd ++ wr)).length
          let fills := stepFills s (distinct (lines false ++ lines true))
          some (.seq (Prog.each (distinct ((rd ++ wr).map (· / 512))) fun p => touchTlb c.die t.asid (p * 2 ^ 16))
            (payStep k c t (e.draw n + 256 * fills) (.seq (Prog.each touched (leaveWait (.card c.order))) (stepEffects k c t e (lines false)))))

/-! ## The steps of each class -/

/-- COPY (14 R277): one line of the destination. -/
def copyWork (s : State) (c : Card) (t : Task) : Option EStep :=
  let len := cf c.words 2 0 40
  let n := if len - c.ptr < 128 then len - c.ptr else 128
  let src := (cw c.words 0).toNat + c.src + c.ptr
  some { reads := [(src, n)]
         writes := [((cw c.words 1).toNat + c.dst + c.ptr, engBytes s t c src n)]
         draw := fun _ => 64
         bytes := n
         nv := false
         fail := none }

/-- GATHER (14 R278): one row. An index whose row would leave the source region fails the card and copies nothing. -/
def gatherWork (s : State) (c : Card) (t : Task) : Option EStep :=
  let rowb := cf c.words 3 0 32
  let idx := (cw c.words 2).toNat + c.src + 4 * c.step
  let off := ofBytes (engBytes s t c idx 4) * (cw c.words 4).toNat
  let src := (cw c.words 0).toNat + c.src + off
  let bad := decide ((cw c.words 5).toNat < off + rowb)
  some { reads := (idx, 4) :: if bad then [] else [(src, rowb)]
         writes := if bad then [] else [((cw c.words 1).toNat + c.dst + c.step * rowb, engBytes s t c src rowb)]
         draw := fun n => if bad then 0 else 12 + 64 * n
         bytes := if bad then 0 else rowb
         nv := false
         fail := if bad then some 3 else none }

/-- One combination of a collective (14 R279, 11 R222): rounded to nearest even, integers wrap. -/
def collCombine (op ty a b : Nat) : Nat :=
  if ty = 3 then
    let x := Num.readInt 3 a
    let y := Num.readInt 3 b
    intDeliver 32 3 0 (match op with
      | 0 => x + y
      | 1 => if y < x then y else x
      | _ => if x < y then y else x)
  else
    let fm := Num.fmtOf ty
    (match op with
     | 0 => Num.fadd fm 0 false false a b
     | 1 => Num.fminmax fm false a b
     | _ => Num.fminmax fm true a b).1

/-- The left fold of the members' bytes, element by element. -/
def collFold (op ty w n : Nat) (members : List (List Byte)) : List Byte :=
  (List.range (n / w)).flatMap fun k =>
    let vs := members.map fun m => ofBytes ((m.drop (w * k)).take w)
    toBytes w (match vs with
      | [] => 0
      | v :: rest => rest.foldl (collCombine op ty) v)

/-- COLL (14 R279): one line of the destination, with the other members' bytes for it by rank. -/
def collWork (s : State) (c : Card) (t : Task) (mismatch : Bool) (others : List (List Byte)) : Option EStep :=
  let len := cf c.words 2 0 40
  let kind := cf c.words 3 8 4
  let nm := cf c.words 3 16 8 + 1
  let rank := cf c.words 3 24 8
  let ty := cf c.words 3 4 4
  let total_ := collLen c.words
  let n := if total_ - c.ptr < 128 then total_ - c.ptr else 128
  let src := (cw c.words 0).toNat + c.src + (match kind with
    | 1 => c.ptr % (if len = 0 then 1 else len)
    | 2 => rank * (len / nm) + c.ptr
    | _ => c.ptr)
  let from_ := if kind = 1 then c.ptr / (if len = 0 then 1 else len) else 0
  let own := engBytes s t c src n
  let fit := fun (bs : List Byte) => (List.range n).map fun k => bs.getD k 0
  let members := (List.range nm).map fun r => if r = rank then own else fit (others.getD r [])
  let folds := kind = 0 || kind = 2
  let data := if folds then collFold (cf c.words 3 0 4) ty (cardElem ty) n members else members.getD from_ []
  if mismatch then (if c.step = 0 then some ⟨[], [], fun _ => 0, 0, false, some 4⟩ else none)
  else some { reads := (if folds || from_ = rank then [(src, n)] else []) ++ (if c.step = 0 then [((cw c.words 5).toNat + c.src, nm)] else [])
              writes := [((cw c.words 1).toNat + c.dst + c.ptr, data)]
              draw := fun _ => match kind with
                | 0 => 96 * nm + 40 * (nm - 1)
                | 2 => 96 * (2 * (nm - 1)) + 40 * (nm - 1)
                | _ => 96
              bytes := n
              nv := false
              fail := none }

/-- The candidates of a row in their order: by value descending, then by index (03 R79). -/
def topkOrder (vals : List (Nat × Num.FVal)) : List (Nat × Num.FVal) :=
  sortLe (fun a b => Num.ltVal b.2 a.2 || (!Num.ltVal a.2 b.2 && decide (a.1 < b.1))) (vals.filter fun v => !v.2.isNan)

/-- The weights of the selected entries (03 R79). -/
def topkWeights (sel : List Num.FVal) : List Nat :=
  let f := Num.fp32
  match sel with
  | [] => []
  | .inf n :: _ =>
    let hits := (sel.filter fun v => decide (v = .inf n)).length
    sel.map fun v => if v = .inf n then (Num.deliverQuot f 0 false (Num.quotVal Num.FVal.one (.fin false hits 0))).1 else 0
  | m :: _ =>
    let bitsOf := fun (v : Num.FVal) => (Num.convert f 0 false v).1
    let es := sel.map fun v => (Num.special f .exp 0 false (Num.fadd f 0 false true (bitsOf v) (bitsOf m)).1).1
    let sum := (es.drop 1).foldl (fun a b => (Num.fadd f 0 false false a b).1) (es.headD 0)
    es.map fun e => (Num.deliverQuot f 0 false (Num.quotVal (Num.decode f e) (Num.decode f sum))).1

/-- TOPK (14 R280, 03 R79): one row. -/
def topkWork (s : State) (c : Card) (t : Task) : Option EStep :=
  let ty := cf c.words 5 4 4
  let w := cardElem ty
  let ncol := cf c.words 3 0 32
  let k := cf c.words 5 0 4
  let src := (cw c.words 0).toNat + c.src + c.step * (cw c.words 4).toNat
  let vals := (List.range ncol).map fun i => (i, Num.decode (Num.fmtOf ty) (ofBytes (engBytes s t c (src + w * i) w)))
  let sel := (topkOrder vals).take k
  let pad := fun (d : Nat) (l : List Nat) => (List.range k).flatMap fun j => toBytes 4 (l.getD j d)
  some { reads := [(src, ncol * w)]
         writes := [((cw c.words 1).toNat + c.dst + 4 * k * c.step, pad 0xFFFFFFFF (sel.map fun e => e.1)),
                    ((cw c.words 2).toNat + c.dst + 4 * k * c.step, pad 0 (topkWeights (sel.map fun e => e.2)))]
         draw := fun _ => 64 + 16 * (vaLines [(src, ncol * w)]).length
         bytes := 8 * k
         nv := vals.any fun v => v.2.isNan
         fail := none }

/-! ## The events of the engines -/

/-- Card `k` with its task, when it may step and is of class `cls`. -/
def openCard (s : State) (k cls : Nat) : Option (Card × Task) :=
  match s.cards[k]? with
  | some c => if c.cls = cls && cardOpen s c && !c.workDone then (s.task c.task).map fun t => (c, t) else none
  | none => none

/-- Whether a kernel may run: its node holds it, and is not suspended. -/
def kernelRuns (s : State) (c : Card) (t : Task) : Bool :=
  let r := homeRef s c.task t c.m
  r < 2048 && !(s.node r).suspended

/-- The step of card `k` under `work`, where its queue serves it next. -/
def cardJob (s : State) (k cls : Nat) (work : State → Card → Task → Option EStep) : Option Prog :=
  let stepOf := fun (j : Nat) (c : Card) (t : Task) => if c.workDone then none else (work s c t).bind fun e => engineStep s j c t e
  match openCard s k cls with
  | none => none
  | some (c, t) =>
    match (if lateCard s c then none else (work s c t).bind (stepEnters s c t)) with
    | some l => some (enterWait (.card c.order) l)
    | none =>
    if c.fb then (if kernelRuns s c t then stepOf k c t else none)
    else if !lateCard s c && served s c fun b => (match s.cards.zipIdx.find? fun x => x.1.order == b.order, s.task b.task with
        | some x, some u => (stepOf x.2 b u).isSome
        | _, _ => false) then (stepOf k c t).map fun p => .seq (noteTurn c) p
    else none

/-- COPY_STEP (14 R277). -/
def execCopyStep (k : Nat) (s : State) : Host.Outcome State Fault Refusal :=
  match cardJob s k 0 copyWork with
  | some p => p.done s
  | none => .refused .notEnabled

/-- GATHER_STEP (14 R278). -/
def execGatherStep (k : Nat) (s : State) : Host.Outcome State Fault Refusal :=
  match cardJob s k 1 gatherWork with
  | some p => p.done s
  | none => .refused .notEnabled

/-- A COLL card is final when every member's result has been performed (14 R279): once its own lines have been, the next COLL_STEP says that those of
the other members have been too. -/
def collEnds (s : State) (k : Nat) (mismatch : Bool) : Bool :=
  match s.cards[k]? with
  | some c => c.cls = 2 && cardOpen s c && c.workDone && !mismatch && !cardAwaits s k
  | none => false

/-- COLL_STEP (14 R279). -/
def execCollStep (k : Nat) (mismatch : Bool) (others : List (List Byte)) (s : State) : Host.Outcome State Fault Refusal :=
  if collEnds s k mismatch then (endCard k .finished 0).done s
  else match cardJob s k 2 fun s c t => collWork s c t mismatch others with
  | some p => p.done s
  | none => .refused .notEnabled

/-- TOPK_STEP (14 R280). -/
def execTopkStep (k : Nat) (s : State) : Host.Outcome State Fault Refusal :=
  match cardJob s k 3 topkWork with
  | some p => p.done s
  | none => .refused .notEnabled

/-! ## Mirroring (14 R281) -/

/-- Whether PARTNER and the line lie in the pairing that the host has reserved for the partition. -/
def paired (s : State) (p partner line : Nat) : Bool :=
  let x := s.part p
  x.partner = partner && x.mirBase ≤ localAddr (line * 128) && localAddr (line * 128) + 128 ≤ x.mirBase + x.mirLen

/-- Mark a line and send its copy, or unmark it. -/
def mirrorLine (k : Nat) (c : Card) (t : Task) (line : Nat) : Prog :=
  if bit (cw c.words 2) 0 then
    .ask fun s => .all [ .upd (.hub fun h => { h with
        mirrored := (line, t.part, cf c.words 3 0 8) :: h.mirrored.filter fun x => !(x.1 == line)
        acked := h.acked.filter fun x => !(x == line) }),
      sendCopy line (cf c.words 3 0 8),
      .upd (.mirror fun l => l ++ [{ cardWait k c with line := line, part := t.part, since := s.tbase }]) ]
  else .upd (.hub fun h => { h with
    mirrored := h.mirrored.filter fun x => !(x.1 == line)
    acked := h.acked.filter fun x => !(x == line) })

/-- What MIRROR_COPY_STEP does with card `k`: one line of its pages. -/
def mirrorJob (s : State) (k : Nat) : Option Prog :=
  match openCard s k 4 with
  | none => none
  | some (c, t) =>
    let va := (cw c.words 0).toNat + c.dst + c.ptr
    let set := bit (cw c.words 2) 0
    if !((s.part t.part).partner = cf c.words 3 0 8) then some (endCard k .failed 5)
    else match engineAccess s t c true (va / 128) with
      | .hold => some (holdCard k va true)
      | .refuse => some (endCard k .failed 1)
      | .ok line =>
        let turn := sliceTurn s (.card c.order) line
        if !paired s t.part (cf c.words 3 0 8) line then some (endCard k .failed 5)
        else if turn = .enter then some (enterWait (.card c.order) line)
        else if turn = .wait || (set && !canHave s line) then none
        else match if set then lineTrouble s (engWho c) line else none with
          | some p => some p
          | none =>
            let go := Prog.all [ leaveWait (.card c.order) line, Prog.when set (fillLine line t.part), mirrorLine k c t line, onCard k fun c => { c with
              st := .running
              ptr := c.ptr + 128
              step := c.step + 1 }, finishCard k ]
            some (if set then payStep k c t (64 + 256 * stepFills s [line]) go else go)

/-- MIRROR_COPY_STEP (14 R281). -/
def execMirrorCopyStep (k : Nat) (s : State) : Host.Outcome State Fault Refusal :=
  match mirrorJob s k with
  | some p => p.done s
  | none => .refused .notEnabled

/-- Whether a duplicated write draws when it is acknowledged (14 R284): a card's copy has paid at its step, and a halted node pays for its
cards only. A write to another package's line is no duplicate. -/
def ackDraws (s : State) (w : MirWait) (t : Task) : Bool :=
  !w.far && match w.card.bind fun k => s.cards[k]? with
  | some c => !(c.cls = 4)
  | none => !(refNode s (homeRef s w.task t w.m)).halted

/-- What an acknowledgement completes, once no other is outstanding for it: a result, an acquire (05 R91, R92), a card; and what stood behind it at the
head of the node's commit stream goes. -/
def ackEnds (w : MirWait) : Prog :=
  .ask fun s =>
    let r := ((s.task w.task).map fun t => homeRef s w.task t w.m).getD w.m
    .all [ Prog.when (!(w.res.isSome && s.mirror.any fun x => x.res == w.res && x.by_ == w.by_)) (.upd (.results fun l => l ++ w.res.toList)),
           Prog.when w.acq (onRef r Node.l1Clear),
           (match w.card with
            | some j => finishCard j
            | none => Prog.when (s.task w.task).isSome (releaseRef r)) ]

/-- PARTNER_ACK (05 R91, 14 R284): the write is durable, or performed in the other package. -/
def execPartnerAck (k : Nat) (s : State) : Host.Outcome State Fault Refusal :=
  match s.mirror[k]? with
  | none => .refused .notEnabled
  | some w => if w.lost then .refused .notEnabled else
    let gone : Prog := .all [ .upd (.mirror fun l => l.eraseIdx k), .ask fun s => .upd (.hub fun h => { h with
        acked := if s.mirror.any (fun x => x.line == w.line) || !(h.mirrored.any fun x => x.1 == w.line) then h.acked else h.acked ++ [w.line] }),
      ackEnds w ]
    (match s.task w.task with
     | some t => if ackDraws s w t then Prog.seq gone (drawOr (homeRef s w.task t w.m) 96 0x7E 0 0 .skip) else gone
     | none => gone).done s

/-- Whether an item of a commit stream is a release at domain scope, or lies behind a FENCE at that scope (24 R410). -/
def WItem.releasesFar : WItem → Bool
  | .store op ord sc b => b.far || (sc = 5 && (ord = 2 || ord = 3 || (match op with
      | .stv _ _ _ _ => true
      | _ => false)))
  | _ => false

/-- Whether a mapped block has a release or a fence at domain scope that has not fired (24 R410). -/
def Mapped.releasesFar (m : Mapped) : Bool :=
  m.units.any fun u => (List.range 128).any fun q => match m.blk.instr q with
    | some i => (match i.body with
      | .m f => f.scope = 5 && (i.opc = 0x18B || (f.ord = 3 && Instr.isOpc i [0x180, 0x181, 0x182, 0x1A0]) || (f.ord = 2 && i.opc = 0x1A0)) &&
          !(u.fired.any fun x => x.q == q)
      | _ => false)
    | none => false

/-- Whether a task waits at domain scope for mirror acknowledgements that satisfy `p` (24 R410): a release of a commit stream, or a release or fence
of a mapped block that has not fired, or something that a FENCE at that scope holds behind one. -/
def waitsFar (s : State) (tid : Nat) (t : Task) (p : MirWait → Bool) : Bool :=
  let asks := fun (m : Nat) (q : MirWait → Bool) => farWait s tid m fun w => !w.far && p w && q w
  let waits := fun (m : Nat) (nd : Node) =>
    (asks m (fun _ => true) && (nd.wq.any WItem.releasesFar || nd.cur.any Mapped.releasesFar)) ||
    (asks m (fun w => w.acq || w.holdsReads || w.holdsWrites) && (!(nd.wq = []) || nd.cur.isSome))
  s.nodes.any (fun e => e.2.task == some tid && waits (nodeM t e.1) e.2) || t.savedNodes.any fun e => waits e.1 e.2

/-- Kill the tasks of a partition that wait for acknowledgements that will never come (24 R410 step 3). -/
def killWaiting (p : Nat) (q : MirWait → Bool) : Prog :=
  .ask fun s => Prog.each ((partTasks s p).filter fun tid => match s.task tid with
    | some t => waitsFar s tid t q
    | none => false) killTask

/-- The mirrored pages of a partition are unmarked toward its partner (24 R410 steps 1 and 2). The writes not acknowledged stand as lost: nothing at
domain scope completes on one. At narrower scopes they are performed at their home slices, whose pages are mirrored no longer, and what waited for them
ends. -/
def unmirror (p : Nat) : Prog :=
  .ask fun s =>
    let mine := s.hub.mirrored.filter fun x => x.2.1 == p
    let pages := (distinct (mine.map fun x => x.1 * 128 / 2 ^ 16)).length
    let open_ := s.mirror.filter fun w => !w.far && w.part == p && !w.lost
    .all [
      .upd (.hub fun h => { h with
        mirrored := h.mirrored.filter fun x => !(x.2.1 == p)
        acked := h.acked.filter fun x => !(mine.any fun y => y.1 == x)
        unmirrored := if h.unmirrored.contains p then h.unmirrored else h.unmirrored ++ [p] }),
      alert 0x0103 [BitVec.ofNat 64 (p % 64 + (s.part p).partner % 256 * 2 ^ 8 + pages % 2 ^ 32 * 2 ^ 32), s.tbase],
      .upd (.mirror fun l => (l.filter fun w => w.far || !(w.part == p) || !(w.card.any fun k => (s.cards[k]?.map fun c => c.cls) == some 4)).map fun w =>
        if !w.far && w.part == p then { w with lost := true, res := none, card := none } else w),
      Prog.each open_ fun w => .ask fun s => Prog.when (!(s.mirror.any fun x => x.res == w.res && x.by_ == w.by_))
        (.upd (.results fun l => l ++ w.res.toList)),
      .ask fun s => Prog.each (s.cards.zipIdx.filter fun e => e.1.cls == 4 && !e.1.st.final && !(decide (e.1.st = .queued)) &&
        cardPart s e.1 == p && bit (cw e.1.words 2) 0) fun e => endCard e.2 .failed 5,
      Prog.each (distinct (open_.filterMap fun w => w.card)) finishCard ]

/-- MIRROR_ACK_TIMEOUT (24 R410): the partner is given up; later, a task that comes to wait at domain scope for a lost acknowledgement is killed. -/
def execMirrorAckTimeout (p : Nat) (s : State) : Host.Outcome State Fault Refusal :=
  if s.mirror.any fun w => !w.far && w.part == p && !w.lost && 100000000 ≤ s.tbase.toNat - w.since.toNat then
    (Prog.seq (unmirror p) (killWaiting p MirWait.lost)).done s
  else if (partTasks s p).any fun tid => (s.task tid).any fun t => waitsFar s tid t MirWait.lost then
    (killWaiting p MirWait.lost).done s
  else .refused .notEnabled

/-! ## Parked cards (23 R386) -/

/-- The draw that a parked card's next step needs. -/
def nextDraw (s : State) (c : Card) (t : Task) : Nat :=
  let work := match c.cls with
    | 0 => copyWork s c t
    | 1 => gatherWork s c t
    | 2 => collWork s c t false []
    | 3 => topkWork s c t
    | _ => none
  match work with
  | none => if c.cls = 4 then 64 + 256 * stepFills s (match engineAccess s t c true (((cw c.words 0).toNat + c.dst + c.ptr) / 128) with
      | .ok l => [l]
      | _ => []) else 64
  | some e =>
    let rd := vaLines e.reads
    let wr := vaLines (e.writes.map fun w => (w.1, w.2.length))
    let lines := distinct (rd.filterMap (fun v => match engineAccess s t c false v with
      | .ok l => some l
      | _ => none) ++ wr.filterMap fun v => match engineAccess s t c true v with
      | .ok l => some l
      | _ => none)
    e.draw (distinct (rd ++ wr)).length + 256 * stepFills s lines

/-- What becomes of a parked card: its node has halted, or has the charge for its step. -/
def resumeJob (s : State) (k : Nat) : Option Prog :=
  match s.cards[k]?.bind fun c => (s.task c.task).map fun t => (c, t) with
  | none => none
  | some (c, t) =>
    let nd := refNode s (homeRef s c.task t c.m)
    if !(c.st = .parked) then none
    else if nextDraw s c t ≤ nd.crib.remaining then some (onCard k fun c => { c with st := .running })
    else if nd.halted then some (lacksCharge k)
    else none

/-- CARD_RESUME (23 R386). -/
def execCardResume (k : Nat) (s : State) : Host.Outcome State Fault Refusal :=
  match resumeJob s k with
  | some p => p.done s
  | none => .refused .notEnabled

/-! ## DEADLINE_FALLBACK (14 R286, 15 R310) -/

/-- The node, context and colour of the kernel that card `k` becomes. -/
def fallbackJob (s : State) (k : Nat) : Option (Card × Task × Nat × Nat × Nat) :=
  match s.cards[k]?.bind fun c => (s.task c.task).map fun t => (c, t) with
  | none => none
  | some (c, t) =>
    let n := homeRef s c.task t c.m
    let ctxs := ((t.img.bound.find? fun b => boundM t b == c.m).map fun b => b.contexts).getD 0
    if !(lateCard s c && cardOpen s c && n < 2048) then none
    else match (List.range ctxs).find? (fun x => 1 ≤ x && ((s.node n).ctx x).st = .none), t.freeColour with
      | some x, some col => some (c, t, n, x, col)
      | _, _ => none

/-- DEADLINE_FALLBACK (14 R286): the card goes on as a stock kernel in a spawned context of its node. -/
def execDeadlineFallback (k : Nat) (s : State) : Host.Outcome State Fault Refusal :=
  match fallbackJob s k with
  | none => .refused .notEnabled
  | some (c, _, n, x, col) => (Prog.all [
      onCard k fun c => { c with fb := true },
      forgetDraws c.task col,
      .upd (.task c.task fun o => o.map fun t => { t with frames := t.frames ++ [(col, { Frame.make .spawn 0 with
        node := c.m
        ctx := x
        esc := true })] }),
      .upd (.node n fun nd => { nd with ctxs := Sparse.put Ctx.reset nd.ctxs x ⟨0, mkTag col 0, .kernel k, none, []⟩ }) ]).done s

end Sys2Proof.Machine
end

