-- ==== Sys2Proof/Machine/Cycle.lean ====
section
/-! DEFINITION. Cycles of waits on provisional and held lines (23 R384; 05 R96). -/

namespace Sys2Proof.Machine
open Sys2Proof.Bits

/-- An access that waits on a line: the node it belongs to, the place, tag and block of its firing, and the line. -/
structure Waiting where
  node : Nat
  q : Nat
  tag : Tag
  pc : BitVec 58
  line : Nat
  deriving DecidableEq, Repr

/-- The block that a node runs. -/
def Node.pcNow (nd : Node) : BitVec 58 := match nd.cur with
  | some m => m.blk.pc
  | none => 0

/-- The lines that the fetch due at a node reads. -/
def fetchWaits (s : State) (n : Nat) (t : Task) : List (Nat × BitVec 58) :=
  match fetchJob s n with
  | some (.now c x) =>
    let a := field x.pc 0 57
    let head := fetchLines s n t a 64
    if bit x.pc 57 then []
    else (if head.any (foreign s (some t.owner)) then head
      else fetchLines s n t a (blockBytes ⟨c, x.pc, quadsOf 4 (fetchBytes s n t a 64), []⟩)).map fun l => (l, x.pc)
  | _ => []

/-- The lines that an MMAT or a TFETCH at a site reads and the L1 does not hold. -/
def matLines (s : State) (n q : Nat) (tag : Tag) : List Nat :=
  match (s.node n).cur.bind fun m => m.blk.instr q with
  | none => []
  | some i => match fireCtx i { s with cur := some ⟨n, q, tag⟩ }, i with
    | some c, .mmat f =>
      let jet := !(f.pstride = 0)
      let src := fun pin tok => matSrc c f.acc.toNat (f.ksteps.toNat + 1) f.pstride.toNat (if jet then c.k + 1 else 1) pin tok
      missing c.nd ((src (field f.low 14 2) c.l).elems ++ (src (field f.low 12 2) c.r).elems)
    | some c, .tfetch f => (match descOf (optBeat c.l 0) with
      | none => []
      | some d => missing c.nd (memRows c 0 64 d ((List.range (field f.low 48 14 + 1)).map fun q => (q, 0)) 0).elems)
    | _, _ => []

/-- The TASK requests of a unit that waits to commit, as accesses (14 R287). -/
def hubWaiting (n : Nat) (pc : BitVec 58) (u : CUnit) : List Waiting :=
  u.acts.filterMap fun a => match a.act with
    | .hub (.qpush _ _ _ pa) _ => some ⟨n, a.q, a.tag, pc, lineOf pa⟩
    | .hub (.qpop _ _ pa) _ => some ⟨n, a.q, a.tag, pc, lineOf pa⟩
    | .hub (.tlaunch _ _ pa) _ => some ⟨n, a.q, a.tag, pc, lineOf pa⟩
    | _ => none

/-- Loads and the head of the commit stream of a node, as accesses. -/
def Node.issuedWaits (n : Nat) (nd : Node) : List Waiting :=
  (nd.loads.flatMap fun l => l.wait.map fun x => ⟨n, l.q, l.tag, nd.pcNow, x⟩) ++
  (match nd.wq with
   | .store op _ _ b :: _ => (match op.nextLine with
     | some x => [⟨n, b.q, b.tag, b.pc, x⟩]
     | none => [])
   | _ => [])

/-- What a node on the mesh wants to read besides: its fetch, its matrix operands, its TASK requests. -/
def liveWaits (s : State) (n : Nat) (t : Task) : List Waiting :=
  let nd := s.node n
  ((fetchWaits s n t).map fun x => ⟨n, 0x7F, 0, x.2, x.1⟩) ++
  (nd.places.flatMap fun e => (matLines s n e.1 e.2).map fun x => ⟨n, e.1, e.2, nd.pcNow, x⟩) ++
  (match nd.cur with
   | none => []
   | some m => m.units.flatMap fun u => match judge s n (tagColour u.tag) with
     | .wait => hubWaiting n nd.pcNow u
     | _ => [])

/-- The lines that an open card's next step meets. -/
def cardLines (s : State) (c : Card) (t : Task) : List Nat :=
  let work := match c.cls with
    | 0 => copyWork s c t
    | 1 => gatherWork s c t
    | 2 => collWork s c t false []
    | 3 => topkWork s c t
    | _ => some ⟨[], [((cw c.words 0).toNat + c.dst + c.ptr, [0])], fun _ => 0, 0, false, none⟩
  match work with
  | none => []
  | some e => (vaLines e.reads).filterMap (fun v => match engineAccess s t c false v with
      | .ok l => some l
      | _ => none) ++ (vaLines (e.writes.map fun w => (w.1, w.2.length))).filterMap fun v => match engineAccess s t c true v with
      | .ok l => some l
      | _ => none

/-- Every access of a task that another task's line holds up. -/
def taskWaits (s : State) (tid : Nat) (t : Task) : List Waiting :=
  let live : List Waiting := s.nodes.flatMap fun e => if e.2.task = some tid then e.2.issuedWaits e.1 ++ liveWaits s e.1 t else []
  let saved : List Waiting := t.savedNodes.flatMap fun e => e.2.issuedWaits (nodeOfM t e.1)
  let cards : List Waiting := (s.cards.filter fun c => c.task == tid && cardOpen s c).flatMap fun c =>
    (cardLines s c t).map fun l => ⟨c.node, 0x7D, 0, 0, l⟩
  (live ++ saved ++ cards).filter fun w => foreign s (some t.owner) w.line

/-- The tasks of a partition on whose lines a task waits. -/
def waitsOn (s : State) (tid : Nat) : List Nat :=
  match s.task tid with
  | some t => distinct ((taskWaits s tid t).filterMap fun w => (lineOwner s w.line).bind (ownerTask s))
  | none => []

/-- The cycles of an edge list that lead back to `start` over a path, each by its members in ascending order; `k` bounds their length. -/
def cyclesFrom (edges : List (Nat × Nat)) (start : Nat) : Nat → List Nat → List (List Nat)
  | 0, _ => []
  | k + 1, path => ((edges.filter fun e => some e.1 == path.head?).map fun e => e.2).flatMap fun u =>
      if u = start then [sortBy (fun x => x) path] else if path.contains u then [] else cyclesFrom edges start k (u :: path)

/-- The cycles of waits among a partition's tasks. -/
def waitCycles (s : State) (p : Nat) : List (List Nat) :=
  let ts := partTasks s p
  let edges := ts.flatMap fun t => (waitsOn s t).map fun u => (t, u)
  (ts.flatMap fun t => cyclesFrom edges t ts.length [t]).eraseDups

/-- The task that is aborted to break a cycle: the one with the highest enqueue count. -/
def cycleVictim (s : State) (members : List Nat) : Option Nat :=
  let enq := fun (t : Nat) => ((s.task t).map fun x => x.enq).getD 0
  members.foldl (fun best t => match best with
    | some b => if enq b < enq t then some t else some b
    | none => some t) none

/-- Forget the noted cycles of a partition that are gone. -/
def forgetCycles (p : Nat) : Prog :=
  .ask fun s => .upd (.hub fun h => { h with cycle := h.cycle.filter fun c => !(c.1 == p) || (waitCycles s p).contains c.2.1 })

/-- After every move the noted cycles that it has dissolved are forgotten: one that closes again persists anew. -/
def noteCycles : Prog :=
  .ask fun s => Prog.each (distinct (s.hub.cycle.map fun c => c.1)) forgetCycles

/-- What every move notes as it has left the machine: the mapped blocks (01 R20, 22 R362), the cycles of waits (23 R384). -/
def noteMove : Prog := .seq noteBlocks noteCycles

/-- Abort a task to break a cycle: the record names its lowest waiting node. -/
def breakCycle (p tid : Nat) : Prog :=
  .ask fun s => match s.task tid with
    | none => .skip
    | some t => .seq (match sortBy (fun (w : Waiting) => w.node) (taskWaits s tid t) with
        | w :: _ => farrierRecord { reportOf s w.node ⟨0x30, w.q, w.pc, w.tag, BitVec.ofNat 64 (w.line * 128), 7⟩ with
            node := w.node
            task := some tid
            part := p } 1
        | [] => .skip) (abortTask tid 0x82)

/-- What the Groom's watch on partition `p` does: it notes the cycles that have closed and forgets those that are gone; of those noted it breaks one that
has persisted for 1 ms. -/
def cycleJob (s : State) (p : Nat) : Option Prog :=
  let now := waitCycles s p
  let noted := s.hub.cycle.filter fun c => c.1 == p
  let fresh := now.filter fun m => !(noted.any fun c => c.2.1 == m)
  if !(fresh = []) || noted.any (fun c => !(now.contains c.2.1)) then
    some (.seq (forgetCycles p) (.upd (.hub fun h => { h with cycle := h.cycle ++ fresh.map fun m => (p, m, s.tbase) })))
  else match noted.find? fun c => 1000000 ≤ s.tbase.toNat - c.2.2.toNat with
    | none => none
    | some c => (cycleVictim s c.2.1).map fun v => .seq (.upd (.hub fun h => { h with cycle := h.cycle.filter fun x => !(x == c) })) (breakCycle p v)

/-- WAIT_CYCLE_TIMEOUT (23 R384). -/
def execWaitCycleTimeout (p : Nat) (s : State) : Host.Outcome State Fault Refusal :=
  match cycleJob s p with
  | some a => a.done s
  | none => .refused .notEnabled

end Sys2Proof.Machine
end

