-- ==== Sys2Proof/Machine/Dusk.lean ====
section
/-! DEFINITION. Rolling replacement (15 R304–R308; 06 R117; 22 R364; 24 R403, R411): the end of a slice, and the dusk token. -/

namespace Sys2Proof.Machine
open Sys2Proof.Bits

/-! ## SLICE_EXPIRY (15 R304) -/

/-- The waiting task that may come in at a running task's origin: the highest in rank that fits there. -/
def incomingBid (s : State) (t : Task) : Option (Bid × (Nat × Nat) × Option Cand) :=
  let place := fun (w h : Nat) => if w ≤ t.img.width && h ≤ t.img.height && !rectBad s (t.x, t.y, w, h) then some (t.x, t.y) else none
  if admissionStopped s t.part then none
  else (bids s t.part).findSome? fun b => match verdict s t.part place b with
    | .admitted o c => if (match reservingBid s t.part with
        | some r => r.above b
        | none => false) then none else some (b, o, c)
    | _ => none

/-- What the end of a slice does: a sweep with its incoming task, or a new slice. -/
def sliceJob (s : State) (tid : Nat) : Option Prog :=
  match s.task tid with
  | none => none
  | some t =>
    let slice := field (s.part t.part).w1 40 24
    if !(t.st = .running) || t.dusk.isSome || slice = 0 || s.tbase.toNat - t.sliceFrom.toNat < slice * 1000 then none
    else match incomingBid s t with
      | some (b, o, c) => some (.seq (countBypasses s t.part (placement s t.part) b) (admitBid t.part b o c fun inc =>
          .upd (.task tid fun u => u.map fun t => { t with dusk := some ⟨0, some inc⟩ })))
      | none => some (.upd (.task tid fun u => u.map fun t => { t with sliceFrom := s.tbase }))

/-- SLICE_EXPIRY (15 R304). -/
def execSliceExpiry (tid : Nat) (s : State) : Host.Outcome State Fault Refusal :=
  match sliceJob s tid with
  | some p => p.done s
  | none => .refused .notEnabled

/-! ## The dusk token at a node (15 R305) -/

/-- Commit every unit of the mapped block that is complete, those of different colours as they became ready (01 R20); a fault of the commit is taken. -/
def commitComplete (n : Nat) : Nat → Prog
  | 0 => .skip
  | k + 1 => .ask fun s => match (s.node n).cur with
    | none => .skip
    | some m => match (m.ready ++ m.units.map fun u => u.tag).findSome? fun ut => match judge s n (tagColour ut) with
        | .ok c => some (.seq ((hubTrouble s c).getD (commitEffects c)) (commitComplete n k))
        | .fault f => some (.seq (takeFault n f) (commitComplete n k))
        | _ => none with
      | some p => p
      | none => .skip

/-- The sub-packet part of a crib is bled and counted as drawn (06 R117). -/
def Crib.bleed (c : Crib) : Crib :=
  { c with
    charge := c.charge - c.charge % 64
    unfed := c.unfed - c.unfed % 64
    drawn := c.drawn + c.charge % 64 + c.unfed % 64 }

/-- A node's section of the context area (15 R308). -/
def Node.section (nd : Node) : Node :=
  { nd with
    cur := none
    fetched := none
    prefetched := none
    park := []
    l1 := []
    held := []
    fs := { nd.fs with pend := nd.fs.pend || bit nd.fs.code 63 }
    crib := nd.crib.bleed }

/-- `pages` pages of a task's context area from an offset on take what a sweep writes there: bytes that are free values where 15 R308 gives a section no
layout (log 39). -/
def freeSection (t : Task) (off pages : Nat) : Prog :=
  .ask fun s =>
    let ctx := (t.trec.getD 4 0).toNat
    .seq (Prog.each (List.range pages) fun k => match walk s t.asid (ctx + off + k * 2 ^ 16) with
      | .entry w => Prog.each (List.range 512) fun j =>
          let pa := entryPa w (ctx + off + k * 2 ^ 16) + 128 * j
          devWrite pa ((List.range 128).map fun b => Config.sectionByte s.ctr (pa + b))
      | .fault => .skip) (.upd .fresh)

/-- Save a node and clear it: its park buffer stays until the token leaves the rectangle. -/
def saveNode (tid n : Nat) : Prog :=
  .ask fun s => match s.task tid with
    | none => .skip
    | some t => if !((s.node n).task = some tid) then .skip else
      .all [ .upd (.task tid fun o => o.map fun t => { t with
               savedNodes := insertBy (fun e => e.1) (nodeM t n, (s.node n).section) t.savedNodes }),
             .upd (.node n Node.vacate),
             freeSection t (2 ^ 18 + nodeM t n * 2 ^ 20) 16 ]

/-- The first value of a node that a save finds broken (24 R394, R411): a waiting token, with the place code of its store and its colour; a register, which no
block reads at a save: its error cannot be re-issued (24 R393; DEDUCED, log 90). -/
def Node.brokenSave (nd : Node) : Option (Nat × Nat × Tag × Parity) :=
  let tok := fun (place : Nat) (t : Tok) => if t.par = .good then none else some (place, tagColour t.tag, t.tag, t.par)
  ((nd.entries.findSome? fun e => [e.2.left, e.2.right, e.2.pred].findSome? fun o => o.bind (tok 1)).or
    (nd.spill.findSome? fun x => tok 3 x.tok)).or
    (if nd.s.any (fun r => !r.2.par) || nd.v.any (fun r => !r.2.par) then some (2, 0, 0, .data) else none)

/-- The parity checks of a save on the way out (24 R411): each failure is handled as 24 R395 says; `k` bounds the failures. -/
def saveChecks (tid n : Nat) : Nat → Prog
  | 0 => .skip
  | k + 1 => .ask fun s => if !((s.node n).task = some tid) then .skip else match (s.node n).brokenSave with
    | none => .skip
    | some (place, c, tag, p) =>
      .seq (tokenError n n tid c (mkFault (s.node n) 0x70 (freePlace s) tag 0 (parityInfo (nodeX n) (nodeY n) place p))) (saveChecks tid n k)

/-- The dusk token reaches a node of its task: a complete block commits, any other is discarded, and the node is saved. -/
def duskNode (tid n : Nat) : Prog :=
  .all [ .upd (.node n fun nd => { nd with
           fetched := none
           prefetched := none }),
         noteBlocks,
         .ask fun s => commitComplete n (match (s.node n).cur with
           | some m => total (m.units.map fun u => 1 + u.acts.length)
           | none => 0),
         .ask fun s => Prog.when ((s.node n).task = some tid && (s.node n).cur.isSome) (endBlock n),
         .ask fun s => Prog.when ((s.node n).task = some tid) (checkTiles n tid (s.node n)),
         .ask fun s => saveChecks tid n ((s.node n).entries.length * 3 + (s.node n).spill.length + 1),
         saveNode tid n ]

/-! ## The dusk token at a quad's end (15 R305) -/

/-- Save tile `tile` of quad `q`'s scratchpad into its section of the context area (15 R305, R308). -/
def savePad (tid q tile : Nat) : Prog :=
  .ask fun s => match s.task tid with
    | none => .skip
    | some t => if t.st = .ending then .skip else
      let base := quadPlace t q * 2 ^ 20
      let lo := tile * 2 ^ 18
      .all [ zeroVa t.asid (padSection t q + lo) (2 ^ 18),
             Prog.each (s.pads.filter fun b => base + lo ≤ b.1 && b.1 < base + lo + 2 ^ 18) fun b => ctxWrite t (padSection t q + (b.1 - base)) b.2,
             .upd (.task tid fun o => o.map fun t => { t with savedTiles := t.savedTiles ++ [4 * q + tile] }) ]

/-- The scratchpad tile at position `k` of a quad, in the order of the token's visits: tiles 0 to 2 are saved, tile 3 has nothing of its own. -/
def tileAt (k : Nat) : Option Nat := if k = 1 then some 0 else if k = 3 then some 1 else if k = 4 then some 2 else none

/-- The incoming task's quad at the place of quad `q` starts, where its rectangle reaches. -/
def incomingQuad (t : Task) (q inc : Nat) : Prog :=
  let w := t.img.width / 4
  whileLoading inc fun u =>
    if q % w < u.img.width / 4 && q / w < u.img.height / 2 then startQuad inc (q / w * (u.img.width / 4) + q % w) else .skip

/-! ## DUSK_TOKEN (15 R305, R306) -/

/-- Position `k` of a rectangle in the order in which the dusk token visits it. -/
def duskPlace (t : Task) (k : Nat) : Nat × Nat := (quadPositions t (k / 8)).getD (k % 8) (t.x, t.y)

/-- A token in a park buffer of the rectangle whose parity fails when the buffer is read, with the node that owns the buffer (24 R394, R395). -/
def brokenParked (s : State) (t : Task) : Option (Nat × Spilled) :=
  (rectNodes t).findSome? fun n => ((s.node n).park.find? fun x => !(x.tok.par = .good)).map fun x => (n, x)

/-- The token leaves the rectangle: the park buffers go into the context area, and the task is swept (15 R306). A parked token that fails its parity
check ends the reading of the buffers with its error (24 R395). -/
def duskEnd (tid : Nat) (t : Task) : Prog :=
  if t.st = .ending then .upd (.task tid fun o => o.map fun t => { t with dusk := none })
  else .ask fun s => match brokenParked s t with
  | some (n, x) => tokenError n n tid (tagColour x.tok.tag)
      (mkFault (refNode s (siteRef s tid n)) 0x70 (freePlace s) x.tok.tag 0 (parityInfo (nodeX n) (nodeY n) 3 x.tok.par))
  | none =>
    .all [ .upd (.task tid fun o => o.map fun t => { t with
             st := .swept
             dusk := none
             ran := s.tbase.toNat - t.sliceFrom.toNat
             parked := t.parked ++ (rectNodes t).flatMap fun n => (s.node n).park.map fun x => (nodeM t n, x) }),
           freeSection t 0 4,
           Prog.each (rectNodes t) fun n => .upd (.node n fun nd => { nd with park := [] }) ]

/-- One position of the token's way. -/
def duskStep (tid : Nat) (t : Task) (d : Dusk) : Prog :=
  let p := duskPlace t d.pos
  .all [ .ask fun s => Prog.when (isNodePos p.1 p.2 && decide ((s.node (nodeAt p.1 p.2)).task = some tid)) (duskNode tid (nodeAt p.1 p.2)),
         (match tileAt (d.pos % 8) with
          | some x => savePad tid (d.pos / 8) x
          | none => .skip),
         Prog.when (d.pos % 8 = 7) (match d.incoming with
           | some inc => incomingQuad t (d.pos / 8) inc
           | none => .skip),
         .upd (.task tid fun o => o.map fun t => { t with dusk := t.dusk.map fun d => { d with pos := d.pos + 1 } }) ]

/-- What the dusk token of a task does next: it waits at its first position for another token in its rectangle, and at its end for the
task's tokens on the mesh. -/
def duskJob (s : State) (tid : Nat) : Option Prog :=
  match s.task tid with
  | none => none
  | some t => match t.dusk with
    | none => none
    | some d =>
      if d.pos < t.img.width * t.img.height then
        (if d.pos = 0 && s.tasks.any (fun e => !(e.1 == tid) && (match e.2 with
            | some u => (match u.dusk with
              | some x => decide (0 < x.pos) && overlaps u.rect t.rect
              | none => false)
            | none => false)) then none else some (duskStep tid t d))
      else if s.flits.any (fun f => f.task == tid) then none
      else some (duskEnd tid t)

/-- DUSK_TOKEN (15 R305). -/
def execDuskToken (tid : Nat) (s : State) : Host.Outcome State Fault Refusal :=
  match duskJob s tid with
  | some p => p.done s
  | none => .refused .notEnabled

end Sys2Proof.Machine
end

