-- ==== Sys2Proof/Machine/JetForms.lean ====
section
/-! DEFINITION. The JET group (10 R212–R217). -/

namespace Sys2Proof.Machine
open Sys2Proof.Bits

/-- The order that JORD.SET writes: IMM64<2:0>, or bits 2:0 of the right token (10 R215). -/
def jordVal (c : Fx) (f : FmtA) : Nat := field (rightScalar c f) 0 3

/-- JORD (10 R215): emits the order at map. -/
def execJord (f : FmtA) (s : State) := gateForm (.jord f) (fun c _ =>
  c.emitPlan 4 (.scalar (BitVec.ofNat 64 c.k)) false .skip) s

/-- JORD.SET (10 R215): emits the order at map and writes JORD at commit. -/
def execJordSet (f : FmtA) (s : State) := gateForm (.jordSet f) (fun c _ =>
  c.emitPlan 4 (.scalar (BitVec.ofNat 64 c.k)) false (addAct c.n c.ut c.q c.tag (.jordSet (jordVal c f)))) s

/-- The mask of JFLAG without the "—" bits (10 R215). -/
def jflagMask (c : Fx) (f : FmtA) : Word := rightScalar c f &&& ~~~jflagsDash

/-- JFLAG (10 R215): emits the masked flags at map. -/
def execJflag (f : FmtA) (s : State) := gateForm (.jflag f) (fun c _ =>
  c.emitPlan 4 (.scalar (c.m.snap.jflags &&& jflagMask c f)) false .skip) s

/-- JFLAG.CLR (10 R215): emits the masked flags at map and clears the masked bits at commit. -/
def execJflagClr (f : FmtA) (s : State) := gateForm (.jflagClr f) (fun c _ =>
  c.emitPlan 4 (.scalar (c.m.snap.jflags &&& jflagMask c f)) false (addAct c.n c.ut c.q c.tag (.jflagClr (jflagMask c f)))) s

/-- The frame of a J-plane JET form (10 R213): lanes of mask and gate are computed, the others carry the left operand's lane. -/
def jetGroup (i : Instr) (f : FmtA) (one : Bool) (lane : Fx → Nat → LaneOut) (s : State) : Host.Outcome State Fault Refusal :=
  gateForm i (fun c g =>
    let m := dataMask i c f
    lanesOut c (formDraw i c.k) true g m (m &&& g) (if one then 1 else c.k + 1) (lane c)) s

/-- Lane `l` of the one-beat right operand of a JET form, read at TY (02 R39); an immediate is read so in every lane (10 R212). -/
def jetRight (c : Fx) (f : FmtA) (l : Nat) : Nat :=
  if f.immr = 1 then field f.imm 0 (Num.width f.ty.toNat) else field (Vec.lane (optBeat c.r 0) l) 0 (Num.width f.ty.toNat)

/-- Coefficient `j` of lane `l` of the left operand, read at TY: the upper bits of its lane are ignored (02 R39). -/
def jetLeft (c : Fx) (f : FmtA) (j l : Nat) : Nat := field (Vec.lane (optBeat c.l j) l) 0 (Num.width f.ty.toNat)

/-- JSEED (10 R214). -/
def execJseed (f : FmtA) (s : State) := jetGroup (.jseed f) f false (fun c l =>
  ⟨(List.range (c.k + 1)).map fun j => if j = 0 then jetLeft c f 0 l else if j = 1 then jetRight c f l else 0, []⟩) s
/-- JCOEF (10 R214). -/
def execJcoef (f : FmtA) (s : State) := jetGroup (.jcoef f) f true (fun c l =>
  let j := field f.imm 0 3
  if f.var = 1 then
    let r := Num.jfact (fmtA f) (c.rm f.rm) (satA f) j (jetLeft c f j l)
    ⟨[r.1], [(j, r.2)]⟩
  else .pure (jetLeft c f j l)) s
/-- JSETC (10 R214). -/
def execJsetc (f : FmtA) (s : State) := jetGroup (.jsetc f) f false (fun c l =>
  ⟨(List.range (c.k + 1)).map fun j => if j = field f.imm 0 3 then jetRight c f l else jetLeft c f j l, []⟩) s
/-- JTRUNC (10 R214). -/
def execJtrunc (f : FmtA) (s : State) := jetGroup (.jtrunc f) f false (fun c l =>
  ⟨(List.range (c.k + 1)).map fun j => if j ≤ field f.imm 0 3 then jetLeft c f j l else 0, []⟩) s
/-- JDIFF (10 R214). -/
def execJdiff (f : FmtA) (s : State) := jetGroup (.jdiff f) f false (fun c l =>
  .jet (Num.jdiff (fmtA f) (c.rm f.rm) (satA f) (jetOf c.l c.k l))) s
/-- JINTG (10 R214). -/
def execJintg (f : FmtA) (s : State) := jetGroup (.jintg f) f false (fun c l =>
  .jet (Num.jintg (fmtA f) (c.rm f.rm) (satA f) (jetRight c f l) (jetOf c.l c.k l))) s
/-- JEVAL (10 R214). -/
def execJeval (f : FmtA) (s : State) := jetGroup (.jeval f) f true (fun c l =>
  .one (Num.jeval (fmtA f) (c.rm f.rm) (satA f) (jetOf c.l c.k l) (jetRight c f l))) s

end Sys2Proof.Machine
end

