-- ==== Sys2Proof/Machine/LaneForms.lean ====
section
/-! DEFINITION. The LANE group (11 R218–R220): lanes and mask bits move together, bit for bit. -/

namespace Sys2Proof.Machine
open Sys2Proof.Bits

/-- A lane of the result: a lane of the left operand or of the right one. -/
inductive Pick where
  | l (k : Nat)
  | r (k : Nat)

/-- Beat `j` of a picked lane. -/
def pickLane (c : Fx) (f : FmtA) (j : Nat) : Pick → Lane
  | .l x => Vec.lane (optBeat c.l j) x
  | .r x => rightLane c f j x

/-- The mask bit of a picked lane. -/
def pickBit (c : Fx) (f : FmtA) : Pick → Bool
  | .l x => (optMask c.l).getLsbD x
  | .r x => (rightMask c f).getLsbD x

/-- The frame of a LANE form: `pat` picks each result lane, `mask` gives the result mask; every beat follows the one pattern. -/
def laneForm (i : Instr) (f : FmtA) (pat : Fx → Nat → Pick) (mask : Fx → BitVec 16) (s : State) :
    Host.Outcome State Fault Refusal :=
  gateForm i (fun c g =>
    let beats := (List.range (if c.h.plane = 2 then c.k + 1 else 1)).map fun j => Vec.mk fun k => pickLane c f j (pat c k)
    match laneGate c.h g c.l beats (mask c) with
    | none => .act (formDraw i c.k) .skip
    | some d => c.emitPlan (formDraw i c.k) d false .skip) s

/-- The mask bit that each picked lane brings with it. -/
def pickMask (f : FmtA) (pat : Fx → Nat → Pick) (c : Fx) : BitVec 16 := maskOf fun k => pickBit c f (pat c k)

/-- An index or count: bits 3:0 of lane 0 of the right operand or of the immediate (11 R219). -/
def laneIndex (c : Fx) (f : FmtA) : Nat := field (rightLane c f 0 0) 0 4

/-- REPL (11 R220). Where a gate closes some lanes the spec gives their data no value: free values. -/
def execRepl (f : FmtA) (s : State) := gateForm (.repl f) (fun c g =>
  let y := BitVec.ofNat 32 (Num.extend 32 f.ty.toNat (optScalar c.l).toNat)
  if c.h.pmode = 0 then c.emitPlan (formDraw (.repl f) c.k) (vecData (Vec.fill y) 0xFFFF) false .skip
  else if g = 0 then .act (formDraw (.repl f) c.k) .skip
  else c.emitPlan (formDraw (.repl f) c.k)
    (vecData (Vec.mk fun k => if g.getLsbD k then y else Config.freeLane c.s.ctr k) g) false (.upd .fresh)) s

/-- LANE (11 R220). -/
def execLane (f : FmtA) (s : State) := laneForm (.lane f) f (fun c _ => .l (laneIndex c f)) (fun c =>
  if (optMask c.l).getLsbD (laneIndex c f) && (rightMask c f).getLsbD 0 then 0xFFFF else 0) s

/-- The pattern of INSL. -/
def inslPat (f : FmtA) (_ : Fx) (k : Nat) : Pick := if k = field f.imm 0 4 then .r 0 else .l k
/-- INSL (11 R220). -/
def execInsl (f : FmtA) (s : State) := laneForm (.insl f) f (inslPat f) (pickMask f (inslPat f)) s

/-- The pattern of PERM. -/
def permPat (f : FmtA) (_ : Fx) (k : Nat) : Pick := .l (field f.imm (4 * k) 4)
/-- PERM (11 R220). -/
def execPerm (f : FmtA) (s : State) := laneForm (.perm f) f (permPat f) (pickMask f (permPat f)) s

/-- The pattern of SHUF: the index vector is beat 0 of the right operand. -/
def shufPat (c : Fx) (k : Nat) : Pick := .l (field (Vec.lane (optBeat c.r 0) k) 0 4)
/-- SHUF (11 R220). -/
def execShuf (f : FmtA) (s : State) := laneForm (.shuf f) f shufPat (fun c => optMask c.r &&& pickMask f shufPat c) s

/-- The pattern of ROTL. -/
def rotlPat (f : FmtA) (c : Fx) (k : Nat) : Pick := .l ((k + 16 - laneIndex c f) % 16)
/-- ROTL (11 R220). -/
def execRotl (f : FmtA) (s : State) := laneForm (.rotl f) f (rotlPat f) (pickMask f (rotlPat f)) s

/-- The pattern of SLIDE over the 32 lanes of both operands. -/
def slidePat (f : FmtA) (_ : Fx) (k : Nat) : Pick :=
  let n := field f.imm 0 5
  if f.var = 1 then (if k + 16 - n < 16 then .r (k + 16 - n) else .l (k - n))
  else if k + n < 16 then .l (k + n) else .r (k + n - 16)
/-- SLIDE (11 R220). -/
def execSlide (f : FmtA) (s : State) := laneForm (.slide f) f (slidePat f) (pickMask f (slidePat f)) s

/-- The pattern of ZIP. -/
def zipPat (f : FmtA) (_ : Fx) (k : Nat) : Pick :=
  let h := if f.var = 1 then 8 else 0
  if k % 2 = 0 then .l (h + k / 2) else .r (h + k / 2)
/-- ZIP (11 R220). -/
def execZip (f : FmtA) (s : State) := laneForm (.zip f) f (zipPat f) (pickMask f (zipPat f)) s

/-- The pattern of UNZIP. -/
def unzipPat (f : FmtA) (_ : Fx) (k : Nat) : Pick :=
  let e := if f.var = 1 then 1 else 0
  if k < 8 then .l (2 * k + e) else .r (2 * (k - 8) + e)
/-- UNZIP (11 R220). -/
def execUnzip (f : FmtA) (s : State) := laneForm (.unzip f) f (unzipPat f) (pickMask f (unzipPat f)) s

/-- IOTA (11 R220): lane 0 of the left operand, whatever its mask bit, plus k times the signed step. -/
def execIota (f : FmtA) (s : State) := gateForm (.iota f) (fun c g =>
  let v := Vec.mk fun k => Vec.lane (optBeat c.l 0) 0 + BitVec.ofNat 32 k * f.imm.setWidth 32
  match laneGate c.h g c.l [v] 0xFFFF with
  | none => .act (formDraw (.iota f) c.k) .skip
  | some d => c.emitPlan (formDraw (.iota f) c.k) d false .skip) s

end Sys2Proof.Machine
end

