-- ==== Sys2Proof/Machine/Monitors.lean ====
section
/-! DEFINITION. Monitors (21 R353, R355; 07 R149), the patrol scrub (26 R419; 24 R406, R407) and the retirement of frames (24 R408, R409; 26
R421). -/

namespace Sys2Proof.Machine
open Sys2Proof.Bits

/-! ## MONITOR_SAMPLE -/

/-- MONTEMP of a sample, in 1/16 degree. -/
def degreesOf (m : MonSample) : Int := m.temp.toInt

/-- A THERMAL alert (21 R353). -/
def thermalAlert (cluster event : Nat) (temp : BitVec 16) : Prog :=
  .ask fun s => alert 0x0101 [BitVec.ofNat 64 (cluster % 128 + event * 2 ^ 8 + temp.toNat * 2 ^ 16), s.tbase]

/-- A sample takes its place; a cluster that passes 105 degrees, or is the first to pass 115, is reported. -/
def takeSample (m : MonSample) : Prog :=
  .ask fun s =>
    .all [ .upd (.hub fun h => { h with
             mons := (m.cluster, m) :: h.mons.filter fun e => !(e.1 == m.cluster)
             above105 := (h.above105.filter fun c => !(c == m.cluster)) ++ if 1680 < degreesOf m then [m.cluster] else [] }),
           Prog.when (1680 < degreesOf m && !(s.hub.above105.contains m.cluster)) (thermalAlert m.cluster 0 m.temp),
           Prog.when (1840 < degreesOf m && !s.hub.thermal) (.seq (.upd (.hub fun h => { h with thermal := true })) (thermalAlert m.cluster 1 m.temp)) ]

/-- Admission resumes when every cluster reads below 100 degrees; one that has not been sampled since a start does not. -/
def coolDown : Prog :=
  .ask fun s => Prog.when (s.hub.thermal && (List.range 128).all fun c => s.hub.mons.any fun m => m.1 == c && decide (degreesOf m.2 < 1600))
    (.seq (.upd (.hub fun h => { h with thermal := false })) (thermalAlert 0 2 0))

/-- MONITOR_SAMPLE (21 R355). -/
def execMonitorSample (samples : List MonSample) (s : State) : Host.Outcome State Fault Refusal :=
  if s.power = .off then .refused .notEnabled
  else (Prog.seq (Prog.each (samples.filter fun m => m.cluster < 128) takeSample) coolDown).done s

/-! ## PATROL_SCRUB -/

/-- PATROL_SCRUB (26 R419): of a line that the L2 holds. -/
def execPatrolScrub (line : Nat) (s : State) : Host.Outcome State Fault Refusal :=
  match s.l2Line line with
  | none => .refused .notEnabled
  | some l => (if l.tagUe then l2TagUe line l else if l.ue = [] then Prog.skip else l2DataUe Who.none line l).done s

/-! ## FRAME_RETIRE -/

/-- What an eviction of the lines of a frame must see to first: a broken tag, broken data (26 R419). -/
def frameTrouble (s : State) (frame : Nat) : Option Prog :=
  (frameLines s frame).findSome? fun x => match tagTrouble s x, s.l2Line x with
    | some p, _ => some p
    | none, some l => if l.ue = [] || (l.owner.bind (ownerTask s)).any (fun t => !taskLive s t) then none else some (l2DataUe Who.none x l)
    | none, none => none

/-- Whether a kill must still take hold before a frame is retired: of a task that is killed for one of its lines, or of the owner of a broken line. -/
def frameDying (s : State) (frame : Nat) (l : List PageRetire) : Bool :=
  (l.any fun r => r.tid.any fun t => (s.task t).any fun t => !(t.st = .ending)) ||
  (frameLines s frame).any fun x => (s.l2Line x).any fun l => !(l.ue = []) && l.owner.isSome

/-- Retire a frame, with every page in line that it holds (24 R408; 26 R420 steps 4 to 6): the retirement, the quarantines, the device entries, and the
accounts that have waited for it. -/
def retireAll (s : State) (frame : Nat) (l : List PageRetire) : Prog :=
  .all [ Prog.each (l.filter fun r => r.part.isNone) fun r => Prog.when (spareFrame s (paDie (frame * 2 ^ 16))).isNone
           (errorAlert ((frameOwner s frame).getD 0) 0 0x73 (eccInfo s 5 r.line 0) (BitVec.ofNat 64 (r.line * 128)) (frameVas s frame)),
         retirePage frame,
         Prog.each (l.filterMap fun r => r.way) fun w => quarantineWay w.1 w.2.1 w.2.2.1 w.2.2.2,
         Prog.each l fun r => (match r.part with
           | some q => deviceEntry q (r.tid.getD 0) 4 (retiredValue s frame)
           | none => .skip),
         Prog.each (l.filterMap fun r => r.tid) settleClosing ]

/-- What FRAME_RETIRE does with the page that waits at place `k`: it waits for the kill of a task that is killed for the page, and for directory entries.
A frame that no assignment names any more leaves with what it held. -/
def frameRetireJob (s : State) (k : Nat) : Option Prog :=
  match s.hub.retires[k]? with
  | none => none
  | some r =>
    let frame := r.line * 128 / 2 ^ 16
    let mine := s.hub.retires.filter fun x => x.line * 128 / 2 ^ 16 == frame
    let gone : Prog := .upd (.hub fun h => { h with retires := h.retires.filter fun x => !(x.line * 128 / 2 ^ 16 == frame) })
    match frameTrouble s frame with
    | some p => some p
    | none =>
      if frameDying s frame mine then none
      else if (frameOwner s frame).isNone then some (.seq gone (Prog.each (mine.filterMap fun r => r.tid) settleClosing))
      else if !retireReady s frame then none
      else some (.seq gone (retireAll s frame mine))

/-- FRAME_RETIRE (24 R408). -/
def execFrameRetire (k : Nat) (s : State) : Host.Outcome State Fault Refusal :=
  match frameRetireJob s k with
  | some p => p.done s
  | none => .refused .notEnabled

end Sys2Proof.Machine
end

