-- ==== Sys2Proof/Machine/PredForms.lean ====
section
/-! DEFINITION. The PRED group (08 R173–R181). -/

namespace Sys2Proof.Machine
open Sys2Proof.Bits

/-- The true lanes of a vector predicate (08 R173). -/
def trueLanes (t : Option Tok) : BitVec 16 :=
  maskOf fun k => (optMask t).getLsbD k && (Vec.lane (optBeat t 0) k).getLsbD 0

/-- The condition of CMP (08 R175). -/
def intCond (cond : BitVec 3) (ty x y : Nat) : Bool :=
  let w := 2 ^ Num.width ty
  let a := Num.readInt ty x
  let b := Num.readInt ty y
  match cond.toNat with
  | 0 => decide (a = b)
  | 1 => !decide (a = b)
  | 2 => decide (a < b)
  | 3 => decide (a ≤ b)
  | 4 => decide (b < a)
  | 5 => decide (b ≤ a)
  | 6 => decide (x % w < y % w)
  | _ => decide (y % w ≤ x % w)

/-- The condition of FCMP and its flags (08 R176). -/
def floatCond (cond : BitVec 3) (ty x y : Nat) : Bool × Num.Flags :=
  let a := Num.decode (Num.fmtOf ty) x
  let b := Num.decode (Num.fmtOf ty) y
  let nan := a.isNan || b.isNan
  let quiet : Num.Flags := if a.isSnan || b.isSnan then Num.NV else 0
  let loud : Num.Flags := if nan then Num.NV else 0
  match cond.toNat with
  | 0 => (!nan && Num.eqVal a b, quiet)
  | 1 => (nan || !Num.eqVal a b, quiet)
  | 2 => (!nan && Num.ltVal a b, loud)
  | 3 => (!nan && !Num.ltVal b a, loud)
  | 4 => (!nan && Num.ltVal b a, loud)
  | 5 => (!nan && !Num.ltVal a b, loud)
  | _ => (nan, quiet)

/-- 1 or 0 in a whole lane or scalar (08 R173). -/
def boolNat (b : Bool) : Nat := if b then 1 else 0

/-- A predicate result computed lane by lane (08 R175–R177). The data of a V result's lane outside the mask is a free value; on the J
plane the lane passes through (02 R56). -/
def predForm (i : Instr) (f : FmtA) (elem : Nat → Nat → Bool × Num.Flags) (s : State) : Host.Outcome State Fault Refusal :=
  gateForm i (fun c g =>
    let draw := formDraw i c.k
    if c.h.plane = 0 then
      let r := elem (optScalar c.l).toNat (rightScalar c f).toNat
      scalarOut c draw (LaneOut.one (boolNat r.1, r.2))
    else
      let m := dataMask i c f
      match lanesOut c draw true g m (if c.h.plane = 1 then 0xFFFF else m) 1 (fun l =>
          if m.getLsbD l then
            let r := elem (Vec.lane (optBeat c.l 0) l).toNat (rightLane c f 0 l).toNat
            LaneOut.one (boolNat r.1, r.2)
          else LaneOut.pure (Config.freeLane c.s.ctr l).toNat) with
      | .act d p => .act d (.seq p (.upd .fresh))
      | pl => pl) s

/-- CMP (08 R175). -/
def execCmp (f : FmtA) (s : State) := predForm (.cmp f) f (fun x y => (intCond f.var f.ty.toNat x y, 0)) s
/-- FCMP (08 R176). -/
def execFcmp (f : FmtA) (s : State) := predForm (.fcmp f) f (fun x y => floatCond f.var f.ty.toNat x y) s
/-- PAND (08 R177). -/
def execPand (f : FmtA) (s : State) := predForm (.pand f) f (fun x y => (x % 2 = 1 && y % 2 = 1, 0)) s
/-- POR (08 R177). -/
def execPor (f : FmtA) (s : State) := predForm (.por f) f (fun x y => (x % 2 = 1 || y % 2 = 1, 0)) s
/-- PXOR (08 R177). -/
def execPxor (f : FmtA) (s : State) := predForm (.pxor f) f (fun x y => (!(x % 2 = y % 2), 0)) s
/-- PNOT (08 R177). -/
def execPnot (f : FmtA) (s : State) := predForm (.pnot f) f (fun x _ => (x % 2 = 0, 0)) s

/-- A vector of one beat under the gate, without flags. -/
def vecOut (i : Instr) (c : Fx) (g : BitVec 16) (bs : List Vec) (m : BitVec 16) : Plan :=
  match laneGate c.h g c.l bs m with
  | none => .act (formDraw i c.k) .skip
  | some d => c.emitPlan (formDraw i c.k) d false .skip

/-- ANY (08 R178). -/
def execAny (f : FmtA) (s : State) := gateForm (.any f) (fun c g =>
  vecOut (.any f) c g [Vec.fill (if trueLanes c.l = 0 then 0 else 1)] 0xFFFF) s
/-- ALL (08 R178): an empty mask gives 1. -/
def execAll (f : FmtA) (s : State) := gateForm (.all f) (fun c g =>
  vecOut (.all f) c g [Vec.fill (if trueLanes c.l = optMask c.l then 1 else 0)] 0xFFFF) s

/-- The lanes that MASKN keeps (08 R179). -/
def maskKeep (f : FmtA) (n : Nat) : BitVec 16 := maskOf fun k => if f.var = 1 then decide (n ≤ k) else decide (k < n)

/-- MASKN (08 R179). -/
def execMaskn (f : FmtA) (s : State) := gateForm (.maskn f) (fun c g =>
  vecOut (.maskn f) c g [Vec.mk fun l => Vec.lane (optBeat c.l 0) l] (optMask c.l &&& maskKeep f (rightLane c f 0 0).toNat)) s

/-- SEL (08 R180): each lane, or the scalar, from the operand that the predicate chooses. -/
def selPlan (f : FmtA) (c : Fx) : Plan :=
  let draw := formDraw (.sel f) c.k
  if c.h.plane = 0 then
    let left := gateScalar c.h.pmode ((optScalar c.p).getLsbD 0)
    c.emitPlan draw (.scalar (if left then optScalar c.l else rightScalar c f)) false .skip
  else
    let tl := trueLanes c.p
    let g := if c.h.pmode = 1 then tl else ~~~tl
    let nb := if c.h.plane = 2 then c.k + 1 else 1
    c.emitPlan draw (.beats ((List.range nb).map fun j => Vec.mk fun l =>
        if g.getLsbD l then Vec.lane (optBeat c.l j) l else rightLane c f j l)
      ((optMask c.l &&& g) ||| (rightMask c f &&& ~~~g))) false .skip

/-- SEL (08 R180). -/
def execSel (f : FmtA) (s : State) := fire (.sel f) (fun c => match c.mode true with
  | .null => c.nullPlan (formDraw (.sel f) c.k)
  | _ => selPlan f c) s

end Sys2Proof.Machine
end

