-- ==== Sys2Proof/Machine/Starts.lean ====
section
/-! DEFINITION. Dawn and noon (21 R354; 01 R37; 24 R412). -/

namespace Sys2Proof.Machine
open Sys2Proof.Bits

/-! ## The Stable's cluster (01 R37) -/

/-- The positions of a cluster as a rectangle. -/
def clusterRect (c : Nat) : Nat × Nat × Nat × Nat := (8 * (c % 8), 4 * (c / 8), 8, 4)

/-- The clusters that hold no bad node, in ascending number. -/
def cleanClusters (bad : List Nat) : List Nat := (List.range 128).filter fun c => !(bad.any fun n => nodeCluster n == c)

/-- The START alert (21 R353). -/
def startAlert (kind : Nat) : Prog :=
  .ask fun s => alert 0x0100 [BitVec.ofNat 64 (kind + s.hub.stable % 128 * 2 ^ 8),
    BitVec.ofNat 64 (total ((List.range 48).map fun p => if (s.part p).stranded then 2 ^ p else 0)), BitVec.ofNat 64 s.hub.bad.length]

/-- The image set that a start verifies: the one that FWUPDATE has stored, or the one that runs. -/
def startImage (s : State) : List Byte := s.hub.fwNext.getD s.hub.fw

/-! ## Dawn (21 R354) -/

/-- Everything but the hub, the agenda and the timebase is as it is with nothing in it. -/
def wipe : Prog :=
  .ask fun s => .all [
    Prog.each s.mem fun e => .upd (.mem e.1 memDefault),
    Prog.each s.pads fun e => .upd (.pad e.1 0),
    Prog.each s.tables fun e => .upd (.table e.1 0),
    Prog.each s.vers fun e => .upd (.ver e.1 VerWord.reset),
    Prog.each s.l2 fun e => .upd (.l2 e.1 none),
    Prog.each s.poison fun e => .upd (.poison e.1 false),
    Prog.each s.nodes fun e => .upd (.node e.1 fun _ => Node.reset),
    Prog.each s.tasks fun e => .upd (.task e.1 fun _ => none),
    Prog.each s.parts fun e => .upd (.part e.1 fun _ => Part.reset),
    .upd (.cards fun _ => []), .upd (.flits fun _ => []), .upd (.results fun _ => []), .upd (.held fun _ => []),
    .upd (.breqs fun _ => []), .upd (.tlb fun _ => []), .upd (.relatch fun _ => []), .upd (.drains fun _ => []),
    .upd (.unmaps fun _ => []), .upd (.mirror fun _ => []), .upd (.reins fun _ => []),
    .upd (.waiters fun _ => []), .upd (.since fun _ => []) ]

/-- Dawn, with the bad nodes that its self-test and calibration find: hub and tables are cleared, the timebase starts at zero, the Stable
takes the first clean cluster. Images that do not verify, or a package with no clean cluster, leave the safe state. The Stable's graphs have no entry
block in the spec: no context of the Stable's nodes is started, and what its graphs decide comes as whole events (DESIGN CHOICE, log 68). -/
def dawnProg (bad : List Nat) : Prog :=
  .ask fun s =>
    let ok := Config.fwVerify (startImage s) && !(cleanClusters bad = [])
    let kind := if ok then 0 else 3
    .all [ wipe, .upd (.tick (2 ^ 64 - s.tbase.toNat)),
           .upd (.hub fun h => { Hub.reset with
             outbox := h.outbox
             leaf := h.leaf
             bad := bad
             stable := (cleanClusters bad).headD 0
             fw := if ok then startImage s else h.fw
             fwNext := if ok then none else h.fwNext
             startKind := kind
             package := Config.package.toNat }),
           .upd (.power (if ok then .running else .safe)), startAlert kind ]

/-- A start begins (21 R352): until it is complete only SYNC, HEALTH and IDENTITY are executed. -/
def beginStart (st : Start) : Prog := .seq (.upd (.power .starting)) (.upd (.hub fun h => { h with
  starting := some st
  lastCmd := match st.cmd with
    | some c => c.2
    | none => h.lastCmd }))

/-- POWER_ON (21 R354). -/
def execPowerOn (bad : List Nat) (s : State) : Host.Outcome State Fault Refusal :=
  if s.power = .off then (beginStart ⟨true, 0, bad, none⟩).done s else .refused .notEnabled

/-- DAWN (21 R354). -/
def execDawn (c : Cmd) (bad : List Nat) (s : State) : Host.Outcome State Fault Refusal :=
  inOrder 0xF1 c true ((beginStart ⟨true, 0, bad, some (0xF1, c.seq)⟩).done s) s

/-! ## Noon (21 R354, 01 R37) -/

/-- The cluster that a noon gives the Stable, if any is clean: its own, unless a node in it has been marked bad. -/
def noonCluster (s : State) : Option Nat :=
  if !(s.hub.bad.any fun n => nodeCluster n == s.hub.stable) then some s.hub.stable
  else
    let clean := cleanClusters s.hub.bad
    match clean.find? fun c => !(s.parts.any fun e => e.2.en && overlaps (clusterRect c) e.2.rect) with
    | some c => some c
    | none => clean.head?

/-- Whether a noon can be completed. -/
def noonOk (s : State) : Bool := Config.fwVerify (startImage s) && (noonCluster s).isSome

/-- Write back and invalidate the L2 slice of a cluster. -/
def flushSlice (c : Nat) : Prog :=
  .ask fun s => Prog.each ((s.l2.map fun e => e.1).filter fun l => paDie (l * 128) = ownDie s (clusterDie c) && homeSlice s l = clusterSlice c) evictLine

/-- The Stable moves to a cluster: its slice is flushed, and the partitions that overlap it are stranded. -/
def moveStable (c : Nat) : Prog :=
  .ask fun s => if c = s.hub.stable then .skip else
    .all [ flushSlice c, .upd (.hub fun h => { h with stable := c }),
           Prog.each (s.parts.map fun e => e.1) fun p => .upd (.part p fun x =>
             { x with stranded := x.en && overlaps (clusterRect c) x.rect }) ]

/-- Abort every admitted or swept task with STATUS 0x83; an account that waits for a retirement waits no longer. -/
def abortAll : Prog := .ask fun s => Prog.each (s.tasks.map fun e => e.1) fun t => .seq (killTask t) (settleClosing t)

/-- The rest of a noon: the images are reloaded, both SEQs reset, START sent. One whose images fail leaves the safe state. -/
def noonProg (kind : Nat) : Prog :=
  .ask fun s =>
    let ok := noonOk s
    let k := if ok then kind else 3
    .all [ (match noonCluster s with
            | some c => moveStable c
            | none => .skip),
           .upd (.hub fun h => { h with
             lastCmd := 0
             devSeq := 0
             stored := []
             starting := none
             mons := []
             fw := if ok then startImage s else h.fw
             fwNext := if ok then none else h.fwNext
             startKind := k }),
           .upd (.power (if ok then .running else .safe)), startAlert k ]

/-- Whether any task is admitted or swept. -/
def anyTask (s : State) : Bool := s.tasks.any fun e => match e.2 with
  | some t => !(decide (t.st = .ending))
  | none => false

/-- NOON (21 R354). -/
def execNoon (c : Cmd) (force : Bool) (s : State) : Host.Outcome State Fault Refusal :=
  inOrder 0xF0 c false (if anyTask s && !force then (execute 0xF0 c.seq .busy).done s
    else (Prog.seq abortAll (beginStart ⟨false, if force then 2 else 1, [], some (0xF0, c.seq)⟩)).done s) s

/-- STABLE_ERROR_NOON (24 R412): noon with FORCE; where noon fails, dawn. -/
def execStableErrorNoon (bad : List Nat) (noonFails : Bool) (s : State) : Host.Outcome State Fault Refusal :=
  if s.power = .running then
    (Prog.all [ Prog.each bad markBad, .ask fun s =>
      if noonFails || !noonOk s then beginStart ⟨true, 0, s.hub.bad, none⟩ else .seq abortAll (beginStart ⟨false, 2, [], none⟩) ]).done s
  else .refused .notEnabled

/-- A start is complete (21 R349, R354): START is the first message of the new numbering, and the response to the command that asked for the start follows
it; one whose images do not verify, or that finds no clean cluster, is answered with STATUS 0x06 (DESIGN CHOICE, log 66). -/
def startDone (s : State) : Host.Outcome State Fault Refusal :=
  match s.power, s.hub.starting with
  | .starting, some st => (Prog.seq (if st.dawn then dawnProg st.bad else noonProg st.kind) (match st.cmd with
      | some c => .ask fun s => respond c.1 (if s.power = .running then 0 else 6) c.2 [] false
      | none => .skip)).done s
  | _, _ => .refused .notEnabled

end Sys2Proof.Machine
end

