-- ==== Sys2Proof/Machine/Dispatch.lean ====
section
/-! DEFINITION. One arm per constructor of Instr, each a direct call of its meaning. -/

namespace Sys2Proof.Machine

def exec (i : Instr) (s : State) : Host.Outcome State Fault Refusal :=
  match i with
  | .powerOn bad => Sys2Proof.Machine.execPowerOn bad s
  | .dawn c bad => Sys2Proof.Machine.execDawn c bad s
  | .noon c force => Sys2Proof.Machine.execNoon c force s
  | .sync c => Sys2Proof.Machine.execSync c s
  | .part c p w0 w1 w2 => Sys2Proof.Machine.execPart c p w0 w1 w2 s
  | .key c p wrap => Sys2Proof.Machine.execKey c p wrap s
  | .rings c p bases caps logCap mirBase mirLen partner => Sys2Proof.Machine.execRings c p bases caps logCap mirBase mirLen partner s
  | .frames c p asid fs => Sys2Proof.Machine.execFrames c p asid fs s
  | .quota c p counter period => Sys2Proof.Machine.execQuota c p counter period s
  | .arenaCreate c p asid id base size die => Sys2Proof.Machine.execArenaCreate c p asid id base size die s
  | .arenaDestroy c p asid id => Sys2Proof.Machine.execArenaDestroy c p asid id s
  | .image c p asid va bytes => Sys2Proof.Machine.execImage c p asid va bytes s
  | .fwin c die win w0 w1 w2 w3 => Sys2Proof.Machine.execFwin c die win w0 w1 w2 w3 s
  | .enqueue c p queue record va => Sys2Proof.Machine.execEnqueue c p queue record va s
  | .cancel c p byVa x => Sys2Proof.Machine.execCancel c p byVa x s
  | .logfetch c p first count => Sys2Proof.Machine.execLogfetch c p first count s
  | .logack c p n => Sys2Proof.Machine.execLogack c p n s
  | .sign c p => Sys2Proof.Machine.execSign c p s
  | .msgfetch c p => Sys2Proof.Machine.execMsgfetch c p s
  | .health c => Sys2Proof.Machine.execHealth c s
  | .monitor c first count => Sys2Proof.Machine.execMonitor c first count s
  | .identity c => Sys2Proof.Machine.execIdentity c s
  | .debugResume c p node => Sys2Proof.Machine.execDebugResume c p node s
  | .debugSuspend c p node => Sys2Proof.Machine.execDebugSuspend c p node s
  | .fwupdate c image => Sys2Proof.Machine.execFwupdate c image s
  | .nonRodPacket => Sys2Proof.Machine.execNonRodPacket s
  | .br f => Sys2Proof.Machine.execBr f s
  | .bri f => Sys2Proof.Machine.execBri f s
  | .call f => Sys2Proof.Machine.execCall f s
  | .calli f => Sys2Proof.Machine.execCalli f s
  | .ret f => Sys2Proof.Machine.execRet f s
  | .halt f => Sys2Proof.Machine.execHalt f s
  | .mov f => Sys2Proof.Machine.execMov f s
  | .const f => Sys2Proof.Machine.execConst f s
  | .lenter f => Sys2Proof.Machine.execLenter f s
  | .inext f => Sys2Proof.Machine.execInext f s
  | .iprev f => Sys2Proof.Machine.execIprev f s
  | .lexit f => Sys2Proof.Machine.execLexit f s
  | .talloc f => Sys2Proof.Machine.execTalloc f s
  | .tfree f => Sys2Proof.Machine.execTfree f s
  | .spawn f => Sys2Proof.Machine.execSpawn f s
  | .join f => Sys2Proof.Machine.execJoin f s
  | .getg f => Sys2Proof.Machine.execGetg f s
  | .putg f => Sys2Proof.Machine.execPutg f s
  | .empty f => Sys2Proof.Machine.execEmpty f s
  | .null f => Sys2Proof.Machine.execNull f s
  | .cmp f => Sys2Proof.Machine.execCmp f s
  | .fcmp f => Sys2Proof.Machine.execFcmp f s
  | .pand f => Sys2Proof.Machine.execPand f s
  | .por f => Sys2Proof.Machine.execPor f s
  | .pxor f => Sys2Proof.Machine.execPxor f s
  | .pnot f => Sys2Proof.Machine.execPnot f s
  | .any f => Sys2Proof.Machine.execAny f s
  | .all f => Sys2Proof.Machine.execAll f s
  | .maskn f => Sys2Proof.Machine.execMaskn f s
  | .sel f => Sys2Proof.Machine.execSel f s
  | .add f => Sys2Proof.Machine.execAdd f s
  | .sub f => Sys2Proof.Machine.execSub f s
  | .mul f => Sys2Proof.Machine.execMul f s
  | .mulh f => Sys2Proof.Machine.execMulh f s
  | .div f => Sys2Proof.Machine.execDiv f s
  | .rem f => Sys2Proof.Machine.execRem f s
  | .neg f => Sys2Proof.Machine.execNeg f s
  | .abs f => Sys2Proof.Machine.execAbs f s
  | .min f => Sys2Proof.Machine.execMin f s
  | .max f => Sys2Proof.Machine.execMax f s
  | .madd f => Sys2Proof.Machine.execMadd f s
  | .dot4 f => Sys2Proof.Machine.execDot4 f s
  | .lea f => Sys2Proof.Machine.execLea f s
  | .and f => Sys2Proof.Machine.execAnd f s
  | .or f => Sys2Proof.Machine.execOr f s
  | .xor f => Sys2Proof.Machine.execXor f s
  | .andn f => Sys2Proof.Machine.execAndn f s
  | .not f => Sys2Proof.Machine.execNot f s
  | .shl f => Sys2Proof.Machine.execShl f s
  | .shr f => Sys2Proof.Machine.execShr f s
  | .sar f => Sys2Proof.Machine.execSar f s
  | .rol f => Sys2Proof.Machine.execRol f s
  | .clz f => Sys2Proof.Machine.execClz f s
  | .popc f => Sys2Proof.Machine.execPopc f s
  | .brev f => Sys2Proof.Machine.execBrev f s
  | .bfx f => Sys2Proof.Machine.execBfx f s
  | .bfi f => Sys2Proof.Machine.execBfi f s
  | .sext f => Sys2Proof.Machine.execSext f s
  | .zext f => Sys2Proof.Machine.execZext f s
  | .fadd f => Sys2Proof.Machine.execFadd f s
  | .fsub f => Sys2Proof.Machine.execFsub f s
  | .fmul f => Sys2Proof.Machine.execFmul f s
  | .fma f => Sys2Proof.Machine.execFma f s
  | .fnma f => Sys2Proof.Machine.execFnma f s
  | .fdiv f => Sys2Proof.Machine.execFdiv f s
  | .fsqrt f => Sys2Proof.Machine.execFsqrt f s
  | .frsqrt f => Sys2Proof.Machine.execFrsqrt f s
  | .frcp f => Sys2Proof.Machine.execFrcp f s
  | .fmin f => Sys2Proof.Machine.execFmin f s
  | .fmax f => Sys2Proof.Machine.execFmax f s
  | .fabs f => Sys2Proof.Machine.execFabs f s
  | .fneg f => Sys2Proof.Machine.execFneg f s
  | .fcpys f => Sys2Proof.Machine.execFcpys f s
  | .fclass f => Sys2Proof.Machine.execFclass f s
  | .frint f => Sys2Proof.Machine.execFrint f s
  | .fscale f => Sys2Proof.Machine.execFscale f s
  | .fexp f => Sys2Proof.Machine.execFexp f s
  | .fexp2 f => Sys2Proof.Machine.execFexp2 f s
  | .flog f => Sys2Proof.Machine.execFlog f s
  | .flog2 f => Sys2Proof.Machine.execFlog2 f s
  | .fsin f => Sys2Proof.Machine.execFsin f s
  | .fcos f => Sys2Proof.Machine.execFcos f s
  | .ftanh f => Sys2Proof.Machine.execFtanh f s
  | .flgst f => Sys2Proof.Machine.execFlgst f s
  | .ferf f => Sys2Proof.Machine.execFerf f s
  | .cvt f => Sys2Proof.Machine.execCvt f s
  | .cvtsr f => Sys2Proof.Machine.execCvtsr f s
  | .rng f => Sys2Proof.Machine.execRng f s
  | .pack4 f => Sys2Proof.Machine.execPack4 f s
  | .unpk4 f => Sys2Proof.Machine.execUnpk4 f s
  | .jord f => Sys2Proof.Machine.execJord f s
  | .jordSet f => Sys2Proof.Machine.execJordSet f s
  | .jseed f => Sys2Proof.Machine.execJseed f s
  | .jcoef f => Sys2Proof.Machine.execJcoef f s
  | .jsetc f => Sys2Proof.Machine.execJsetc f s
  | .jdiff f => Sys2Proof.Machine.execJdiff f s
  | .jintg f => Sys2Proof.Machine.execJintg f s
  | .jtrunc f => Sys2Proof.Machine.execJtrunc f s
  | .jeval f => Sys2Proof.Machine.execJeval f s
  | .jflag f => Sys2Proof.Machine.execJflag f s
  | .jflagClr f => Sys2Proof.Machine.execJflagClr f s
  | .repl f => Sys2Proof.Machine.execRepl f s
  | .lane f => Sys2Proof.Machine.execLane f s
  | .insl f => Sys2Proof.Machine.execInsl f s
  | .perm f => Sys2Proof.Machine.execPerm f s
  | .shuf f => Sys2Proof.Machine.execShuf f s
  | .rotl f => Sys2Proof.Machine.execRotl f s
  | .slide f => Sys2Proof.Machine.execSlide f s
  | .zip f => Sys2Proof.Machine.execZip f s
  | .unzip f => Sys2Proof.Machine.execUnzip f s
  | .iota f => Sys2Proof.Machine.execIota f s
  | .red f => Sys2Proof.Machine.execRed f s
  | .scan f => Sys2Proof.Machine.execScan f s
  | .accum f => Sys2Proof.Machine.execAccum f s
  | .filter f => Sys2Proof.Machine.execFilter f s
  | .compact f => Sys2Proof.Machine.execCompact f s
  | .steer f => Sys2Proof.Machine.execSteer f s
  | .merge f => Sys2Proof.Machine.execMerge f s
  | .mmat f => Sys2Proof.Machine.execMmat f s
  | .tfetch f => Sys2Proof.Machine.execTfetch f s
  | .accclr f => Sys2Proof.Machine.execAccclr f s
  | .accarm f => Sys2Proof.Machine.execAccarm f s
  | .accrel f => Sys2Proof.Machine.execAccrel f s
  | .accrd f => Sys2Proof.Machine.execAccrd f s
  | .accchk f => Sys2Proof.Machine.execAccchk f s
  | .mtrans f => Sys2Proof.Machine.execMtrans f s
  | .ld f => Sys2Proof.Machine.execLd f s
  | .lds f => Sys2Proof.Machine.execLds f s
  | .ldg f => Sys2Proof.Machine.execLdg f s
  | .st f => Sys2Proof.Machine.execSt f s
  | .sts f => Sys2Proof.Machine.execSts f s
  | .stg f => Sys2Proof.Machine.execStg f s
  | .ldsp f => Sys2Proof.Machine.execLdsp f s
  | .stsp f => Sys2Proof.Machine.execStsp f s
  | .pref f => Sys2Proof.Machine.execPref f s
  | .nullst f => Sys2Proof.Machine.execNullst f s
  | .l1inv f => Sys2Proof.Machine.execL1inv f s
  | .fence f => Sys2Proof.Machine.execFence f s
  | .ldv f => Sys2Proof.Machine.execLdv f s
  | .stv f => Sys2Proof.Machine.execStv f s
  | .reclaim f => Sys2Proof.Machine.execReclaim f s
  | .atom f => Sys2Proof.Machine.execAtom f s
  | .cas f => Sys2Proof.Machine.execCas f s
  | .reinmk f => Sys2Proof.Machine.execReinmk f s
  | .reindup f => Sys2Proof.Machine.execReindup f s
  | .reinspl f => Sys2Proof.Machine.execReinspl f s
  | .reinnar f => Sys2Proof.Machine.execReinnar f s
  | .reindrop f => Sys2Proof.Machine.execReindrop f s
  | .reinq f => Sys2Proof.Machine.execReinq f s
  | .reinsend f => Sys2Proof.Machine.execReinsend f s
  | .copy f => Sys2Proof.Machine.execCopy f s
  | .wpwait f => Sys2Proof.Machine.execWpwait f s
  | .wprd f => Sys2Proof.Machine.execWprd f s
  | .gather f => Sys2Proof.Machine.execGather f s
  | .coll f => Sys2Proof.Machine.execColl f s
  | .topk f => Sys2Proof.Machine.execTopk f s
  | .cwait f => Sys2Proof.Machine.execCwait f s
  | .cstat f => Sys2Proof.Machine.execCstat f s
  | .ccancel f => Sys2Proof.Machine.execCcancel f s
  | .mirror f => Sys2Proof.Machine.execMirror f s
  | .qpush f => Sys2Proof.Machine.execQpush f s
  | .qpop f => Sys2Proof.Machine.execQpop f s
  | .qstat f => Sys2Proof.Machine.execQstat f s
  | .chgrd f => Sys2Proof.Machine.execChgrd f s
  | .chgask f => Sys2Proof.Machine.execChgask f s
  | .tlaunch f => Sys2Proof.Machine.execTlaunch f s
  | .trap f => Sys2Proof.Machine.execTrap f s
  | .fret f => Sys2Proof.Machine.execFret f s
  | .csrrd f => Sys2Proof.Machine.execCsrrd f s
  | .csrwr f => Sys2Proof.Machine.execCsrwr f s
  | .bkpt f => Sys2Proof.Machine.execBkpt f s
  | .tbase f => Sys2Proof.Machine.execTbase f s
  | .tlbinv f => Sys2Proof.Machine.execTlbinv f s
  | .codesync f => Sys2Proof.Machine.execCodesync f s
  | .mlog f => Sys2Proof.Machine.execMlog f s
  | .blockFetch n => Sys2Proof.Machine.execBlockFetch n s
  | .blockMap n => Sys2Proof.Machine.execBlockMap n s
  | .tokenHop k => Sys2Proof.Machine.execTokenHop k s
  | .tokenArrival k => Sys2Proof.Machine.execTokenArrival k s
  | .escapeChannelTimeout k => Sys2Proof.Machine.execEscapeChannelTimeout k s
  | .blockCommit n colour => Sys2Proof.Machine.execBlockCommit n colour s
  | .iterationRetire task colour iter => Sys2Proof.Machine.execIterationRetire task colour iter s
  | .loadValueReturn n k => Sys2Proof.Machine.execLoadValueReturn n k s
  | .deferredWriteArrival k => Sys2Proof.Machine.execDeferredWriteArrival k s
  | .sliceRead n k => Sys2Proof.Machine.execSliceRead n k s
  | .sliceWritePerform n => Sys2Proof.Machine.execSliceWritePerform n s
  | .baseDieRequest k => Sys2Proof.Machine.execBaseDieRequest k s
  | .baseDieReply k => Sys2Proof.Machine.execBaseDieReply k s
  | .taskCommit task => Sys2Proof.Machine.execTaskCommit task s
  | .farrierAction k => Sys2Proof.Machine.execFarrierAction k s
  | .pageFaultResolve k => Sys2Proof.Machine.execPageFaultResolve k s
  | .reLatchToken k => Sys2Proof.Machine.execReLatchToken k s
  | .drainToken k => Sys2Proof.Machine.execDrainToken k s
  | .waitCycleTimeout p => Sys2Proof.Machine.execWaitCycleTimeout p s
  | .areaBidding p => Sys2Proof.Machine.execAreaBidding p s
  | .sliceExpiry task => Sys2Proof.Machine.execSliceExpiry task s
  | .duskToken task => Sys2Proof.Machine.execDuskToken task s
  | .cribBudgetEnd n => Sys2Proof.Machine.execCribBudgetEnd n s
  | .chargeMismatch n measured fast => Sys2Proof.Machine.execChargeMismatch n measured fast s
  | .periodAutoOpen p => Sys2Proof.Machine.execPeriodAutoOpen p s
  | .logSign256 p => Sys2Proof.Machine.execLogSign256 p s
  | .ireFree asid arena granule => Sys2Proof.Machine.execIreFree asid arena granule s
  | .reinDelivery k => Sys2Proof.Machine.execReinDelivery k s
  | .copyStep k => Sys2Proof.Machine.execCopyStep k s
  | .gatherStep k => Sys2Proof.Machine.execGatherStep k s
  | .collStep k mismatch others => Sys2Proof.Machine.execCollStep k mismatch others s
  | .topkStep k => Sys2Proof.Machine.execTopkStep k s
  | .mirrorCopyStep k => Sys2Proof.Machine.execMirrorCopyStep k s
  | .partnerAck k => Sys2Proof.Machine.execPartnerAck k s
  | .mirrorAckTimeout p => Sys2Proof.Machine.execMirrorAckTimeout p s
  | .cardResume k => Sys2Proof.Machine.execCardResume k s
  | .deadlineFallback k => Sys2Proof.Machine.execDeadlineFallback k s
  | .monitorSample samples => Sys2Proof.Machine.execMonitorSample samples s
  | .patrolScrub line => Sys2Proof.Machine.execPatrolScrub line s
  | .frameRetire k => Sys2Proof.Machine.execFrameRetire k s
  | .stableErrorNoon bad noonFails => Sys2Proof.Machine.execStableErrorNoon bad noonFails s
  | .ownerTagCleared owner => Sys2Proof.Machine.execOwnerTagCleared owner s
  | .unmap asid va => Sys2Proof.Machine.execUnmap asid va s

end Sys2Proof.Machine
end

