-- ==== Sys2Proof/Machine/Inputs.lean ====
section
/-! DEFINITION. Soft errors and link resets: what reaches the machine from outside any step of its own (24 R392–R409; 21 R349). An upset only
breaks something; the step that meets it does what the spec says. -/

namespace Sys2Proof.Machine
open Sys2Proof.Bits

/-- Break the parity of a waiting token. -/
def Spilled.broken (p : Parity) (x : Spilled) : Spilled := { x with tok := { x.tok with par := p } }

/-- Break the token in a slot of a matching entry. -/
def MEntry.broken (slot : Nat) (p : Parity) (e : MEntry) : MEntry :=
  match e.tok slot with
  | some t => e.put slot { t with par := p }
  | none => e

/-- The quad row of a scratchpad offset: tile s stands in row s div 2 (01 R14). -/
def tileRow (quad off : Nat) : Nat × Nat := (4 * (quad % 16), 2 * (quad / 16) + off / 2 ^ 18 / 2)

/-- An uncorrectable error in a scratchpad tile, a spill or a park area (24 R405): the task of the rectangle is killed; the second one in a tile
since dawn marks the node of lower x in the tile's row. -/
def padUe (quad off : Nat) : Prog :=
  .ask fun s =>
    let tile := 4 * quad + off / 2 ^ 18 % 4
    let p := tileRow quad off
    .all [ Prog.when (s.hub.tileUe.contains tile) (markBad (nodeAt (p.1 + p.2 % 2) p.2)),
           .upd (.hub fun h => { h with tileUe := if h.tileUe.contains tile then h.tileUe else h.tileUe ++ [tile] }),
           (match taskAt s p.1 p.2 with
            | some t => .seq (recordFor t Who.none 0 (BitVec.ofNat 64 (dieAt p.1 p.2 * 2 ^ 13))) (killTask t)
            | none => .skip) ]

/-- What an upset breaks. A broken L1 line is dropped, and fetched again from the L2 where that has it (24 R405). -/
def breaks (u : Upset) : Prog :=
  match u with
  | .flit k p => .upd (.flits fun l => l.modify k fun f => { f with tok := { f.tok with par := p } })
  | .entry n e slot p => .upd (.node n fun nd => match nd.entry e with
      | some m => nd.setEntry e (some (m.broken slot p))
      | none => nd)
  | .spill n k p => .upd (.node n fun nd => { nd with
      spill := nd.spill.modify k (Spilled.broken p)
      park := if nd.spill.length ≤ k then nd.park.modify (k - nd.spill.length) (Spilled.broken p) else nd.park })
  | .sreg n r => .upd (.node n fun nd => { nd with s := Sparse.upd SReg.reset nd.s r fun x => { x with par := false } })
  | .vreg n r => .upd (.node n fun nd => { nd with v := Sparse.upd VReg.reset nd.v r fun x => { x with par := false } })
  | .firing n again => .upd (.node n fun nd => { nd with upset := some again })
  | .cell n tile c x => .upd (.node n fun nd => { nd with
      tiles := Sparse.upd Tile.reset nd.tiles tile fun t => { t with cells := Sparse.put 0 t.cells c x } })
  | .l1 n line => .ask fun s => match (s.node n).l1.find? fun x => x.line == line with
      | some x => .seq (.upd (.node n fun nd => { nd with l1 := nd.l1.filter fun y => !(y.line == line) }))
          (Prog.when (!foreign s ((s.taskOf n).map fun t => t.owner) line && (s.l2Line line).any fun l => l.ue = []) (l1Fill n line x.vline))
      | none => .skip
  | .l2data line w => .ask fun s => match s.l2Line line with
      | some l => .upd (.l2 line (some { l with ue := if l.ue.contains w then l.ue else l.ue ++ [w] }))
      | none => .skip
  | .l2tag line => .ask fun s => match s.l2Line line with
      | some l => .upd (.l2 line (some { l with tagUe := true }))
      | none => .skip
  | .bitmap die sl set => .upd (.hub fun h => { h with bitmapUe := h.bitmapUe ++ [(4 * h.package + die, sl, some set)] })
  | .sliceBitmap die sl => .upd (.hub fun h => { h with bitmapUe := h.bitmapUe ++ [(4 * h.package + die, sl, none)] })
  | .pad quad off => padUe quad off
  | .memory cw => .upd (.hub fun h => { h with memUe := if h.memUe.contains cw then h.memUe else h.memUe ++ [cw] })
  | .corrected die part => countFixed die part

/-- A link reset loses the messages on their way to the host (21 R349); the stored responses stay. -/
def linkDown : Prog := .upd (.hub fun h => { h with outbox := [] })

end Sys2Proof.Machine
end

