-- ==== Sys2Proof/Machine/Moves.lean ====
section
/-! DEFINITION. What the machine may do next: the firings of its nodes and the events whose cause is there (01 R12, R36). The spec gives no
order among them; `Config.pick` is free. -/

namespace Sys2Proof.Machine
open Sys2Proof.Bits

/-- The instruction of a firing: the word of the node's mapped block, decoded. -/
def siteInstr (s : State) (st : Site) : Option Instr := (s.node st.node).cur.bind fun m => m.blk.instr st.q

/-- After a move no firing is in hand, and what it has left is noted (01 R20, 22 R362, 23 R384). -/
def letGo (o : Host.Outcome State Fault Refusal) : Host.Outcome State Fault Refusal :=
  match o with
  | .next s => .next (noteMove.run { s with cur := none })
  | .fault f => .fault f
  | .refused r => .refused r

/-- What a move does by itself. -/
def bareMove (mv : Move) (s : State) : Host.Outcome State Fault Refusal :=
  match mv with
  | .fire st =>
    match siteInstr s st with
    | some i => exec i { s with cur := some st }
    | none => .refused .noInstruction
  | .event i => exec i { s with cur := none }
  | .inject n => (injectReads n).done s
  | .settle n => if settleReady s n then (settleFaults n).done s else .refused .notEnabled
  | .doom tid => (match (s.task tid).bind fun t => t.doomed with
    | some outcome => (abortTask tid outcome).done s
    | none => .refused .notEnabled)
  | .refill n => (match refillJob s n with
    | some p => p.done s
    | none => .refused .notEnabled)
  | .mapPage asid page => (match dueFrame s asid page with
    | some r => (mapFrame asid r).done s
    | none => .refused .notEnabled)
  | .started => startDone s
  | .unknown opc kind seq => unknownMessage opc kind seq s
  | .window die win w0 w1 w2 w3 => ostlerWindow die win ⟨w0, w1, w2, w3⟩ s
  | .upset u => (breaks u).done s
  | .linkReset => linkDown.done s

/-- Make one move. -/
def makeMove (mv : Move) (s : State) : Host.Outcome State Fault Refusal := letGo (bareMove mv s)

/-- Whether a move is there to take. -/
def isNext (o : Host.Outcome State Fault Refusal) : Bool :=
  match o with
  | .next _ => true
  | _ => false

/-! ## The moves that may be there -/

/-- The numbers below the length of a list. -/
def places {α : Type} (l : List α) : List Nat := List.range l.length

/-- What a node may do. -/
def nodeMoves (n : Nat) (nd : Node) (s : State) : List Move :=
  (nd.places.map fun x => Move.fire ⟨n, x.1, x.2⟩) ++
  (if dueReads s n = [] then [] else [Move.inject n]) ++ (if nd.cur.any (fun m => !(m.faults = [])) then [Move.settle n] else []) ++
  (if (refillJob s n).isSome then [Move.refill n] else []) ++
  ([Instr.blockFetch n, .blockMap n, .sliceWritePerform n, .cribBudgetEnd n].map Move.event) ++
  ((distinct (((nd.cur.map fun m => m.units).getD []).map fun u => tagColour u.tag)).map fun c => Move.event (.blockCommit n c)) ++
  ((places nd.loads).flatMap fun k => [Move.event (.sliceRead n k), .event (.loadValueReturn n k)])

/-- What may come about for a task. -/
def taskMoves (tid : Nat) (t : Task) : List Move :=
  ([Instr.taskCommit tid, .sliceExpiry tid, .duskToken tid, .ownerTagCleared t.owner].map Move.event) ++
  (t.frames.flatMap fun f => (distinct (0 :: f.2.live ++ f.2.freeing)).map fun i => Move.event (.iterationRetire tid f.1 i)) ++
  (t.savedNodes.map fun e => Move.event (.sliceWritePerform (2048 * tid + e.1))) ++ (if t.doomed.isSome then [Move.doom tid] else [])

/-- What may come about for a partition. -/
def partMoves (p : Nat) : List Move :=
  [Instr.areaBidding p, .waitCycleTimeout p, .periodAutoOpen p, .logSign256 p, .mirrorAckTimeout p].map Move.event

/-- What may come about for a card. Data of other packages comes from outside: COLL_STEP is an input. -/
def cardMoves (k : Nat) : List Move :=
  [Instr.copyStep k, .gatherStep k, .topkStep k, .mirrorCopyStep k, .cardResume k, .deadlineFallback k].map Move.event

/-- What may come about for what is on its way. -/
def flightMoves (s : State) : List Move :=
  ((places s.flits).flatMap fun k => [Instr.tokenHop k, .tokenArrival k, .escapeChannelTimeout k].map Move.event) ++
  ((places s.results).map fun k => Move.event (.deferredWriteArrival k)) ++
  ((places s.breqs).flatMap fun k => [Instr.baseDieRequest k, .baseDieReply k].map Move.event) ++
  ((places s.relatch).map fun k => Move.event (.reLatchToken k)) ++
  ((places s.drains).map fun k => Move.event (.drainToken k)) ++
  ((places s.mirror).map fun k => Move.event (.partnerAck k)) ++
  ((places s.reins).map fun k => Move.event (.reinDelivery k))

/-- What the hub and the Stable may do. -/
def hubMoves (s : State) : List Move :=
  [Move.event (.farrierAction 0)] ++ ((places s.hub.pages).map fun k => Move.event (.pageFaultResolve k)) ++
  ((places s.hub.retires).map fun k => Move.event (.frameRetire k)) ++
  (s.hub.arenas.flatMap fun a => a.2.pending.map fun g => Move.event (.ireFree a.1.1 a.1.2 g.1)) ++
  (s.l2.map fun e => Move.event (.patrolScrub e.1))

/-- Every move that may be there. -/
def candidates (s : State) : List Move :=
  (s.nodes.flatMap fun e => nodeMoves e.1 e.2 s) ++
  (s.tasks.flatMap fun e => match e.2 with
    | some t => taskMoves e.1 t
    | none => []) ++
  (s.parts.flatMap fun e => partMoves e.1 ++ (e.2.frames.filter fun f => f.due).map fun f => Move.mapPage f.asid f.req.page) ++ ((places s.cards).flatMap cardMoves) ++ flightMoves s ++ hubMoves s

/-- The moves that are there to take. -/
def moves (s : State) : List Move := (candidates s).filter fun m => isNext (bareMove m s)

/-- The moves that are there, with the count at which each was first seen; those that have been there longest come first. -/
def noteSince (s : State) (ms : List Move) : List (Move × Nat) :=
  s.since.filter (fun e => ms.contains e.1) ++ (ms.filter fun m => !(s.since.any fun e => e.1 == m)).map fun m => (m, s.ctr)

/-- The move that has been there so long that it comes first (01 R36: no task waits for ever on another). -/
def overdue (s : State) (l : List (Move × Nat)) : Option Move :=
  match l with
  | (m, k) :: _ => if k + Config.patience ≤ s.ctr then some m else none
  | [] => none

/-! ## One step -/

/-- A move of the machine's own: power-on when it is off, the completion of a start that is in progress, else one of the moves that are there, else
nothing. -/
def ownMove (s : State) : Host.Outcome State Fault Refusal :=
  if s.power = .off then makeMove (.event (.powerOn (Config.selfTest s.ctr))) s
  else if s.power = .starting then makeMove .started s
  else
    let ms := moves s
    let since := noteSince s ms
    match (overdue s since).or ms[Config.pick s.ctr % ms.length]? with
    | some m => makeMove m { s with since := since.filter fun e => !(e.1 == m) }
    | none => .next { s with since := since }

/-- Time passes, and the count of free values goes on. -/
def tickClock (s : State) : State :=
  { s with
    tbase := s.tbase + BitVec.ofNat 64 (Config.elapsed s.ctr)
    ctr := s.ctr + 1 }

/-- One step: the move that stands first in the agenda; one that is not yet there to take waits in its place while the machine goes on by
itself. -/
def oneStep (s : State) : Host.Outcome State Fault Refusal :=
  let s := tickClock s
  match s.agenda with
  | m :: ms =>
    let o := makeMove m { s with agenda := ms }
    if isNext o then o else ownMove s
  | [] => ownMove s

/-! ## The next instruction, as the host places it -/

/-- An operand token for slot `slot` of an instruction, all zero, with the beats and the rein mark that the slot takes. -/
def zeroTok (i : Instr) (slot k : Nat) : Tok :=
  let data : TokData := match (inPlanes i slot).headD 0 with
    | 0 => .scalar 0
    | 2 => .beats (List.replicate (k + 1) (Vec.fill 0)) 0xFFFF
    | _ => .beats [Vec.fill 0] 0xFFFF
  { mkTok 0 data false with rein := decide (slot = 1) && reinSlot i }

/-- A matching entry that holds every operand that an instruction consumes. -/
def zeroEntry (i : Instr) : MEntry where
  q := 0
  tag := 0
  left := some (zeroTok i 1 0)
  right := if needsRight i then some (zeroTok i 2 0) else none
  pred := if needsPred i then some (zeroTok i 3 0) else none

/-- A block of one instruction word at address 0: KIND 0xB1, NINS 1. -/
def oneBlock (w : Quad) : Fetched := ⟨0, 0, [BitVec.ofNat 128 (0xB1 * 2 ^ 120), 0, 0, 0], [w]⟩

/-- The registers that a map would have taken down on a node as at reset. -/
def zeroSnap : Snap where
  fpstat := 0
  jflags := 0
  rmode := 0
  jord := 0
  rngkey := 0
  tbase := 0
  chgAllot := 0
  chgDrawn := 0
  mon := [(0, false), (0, false), (0, false)]
  bad := []
  fwin := []
  fs := [0, 0, 0, 0, 0, 0, 0, 0]

/-- The mapped block of one instruction. -/
def oneMapped (w : Quad) : Mapped where
  blk := oneBlock w
  snap := zeroSnap
  h := []
  pins := []
  units := [CUnit.fresh 0]
  reads := []
  latches := []
  takes := []
  ready := []
  faults := []
  under := none

/-- A node that runs that block in context 0 with a full crib. -/
def oneNode (i : Instr) (w : Quad) : Node :=
  { Node.reset with
    task := some 1
    ctxs := [(0, ⟨0, 0, .ready, none, []⟩)]
    cur := some (oneMapped w)
    halted := false
    entries := [(0, zeroEntry i)]
    crib := Crib.seal 4095 0 0 Crib.reset }

/-- A task of one node whose rectangle is the quad at the node's place. -/
def oneTask (x y : Nat) : Task where
  trec := []
  recVa := 0
  recAsid := 0
  part := 0
  asid := 0
  prio := 0
  topup := false
  enq := 0
  owner := 0
  st := .running
  x := x
  y := y
  img := ⟨4, 2, 0, 0, [⟨0, 0, 1, 1, 1, 0⟩], [], [], []⟩
  frames := [(0, Frame.make .root 0)]
  journal := []
  verUndo := []
  deadUndo := []
  coverUndo := []
  sends := []
  launches := []
  received := []
  allot := 4095
  granted := false
  admitted := 0
  sliceFrom := 0
  ran := 0
  dusk := none
  savedNodes := []
  savedTiles := []
  parked := []
  started := [0]
  refused := []
  doomed := none
  closing := none
  announced := true
  bypass := 0

/-- The node that the host's instruction is placed on: node 4, at (8, 0), outside cluster 0. -/
def placeAt : Nat := 4

/-- A state in which the next step fires the instruction of a word. -/
def placed (w : Quad) (s : State) : State :=
  match decode w with
  | .error _ => s
  | .ok i => { s with
      agenda := Move.fire ⟨placeAt, 0, 0⟩ :: s.agenda
      power := .running
      nodes := Sparse.put Node.reset s.nodes placeAt (oneNode i w)
      tasks := Sparse.put none s.tasks 1 (some (oneTask (nodeX placeAt) (nodeY placeAt))) }

end Sys2Proof.Machine
end

