-- ==== Sys2Proof/Machine/Step.lean ====
section
/-! DEFINITION. One step of the machine, and placing an instruction for it. -/

namespace Sys2Proof.Machine

/-- One step (01 R12, R36; 21 R350): the next move of the agenda, or one of the machine's own. -/
def step (s : State) : Host.Outcome State Fault Refusal := oneStep s

/-- `s` with the instruction of a word in the mapped block of a node, its operands present, so that the very next step fires it. -/
def State.withFetchWord (s : State) (nbits w : Nat) : State := placed (BitVec.ofNat 128 (w % 2 ^ nbits)) s

end Sys2Proof.Machine
end

