-- ==== Sys2Proof/Safety.lean ====
section
/-! DEFINITION. What counts as a safe state of the machine, in the terms that statements use: canonical memory and
maps, and the conditions under which a firing goes through. -/

namespace Sys2Proof.Machine

/-! ## Canonical form -/

/-- Memory in canonical form: addresses strictly rising, no entry equal to what an unlisted address reads as. -/
def Memory.wf (m : List Host.Cell) : Bool := Sparse.wf memDefault m

/-- Every sparse map of the state is in canonical form, so that equal contents are equal data. -/
structure State.Canonical (s : State) : Prop where
  mem : Memory.wf s.mem = true
  pads : Sparse.wf 0 s.pads = true
  tables : Sparse.wf 0 s.tables = true
  vers : Sparse.wf VerWord.reset s.vers = true
  l2 : Sparse.wf none s.l2 = true
  poison : Sparse.wf false s.poison = true
  nodes : Sparse.wf Node.reset s.nodes = true
  tasks : Sparse.wf none s.tasks = true
  parts : Sparse.wf Part.reset s.parts = true

/-! ## A firing that nothing stops -/

/-- A firing of `i` is in hand in `s`, and `c` is what it sees: every operand that the instruction consumes waits (01 R25), none has
broken parity (24 R394), rein marks and beats suit their slots (04 R84; 10 R213, R216), and its two computations agree (24 R402). -/
structure Fires (i : Instr) (s : State) (c : Fx) : Prop where
  ctx : fireCtx i s = some c
  good : c.badTok = none
  marks : c.marksOk i = true
  beats : c.badBeats i = none
  upset : c.nd.upset = none

/-- The remaining charge of the firing's node covers a draw (06 R113). -/
def Covers (c : Fx) (draw : Nat) : Prop := draw ≤ (refNode c.s c.n).crib.remaining

/-- Under its TAGOP the instruction's results take tag `tg` with claim `cl`: neither a wait nor a FLOW_FAULT (08 R160). -/
def Tags (c : Fx) (tg : Tag) (cl : Option Claim) : Prop := tagRes c.t c.tag c.h.tagop.toNat = .ok tg cl

/-- The state once a firing has drawn and taken its operands out of the matching store (01 R25, 06 R109). -/
def Fx.taken (c : Fx) (draw : Nat) : State :=
  c.consume.run ((onRef c.n fun nd => { nd with crib := nd.crib.draw draw (tagColour c.tag) }).run c.s)

/-- The state after a firing that drew `draw`, did `before` and emitted one result under tag `tg`. -/
def Fx.emitted (c : Fx) (draw : Nat) (tg : Tag) (cl : Option Claim) (d : TokData) (null : Bool) (before : Prog) : State :=
  (Prog.all [before, takeClaim c.tid c.n c.ut cl, c.emit tg d null]).run (c.taken draw)

/-- The state after a firing that drew and recorded a fault in place of its effect (22 R361). -/
def Fx.faulted (c : Fx) (draw code : Nat) (addr info : Word) : State :=
  (takeFault c.n (mkFault c.nd code c.q c.tag addr info)).run
    ((onRef c.n fun nd => { nd with crib := nd.crib.draw draw (tagColour c.tag) }).run c.s)

/-- A firing of `i` goes through: nothing stops it, its draw is covered, and its TAGOP gives a tag (01 R25; 06 R113; 08 R160). -/
structure Goes (i : Instr) (s : State) (c : Fx) (draw : Nat) (tg : Tag) (cl : Option Claim) : Prop where
  fires : Fires i s c
  covers : Covers c draw
  tags : Tags c tg cl

/-- The state after a firing that drew `draw` and did `act` besides taking its operands. -/
def Fx.acted (c : Fx) (draw : Nat) (act : Prog) : State := act.run (c.taken draw)

/-- The state after a firing that drew `draw` and put the pending action `a` into its unit (01 R17). -/
def Fx.pending (c : Fx) (draw : Nat) (a : Act) : State := (addAct c.n c.ut c.q c.tag a).run (c.taken draw)

/-- The beats of a vector result under the lanes `g` of a gate: lanes outside `g` carry the left operand's lane (08 R173). -/
def Fx.gatedBeats (c : Fx) (g : BitVec 16) (nb : Nat) (v : Nat → Nat → Lane) : List Vec :=
  (List.range nb).map fun j => Vec.mk fun l => if g.getLsbD l then v j l else Vec.lane (optBeat c.l j) l

/-- The state after a vector firing with result lanes `v` and mask `m` under the lanes `g` of its gate (08 R173): with a gate that leaves
no lane of the mask nothing is emitted. Slot 11 gates nothing where it is data (09 R183). -/
def Fx.laned (c : Fx) (draw : Nat) (tg : Tag) (cl : Option Claim) (gate : Bool) (g m : BitVec 16) (nb : Nat) (v : Nat → Nat → Lane)
    (before : Prog) : State :=
  if gate = true ∧ ¬c.h.pmode = 0 ∧ m &&& g = 0 then c.taken draw
  else c.emitted draw tg cl (.beats (c.gatedBeats g nb v) (m &&& g)) false before

/-- The flags that the computed lanes of a vector firing raise, by lane and coefficient. -/
def raisedOf (comp : BitVec 16) (lane : Nat → LaneOut) : Raised :=
  (List.range 16).flatMap fun l => if comp.getLsbD l then (lane l).fls.map fun e => (l, e.1, e.2) else []

/-- The state after a vector firing whose lanes `v` came with the flags `r` (08 R173; 22 R370). -/
def Fx.noted (c : Fx) (draw : Nat) (tg : Tag) (cl : Option Claim) (g m : BitVec 16) (nb : Nat) (v : Nat → Nat → Lane) (r : Raised) : State :=
  if ¬(¬c.h.pmode = 0 ∧ m &&& g = 0) ∧ traps c.h r = true then c.faulted draw 0x20 0 (trapInfo (c.h.plane = 2) r)
  else c.laned draw tg cl true g m nb v (noteFlags c r)

/-- The state after a computing vector firing (09 R182; 22 R370): where it emits it traps or notes its flags; lanes that are not
computed carry the left operand's lane. -/
def Fx.computed (c : Fx) (draw : Nat) (tg : Tag) (cl : Option Claim) (gate : Bool) (g m comp : BitVec 16) (nb : Nat)
    (lane : Nat → LaneOut) : State :=
  if ¬(gate = true ∧ ¬c.h.pmode = 0 ∧ m &&& g = 0) ∧ traps c.h (raisedOf comp lane) = true then
    c.faulted draw 0x20 0 (trapInfo (c.h.plane = 2) (raisedOf comp lane))
  else c.laned draw tg cl gate g m nb
    (fun j l => if comp.getLsbD l then BitVec.ofNat 32 ((lane l).vals.getD j 0) else Vec.lane (optBeat c.l j) l) (noteFlags c (raisedOf comp lane))

/-- The state after a computing scalar firing (22 R370). -/
def Fx.scalared (c : Fx) (draw : Nat) (tg : Tag) (cl : Option Claim) (o : LaneOut) : State :=
  let r : Raised := o.fls.map fun e => (0, e.1, e.2)
  if traps c.h r = true then c.faulted draw 0x20 0 (trapInfo false r)
  else c.emitted draw tg cl (.scalar (BitVec.ofNat 64 (o.vals.getD 0 0))) false (noteFlags c r)

/-- Lane `l` of a predicate: `el` of the operands' lanes inside their mask, a free value outside it. -/
def predLane (i : Instr) (c : Fx) (f : FmtA) (el : Nat → Nat → Bool × Num.Flags) (l : Nat) : LaneOut :=
  if (dataMask i c f).getLsbD l then
    LaneOut.one (boolNat (el (Vec.lane (optBeat c.l 0) l).toNat (rightLane c f 0 l).toNat).1, (el (Vec.lane (optBeat c.l 0) l).toNat (rightLane c f 0 l).toNat).2)
  else LaneOut.pure (Config.freeLane c.s.ctr l).toNat

/-- The state after a firing that emits a vector predicate of one beat: a trap, or the emission with the count of free values moved on. -/
def Fx.predicated (c : Fx) (draw : Nat) (tg : Tag) (cl : Option Claim) (g m comp : BitVec 16) (lane : Nat → LaneOut) : State :=
  if ¬(¬c.h.pmode = 0 ∧ m &&& g = 0) ∧ traps c.h (raisedOf comp lane) = true then c.computed draw tg cl true g m comp 1 lane
  else Upd.apply .fresh (c.computed draw tg cl true g m comp 1 lane)

/-- `i` computes its S-plane result as `el` of its operands in a 64-bit container, drawing `dS`, and its V-plane result lane by lane as
`el` in 32-bit containers, drawing `dV` (09 R182). -/
def ElementForm (i : Instr) (f : FmtA) (dS dV : Nat) (el : Fx → Nat → Nat → Nat → Nat → LaneOut) : Prop :=
  ∀ s c tg cl g, c.mode (thirdData i) = .go g →
    (f.h.plane = 0 → Goes i s c dS tg cl →
      exec i s = .next (c.scalared dS tg cl (el c 64 (optScalar c.l).toNat (rightScalar c f).toNat (optScalar c.p).toNat))) ∧
    (f.h.plane = 1 → Goes i s c dV tg cl →
      exec i s = .next (c.computed dV tg cl (!thirdData i) g (dataMask i c f) (dataMask i c f) 1 fun l =>
        el c 32 (Vec.lane (optBeat c.l 0) l).toNat (rightLane c f 0 l).toNat (Vec.lane (optBeat c.p 0) l).toNat))

/-- `i` computes its J-plane result, k + 1 beats, lane by lane as `jet` of its operands' coefficients, drawing `draw k` (02 R57, R58). -/
def JetForm (i : Instr) (f : FmtA) (draw : Nat → Nat) (jet : Fx → List Nat → List Nat → List Nat → LaneOut) : Prop :=
  ∀ s c tg cl g, f.h.plane = 2 → c.mode (thirdData i) = .go g → Goes i s c (draw c.k) tg cl →
    exec i s = .next (c.computed (draw c.k) tg cl (!thirdData i) g (dataMask i c f) (dataMask i c f) (c.k + 1) fun l =>
      jet c (jetOf c.l c.k l) (rightJet c f l) (jetOf c.p c.k l))

/-- `i` emits, drawing `draw k`, the lanes `v` of `nb` beats under mask `m`, as its gate lets them through (08 R173), and raises no flag. -/
def GatedForm (i : Instr) (draw : Nat → Nat) (nb : Fx → Nat) (v : Fx → Nat → Nat → Lane) (m : Fx → BitVec 16) : Prop :=
  ∀ s c tg cl g, c.mode (thirdData i) = .go g → Goes i s c (draw c.k) tg cl →
    exec i s = .next (c.laned (draw c.k) tg cl true g (m c) (nb c) (v c) .skip)

/-- `i` computes a predicate `el` of its operands (08 R173): 1 or 0 in the whole scalar or lane. On the V plane the data of a lane outside
the operands' mask is free; on the J plane such a lane carries the left operand's lane. -/
def PredicateForm (i : Instr) (f : FmtA) (el : Nat → Nat → Bool × Num.Flags) : Prop :=
  ∀ s c tg cl g, c.mode false = .go g →
    (f.h.plane = 0 → Goes i s c 4 tg cl →
      exec i s = .next (c.scalared 4 tg cl (LaneOut.one (boolNat (el (optScalar c.l).toNat (rightScalar c f).toNat).1,
        (el (optScalar c.l).toNat (rightScalar c f).toNat).2)))) ∧
    (f.h.plane = 1 → Goes i s c 24 tg cl → exec i s = .next (c.predicated 24 tg cl g (dataMask i c f) 0xFFFF (predLane i c f el))) ∧
    (f.h.plane = 2 → Goes i s c (24 * (c.k + 1)) tg cl →
      exec i s = .next (c.predicated (24 * (c.k + 1)) tg cl g (dataMask i c f) (dataMask i c f) (predLane i c f el)))

/-- An LSID holder is open for the lanes `g`: its LSID is not nulled, its operands and its gate let it act, and no holder of a lower LSID
holds it back (13 R245, R248). -/
structure MemOpen (i : Instr) (f : FmtM) (c : Fx) (dataPred : Bool) (g : BitVec 16) : Prop where
  live : c.u.lsid f.lsid.toNat ≠ .nulled
  mode : c.mode dataPred = .go g
  turn : heldByOrder i c f.lsid.toNat = false

/-- The program that resolves an LSID of the firing's unit, and makes `a` pending where a store-like form gives one (13 R248, R251). -/
def Fx.resolve (c : Fx) (lsid : Nat) (st : LState) (a : Option Act) : Prog :=
  onUnit c.n c.ut fun u => match a with
    | none => u.setLsid lsid st
    | some a => { (u.setLsid lsid st) with acts := u.acts ++ [⟨c.q, c.tag, a⟩] }

/-! ## What a firing leaves as it was -/

/-- Task `k` is ending (06 R118, R119). -/
def State.ending (s : State) (k : Nat) : Prop := (s.task k).map (fun t => t.st) = some .ending

/-- No task that was not ending before is ending after: nothing was aborted. -/
def NoneEnds (s t : State) : Prop := ∀ k, t.ending k → s.ending k

/-- The registers, the matrix state and the control registers of a node. -/
structure Node.SameRegs (a b : Node) : Prop where
  s : a.s = b.s
  v : a.v = b.v
  p : a.p = b.p
  h : a.h = b.h
  tiles : a.tiles = b.tiles
  pins : a.pins = b.pins
  fpstat : a.fpstat = b.fpstat
  jflags : a.jflags = b.jflags
  rmode : a.rmode = b.rmode
  jord : a.jord = b.jord
  rngkey : a.rngkey = b.rngkey

/-! ## Commands in order -/

/-- A command that reaches the running part, is the next in order and has no nonzero "—" field (21 R348, R349, R352). -/
structure InOrder (c : Cmd) (s : State) : Prop where
  running : s.power = .running
  next : c.seq = s.hub.lastCmd + 1
  clean : c.dash = false

end Sys2Proof.Machine
end

