-- ==== Sys2Proof/WellFormed.lean ====
section
/-! DEFINITION. Well-formed instructions: what 07 R127–R138 and the groups' rules allow of an instruction by itself. -/

namespace Sys2Proof
open Sys2Proof.Machine

/-- JORD and JFLAG stand for VAR 000, JORD.SET and JFLAG.CLR for VAR 001 (10 R212, R215). -/
def varFits (i : Instr) : Bool :=
  match i with
  | .jord f => !(f.var = 1)
  | .jflag f => !(f.var = 1)
  | .jordSet f => f.var = 1
  | .jflagClr f => f.var = 1
  | _ => true

/-- The bits that a format leaves to its forms lie where the format keeps them: EXIT numbers need no check, and an event has no
word. -/
def isForm (i : Instr) : Bool :=
  match i.body with
  | .event => false
  | _ => true

/-- A well-formed instruction of a block with JORDX `jordx`, in Stable code or not. -/
def Instr.wf (i : Instr) (jordx : Nat) (stable : Bool) : Bool := isForm i && varFits i && instrOk i jordx stable

/-- The numbers of a host command that have bounds of their own (15 R293, R295; 21 R351; 03 R68; 04 R81): partition, queue, die,
window, node, arena and ASID numbers. A command outside them is answered with a STATUS, not refused. -/
def cmdInRange (i : Instr) : Bool :=
  match i with
  | .part _ p _ _ _ => 1 ≤ p && p < 48
  | .rings _ p bases caps _ _ _ _ => p < 48 && bases.length = 16 && caps.length = 16
  | .frames _ p asid fs => p < 48 && asid < 2048 && fs.all fun f => f.frame < 2 ^ 36
  | .fwin _ die win _ _ _ _ => die < 4 && win < 16
  | .enqueue _ p q r _ => p < 48 && q < 16 && r.length = 8
  | .debugResume _ p n => p < 48 && n < 2048
  | .debugSuspend _ p n => p < 48 && n < 2048
  | .arenaCreate _ p asid id _ _ die => p < 48 && asid < 2048 && 1 ≤ id && id ≤ 1023 && die < 4
  | _ => true

end Sys2Proof
end

