-- ==== Sys2Proof/Certificates/Slice0/Obligations.lean ====
section
/-! DEFINITION. The statements about this machine that the provers take up: each a proposition of its own. -/

open Sys2Proof Sys2Proof.Machine Sys2Proof.Bits

/-! ## Words and steps -/

/-- 07 R127–R137: words that the spec writes out, and one word of each other family written out from its fields, decode to the
instructions that they stand for.
07 R144: a word whose group is one of 0x12 to 0x1F is no instruction, whatever its other bits. -/
def Obligations.DecodeReadsSpecWords : Prop :=
  ((∀ e ∈ ([
    (0x1800_0409_5030_0000_0000_0000_0058_3000, .add ⟨⟨0, 0, 0, 0, 0x409, 0x503⟩, 5, 1, 0, 3, 0, 0⟩),
    (0x28D4_0500_0000_0000_0003_F800_0008_9000, .fma ⟨⟨1, 1, 0, 0, 0x500, 0⟩, 0x3F80_0000, 1, 0, 9, 0, 0⟩),
    (0x31A0_0404_0000_0000_0000_0000_0000_9000, .ftanh ⟨⟨2, 0, 0, 0, 0x404, 0⟩, 0, 0, 0, 9, 0, 0⟩),
    (0x48D0_0500_0000_1234_5678_9ABC_DEF0_0000, .perm ⟨⟨1, 0, 0, 0, 0x500, 0⟩, 0x0123_4567_89AB_CDEF, 0, 0, 0, 0, 0⟩),
    (0x5081_0500_0000_0004_0000_0000_0000_0090, .accum ⟨⟨0, 0, 4, 0, 0x500, 0⟩, 0, 4, 0x90⟩),
    (0x0004_0000_0000_0000_0000_0000_0000_0000, .br ⟨⟨0, 1, 0, 0, 0, 0⟩, 0, 0⟩),
    (0x0008_0000_0000_0000_0000_0000_0320_0000, .br ⟨⟨0, 2, 0, 0, 0, 0⟩, 3, 1⟩),
    (0x0140_0000_0000_0000_0000_0000_0000_0000, .halt ⟨⟨0, 0, 0, 0, 0, 0⟩, 0, 0⟩),
    (0x1000_0C04_C050_0000_0000_0000_0648_4200, .cmp ⟨⟨0, 0, 0, 0, 0xC04, 0xC05⟩, 100, 1, 0, 4, 0, 2⟩),
    (0x5830_0500_0000_4000_0000_0000_0000_0000, .mmat ⟨⟨3, 0, 0, 0, 0x500, 0⟩, 0, 1, 0, 0⟩),
    (0x6050_0405_0000_0000_0400_40E0_0020_0000, .lds ⟨⟨1, 0, 0, 0, 0x405, 0⟩, 0x40, 1, 0, 0, 7, 0, 0, 0x20_0000⟩),
    (0x6904_0484_0000_0000_0000_1880_0000_0000, .cas ⟨⟨0, 1, 0, 0, 0x484, 0⟩, 0, 0, 1, 4, 4, 0, 0, 0⟩),
    (0x7830_0501_4040_0301_0000_0000_0000_0000, .copy ⟨⟨3, 0, 0, 0, 0x501, 0x404⟩, 0, 3, 1, 0⟩),
    (0x7870_0406_0000_0300_0000_0000_0000_0800, .wpwait ⟨⟨3, 0, 0, 0, 0x406, 0⟩, 0, 3, 0, 0x800⟩),
    (0x0840_0500_4010_0000_0000_0000_0000_0007, .const ⟨⟨0, 0, 0, 0, 0x500, 0x401⟩, 0, 0, 7⟩),
    (0x2000_0403_0000_0000_0000_00FF_0008_4000, .and ⟨⟨0, 0, 0, 0, 0x403, 0⟩, 0xFF000, 1, 0, 4, 0, 0⟩),
    (0x3800_0403_0000_0000_0000_0000_0000_3E00, .cvt ⟨⟨0, 0, 0, 0, 0x403, 0⟩, 0, 0, 0, 3, 1, 6⟩),
    (0x4060_0403_0000_0000_0000_0000_0000_9000, .jseed ⟨⟨2, 0, 0, 0, 0x403, 0⟩, 0, 0, 0, 9, 0, 0⟩),
    (0x7030_0403_0000_0000_0000_0003_8000_0000, .reinmk ⟨⟨3, 0, 0, 0, 0x403, 0⟩, 0, 0, 0, 0, 0, 0, 7, 0⟩),
    (0x8000_0481_0001_4500_0000_0000_0000_0000, .qpush ⟨⟨0, 0, 0, 0, 0x481, 0⟩, 5, 5, 0, 0⟩),
    (0x8880_0403_0000_2010_0000_0000_0000_0000, .csrrd ⟨⟨0, 0, 0, 0, 0x403, 0⟩, 0x201, 0⟩) ] : List (Quad × Instr)), decode e.1 = .ok e.2)) ∧
  (∀ w : Quad, 0x12 ≤ opcOf w / 32 → decode w = .error .unassignedOpc)

/-- 01 R12, R36: where the agenda's next move fires an instruction, the word of the node's mapped block is decoded and that
instruction executes at that site, the clock having moved on by a time that the spec leaves free; afterwards no firing is in hand, and the mapped
blocks and the cycles of waits are noted as they then stand (01 R20, 23 R384). An event that comes next executes likewise.
22 R359, 01 R12: nothing stops the machine: from every state it has a next step. -/
def Obligations.StepFiresDecodedInstruction : Prop :=
  ((∀ (s t : State) (st : Site) (ms : List Move) (m : Mapped) (w : Quad) (i : Instr),
    s.agenda = .fire st :: ms → (s.node st.node).cur = some m → m.blk.ins[st.q]? = some w → decode w = .ok i →
    exec i { tickClock s with agenda := ms, cur := some st } = .next t → step s = .next (noteMove.run { t with cur := none })) ∧
  (∀ (s t : State) (i : Instr) (ms : List Move), s.agenda = .event i :: ms →
    exec i { tickClock s with agenda := ms, cur := none } = .next t → step s = .next (noteMove.run { t with cur := none }))) ∧
  (∀ s : State, ∃ t, step s = .next t)

/-- 21 R354, 01 R29: right after reset the part is off, its time is 0, it holds no task, no partition and no message, and every node is
as it stands unloaded: S and V registers full and zero, P registers zero, H registers null, nothing mapped, CSRs zero. The zeros are the model's (log 2),
and so is that a byte of memory that nothing has written reads as zero (log 1). Memory and every sparse map of the machine after reset have their canonical form. -/
def Obligations.ResetState : Prop :=
  (State.reset.power = .off ∧ State.reset.tbase = 0 ∧ State.reset.hub.lastCmd = 0 ∧ State.reset.hub.devSeq = 0 ∧
  State.reset.hub.outbox = [] ∧ (∀ n, State.reset.task n = none) ∧ (∀ p, (State.reset.part p).en = false) ∧ (∀ a, State.reset.memByte a = 0) ∧
  (∀ n r, (State.reset.node n).sreg r = ⟨0, true, true⟩ ∧ ((State.reset.node n).vreg r).full = true ∧
    (∀ l, Vec.lane ((State.reset.node n).vreg r).val l = 0) ∧ Sparse.get 0 (State.reset.node n).p r = 0 ∧ Sparse.get 0 (State.reset.node n).h r = 0 ∧ (State.reset.node n).cur = none ∧ (State.reset.node n).task = none ∧
    (State.reset.node n).fpstat = 0 ∧ (State.reset.node n).jflags = 0 ∧ (State.reset.node n).jord = 0 ∧
    (State.reset.node n).rmode = 0 ∧ (State.reset.node n).rngkey = 0)) ∧
  (State.reset.Canonical)

/-- Every step keeps the canonical form of memory, scratchpads, page tables, versions, L2, nodes, tasks and partitions, from every
state that has it. -/
def Obligations.StepKeepsCanonical : Prop := ∀ s t : State, s.Canonical → step s = .next t → t.Canonical

/-- 07 R127–R137: decoding the encoding of an instruction form gives it back, whatever its operand fields hold; JORD and JFLAG stand
for VAR other than 001, JORD.SET and JFLAG.CLR for VAR 001 (10 R212). -/
def Obligations.DecodeInvertsEncode : Prop :=
  ∀ i : Instr, isForm i = true → varFits i = true → ∃ w, encode i = some w ∧ decode w = .ok i

/-- 07 R127–R137: no bit of a word that decodes is dropped: encoding what it decodes to gives the word back. -/
def Obligations.EncodeInvertsDecode : Prop := ∀ (w : Quad) (i : Instr), decode w = .ok i → encode i = some w

/-! ## What every firing does before and beside its own effect -/

/-- 01 R25: no instruction fires where its operands are not all present under one tag, or its node has no mapped block.
24 R394: a firing that finds an operand with broken parity has no effect of its own: the error is handled as one found in the
matching store, or in the spill area where the token was read from there (24 R392).
04 R84, 22 R364: a marked token at a slot that takes no rein, or an unmarked one at a rein slot, draws and is WIDEN (0x32) with the
instruction's index in FSINFO, for every instruction form.
10 R213, R216; 22 R360: an operand of a J-plane instruction that has another number of beats than its slot takes draws and is
BEAT_MISMATCH (0x13), for every instruction form.
24 R402: where the two computations of a firing differ the firing emits nothing; it is reported and fires again, the retry drawing nothing; after a second
difference the firing's own draw stands (in the groups PRED to LANE that of its group's table), and it is handled as a token error of the node. For every
instruction form. -/
def Obligations.UnfitFirings : Prop :=
  ((∀ (i : Instr) (s : State), isForm i = true → fireCtx i s = none → exec i s = .refused .notReady) ∧
  (∀ (i : Instr) (s : State) (c : Fx) (t : Tok), isForm i = true → fireCtx i s = some c → c.badTok = some t →
    exec i s = .next ((nodeParity c.n (c.nd.parityPlace t) t).run s))) ∧
  ((∀ (i : Instr) (s : State) (c : Fx), isForm i = true → fireCtx i s = some c → c.badTok = none → c.marksOk i = false →
    Covers c (formDraw i c.k) → exec i s = .next (c.faulted (formDraw i c.k) 0x32 0 (BitVec.ofNat 64 c.q))) ∧
  (∀ (i : Instr) (s : State) (c : Fx) (b : Nat), isForm i = true → fireCtx i s = some c → c.badTok = none → c.marksOk i = true →
    c.badBeats i = some b → Covers c (formDraw i c.k) →
    exec i s = .next (c.faulted (formDraw i c.k) 0x13 0 (BitVec.ofNat 64 (c.q + (b - 1) % 8 * 256 + c.k * 2 ^ 12))))) ∧
  (∀ (i : Instr) (s : State) (c : Fx) (again : Bool), isForm i = true → fireCtx i s = some c → c.badTok = none → c.marksOk i = true →
    c.badBeats i = none → c.nd.upset = some again →
    let f := mkFault c.nd 0x71 c.q c.tag 0 (BitVec.ofNat 64 (c.q + if again then 256 else 0))
    let cleared := (Prog.upd (.node c.n fun nd => { nd with upset := none })).run s
    let drawn := fun (d : Nat) => (Prog.upd (.node c.n fun nd => { nd with upset := none })).run
      ((onRef c.n fun nd => { nd with crib := nd.crib.draw d (tagColour c.tag) }).run s)
    (again = false → exec i s = .next ((report c.n f (some 0)).run cleared)) ∧
    (again = true → ∃ d, exec i s = .next (if d ≤ (refNode s c.n).crib.remaining then (tokenError c.n c.n c.tid (tagColour c.tag) f).run (drawn d)
        else (shortfall c.n d c.q c.m.blk.pc c.tag).run s) ∧
      ∀ tg cl, [2, 3, 4, 5, 6, 7, 8, 9].contains (groupOf i) = true → planeOk i = true → Tags c tg cl → d = formDraw i c.k))

/-- 06 R113: a draw larger than the remaining charge is not taken, the firing is not performed, and SHORTFALL is recorded with the abort of its task
on the way (22 R371): every form of the PRED, INT, BIT, FARITH, FSPEC, CONV, JET and LANE groups, at the draw that its group's table gives. -/
def Obligations.ShortfallEndsTheTask : Prop :=
  ∀ (i : Instr) (s : State) (c : Fx) (tg : Tag) (cl : Option Claim), [2, 3, 4, 5, 6, 7, 8, 9].contains (groupOf i) = true → isForm i = true →
    planeOk i = true → Fires i s c → Tags c tg cl → ¬Covers c (formDraw i c.k) →
    exec i s = .next ((shortfall c.n (formDraw i c.k) c.q c.m.blk.pc c.tag).run s) ∧
    ∀ t, s.task c.tid = some t → ¬t.st = .ending → refTask s c.n = some c.tid →
      (((shortfall c.n (formDraw i c.k) c.q c.m.blk.pc c.tag).run s).task c.tid).map (fun t => t.doomed) = some (some 0x81)

/-- 08 R171: a null token in any slot of an arithmetic, logic, conversion, jet, lane, matrix or engine form, or of MOV, CONST, NULL, GETG, PUTG,
EMPTY, RED, SCAN, CSRRD, CSRWR or TBASE, gives to each target a null token of the plane that the form emits (10 R213); the firing draws, raises no flag,
and has no other effect. -/
def Obligations.NullOperandsPassOn : Prop :=
  ∀ (i : Instr) (s : State) (c : Fx) (tg : Tag) (cl : Option Claim), isForm i = true →
    ([2, 3, 4, 5, 6, 7, 8, 9, 11, 15].contains (groupOf i) ||
      Instr.isOpc i [0x20, 0x21, 0x2A, 0x2B, 0x2C, 0x2D, 0x140, 0x141, 0x222, 0x223, 0x225]) = true →
    c.mode (thirdData i || i.opc = 0x49) = .null → Goes i s c (formDraw i c.k) tg cl →
    exec i s = .next (c.emitted (formDraw i c.k) tg cl (nullData ((outPlanes i).headD i.hdr.plane.toNat) c.k) true .skip)

/-- 01 R25: an S- or W-plane firing whose gate fails takes its operands and its draw and does nothing else, in every group but MEM, SYNC and
REIN, whose forms resolve their LSID as well. SEL, STEER, FILTER and the forms with data in slot 11 have no gate, ACCUM, COMPACT and
MERGE no predicate; ACCRD waits first for an armed tile (12 R237). -/
def Obligations.ClosedGateOnlyDraws : Prop :=
  ∀ (i : Instr) (s : State) (c : Fx), isForm i = true → (12 ≤ groupOf i && groupOf i ≤ 14) = false →
    Instr.isOpc i [0x49, 0x142, 0x143, 0x144, 0x145, 0x146, 0x165] = false →
    c.mode (thirdData i) = .closed → Fires i s c → Covers c (formDraw i c.k) → exec i s = .next (c.taken (formDraw i c.k))

/-! ## Integer, bit and predicate forms -/

/-- 09 R187, R188, and R186 with R185: each INT form answers, on both its planes and on every operand, with the result that the rules give,
drawing 4 or 24. `rd` reads an operand at TY, `rdU` without sign under VAR 001, for MADD as for the forms with a variant `.U`; `out` delivers. -/
def Obligations.IntResults : Prop :=
  ∀ f : FmtA,
    let w := Num.width f.ty.toNat
    let rd := fun (x : Nat) => intRead f.ty.toNat false x
    let rdU := fun (x : Nat) => intRead f.ty.toNat (f.var = 1) x
    let signed := ¬(f.var = 1 ∨ f.ty.toNat = 1)
    let out := fun (cont : Nat) (x : Int) => LaneOut.pure (intDeliver cont f.ty.toNat f.sat x)
    ElementForm (.add f) f 4 24 (fun _ cont a b _ => out cont (rd a + rd b)) ∧
    ElementForm (.sub f) f 4 24 (fun _ cont a b _ => out cont (rd a - rd b)) ∧
    ElementForm (.mul f) f 4 24 (fun _ cont a b _ => out cont (rd a * rd b)) ∧
    ElementForm (.mulh f) f 4 24 (fun _ cont a b _ => out cont (rdU a * rdU b / 2 ^ w)) ∧
    ElementForm (.div f) f 4 24 (fun _ cont a b _ => out cont
      (if rdU b = 0 then (if signed then -1 else (2 ^ w : Nat) - 1) else (rdU a).tdiv (rdU b))) ∧
    ElementForm (.rem f) f 4 24 (fun _ cont a b _ => out cont
      (if rdU b = 0 then rdU a else rdU a - rdU b * (rdU a).tdiv (rdU b))) ∧
    ElementForm (.neg f) f 4 24 (fun _ cont a _ _ => out cont (-rd a)) ∧
    ElementForm (.abs f) f 4 24 (fun _ cont a _ _ => out cont (rd a).natAbs) ∧
    ElementForm (.min f) f 4 24 (fun _ cont a b _ => out cont (if rdU b < rdU a then rdU b else rdU a)) ∧
    ElementForm (.max f) f 4 24 (fun _ cont a b _ => out cont (if rdU b > rdU a then rdU b else rdU a)) ∧
    ElementForm (.madd f) f 4 24 (fun _ cont a c b => out cont (if f.var = 1 then rdU a * rdU b - rdU c else rd a * rd b + rd c)) ∧
    ElementForm (.dot4 f) f 4 24 (fun _ cont a b _ =>
      let p := fun i => if f.ty.toNat = 1 ∨ f.var = 1 then ((a / 2 ^ (8 * i) % 256 : Nat) : Int) else Bits.sext 8 (a / 2 ^ (8 * i) % 256)
      let q := fun i => if f.ty.toNat = 1 then ((b / 2 ^ (8 * i) % 256 : Nat) : Int) else Bits.sext 8 (b / 2 ^ (8 * i) % 256)
      LaneOut.pure (Num.writeInt cont 3 (p 0 * q 0 + p 1 * q 1 + p 2 * q 2 + p 3 * q 3))) ∧
    ElementForm (.lea f) f 4 24 (fun _ _ a b _ => LaneOut.pure (((a : Int) + rd b * 2 ^ f.var.toNat) % 2 ^ 64).toNat)

/-- 09 R185, 02 R39: what `deliver` leaves in a container reads back at TY as the exact result where that lies in the range of TY; with SAT
as the nearer bound where it does not; and without SAT it is always congruent to the exact result modulo 2^w. -/
def Obligations.IntDelivery : Prop :=
  ∀ (cont ty : Nat) (sat : BitVec 1) (x : Int), ty ≤ 4 → (cont = 64 ∨ (cont = 32 ∧ ty ≤ 3)) →
    let y := Num.readInt ty (intDeliver cont ty sat x)
    (Num.intLo ty ≤ x → x ≤ Num.intHi ty → y = x) ∧
    (sat = 1 → x < Num.intLo ty → y = Num.intLo ty) ∧ (sat = 1 → Num.intHi ty < x → y = Num.intHi ty) ∧
    (sat = 0 → (y - x) % 2 ^ Num.width ty = 0) ∧ intDeliver cont ty sat x < 2 ^ cont

/-- 09 R190: each BIT form answers, on both its planes, with the result that the rule gives, drawing 4 or 24: bit i of the result as the
rule has it, for x and y the low w bits of the operands; the result is written at TY. -/
def Obligations.BitResults : Prop :=
  ∀ f : FmtA,
    let w := Num.width f.ty.toNat
    let p := field f.imm 0 6
    let n := field f.imm 8 6
    let bits := fun (i : Instr) (g : (Nat → Bool) → (Nat → Bool) → Nat → Bool) => ElementForm i f 4 24 (fun _ cont a b _ =>
      LaneOut.pure (bitDeliver cont f.ty.toNat (ofBits ((List.range w).map (g (a % 2 ^ w).testBit (b % 2 ^ w).testBit)))))
    let counted := fun (i : Instr) (g : Nat → Nat → Nat) => ElementForm i f 4 24 (fun _ cont a b _ =>
      LaneOut.pure (bitDeliver cont f.ty.toNat (g (a % 2 ^ w) (b % 2 ^ w))))
    bits (.and f) (fun x y k => x k && y k) ∧ bits (.or f) (fun x y k => x k || y k) ∧ bits (.xor f) (fun x y k => x k ^^ y k) ∧
    bits (.andn f) (fun x y k => x k && !y k) ∧ bits (.not f) (fun x _ k => !x k) ∧ bits (.brev f) (fun x _ k => x (w - 1 - k)) ∧
    counted (.shl f) (fun x c => if c ≥ w then 0 else x * 2 ^ c % 2 ^ w) ∧
    counted (.shr f) (fun x c => if c ≥ w then 0 else x / 2 ^ c) ∧
    counted (.sar f) (fun x c => ofBits ((List.range w).map fun k => x.testBit (if k + c < w then k + c else w - 1))) ∧
    counted (.rol f) (fun x c => ofBits ((List.range w).map fun k => x.testBit ((k + (w - c % w)) % w))) ∧
    counted (.clz f) (fun x _ => (((List.range w).reverse.takeWhile fun k => !x.testBit k)).length) ∧
    counted (.popc f) (fun x _ => ((List.range w).filter fun k => x.testBit k).length) ∧
    (1 ≤ n → p + n ≤ w → bits (.bfx f) (fun x _ k => if k < n then x (p + k) else f.var = 1 && x (p + n - 1))) ∧
    (1 ≤ n → p + n ≤ w → bits (.bfi f) (fun x y k => if p ≤ k ∧ k < p + n then y (k - p) else x k)) ∧
    (1 ≤ p → p ≤ w → bits (.sext f) (fun x _ k => if k < p then x k else x (p - 1))) ∧
    (1 ≤ p → p ≤ w → bits (.zext f) (fun x _ k => k < p && x k))

/-- 08 R173–R177: CMP, FCMP, PAND, POR, PXOR and PNOT answer, on every plane they have, with 1 or 0 in the whole scalar or lane, under the
AND of the operands' masks, and FCMP with its flags. The data of a V lane outside the mask is the model's free value (log 20).
Under XM 00 each of the six forms, on each plane, whatever its operands, completes: it emits its result and notes its flags (22 R370). -/
def Obligations.PredicateResults : Prop :=
  ∀ f : FmtA,
    (PredicateForm (.cmp f) f (fun x y => (intCond f.var f.ty.toNat x y, 0)) ∧
    PredicateForm (.fcmp f) f (fun x y => floatCond f.var f.ty.toNat x y) ∧
    PredicateForm (.pand f) f (fun x y => (x % 2 = 1 ∧ y % 2 = 1, 0)) ∧
    PredicateForm (.por f) f (fun x y => (x % 2 = 1 ∨ y % 2 = 1, 0)) ∧
    PredicateForm (.pxor f) f (fun x y => ((x + y) % 2 = 1, 0)) ∧
    PredicateForm (.pnot f) f (fun x _ => (x % 2 = 0, 0))) ∧
    ∀ e ∈ ([(.cmp f, fun x y => (intCond f.var f.ty.toNat x y, 0)), (.fcmp f, fun x y => floatCond f.var f.ty.toNat x y),
        (.pand f, fun x y => (x % 2 = 1 ∧ y % 2 = 1, 0)), (.por f, fun x y => (x % 2 = 1 ∨ y % 2 = 1, 0)),
        (.pxor f, fun x y => ((x + y) % 2 = 1, 0)), (.pnot f, fun x _ => (x % 2 = 0, 0))] : List (Instr × (Nat → Nat → Bool × Num.Flags))),
      ∀ s c tg cl g, c.mode false = .go g → ¬f.h.xm = 1 →
        (f.h.plane = 0 → Goes e.1 s c 4 tg cl → let r := e.2 (optScalar c.l).toNat (rightScalar c f).toNat
          exec e.1 s = .next (c.emitted 4 tg cl (.scalar (if r.1 then 1 else 0)) false (noteFlags c [(0, 0, r.2)]))) ∧
        ∀ draw comp, (f.h.plane = 1 ∧ draw = 24 ∧ comp = 0xFFFF) ∨ (f.h.plane = 2 ∧ draw = 24 * (c.k + 1) ∧ comp = dataMask e.1 c f) →
          Goes e.1 s c draw tg cl → exec e.1 s = .next (Upd.apply .fresh (c.laned draw tg cl true g (dataMask e.1 c f) 1 (fun _ l =>
            if comp.getLsbD l then BitVec.ofNat 32 ((predLane e.1 c f e.2 l).vals.getD 0 0) else Vec.lane (optBeat c.l 0) l)
            (noteFlags c (raisedOf comp (predLane e.1 c f e.2)))))

/-- 08 R175, R176: the conditions of CMP order the operands totally at TY, LTU and GEU without sign; those of FCMP do so for values that are no
NaN, by their exact values, an infinity beyond every finite one and +0 equal to −0 (02 R40), hold none but NE and UN of a NaN, and raise invalid as the table says. -/
def Obligations.ComparisonConditions : Prop :=
  (∀ ty x y : Nat,
    let a := Num.readInt ty x
    let b := Num.readInt ty y
    let w := 2 ^ Num.width ty
    (intCond 0 ty x y = true ↔ a = b) ∧ (intCond 1 ty x y = true ↔ ¬a = b) ∧ (intCond 2 ty x y = true ↔ a < b) ∧
    (intCond 3 ty x y = true ↔ ¬b < a) ∧ (intCond 4 ty x y = true ↔ b < a) ∧ (intCond 5 ty x y = true ↔ ¬a < b) ∧
    (intCond 6 ty x y = true ↔ x % w < y % w) ∧ (intCond 7 ty x y = true ↔ ¬x % w < y % w)) ∧
  (∀ ty x y : Nat,
    let a := Num.decode (Num.fmtOf ty) x
    let b := Num.decode (Num.fmtOf ty) y
    let nan := a.isNan = true ∨ b.isNan = true
    let snan := a.isSnan = true ∨ b.isSnan = true
    (nan → (floatCond 0 ty x y).1 = false ∧ (floatCond 1 ty x y).1 = true ∧ (floatCond 6 ty x y).1 = true ∧
      ∀ v : BitVec 3, 2 ≤ v.toNat → v.toNat ≤ 5 → floatCond v ty x y = (false, Num.NV)) ∧
    (¬nan → (floatCond 6 ty x y).1 = false ∧ ∀ v, (floatCond v ty x y).2 = 0) ∧
    (¬nan → (floatCond 0 ty x y).1 = !(floatCond 1 ty x y).1 ∧ (floatCond 2 ty x y).1 = !(floatCond 5 ty x y).1 ∧
      (floatCond 4 ty x y).1 = !(floatCond 3 ty x y).1 ∧ (floatCond 0 ty x y).1 = ((floatCond 3 ty x y).1 && (floatCond 5 ty x y).1)) ∧
    (∀ v : BitVec 3, v = 0 ∨ v = 1 ∨ v = 6 → ((floatCond v ty x y).2 = Num.NV ↔ snan)) ∧
    (¬nan → (floatCond 4 ty x y).1 = (floatCond 2 ty y x).1) ∧
    (∀ (n n' : Bool) (m m' k : Nat) (e e' : Int), a = .fin n m e → b = .fin n' m' e' → 0 ≤ e + k → 0 ≤ e' + k →
      let p := Num.signed n (m * 2 ^ (e + k).toNat)
      let q := Num.signed n' (m' * 2 ^ (e' + k).toNat)
      ((floatCond 2 ty x y).1 = true ↔ p < q) ∧ ((floatCond 0 ty x y).1 = true ↔ p = q)) ∧
    (∀ (n n' : Bool) (m : Nat) (e : Int), (a = .inf n → b = .fin n' m e → (floatCond 2 ty x y).1 = n ∧ (floatCond 0 ty x y).1 = false) ∧
      (a = .fin n' m e → b = .inf n → (floatCond 2 ty x y).1 = !n ∧ (floatCond 0 ty x y).1 = false) ∧
      (a = .inf n → b = .inf n' → (floatCond 2 ty x y).1 = (n && !n') ∧ (floatCond 0 ty x y).1 = (n == n'))))

/-- 08 R178, R179, R180: ANY and ALL set every lane from the true lanes of their operand, under a mask of ones; MASKN narrows its operand's
mask and leaves its lanes; SEL takes each lane, mask bit or scalar from the operand that its predicate chooses, whatever gate. -/
def Obligations.MaskAndSelectResults : Prop :=
  ∀ f : FmtA,
    GatedForm (.any f) (fun k => formDraw (.any f) k) (fun _ => 1) (fun c _ _ => if (List.range 16).any fun l => (trueLanes c.l).getLsbD l then 1 else 0) (fun _ => 0xFFFF) ∧
    GatedForm (.all f) (fun k => formDraw (.all f) k) (fun _ => 1)
      (fun c _ _ => if (List.range 16).all fun l => !(optMask c.l).getLsbD l || (trueLanes c.l).getLsbD l then 1 else 0) (fun _ => 0xFFFF) ∧
    GatedForm (.maskn f) (fun k => formDraw (.maskn f) k) (fun _ => 1) (fun c _ l => Vec.lane (optBeat c.l 0) l)
      (fun c => optMask c.l &&& maskOf fun l => if f.var = 1 then (rightLane c f 0 0).toNat ≤ l else l < (rightLane c f 0 0).toNat) ∧
    ∀ s c tg cl g, c.mode true = .go g →
      (f.h.plane = 0 → Goes (.sel f) s c 4 tg cl → exec (.sel f) s = .next (c.emitted 4 tg cl
        (.scalar (if gateScalar c.h.pmode ((optScalar c.p).getLsbD 0) then optScalar c.l else rightScalar c f)) false .skip)) ∧
      ∀ nb, (f.h.plane = 1 ∧ nb = 1) ∨ (f.h.plane = 2 ∧ nb = c.k + 1) → Goes (.sel f) s c (24 * nb) tg cl →
        let pick := if c.h.pmode = 1 then trueLanes c.p else ~~~trueLanes c.p
        exec (.sel f) s = .next (c.emitted (24 * nb) tg cl (.beats ((List.range nb).map fun j => Vec.mk fun l =>
          if pick.getLsbD l then Vec.lane (optBeat c.l j) l else rightLane c f j l) ((optMask c.l &&& pick) ||| (rightMask c f &&& ~~~pick))) false .skip)


/-! ## Floating-point, special, conversion and jet forms -/

/-- 09 R192–R196: each FARITH form answers, on its S and V planes and on every operand, with its function of the operands at TY under the
rounding mode in force, drawing 8 or 40, and with that function's flags. FMA and FNMA take b from slot 11 and c from the right. -/
def Obligations.FloatResults : Prop :=
  ∀ f : FmtA,
    let F := Num.fmtOf f.ty.toNat
    let sat := decide (f.sat = 1)
    let quot := fun (c : Fx) (x : Num.Quot) => LaneOut.one (Num.deliverQuot F (c.rm f.rm) sat x)
    let root := fun (c : Fx) (x : Num.Quot) => LaneOut.one (Num.deliverQuot F (c.rm f.rm) false x)
    ElementForm (.fadd f) f 8 40 (fun c _ a b _ => .one (Num.fadd F (c.rm f.rm) sat false a b)) ∧
    ElementForm (.fsub f) f 8 40 (fun c _ a b _ => .one (Num.fadd F (c.rm f.rm) sat true a b)) ∧
    ElementForm (.fmul f) f 8 40 (fun c _ a b _ => .one (Num.fmul F (c.rm f.rm) sat a b)) ∧
    ElementForm (.fma f) f 8 40 (fun c _ a x b => .one (Num.ffma F (c.rm f.rm) sat false (f.var = 1) a b x)) ∧
    ElementForm (.fnma f) f 8 40 (fun c _ a x b => .one (Num.ffma F (c.rm f.rm) sat true (f.var = 1) a b x)) ∧
    ElementForm (.fdiv f) f 8 40 (fun c _ a b _ => quot c (Num.quotVal (Num.decode F a) (Num.decode F b))) ∧
    ElementForm (.frcp f) f 8 40 (fun c _ a _ _ => quot c (Num.quotVal Num.FVal.one (Num.decode F a))) ∧
    ElementForm (.fsqrt f) f 8 40 (fun c _ a _ _ => root c (Num.sqrtVal (Num.decode F a))) ∧
    ElementForm (.frsqrt f) f 8 40 (fun c _ a _ _ => root c (Num.rsqrtVal (Num.decode F a))) ∧
    ElementForm (.fmin f) f 8 40 (fun _ _ a b _ => .one (Num.fminmax F false a b)) ∧
    ElementForm (.fmax f) f 8 40 (fun _ _ a b _ => .one (Num.fminmax F true a b)) ∧
    ElementForm (.fabs f) f 8 40 (fun _ _ a _ _ => .pure (Num.withSign F false a)) ∧
    ElementForm (.fneg f) f 8 40 (fun _ _ a _ _ => .pure (Num.withSign F (!Num.signBit F a) a)) ∧
    ElementForm (.fcpys f) f 8 40 (fun _ _ a b _ => .pure (Num.withSign F (Num.signBit F b) a)) ∧
    ElementForm (.fclass f) f 8 40 (fun _ _ a _ _ => .pure (Num.fclass F a)) ∧
    ElementForm (.frint f) f 8 40 (fun c _ a _ _ => .one (Num.frint F (c.rm f.rm) (f.var = 1) a)) ∧
    ElementForm (.fscale f) f 8 40 (fun c _ a n _ => .one (Num.fscale F (c.rm f.rm) sat a (Bits.sext 32 n)))

/-- 09 R192 and its table, R193, R196, 02 R40: what each FARITH operation delivers, and which flags, where an operand is a NaN, an infinity or a zero, or
where the addends cancel, in every format of R191 and every rounding mode. FMIN and FMAX choose by value, a tie giving the left operand; FSCALE of a finite
number rounds its product by the power of two. -/
def Obligations.FloatSpecialValues : Prop :=
  ∀ F ∈ [Num.bf16, Num.fp16, Num.fp32, Num.fp64], ∀ (rm : Nat) (sat n n' p u v : Bool) (a b z m m' : Nat) (e e' : Int),
    let A := Num.decode F a
    let B := Num.decode F b
    let div := Num.deliverQuot F rm sat (Num.quotVal A B)
    let sqrt := Num.deliverQuot F rm false (Num.sqrtVal A)
    let rsqrt := Num.deliverQuot F rm false (Num.rsqrtVal A)
    let nv := (F.nan, Num.NV)
    (A.isNan = true ∨ B.isNan = true → let fl := if A.isSnan ∨ B.isSnan then Num.NV else 0
      Num.fadd F rm sat p a b = (F.nan, fl) ∧ Num.fmul F rm sat a b = (F.nan, fl) ∧ div = (F.nan, fl)) ∧
    (A = .inf n → B = .inf (if p then n else !n) → Num.fadd F rm sat p a b = nv) ∧
    (A = .inf n → B = .fin n' m e → Num.fadd F rm sat p a b = (F.inf n, 0) ∧ div = (F.inf (n ^^ n'), 0) ∧
      (m = 0 → Num.fmul F rm sat a b = nv ∧ Num.ffma F rm sat p n' a b z = nv) ∧ (¬m = 0 → Num.fmul F rm sat a b = (F.inf (n ^^ n'), 0))) ∧
    (A = .inf n → B = .inf n' → div = nv ∧ Num.fmul F rm sat a b = (F.inf (n ^^ n'), 0)) ∧
    (A = .fin n m e → B = .fin n' 0 e' → div = if m = 0 then nv else (F.inf (n ^^ n'), Num.DZ)) ∧
    (A = .fin n 0 e → rsqrt = (F.inf n, Num.DZ) ∧ sqrt = (F.zero n, 0) ∧ (B = .fin (n ^^ p) 0 e' → Num.fadd F rm sat p a b = (F.zero n, 0))) ∧
    (A = .inf false → rsqrt = (F.zero false, 0) ∧ sqrt = (F.inf false, 0)) ∧ (A = .inf true → rsqrt = nv ∧ sqrt = nv) ∧
    (A = .fin true m e → ¬m = 0 → rsqrt = nv ∧ sqrt = nv) ∧
    (A = .fin n m e → B = .fin (n ^^ !p) m' e' → m = m' → e = e' → Num.fadd F rm sat p a b = (F.zero (rm = 2), 0)) ∧
    (A = .fin n m e → B = .inf n' → Num.fadd F rm sat p a b = (F.inf (n' ^^ p), 0) ∧ div = (F.zero (n ^^ n'), 0)) ∧
    (A = .fin n 0 e → B = .fin n' m' e' → Num.fmul F rm sat a b = (F.zero (n ^^ n'), 0) ∧ (¬m' = 0 → div = (F.zero (n ^^ n'), 0))) ∧
    Num.fmul F rm sat a b = Num.fmul F rm sat b a ∧
    (let rcp := Num.deliverQuot F rm sat (Num.quotVal Num.FVal.one A)
     (A.isNan = true → let fl := if A.isSnan then Num.NV else 0
       rcp = (F.nan, fl) ∧ sqrt = (F.nan, fl) ∧ rsqrt = (F.nan, fl)) ∧
     (A = .inf n → rcp = (F.zero n, 0)) ∧ (A = .fin n 0 e → rcp = (F.inf n, Num.DZ))) ∧
    (let C := Num.decode F z
     let fma := Num.ffma F rm sat p u a b z
     let product := n ^^ n' ^^ p
     let infZero := fun (x y : Num.FVal) => (x = .inf true ∨ x = .inf false) ∧ y.isZero = true
     (fma = Num.ffma F rm sat p u b a z) ∧
     (infZero A B → fma = nv) ∧
     (A.isNan = true ∨ B.isNan = true ∨ C.isNan = true → ¬infZero A B → ¬infZero B A →
       fma = (F.nan, if A.isSnan ∨ B.isSnan ∨ C.isSnan then Num.NV else 0)) ∧
     (A = .inf n → (B = .inf n' ∨ (B = .fin n' m' e' ∧ ¬m' = 0)) →
       (C = .inf v → fma = if (v ^^ u) = product then (F.inf product, 0) else nv) ∧ (C = .fin v m e → fma = (F.inf product, 0))) ∧
     (A = .fin n m e → B = .fin n' m' e' → (C = .inf v → fma = (F.inf (v ^^ u), 0)) ∧
       ∀ k f, C = .fin v k f →
         (k = 0 → m * m' = 0 → fma = (F.zero (if product = (v ^^ u) then product else decide (rm = 2)), 0)) ∧
         (k = m * m' → f = e + e' → product = !(v ^^ u) → fma = (F.zero (rm = 2), 0)))) ∧
    (∀ max : Bool, let r := Num.fminmax F max a b
     r.2 = (if A.isSnan ∨ B.isSnan then Num.NV else 0) ∧ (A.isNan = true → B.isNan = true → r.1 = F.nan) ∧
     (A.isNan = true → B.isNan = false → r.1 = b % 2 ^ F.bits) ∧ (A.isNan = false → B.isNan = true → r.1 = a % 2 ^ F.bits) ∧
     (A.isNan = false → B.isNan = false → r.1 = (if (if max then Num.ltVal A B else Num.ltVal B A) = true then b else a) % 2 ^ F.bits)) ∧
    (∀ k : Int, let r := Num.fscale F rm sat a k
     (A.isNan = true → r = (F.nan, if A.isSnan then Num.NV else 0)) ∧ (A = .inf n → r = (F.inf n, 0)) ∧ (A = .fin n 0 e → r = (F.zero n, 0)) ∧
     (A = .fin n m e → -4200 ≤ k → k ≤ 4200 → r = Num.roundFin F rm sat n m (e + k)))

/-- 02 R48: rounding a magnitude `m·2^e` of sign `neg` to a multiple of `2^q`, for every exponent: to the nearest with ties to even, toward zero, down,
up, and to the nearest with ties away; inexact is raised exactly where the multiple is another number. -/
def Obligations.RoundingDirections : Prop :=
  ∀ (rm m k : Nat) (neg : Bool) (e q : Int), rm ≤ 4 → 0 ≤ e + k → 0 ≤ q + k →
    let x := m * 2 ^ (e + k).toNat
    let u := 2 ^ (q + k).toNat
    let n := (Num.roundAt rm neg m e q false).1
    ((Num.roundAt rm neg m e q false).2 = true ↔ ¬n * u = x) ∧
    ((rm = 1 ∨ (rm = 2 ∧ neg = false) ∨ (rm = 3 ∧ neg = true)) → n * u ≤ x ∧ x < (n + 1) * u) ∧
    (((rm = 2 ∧ neg = true) ∨ (rm = 3 ∧ neg = false)) → x ≤ n * u ∧ n * u < x + u) ∧
    ((rm = 0 ∨ rm = 4) → 2 * (n * u) ≤ 2 * x + u ∧ 2 * x ≤ 2 * (n * u) + u ∧
      (2 * (n * u) = 2 * x + u ∨ 2 * x = 2 * (n * u) + u → if rm = 0 then n % 2 = 0 else x < n * u))

/-- 09 R196, 10 R206, R209–R211: each special function answers, on its S and V planes, with the function's value of its operand, rounded at TY under
the rounding mode in force, drawing 24 or 96.
09 R199–R203, 02 R50, R51: CVT and CVTSR convert each element from the type of VAR to TY; RNG mixes key, counter and lane; PACK4 forms the
codes of two blocks of eight lanes under their scales, and UNPK4 the values of packed codes.
10 R206: the functions at a NaN, an infinity, zero and a negative number; EXP2 of an integer and LOG2 of a power of two exactly; one more value of each,
written out. 09 R199, 02 R43, R50: what CVT and CVTSR leave, by source and destination; 02 R51: the mixing of RNG; 09 R202, R203: the code of a lane is
its quotient by the scale, rounded once, and UNPK4 multiplies exactly. That CVTSR raises underflow as log 72 says is the model's choice. -/
def Obligations.SpecialAndConversionResults : Prop :=
  (∀ f : FmtA,
    let fn := fun (i : Instr) (g : Num.Fn) => ElementForm i f 24 96 (fun c _ a _ _ =>
      .one (Num.special (Num.fmtOf f.ty.toNat) g (c.rm f.rm) (f.sat = 1) a))
    fn (.fexp f) .exp ∧ fn (.fexp2 f) .exp2 ∧ fn (.flog f) .log ∧ fn (.flog2 f) .log2 ∧ fn (.fsin f) .sin ∧ fn (.fcos f) .cos ∧
    fn (.ftanh f) .tanh ∧ fn (.flgst f) .lgst ∧ fn (.ferf f) .erf) ∧
  (∀ f : FmtA,
    let src := Num.cvtSource f.var.toNat
    ElementForm (.cvt f) f 8 40 (fun c cont a _ _ => .one (Num.cvt cont f.ty.toNat src (c.rm f.rm) (f.sat = 1) a)) ∧
    ElementForm (.cvtsr f) f 8 40 (fun _ _ a u _ => .one (Num.cvtsr f.ty.toNat src (f.sat = 1) a u)) ∧
    ∀ s c tg cl g, c.mode false = .go g →
      (Goes (.rng f) s c 24 tg cl → exec (.rng f) s = .next (c.computed 24 tg cl true g (optMask c.l) (optMask c.l) 1 fun l =>
        .pure ((Num.mix c.m.snap.rngkey (Vec.lane (optBeat c.l 0) 1 ++ Vec.lane (optBeat c.l 0) 0) l).toNat / 2 ^ 32))) ∧
      (f.h.plane = 1 → Goes (.pack4 f) s c 40 tg cl →
        let scale := fun (b : Nat) => (Vec.lane (optBeat c.r 0) b).toNat % 256
        let code := fun (l : Nat) => if scale (l / 8) = 255 ∨ scale (l / 8) = 0 then (0, if l % 8 = 0 then Num.NV else 0)
          else if (optMask c.l).getLsbD l then Num.packCode (c.rm f.rm) (Vec.lane (optBeat c.l 0) l).toNat (scale (l / 8)) else (0, 0)
        exec (.pack4 f) s = .next (c.noted 40 tg cl g 7 1 (fun _ l =>
          if l < 2 then BitVec.ofNat 32 (total ((List.range 8).map fun i => (code (8 * l + i)).1 * 2 ^ (4 * i)))
          else if l = 2 then BitVec.ofNat 32 (scale 1 * 256 + scale 0) else 0) ((List.range 16).map fun l => (l, 0, (code l).2)))) ∧
      (f.h.plane = 1 → Goes (.unpk4 f) s c 40 tg cl →
        let m := maskOf fun l => (optMask c.l).getLsbD (l / 8) && (optMask c.l).getLsbD 2
        exec (.unpk4 f) s = .next (c.laned 40 tg cl true g m 1 (fun _ l => if m.getLsbD l then BitVec.ofNat 32 (Num.unpackCode
          (field (Vec.lane (optBeat c.l 0) (l / 8)) (4 * (l % 8)) 4) (field (Vec.lane (optBeat c.l 0) 2) (8 * (l / 8)) 8)) else 0) .skip))) ∧
  (∀ F ∈ [Num.bf16, Num.fp16, Num.fp32, Num.fp64], ∀ (rm : Nat) (sat n : Bool) (a m j : Nat) (e : Int),
    let A := Num.decode F a
    let fn := fun (g : Num.Fn) => Num.special F g rm sat a
    let one := fun (n : Bool) => F.pack n F.bias 0
    let nv := (F.nan, Num.NV)
    (A.isNan = true → ∀ g, fn g = (F.nan, if A.isSnan then Num.NV else 0)) ∧
    (A = .inf n → (∀ g ∈ [Num.Fn.exp, .exp2], fn g = (if n then F.zero false else F.inf false, 0)) ∧
      (∀ g ∈ [Num.Fn.log, .log2], fn g = if n then nv else (F.inf false, 0)) ∧ (∀ g ∈ [Num.Fn.sin, .cos], fn g = nv) ∧
      (∀ g ∈ [Num.Fn.tanh, .erf], fn g = (one n, 0)) ∧ fn .lgst = (if n then F.zero false else one false, 0)) ∧
    (A = .fin n 0 e → (∀ g ∈ [Num.Fn.exp, .exp2, .cos], fn g = (one false, 0)) ∧ (∀ g ∈ [Num.Fn.log, .log2], fn g = (F.inf true, Num.DZ)) ∧
      (∀ g ∈ [Num.Fn.sin, .tanh, .erf], fn g = (F.zero n, 0)) ∧ fn .lgst = (F.pack false (F.bias - 1) 0, 0)) ∧
    (A = .fin true m e → ¬m = 0 → ∀ g ∈ [Num.Fn.log, .log2], fn g = nv) ∧
    (A = .fin n m e → ¬m = 0 → 0 ≤ e → fn .exp2 = Num.roundFin F rm sat false 1 (Num.signed n (m * 2 ^ e.toNat))) ∧
    (A = .fin false (2 ^ j) e → fn .log2 = Num.roundFin F rm sat (decide (e + j < 0)) (e + j).natAbs 0)) ∧
  (∀ x ∈ [(Num.Fn.exp, 0x3F80_0000, 0x402D_F854), (.exp2, 0x3F00_0000, 0x3FB5_04F3), (.log, 0x4000_0000, 0x3F31_7218), (.log2, 0x4040_0000, 0x3FCA_E00D),
      (.sin, 0x3F80_0000, 0x3F57_6AA4), (.cos, 0x3F80_0000, 0x3F0A_5140), (.tanh, 0x3F80_0000, 0x3F42_F7D6), (.lgst, 0x3F80_0000, 0x3F3B_26A8),
      (.erf, 0x3F80_0000, 0x3F57_BB3D)], Num.special Num.fp32 x.1 0 false x.2.1 = (x.2.2, Num.NX)) ∧
  (∀ (cont dst src rm x : Nat) (sat n : Bool) (m : Nat) (e : Int), dst ≤ 10 → src ≤ 10 →
    let r := Num.cvt cont dst src rm sat x
    let lo := Num.intLo dst
    let hi := Num.intHi dst
    let put := fun (v : Int) => Num.writeInt cont dst v
    let near := fun (v : Int) => if v < lo then lo else if hi < v then hi else v
    let v := Num.readInt src x
    let A := Num.decode (Num.fmtOf src) x
    (src ≤ 4 → dst ≤ 4 → r = (put (if sat then near v else v), 0)) ∧
    (src ≤ 4 → 5 ≤ dst → r = Num.roundFin (Num.fmtOf dst) rm sat (decide (v < 0)) v.natAbs 0) ∧
    (5 ≤ src → dst ≤ 4 →
      (A.isNan = true → r = (put (if sat then 0 else lo), Num.NV)) ∧
      (A = .inf n → r = (put (if sat then (if n then lo else hi) else lo), Num.NV)) ∧
      (A = .fin n m e → let y := if 0 ≤ e then (m * 2 ^ e.toNat, false) else Num.roundAt rm n m e 0 false
        r = if lo ≤ Num.signed n y.1 ∧ Num.signed n y.1 ≤ hi then (put (Num.signed n y.1), if y.2 then Num.NX else 0)
          else (put (if sat then near (Num.signed n y.1) else lo), Num.NV))) ∧
    (5 ≤ src → 5 ≤ dst →
      (A.isNan = true → r = ((Num.fmtOf dst).nan, if A.isSnan then Num.NV else 0)) ∧
      (A = .inf n → ¬dst = src → r = (if sat then (Num.fmtOf dst).max n else if dst = 5 then (Num.fmtOf dst).nan else (Num.fmtOf dst).inf n,
        if dst = 5 ∧ sat = false then Num.NV else 0)) ∧
      (A = .fin n m e → ¬dst = src → r = Num.roundFin (Num.fmtOf dst) rm sat n m e) ∧
      (A.isNan = false → dst = src → r = (x % 2 ^ Num.width src, 0)))) ∧
  (∀ (dst src x u : Nat) (sat n : Bool) (m : Nat) (e : Int), Num.decode (Num.fmtOf src) x = .fin n m e → ¬m = 0 →
    let F := Num.fmtOf dst
    let top := e + (Num.bitLen m : Int) - 1
    let q := (if top < F.emin then F.emin else top) - F.mb
    let unit := 2 ^ (q - e).toNat
    let step := m % unit * 2 ^ 32 / unit
    (q ≤ e ∨ m % unit = 0 → Num.cvtsr dst src sat x u = Num.roundFin F 0 sat n m e) ∧
    (e < q → ¬m % unit = 0 → (Num.cvtsr dst src sat x u).1 = (Num.roundFin F (if sat then 1 else 0) sat n (m / unit + if 2 ^ 32 ≤ step + u % 2 ^ 32 then 1 else 0) q).1)) ∧
  (∀ (key c : Word) (l : Nat), Num.mix key c l = ([(0xA5C39B174E2D6F81#64, 23, 11), (0x3D7E1C95B248F06B#64, 41, 29), (0x6B1FD4A28C53E97D#64, 17, 47),
      (0xF28A5D3C71B609E5#64, 37, 5)] : List (Word × Nat × Nat)).foldl (fun v k =>
        let v1 := v + (key ^^^ k.1)
        let v2 := v1 ^^^ v1.rotateLeft k.2.1
        v2 + (v2 ^^^ key).rotateLeft k.2.2) (c + BitVec.ofNat 64 l * 0x9E3779B97F4A7C15#64)) ∧
  (∀ (rm x scale : Nat) (n : Bool) (m : Nat) (e : Int), 0 < scale → scale < 255 →
    let A := Num.decode Num.fp32 x
    let s := Num.e3m5 scale
    let k := 72 + Num.bitLen s.1
    (A.isNan = true → Num.packCode rm x scale = (0, Num.NV)) ∧ (A = .inf n → Num.packCode rm x scale = (if n then 15 else 7, Num.NV)) ∧
    (A = .fin n 0 e → Num.packCode rm x scale = (if n then 8 else 0, 0)) ∧
    (A = .fin n m e → ¬m = 0 → Num.packCode rm x scale = Num.roundTo Num.e2m1 rm false n (m * 2 ^ k / s.1) (e - s.2 - k) (decide (¬m * 2 ^ k % s.1 = 0)))) ∧
  (∀ code scale, code < 16 → 0 < scale → scale < 255 →
    let v := [0, 1, 2, 3, 4, 6, 8, 12].getD (code % 8) 0
    let s := Num.e3m5 scale
    ∃ m e, Num.decode Num.fp32 (Num.unpackCode code scale) = .fin (decide (8 ≤ code)) m e ∧ 0 ≤ e + 160 ∧
      m * 2 ^ (e + 160).toNat = v * s.1 * 2 ^ (s.2 + 159).toNat) ∧
  (∀ code, Num.unpackCode code 255 = Num.fp32.nan)

/-- 02 R57, R58; 09 R197; 10 R207–R211: on the J plane each of these forms answers, lane by lane at order k, with its function of whole jets, drawing
40(k + 1), 40(k + 1)(k + 2)/2 or 96(k + 1)(k + 2)/2 (06 R112, 10 R217).
10 R207, R209–R211: coefficient 0 of a special function is the function's value; each further one is its internal value, delivered, and the internal values
meet the recurrences of their function, each over the lower coefficients alone. -/
def Obligations.JetResults : Prop :=
  (∀ f : FmtA,
    let F := Num.fmtOf f.ty.toNat
    let sat := decide (f.sat = 1)
    let line := fun (i : Instr) (g : Nat → List Nat → List Nat → List (Nat × Num.Flags)) =>
      JetForm i f (fun k => 40 * (k + 1)) (fun c a b _ => .jet (g (c.rm f.rm) a b))
    let prod := fun (i : Instr) (g : Nat → List Nat → List Nat → List Nat → List (Nat × Num.Flags)) =>
      JetForm i f (fun k => 40 * ((k + 1) * (k + 2) / 2)) (fun c a b x => .jet (g (c.rm f.rm) a b x))
    let fn := fun (i : Instr) (g : Num.Fn) =>
      JetForm i f (fun k => 96 * ((k + 1) * (k + 2) / 2)) (fun c a _ _ => .jet (Num.jspecial F g (c.rm f.rm) sat a))
    line (.fadd f) (fun rm a b => Num.jadd F rm sat false a b) ∧ line (.fsub f) (fun rm a b => Num.jadd F rm sat true a b) ∧
    line (.fscale f) (fun rm a n => Num.jscale F rm sat a (Bits.sext 32 (n.getD 0 0))) ∧
    line (.fmin f) (fun _ a b => Num.jminmax F false a b) ∧ line (.fmax f) (fun _ a b => Num.jminmax F true a b) ∧
    line (.fabs f) (fun _ a _ => Num.jabs F a) ∧ line (.fneg f) (fun _ a _ => Num.jneg F a) ∧ line (.fcpys f) (fun _ a b => Num.jcpys F a b) ∧
    prod (.fmul f) (fun rm a b _ => Num.jmul F rm sat a b) ∧ prod (.fma f) (fun rm a x b => Num.jfma F rm sat false (f.var = 1) a b x) ∧
    prod (.fnma f) (fun rm a x b => Num.jfma F rm sat true (f.var = 1) a b x) ∧ prod (.fdiv f) (fun rm a b _ => Num.jdiv F rm sat a b) ∧
    prod (.frcp f) (fun rm a _ _ => Num.jrcp F rm sat a) ∧ prod (.fsqrt f) (fun rm a _ _ => Num.jsqrt F rm a) ∧
    prod (.frsqrt f) (fun rm a _ _ => Num.jrsqrt F rm a) ∧
    fn (.fexp f) .exp ∧ fn (.fexp2 f) .exp2 ∧ fn (.flog f) .log ∧ fn (.flog2 f) .log2 ∧ fn (.fsin f) .sin ∧ fn (.fcos f) .cos ∧
    fn (.ftanh f) .tanh ∧ fn (.flgst f) .lgst ∧ fn (.ferf f) .erf) ∧
  (∀ (F : Num.Fmt) (g : Num.Fn) (rm : Nat) (sat : Bool) (a : List Nat), 
    let x := Num.decode F (a.getD 0 0)
    let r := Num.jspecial F g rm sat a
    let none_ := ((g = .log ∨ g = .log2) ∧ Num.belowZero x = true) ∨ ((g = .sin ∨ g = .cos) ∧ (x = .inf true ∨ x = .inf false))
    ¬a = [] → r.length = a.length ∧
    (none_ → ∀ j, j < a.length → r.getD j (0, 0) = (F.nan, if j = 0 then Num.NV else 0)) ∧
    (¬none_ → r.getD 0 (0, 0) = Num.special F g rm sat (a.getD 0 0) ∧ ∀ j, 0 < j → j < a.length → r.getD j (0, 0) =
      Num.deliverJ F rm sat (Num.coef (Num.fnJet g (a.length - 1) (a.map (Num.fv F))) j))) ∧
  (∀ (k : Nat) (fa : List Num.FV),
    let h := fun (g : Num.Fn) => Num.fnJet g k fa
    let low := fun (g : Num.Fn) => Num.quiet (h g)
    let X := fun (g : Num.Fn) => Num.coef (h g)
    let f := Num.coef fa
    let conv := fun (a b : List Num.FV) (m : Nat) => Num.fvNeg (Num.sum48 (Num.terms 0 m fun i => Num.fvMul (Num.coef a i) (Num.coef b (m - i))))
    (∀ g, X g 0 = Num.special48 g (f 0).1) ∧
    ∀ j, 0 < j → j ≤ k →
      X .exp j = Num.stepJ j (Num.fvInt 1) fa (low .exp) ∧ X .exp2 j = Num.stepJ j (Num.ln2c, 0) fa (low .exp2) ∧
      X .log j = Num.fvDiv48 (Num.r48 (Num.fvAdd (f j) (Num.fvNeg (Num.fvDiv48
        (if j = 1 then Num.fvZero else Num.sum48 (Num.terms 1 (j - 1) fun i => Num.fvMul (Num.fvMul (Num.fvInt i) (Num.coef (low .log) i)) (f (j - i)))) (Num.fvInt j))))) (f 0) ∧
      X .log2 j = Num.r48 (Num.fvMul (X .log j) (Num.invLn2c, 0)) ∧
      X .sin j = Num.stepJ j (Num.fvInt 1) fa (low .cos) ∧ X .cos j = Num.stepJ j (Num.fvInt (-1)) fa (low .sin) ∧
      (X .tanh j).1 = (Num.stepJ j (Num.fvInt 1) fa (Num.quiet ((List.range j).map fun m => if m = 0
        then Num.r48 (Num.fvAdd (Num.fvInt 1) (Num.fvNeg (Num.fvMul (Num.coef (low .tanh) 0) (Num.coef (low .tanh) 0)))) else conv (low .tanh) (low .tanh) m))).1 ∧
      (X .lgst j).1 = (Num.stepJ j (Num.fvInt 1) fa (Num.quiet ((List.range j).map fun m =>
        Num.r48 (Num.fvAdd (Num.coef (low .lgst) m) (conv (low .lgst) (low .lgst) m))))).1 ∧
      ∀ e : List Num.FV, e.length = k + 1 → (let q := (List.range (k + 1)).map fun m => conv fa fa m
        e.getD 0 Num.fvZero = Num.special48 .exp (Num.coef q 0).1 ∧ ∀ m, 0 < m → m ≤ k → e.getD m Num.fvZero =
          Num.fvDiv48 (Num.sum48 (Num.terms 1 m fun i => Num.fvMul (Num.fvMul (Num.fvInt i) (Num.coef (Num.quiet q) i)) (Num.coef (Num.quiet e) (m - i)))) (Num.fvInt m)) →
        (X .erf j).1 = (Num.stepJ j (Num.kerfc, 0) fa (Num.quiet e)).1)

/-- 10 R213–R217: the JET forms. JORD and JFLAG emit what stood at map, `.SET` and `.CLR` act at commit besides; the J-plane forms compute the lanes
of mask and gate, the value at TY bit for bit where they only move it and the upper bits of its lane zero (02 R39), and draw 24(k + 1), or 40(k + 1) where they compute. -/
def Obligations.JetGroupResults : Prop :=
  ∀ (f : FmtA) s c tg cl g, c.mode false = .go g →
    let F := Num.fmtOf f.ty.toNat
    let sat := decide (f.sat = 1)
    let mask := rightScalar c f &&& ~~~jflagsDash
    let order := TokData.scalar (BitVec.ofNat 64 c.k)
    let flags := TokData.scalar (c.m.snap.jflags &&& mask)
    (f.h.plane = 0 →
      (Goes (.jord f) s c 4 tg cl → exec (.jord f) s = .next (c.emitted 4 tg cl order false .skip)) ∧
      (Goes (.jordSet f) s c 4 tg cl → exec (.jordSet f) s = .next (c.emitted 4 tg cl order false
        (addAct c.n c.ut c.q c.tag (.jordSet ((rightScalar c f).toNat % 8))))) ∧
      (Goes (.jflag f) s c 4 tg cl → exec (.jflag f) s = .next (c.emitted 4 tg cl flags false .skip)) ∧
      (Goes (.jflagClr f) s c 4 tg cl → exec (.jflagClr f) s = .next (c.emitted 4 tg cl flags false (addAct c.n c.ut c.q c.tag (.jflagClr mask))))) ∧
    (f.h.plane = 2 →
      let left := fun (j l : Nat) => (Vec.lane (optBeat c.l j) l).toNat % 2 ^ Num.width f.ty.toNat
      let right := fun (l : Nat) => (if f.immr = 1 then f.imm.toNat else (Vec.lane (optBeat c.r 0) l).toNat) % 2 ^ Num.width f.ty.toNat
      let form := fun (i : Instr) (d nb : Nat) (lane : Nat → LaneOut) => Goes i s c (d * (c.k + 1)) tg cl →
        exec i s = .next (c.computed (d * (c.k + 1)) tg cl true g (dataMask i c f) (dataMask i c f &&& g) nb lane)
      let jet := fun (v : Nat → Nat → Nat) (l : Nat) => LaneOut.mk ((List.range (c.k + 1)).map fun j => v l j) []
      form (.jseed f) 24 (c.k + 1) (jet fun l j => if j = 0 then left 0 l else if j = 1 then right l else 0) ∧
      form (.jsetc f) 24 (c.k + 1) (jet fun l j => if j = f.imm.toNat % 8 then right l else left j l) ∧
      form (.jtrunc f) 24 (c.k + 1) (jet fun l j => if j ≤ f.imm.toNat % 8 then left j l else 0) ∧
      form (.jdiff f) 40 (c.k + 1) (fun l => .jet (Num.jdiff F (c.rm f.rm) sat (jetOf c.l c.k l))) ∧
      form (.jintg f) 40 (c.k + 1) (fun l => .jet (Num.jintg F (c.rm f.rm) sat (right l) (jetOf c.l c.k l))) ∧
      form (.jeval f) 40 1 (fun l => .one (Num.jeval F (c.rm f.rm) sat (jetOf c.l c.k l) (right l))) ∧
      (f.var = 0 → form (.jcoef f) 24 1 (fun l => .pure (left (f.imm.toNat % 8) l))) ∧
      (f.var = 1 → form (.jcoef f) 40 1 (fun l => let r := Num.jfact F (c.rm f.rm) sat (f.imm.toNat % 8) (left (f.imm.toNat % 8) l)
        ⟨[r.1], [(f.imm.toNat % 8, r.2)]⟩)))

/-! ## Lane and stream forms -/

/-- 11 R218–R220: each LANE form answers, under every gate, with the lanes and mask bits that the rule picks, moved bit for bit in every beat and without
flags, drawing 24 on the V plane and 24(k + 1) on the J plane. The lanes of REPL that a gate closes are free (log 21). -/
def Obligations.LaneResults : Prop :=
  ∀ f : FmtA,
    let nb := fun (k : Nat) => if f.h.plane = 2 then k + 1 else 1
    let idx := fun (c : Fx) => (rightLane c f 0 0).toNat % 16
    let m := fun (c : Fx) (l : Nat) => (optMask c.l).getLsbD l
    let r := fun (c : Fx) (l : Nat) => (rightMask c f).getLsbD l
    let out := fun (i : Instr) (v : Fx → Nat → Nat → Lane) (mask : Fx → Nat → Bool) =>
      GatedForm i (fun k => 24 * nb k) (fun c => nb c.k) v (fun c => maskOf (mask c))
    let moved := fun (i : Instr) (from_ : Fx → Nat → Nat) => out i (fun c j l => Vec.lane (optBeat c.l j) (from_ c l)) (fun c l => m c (from_ c l))
    let both := fun (i : Instr) (from_ : Nat → Nat) => out i
      (fun c j l => if from_ l < 16 then Vec.lane (optBeat c.l j) (from_ l) else rightLane c f j (from_ l - 16))
      (fun c l => if from_ l < 16 then m c (from_ l) else r c (from_ l - 16))
    let n := f.imm.toNat % 32
    let h := if f.var = 1 then 8 else 0
    let e := if f.var = 1 then 1 else 0
    out (.lane f) (fun c j _ => Vec.lane (optBeat c.l j) (idx c)) (fun c _ => m c (idx c) && r c 0) ∧
    out (.insl f) (fun c j l => if l = f.imm.toNat % 16 then rightLane c f j 0 else Vec.lane (optBeat c.l j) l)
      (fun c l => if l = f.imm.toNat % 16 then r c 0 else m c l) ∧
    moved (.perm f) (fun _ l => f.imm.toNat / 16 ^ l % 16) ∧
    out (.shuf f) (fun c j l => Vec.lane (optBeat c.l j) ((Vec.lane (optBeat c.r 0) l).toNat % 16))
      (fun c l => (optMask c.r).getLsbD l && m c ((Vec.lane (optBeat c.r 0) l).toNat % 16)) ∧
    moved (.rotl f) (fun c l => (l + 16 - idx c) % 16) ∧
    (n ≤ 16 → both (.slide f) (fun l => if f.var = 1 then (l + 16 - n + 16) % 32 else l + n)) ∧
    both (.zip f) (fun l => if l % 2 = 0 then h + l / 2 else 16 + h + l / 2) ∧
    both (.unzip f) (fun l => if l < 8 then 2 * l + e else 16 + 2 * (l - 8) + e) ∧
    (f.h.plane = 1 → out (.iota f) (fun c _ l => Vec.lane (optBeat c.l 0) 0 + BitVec.ofNat 32 l * f.imm.setWidth 32) (fun _ _ => true)) ∧
    ∀ s c tg cl g, c.mode false = .go g → Goes (.repl f) s c (24 * nb c.k) tg cl →
      let y := BitVec.ofNat 32 (Num.extend 32 f.ty.toNat (optScalar c.l).toNat)
      (c.h.pmode = 0 → exec (.repl f) s = .next (c.emitted (24 * nb c.k) tg cl (.beats [Vec.fill y] 0xFFFF) false .skip)) ∧
      (¬c.h.pmode = 0 → exec (.repl f) s = .next (if g = 0 then c.taken (24 * nb c.k) else Upd.apply .fresh (c.emitted (24 * nb c.k) tg cl
        (.beats [Vec.mk fun l => if g.getLsbD l then y else Config.freeLane c.s.ctr l] g) false .skip)))

/-- 11 R222, R223, R228; 02 R53: RED answers with the tree of its operand's lanes in every lane, and SCAN with the left folds, the lanes outside the mask
entering as the identity; both note the flags of every combination and draw at the figure of their OP's class.
02 R53, R39, R40: the tree combines neighbours level by level, and each fold adds one lane on the right, the first combination taking lane 0 itself;
the fold of lane 0 is that lane written at TY, a NaN made canonical: the values of RED and SCAN in full. -/
def Obligations.ReductionResults : Prop :=
  (∀ (f : FmtG) s c tg cl g, c.mode false = .go g → (f.h.plane = 1 ∨ f.h.plane = 2) →
    let nb := if f.h.plane = 2 then c.k + 1 else 1
    let float := decide (7 ≤ (f.imm.extractLsb' 4 4).toNat)
    let draw := (if float then 40 else 24) * nb
    let lanes := fun (j : Nat) => (List.range 16).map fun l => if (optMask c.l).getLsbD l then (Vec.lane (optBeat c.l j) l).toNat else stIdent f 32
    let tree := fun (j : Nat) => redTree f c.m.snap.rmode (lanes j)
    let fold := fun (j : Nat) => scanFold f c.m.snap.rmode (lanes j)
    (Goes (.red f) s c draw tg cl → exec (.red f) s = .next (c.noted draw tg cl g 0xFFFF nb (fun j _ => BitVec.ofNat 32 (tree j).1)
      ((List.range nb).flatMap fun j => (tree j).2.map fun e => (e.1, j, e.2)))) ∧
    (Goes (.scan f) s c draw tg cl → exec (.scan f) s = .next (c.noted draw tg cl g (optMask c.l) nb (fun j l =>
        if (optMask c.l).getLsbD l then BitVec.ofNat 32 ((fold j).getD l (0, 0)).1 else Vec.lane (optBeat c.l j) l)
      ((List.range nb).flatMap fun j => (fold j).zipIdx.map fun e => (e.2, j, e.1.2))))) ∧
  (∀ (f : FmtG) (rmode : Word) (x : Nat → Nat),
    let add := fun (a b : Nat) => (stComb f rmode 32 a b).1
    let pair := fun (v : Nat → Nat) (k : Nat) => add (v (2 * k)) (v (2 * k + 1))
    let fold := scanFold f rmode ((List.range 16).map x)
    (redTree f rmode ((List.range 16).map x)).1 = pair (pair (pair (pair x))) 0 ∧
    let ty := (f.imm.extractLsb' 4 4).toNat
    fold.length = 16 ∧ fold.getD 0 (0, 0) = (if ty < 7 then Num.writeInt 32 ty (Num.readInt ty (x 0))
      else if (Num.decode (Num.fmtOf ty) (x 0)).isNan then (Num.fmtOf ty).nan else x 0 % 2 ^ (Num.fmtOf ty).bits, 0) ∧
    ∀ k, k < 15 → fold.getD (k + 1) (0, 0) = stComb f rmode 32 (if k = 0 then x 0 else (fold.getD k (0, 0)).1) (x (k + 1)))

/-- 11 R224–R226, R228: STEER answers with its two tokens by its predicate, null where either operand is null; ACCUM, FILTER, COMPACT and MERGE, where
the iteration is accepted and there is room for its colour, put their token into the pending state.
11 R225, R227, 08 R173: what a commit makes of an ordered form's state, for FILTER, COMPACT on the scalar plane, and ACCUM: emissions under the stream's own
iterations, of what the predicate lets through, none where it lets nothing through, counts that go on by one, and release on a null token or on a full count. -/
def Obligations.StreamForms : Prop :=
  (∀ (f : FmtG) s c, 
    let nb := if f.h.plane = 2 then c.k + 1 else 1
    let draw := (if f.h.plane = 0 then 4 else 24) * nb
    let acc := (if f.h.plane = 0 then (if 7 ≤ (f.imm.extractLsb' 4 4).toNat then 8 else 4) else if 7 ≤ (f.imm.extractLsb' 4 4).toNat then 40 else 24) * nb
    (∀ tg cl x p, Goes (.steer f) s c draw tg cl → c.l = some x → c.p = some p → x.null = false → p.null = false →
      let null := (nullData c.h.plane.toNat c.k, true)
      let true_ := gateLanes 1 p
      let yes := if f.h.plane = 0 then p.scalar.getLsbD 0 else true_.getLsbD 0
      let d0 := match x.data with
        | .beats bs m => if f.h.plane = 0 ∨ f.h.plane = 3 then (if yes then (x.data, false) else null) else (.beats bs (m &&& true_), false)
        | .scalar _ => if f.h.plane = 0 ∨ f.h.plane = 3 then (if yes then (x.data, false) else null) else (x.data, false)
      let d1 := match x.data with
        | .beats bs m => if f.h.plane = 0 ∨ f.h.plane = 3 then (if yes then null else (x.data, false)) else (.beats bs (m &&& ~~~true_), false)
        | .scalar _ => if f.h.plane = 0 ∨ f.h.plane = 3 then (if yes then null else (x.data, false)) else (x.data, false)
      exec (.steer f) s = .next (c.acted draw (.all [takeClaim c.tid c.n c.ut cl,
        emitTo c.n c.ut c.q c.tag c.h.t0 (mkTok tg d0.1 d0.2), emitTo c.n c.ut c.q c.tag c.h.t1 (mkTok tg d1.1 d1.2)]))) ∧
    (∀ tg cl x p, Goes (.steer f) s c draw tg cl → c.l = some x → c.p = some p → (x.null = true ∨ p.null = true) →
      exec (.steer f) s = .next (c.emitted draw tg cl (nullData ((outPlanes (.steer f)).headD f.h.plane.toNat) c.k) true .skip)) ∧
    (accepted c = true → streamRoom c = true → ∀ x, c.l = some x →
      (Fires (.accum f) s c → Covers c acc → exec (.accum f) s = .next (c.pending acc (.stream x none))) ∧
      (Fires (.filter f) s c → Covers c draw → exec (.filter f) s = .next (c.pending draw (.stream x c.p))) ∧
      (Fires (.compact f) s c → Covers c draw → exec (.compact f) s = .next (c.pending draw (.stream x none))) ∧
      ∀ y, c.r = some y → Fires (.merge f) s c → Covers c draw →
        (x.null = true → exec (.merge f) s = .next (c.pending draw (.stream y none))) ∧
        (x.null = false → y.null = true → exec (.merge f) s = .next (c.pending draw (.stream x none))) ∧
        (∀ a b m n, f.h.plane = 1 ∨ f.h.plane = 2 → x.null = false → y.null = false → x.rein = false → x.data = .beats a m → y.data = .beats b n →
          let d := TokData.beats (a.zipIdx.map fun e => Vec.mk fun l => if m.getLsbD l then Vec.lane e.1 l else Vec.lane (b.getD e.2 []) l) (m ||| n)
          exec (.merge f) s = .next (if m &&& n = 0 then c.pending draw (.stream { x with data := d } none) else c.faulted draw 0x10 0 0x0B)) ∧
        ((f.h.plane = 3 ∨ (f.h.plane = 0 ∧ ∃ w, x.data = .scalar w)) → x.null = false → y.null = false → exec (.merge f) s = .next (c.faulted draw 0x10 0 0x0B)))) ∧
  (∀ (f : FmtG) (k c : Nat) (rmode : Word) (tag : Tag) (col : StreamCol) (x : Tok),
    (x.null = true → (filterEff f.h k c col x none).out = [⟨mkTag c col.next, nullData f.h.plane.toNat k, true⟩] ∧
      (filterEff f.h k c col x none).col = none ∧ (compactEff f.h k c col x).col = none ∧
      (compactEff f.h k c col x).out.getLast? = some ⟨mkTag c ((col.next + if col.buf = [] then 0 else 1) % 256), nullData f.h.plane.toNat k, true⟩ ∧
      (f.count = 0 → (accumEff f f.h.plane.toNat k rmode tag col x).col = none ∧ (accumEff f f.h.plane.toNat k rmode tag col x).out =
        [⟨tag, if col.terms = 0 then accIdent f f.h.plane.toNat k else col.acc, false⟩])) ∧
    (x.null = false → f.h.plane = 0 → (compactEff f.h k c col x).out = [⟨mkTag c col.next, x.data, false⟩] ∧
      (compactEff f.h k c col x).col = some { col with next := (col.next + 1) % 256 }) ∧
    (x.null = false → ∀ p, p.null = true → (filterEff f.h k c col x (some p)).out = [] ∧ (filterEff f.h k c col x (some p)).col = some col) ∧
    (x.null = false → ∀ p, p.null = false →
      let g := gateLanes f.h.pmode p
      let out := fun (o : Option TokData) => (filterEff f.h k c col x (some p)).out = o.toList.map (fun d => ⟨mkTag c col.next, d, false⟩) ∧
        (filterEff f.h k c col x (some p)).col = some (if o.isSome then { col with next := (col.next + 1) % 256 } else col)
      (f.h.plane = 0 → out (if gateScalar f.h.pmode (p.scalar.getLsbD 0) then some x.data else none)) ∧
      (f.h.plane = 3 → out (if g.getLsbD 0 then some x.data else none)) ∧
      ∀ bs m, f.h.plane = 1 ∨ f.h.plane = 2 → ¬f.h.pmode = 0 → x.data = .beats bs m → out (if m &&& g = 0 then none
        else some (.beats (bs.zipIdx.map fun e => Vec.mk fun l => if g.getLsbD l then Vec.lane e.1 l else Vec.lane (optBeat (some x) e.2) l) (m &&& g)))) ∧
    (¬f.count = 0 → let e := accumEff f f.h.plane.toNat k rmode tag col x
      (col.terms + 1 = f.count.toNat → e.col = none ∧ e.out.length = 1) ∧
      (¬col.terms + 1 = f.count.toNat → e.out = [] ∧ e.col.map (fun y => y.terms) = some (col.terms + 1))))

/-! ## Flow and graph forms -/

/-- 08 R157, R158: each exit, taken, is noted in its unit with its destination, and CALL and CALLI take a free colour whose frame returns to the next
block. RET of colour 0, HALT of a spawned context and a second exit of the unit are FLOW_FAULT (0x05, 0x08, 0x09). -/
def Obligations.ExitsAreTaken : Prop :=
  ∀ (f : FmtB) (s : State) (c : Fx) (g : BitVec 16), c.mode false = .go g → Covers c 4 →
    let pc := c.m.blk.pc
    let rel := (((pc.toNat % 2 ^ 57 : Nat) : Int) + 64 * f.boff.toInt) % 2 ^ 64
    let abs := (optScalar c.l).toNat / 64 * 64
    let takes := fun (i : Instr) (dest colour : Nat) (before : Prog) => exec i s = .next (c.acted 4
      (.seq before (onUnit c.n c.ut fun u => { u with exit := some ⟨c.q, i, dest, colour⟩ })))
    let next := BitVec.ofNat 64 (pc.toNat % 2 ^ 57 + 64 * ((64 + 16 * c.m.blk.ins.length + 63) / 64))
    let call := fun (col : Nat) => claimColour c col { Frame.make .call (ctagOf c.nd c.m) with
      ret := (if bit pc 57 then 1#1 else 0#1) ++ next.extractLsb' 0 57
      wide := if next.toNat < 2 ^ 57 then none else some next }
    (c.u.exit = none →
      (Fires (.br f) s c → takes (.br f) rel.toNat 0 .skip) ∧ (Fires (.bri f) s c → takes (.bri f) abs 0 .skip) ∧
      (∀ col, c.t.freeColour = some col → (Fires (.call f) s c → takes (.call f) rel.toNat col (call col)) ∧
        (Fires (.calli f) s c → takes (.calli f) abs col (call col))) ∧
      (c.t.freeColour = none → (Fires (.call f) s c → exec (.call f) s = .next s) ∧ (Fires (.calli f) s c → exec (.calli f) s = .next s)) ∧
      (Fires (.ret f) s c → if tagColour (ctagOf c.nd c.m) = 0 then exec (.ret f) s = .next (c.faulted 4 0x10 0 5) else takes (.ret f) 0 0 .skip) ∧
      (Fires (.halt f) s c → if c.m.blk.ctx = 0 then takes (.halt f) 0 0 .skip else exec (.halt f) s = .next (c.faulted 4 0x10 0 8))) ∧
    (c.u.exit.isSome = true → ∀ i ∈ [Instr.br f, .bri f, .call f, .calli f, .ret f, .halt f], Fires i s c → exec i s = .next (c.faulted 4 0x10 0 9))

/-- 08 R161, R168, R170–R172: MOV and CONST emit their datum as the gate lets it through, NULL a null token; GETG and EMPTY emit a full register's value,
PUTG its operand; EMPTY and PUTG act at commit besides. They draw 4, or 24 for each beat of the plane's tokens.
08 R168: a read of an empty register waits, and so does one in a loop-resident block before every earlier iteration has committed; firing PUTG
twice in one unit is FLOW_FAULT 0x0A. -/
def Obligations.MovesAndRegisters : Prop :=
  (∀ (f : FmtG) s c tg cl g, c.mode false = .go g →
    let draw := if f.h.plane = 0 then 4 else 24 * (if f.h.plane = 2 then c.k + 1 else 1)
    let x := (c.l.map fun t => t.data).getD (.scalar 0)
    let r := f.imm.toNat % 128
    let out := fun (i : Instr) (d : TokData) (before : Prog) => Goes i s c draw tg cl →
      exec i s = .next ((gated c g d).elim (c.taken draw) fun d => c.emitted draw tg cl d false before)
    out (.mov f) x .skip ∧
    out (.const f) (if f.h.plane = 0 then .scalar f.imm else .beats [Vec.fill (f.imm.setWidth 32)] 0xFFFF) .skip ∧
    (Goes (.null f) s c draw tg cl → exec (.null f) s = .next
      (if ¬c.h.pmode = 0 ∧ (f.h.plane = 1 ∨ f.h.plane = 2) ∧ optMask c.l &&& g = 0 ∧ 0 < (c.l.map Tok.beats).getD 0 then c.taken draw
       else c.emitted draw tg cl (nullData c.h.plane.toNat c.k) true .skip)) ∧
    (regReady c r = true → regBad c.nd r = false →
      out (.getg f) (regData c.nd f.h.plane r) .skip ∧ out (.empty f) (regData c.nd f.h.plane r) (addAct c.n c.ut c.q c.tag (.empty r))) ∧
    ((∀ a ∈ c.u.acts, a.q = c.q → ∀ n d, a.act ≠ .putg n d) → Goes (.putg f) s c draw tg cl → exec (.putg f) s = .next
      ((gated c g x).elim (c.taken draw) fun d => c.emitted draw tg cl d false (addAct c.n c.ut c.q c.tag (.putg r d))))) ∧
  (∀ (f : FmtG) s c g, c.mode false = .go g →
    let draw := if f.h.plane = 0 then 4 else 24 * (if f.h.plane = 2 then c.k + 1 else 1)
    let r := f.imm.toNat % 128
    ((r < 64 ∧ (c.nd.sreg r).full = false) ∨ (64 ≤ r ∧ r < 96 ∧ (c.nd.vreg (r - 64)).full = false) ∨
      (c.m.loop = true ∧ ¬tagIter c.tag = commitPoint c.t (tagColour c.tag) c.n c.m.blk.pc) →
      (Fires (.getg f) s c → exec (.getg f) s = .next s) ∧ (Fires (.empty f) s c → exec (.empty f) s = .next s)) ∧
    (∀ a ∈ c.u.acts, a.q = c.q → ∀ n d, a.act = .putg n d → Fires (.putg f) s c → Covers c draw → exec (.putg f) s = .next (c.faulted draw 0x10 0 0x0A)))

/-- 08 R162–R165: LENTER emits under iteration 0 of a loop's colour, taking a free one for the first; INEXT, IPREV and LEXIT under the tag that R163 and
R164 give, or FLOW_FAULT; TALLOC under the lowest free iteration of its tag space, which it makes where there is none; TFREE marks an iteration that TALLOC
gave, and is FLOW_FAULT 0x06 of any other (08 R155). That TALLOC takes the lowest iteration, whatever FREE is, is the model's choice (log 85).
08 R163, R160: the next iteration of a loop takes a free slot of its window, waits while there is none, and is FLOW_FAULT outside a loop; the previous
one must be live; the parent's tag is that of the frame. -/
def Obligations.LoopForms : Prop :=
  (∀ (f : FmtG) s c g, c.mode false = .go g →
    let draw := if f.h.plane = 0 then 4 else 24 * (if f.h.plane = 2 then c.k + 1 else 1)
    let out := fun (i : Instr) (d : TokData) (t : Tag) (before : Prog) => Fires i s c → Covers c draw → exec i s = .next (c.acted draw (.seq before (c.emit t d false)))
    let claimed := fun (cl : Option Claim) => takeClaim c.tid c.n c.ut cl
    let me := some (nodeM c.t c.n, c.m.blk.pc.toNat, c.q, tagColour c.tag)
    (∀ d, gated c g ((c.l.map fun t => t.data).getD (.scalar 0)) = some d →
      (∀ x, passColour c = some x → out (.lenter f) d (mkTag x 0) .skip) ∧
      (∀ x, passColour c = none → c.t.freeColour = some x → out (.lenter f) d (mkTag x 0) (claimColour c x { Frame.make .loop c.tag with
        win := f.win.toNat, free := f.win.toNat - 1, live := [0] })) ∧
      (∀ t cl, (tagRes c.t c.tag 1 = .ok t cl → out (.inext f) d t (.seq .skip (claimed cl))) ∧ (tagRes c.t c.tag 2 = .ok t cl → out (.iprev f) d t (.seq .skip (claimed cl))) ∧
        (tagRes c.t c.tag 4 = .ok t cl → out (.lexit f) d t (.seq (addAct c.n c.ut c.q c.tag (.lexit (tagColour c.tag))) (claimed cl)))) ∧
      (∀ (op : Nat) (i : Instr), (op, i) ∈ [(1, Instr.inext f), (2, .iprev f), (4, .lexit f)] → Fires i s c → Covers c draw →
        ∀ e, tagRes c.t c.tag op = .fault e → exec i s = .next (c.faulted draw 0x10 0 (BitVec.ofNat 64 e))) ∧
      (∀ x fr, c.t.frames.find? (fun e => decide (e.2.kind = .tagSpace) && decide (e.2.owner = me)) = some (x, fr) →
        ∀ j, (List.range fr.win).find? (fun j => !(fr.live.contains j)) = some j → out (.talloc f) d (mkTag x j) (claimed (some (.slot x j)))) ∧
      (∀ x, c.t.frames.find? (fun e => decide (e.2.kind = .tagSpace) && decide (e.2.owner = me)) = none → c.t.freeColour = some x →
        out (.talloc f) d (mkTag x 0) (.seq (claimColour c x { Frame.make .tagSpace c.tag with win := f.win.toNat, free := f.win.toNat, owner := me })
          (claimed (some (.slot x 0)))))) ∧
    (∀ fr, Fires (.tfree f) s c → Covers c 4 → c.t.frame (tagColour c.tag) = some fr → fr.kind = .tagSpace → tagIter c.tag ∈ fr.given → ¬tagIter c.tag ∈ fr.freeing →
      exec (.tfree f) s = .next (c.acted 4 (.seq (.upd (.task c.tid fun o => o.map fun t => t.onFrame (tagColour c.tag) fun x =>
          { x with freeing := x.freeing ++ [tagIter c.tag] }))
        (onUnit c.n c.ut fun u => { u with claims := .freeTag (tagColour c.tag) (tagIter c.tag) :: u.claims })))) ∧
    (Fires (.tfree f) s c → Covers c 4 → (∀ fr, c.t.frame (tagColour c.tag) = some fr →
        ¬(fr.kind = .tagSpace ∧ tagIter c.tag ∈ fr.given ∧ ¬tagIter c.tag ∈ fr.freeing)) →
      exec (.tfree f) s = .next (c.faulted 4 0x10 0 6))) ∧
  (∀ (t : Task) (tag : Tag) (fr : Frame),
    let c := tagColour tag
    let next := (tagIter tag + 1) % 256
    let prev := (tagIter tag + 255) % 256
    (t.frame c = none → tagRes t tag 1 = .fault 1 ∧ tagRes t tag 2 = .fault 1 ∧ tagRes t tag 3 = .fault 1 ∧ tagRes t tag 4 = .fault 3 ∧ tagRes t tag 6 = .fault 4) ∧
    (t.frame c = some fr →
      (¬(fr.kind = .loop ∨ fr.kind = .tagSpace) → tagRes t tag 1 = .fault 1 ∧ tagRes t tag 2 = .fault 1) ∧
      ((fr.kind = .loop ∨ fr.kind = .tagSpace) →
        (next ∈ fr.live → tagRes t tag 1 = .ok (mkTag c next) none) ∧
        (¬next ∈ fr.live → fr.free = 0 → tagRes t tag 1 = .wait) ∧
        (¬next ∈ fr.live → ¬fr.free = 0 → tagRes t tag 1 = .ok (mkTag c next) (some (.slot c next))) ∧
        (prev ∈ fr.live → tagRes t tag 2 = .ok (mkTag c prev) none) ∧ (¬prev ∈ fr.live → tagRes t tag 2 = .fault 2) ∧
        (0 ∈ fr.live → tagRes t tag 3 = .ok (mkTag c 0) none) ∧ (¬0 ∈ fr.live → tagRes t tag 3 = .fault 2)) ∧
      tagRes t tag 4 = (if c = 0 then .fault 3 else .ok fr.parent none) ∧
      tagRes t tag 6 = (if fr.kind = .call then .ok fr.parent none else .fault 4)) ∧
    tagRes t tag 0 = .ok tag none)

/-- 08 R166, R167: SPAWN takes a free colour and a free context and emits the handle, its entry in the code space of its block (01 R16); it waits while either is wanting; JOIN of a handle that it may join
acts at commit, any other is FLOW_FAULT 0x07. -/
def Obligations.SpawnAndJoin : Prop :=
  ∀ (f : FmtG) s c g, c.mode false = .go g → f.h.plane = 0 → Covers c 4 →
    (∀ x k, c.t.freeColour = some x → freeCtx c = some k → Fires (.spawn f) s c →
      let dest := BitVec.ofInt 64 ((c.m.blk.pc.toNat % 2 ^ 57 : Nat) + 64 * (f.imm.extractLsb' 0 60).toInt)
      let entry := (if bit c.m.blk.pc 57 then 1#1 else 0#1) ++ dest.extractLsb' 0 57
      let wide := if dest.toNat < 2 ^ 57 then none else some dest
      let fr := { Frame.make .spawn c.tag with node := nodeM c.t c.n, ctx := k, entry := entry, wide := wide }
      exec (.spawn f) s = .next (c.acted 4 (.seq (.seq (claimColour c x fr) (addAct c.n c.ut c.q c.tag (.spawn k x entry wide)))
        (c.emit (if f.h.tagop = 5 then mkTag x (tagIter c.tag) else c.tag) (.scalar (BitVec.ofNat 64 x)) false)))) ∧
    (c.t.freeColour = none ∨ freeCtx c = none → Fires (.spawn f) s c → exec (.spawn f) s = .next s) ∧
    (Fires (.join f) s c →
      (∀ x, joinable c (optScalar c.l) = some x → exec (.join f) s = .next (c.acted 4 (addAct c.n c.ut c.q c.tag (.join x)))) ∧
      (joinable c (optScalar c.l) = none → exec (.join f) s = .next (c.faulted 4 0x10 0 7)))

/-! ## System and task forms -/

/-- 14 R290, 07 R151: TRAP is the fault 0x50 with its code; CSRRD emits a CSR as at map, TBASE the time, CSRWR its left token; FRET, BKPT, TLBINV,
CODESYNC, MLOG and CSRWR act at commit. Each draws 4. Each of the nine forms so completes wherever a firing of it goes through with an open gate:
TRAP by the fault that is its effect. -/
def Obligations.SystemForms : Prop :=
  ∀ (f : FmtY) s c tg cl g, c.mode false = .go g →
    let pend := fun (i : Instr) (a : Act) => Fires i s c → Covers c 4 → exec i s = .next (c.pending 4 a)
    let action := (optScalar c.l).toNat / 2 ^ 16 % 4
    (Fires (.trap f) s c → Covers c 4 → exec (.trap f) s = .next (c.faulted 4 0x50 0 (BitVec.ofNat 64 (f.imm.toNat % 2 ^ 16)))) ∧
    (action < 2 → pend (.fret f) (.fret ((optScalar c.l).toNat % 2048) action)) ∧
    (2 ≤ action → Fires (.fret f) s c → Covers c 4 → exec (.fret f) s = .next (c.taken 4)) ∧
    (Goes (.csrrd f) s c 4 tg cl → exec (.csrrd f) s = .next (c.emitted 4 tg cl (.scalar (csrValue c f.csr.toNat)) false .skip)) ∧
    (Goes (.csrwr f) s c 4 tg cl → exec (.csrwr f) s = .next (c.emitted 4 tg cl (.scalar (optScalar c.l)) false
      (addAct c.n c.ut c.q c.tag (.csrwr f.csr.toNat (if f.imm.getLsbD 67 then f.imm.setWidth 64 else optScalar c.l))))) ∧
    pend (.bkpt f) (.bkpt (f.imm.setWidth 16)) ∧
    (Goes (.tbase f) s c 4 tg cl → exec (.tbase f) s = .next (c.emitted 4 tg cl (.scalar s.tbase) false .skip)) ∧
    pend (.tlbinv f) (.tlbinv (f.imm.toNat / 2 ^ 66 % 4 = 1) (optScalar c.l).toNat) ∧
    pend (.codesync f) .codesync ∧ pend (.mlog f) (.mlog (f.imm.setWidth 16) (optScalar c.l))

/-- 07 R147–R151, 06 R114: the CSRs that CSRRD reads: the node's own name, the task, the time, and those that the block saw at its map: the status and
control registers, the charge, the format windows, the three monitors of its cluster with bit 63 where they have been sampled, the bad nodes, 64 to a word,
and the fault registers. -/
def Obligations.CsrValues : Prop :=
  ∀ c : Fx,
    let sn := c.m.snap
    csrValue c 0 = BitVec.ofNat 64 (c.n % 2048 + nodeX c.n * 2 ^ 11 + nodeY c.n * 2 ^ 17 + nodeDie c.n * 2 ^ 23 + nodeQuad c.n * 2 ^ 25 +
      nodeCluster c.n * 2 ^ 34 + c.s.hub.package * 2 ^ 41) ∧
    csrValue c 1 = BitVec.ofNat 64 (c.tid % 2 ^ 32) ∧ csrValue c 2 = sn.tbase ∧ csrValue c 0x10 = sn.fpstat ∧ csrValue c 0x11 = sn.jflags ∧
    csrValue c 0x12 = sn.rmode ∧ csrValue c 0x13 = BitVec.ofNat 64 sn.jord ∧ csrValue c 0x14 = sn.rngkey ∧ csrValue c 0x20 = sn.chgAllot ∧ csrValue c 0x21 = sn.chgDrawn ∧
    (∀ k, k < 8 → csrValue c (0x8000 + k) = sn.fs.getD k 0) ∧ (∀ k, k < 64 → csrValue c (0x100 + k) = sn.fwin.getD k 0) ∧
    (∀ k v ok, k < 3 → sn.mon[k]? = some (v, ok) → csrValue c (0x200 + k) = BitVec.ofNat 64 (v.toNat + if ok then 2 ^ 63 else 0)) ∧
    (∀ k b, k < 32 → b < 64 → (csrValue c (0x300 + k)).getLsbD b = sn.bad.contains (64 * k + b))

/-- 14 R287, R288: each TASK form's request waits for its block's commit. QPUSH, QPOP and TLAUNCH name a record that is aligned to 64, translated, plain and
readable, or writable for QPOP; CHGASK takes n from its card field or its token. Each draws 64. -/
def Obligations.TaskRequests : Prop :=
  ∀ (f : FmtE) s c g, c.mode false = .go g → Covers c 64 →
    let asks := fun (i : Instr) (r : HubReq) => Fires i s c → exec i s = .next (c.pending 64 (.hub r (deferOf c f.h.t0)))
    let a := (optScalar c.l).toNat
    (∀ w, a % 64 = 0 → a < 2 ^ 57 → c.xlate false a = .entry w → entryClass w = 0 →
      (entryRd w = true → asks (.qpush f) (.qpush f.chan.toNat c.t.asid a (entryPa w a)) ∧ asks (.tlaunch f) (.tlaunch c.t.asid a (entryPa w a))) ∧
      (entryWr w = true → asks (.qpop f) (.qpop f.chan.toNat a (entryPa w a)))) ∧
    (∀ i ∈ [Instr.qpush f, .qpop f, .tlaunch f], Fires i s c → ¬a % 64 = 0 → exec i s = .next (c.faulted 64 0x30 (optScalar c.l) 1)) ∧
    asks (.qstat f) (.qstat f.chan.toNat) ∧ asks (.chgrd f) .chgrd ∧
    asks (.chgask f) (.chgask (if f.card = 0 then a % 2 ^ 32 else f.card.toNat % 2 ^ 32))

/-! ## Engine forms -/

/-- 14 R270–R273, R291: an issuing form whose card keeps its limits takes the next SEQ, emits its ticket, to T1 only where FLAGS<0> asks for a completion
token, and hands the card over at commit; a card that breaks a limit is CARD_REFUSED with reason 1.
14 R277, R291: a COPY whose words or "—" bits break no limit is refused where its source and destination meet, its reins' bases added, and only there. -/
def Obligations.CardsIssue : Prop :=
  (∀ (f : FmtE) (i : Instr) (cls : Nat) s c g, (i, cls) ∈ [(Instr.copy f, 0), (.gather f, 1), (.coll f, 2), (.topk f, 3), (.mirror f, 4)] →
    c.mode false = .go g →
    let ws := (List.range 8).map fun w => Vec.lane (optBeat c.l 0) (2 * w + 1) ++ Vec.lane (optBeat c.l 0) (2 * w)
    let tk := vecData (ticketVec c.n c.nd.cards cls f.chan.toNat 0 false 0 0 false c.t.owner) 0xFFFF
    (∀ tg cl, c.cardOk cls ws = true → Goes i s c 64 tg cl →
      exec i s = .next (c.acted 64 (.all [takeClaim c.tid c.n c.ut cl, .upd (.node c.n fun nd => { nd with cards := nd.cards + 1 }),
        addAct c.n c.ut c.q c.tag (.card cls f.chan.toNat f.flags c.nd.cards ws (if f.flags.getLsbD 0 then c.h.t0 else 0) tg),
        Prog.when (!f.flags.getLsbD 0) (emitTo c.n c.ut c.q c.tag c.h.t0 (mkTok tg tk false)), emitTo c.n c.ut c.q c.tag c.h.t1 (mkTok tg tk false)]))) ∧
    (c.cardOk cls ws = false → Fires i s c → Covers c 64 → exec i s = .next (c.faulted 64 0x40 0 1))) ∧
  (∀ (c : Fx) (ws : CardWords), wordsOk 0 ws = true → word7Ok ws = true →
    let len := cf ws 2 0 40
    let at_ := fun (k : Nat) (on : Bool) (reg : Nat) => (cw ws k).toNat + if on then (reinVa c.s c.t.asid (c.rein (2 ^ 16) reg) 0).toNat else 0
    let a := at_ 0 (cardHvs ws) (cardHs ws)
    let b := at_ 1 (cardHvd ws) (cardHd ws)
    (c.cardOk 0 ws = true ↔ a + len ≤ b ∨ b + len ≤ a))

/-- 14 R271, R282, R283: the waiting and inspecting forms on a ticket that is the task's own emit the card's ticket as it stands: WPWAIT once its pointer
has come to p or the card is final, CWAIT once it is final, WPRD and CSTAT at once, CCANCEL after cancelling a card that is not final.
PTR is what has been performed: the least of the lines that still await an acknowledgement, where there are any (03 R78, 05 R91).
14 R282, R291: a ticket whose class, channel or owner is not the form's own is CARD_REFUSED with reason 2, for each form on a ticket. -/
def Obligations.TicketForms : Prop :=
  (∀ (f : FmtE) s c tg cl g (k : Nat) (x : Card), c.mode false = .go g →
    let v := optBeat c.l 0
    tkClass v = f.eng.toNat → tkChan v = f.chan.toNat → tkOwner v = c.t.owner % 1024 → namedCard c v = .card k x →
    let tells := fun (t : Vec) (acquire : Bool) (before : Prog) => c.emitted 64 tg cl (.beats [t] 0xFFFF) false (.all [before, .upd .fresh,
      Prog.when acquire (.upd (.node c.n fun nd => nd.l1Clear))])
    (Goes (.wpwait f) s c 64 tg cl → exec (.wpwait f) s = .next (if f.card.toNat % 2 ^ 40 ≤ x.done s k ∨ x.st.final = true then tells (x.ticket s k) true .skip else s)) ∧
    (Goes (.cwait f) s c 64 tg cl → exec (.cwait f) s = .next (if x.st.final = true then tells (x.ticket s k) true .skip else s)) ∧
    (Goes (.wprd f) s c 64 tg cl → exec (.wprd f) s = .next (tells (x.ticket s k) false .skip)) ∧
    (Goes (.cstat f) s c 64 tg cl → exec (.cstat f) s = .next (tells (x.ticket s k) false .skip)) ∧
    (Goes (.ccancel f) s c 64 tg cl → exec (.ccancel f) s = .next (if f.eng = 2 ∨ f.eng = 4 ∨ x.st.final = true then tells (x.ticket s k) false .skip
      else tells ({ x with st := .cancelled }.ticket s k) false (.all [onCard k fun y => { y with st := .cancelled, finAt := some s.ctr }, tellCard k, endKernel k])))) ∧
  (∀ (f : FmtE) s c g, ∀ i ∈ [Instr.wpwait f, .cwait f, .wprd f, .cstat f, .ccancel f], c.mode false = .go g → Fires i s c → Covers c 64 →
    ¬(tkClass (optBeat c.l 0) = f.eng.toNat ∧ tkChan (optBeat c.l 0) = f.chan.toNat ∧ tkOwner (optBeat c.l 0) = c.t.owner % 1024) →
    exec i s = .next (c.faulted 64 0x40 0 2)) ∧
  (∀ (s : State) (k : Nat) (x : Card), (x.ticket s k) = ticketVec x.node x.seq x.cls x.chan x.st.code x.fb (x.done s k) x.reason x.nv x.owner ∧
    x.done s k ≤ x.ptr ∧ (∀ w ∈ s.mirror, w.card = some k → x.done s k ≤ w.below) ∧
    ((∀ w ∈ s.mirror, w.card = some k → x.ptr ≤ w.below) → x.done s k = x.ptr))

/-! ## Memory, synchronisation and rein forms -/

/-- 13 R243–R246, R250, R269: LD, LDS and LDG, open and with every element's checks passed, are issued: their lines are asked for and the result comes with
the values. The draw is the L1 figure where every line is there and ORD lets it serve; ORD 11 waits first for the node's stores, for earlier iterations,
for the reads before it in its unit, and at domain scope for the mirror partners (05 R92). A gate that leaves a vector no lane resolves the LSID and emits
nothing (08 R173). That an acquire load is not served from the L1, and the draw of a gate that leaves no lane, are the model's reading (log 36). -/
def Obligations.LoadsIssue : Prop :=
  ∀ (f : FmtM) s c g es, ∀ i ∈ [Instr.ld f, .lds f, .ldg f], MemOpen i f c false g → Fires i s c →
    let ready := ¬f.ord = 3 ∨ (c.nd.quiet = true ∧ earlierPerformed c = true ∧ lowerReads c f.lsid.toNat = true ∧
      (¬f.scope = 5 ∨ mirrorPending c.s c.n = false))
    let noLane := ¬f.h.plane = 0 ∧ ¬f.h.pmode = 0 ∧ activeLanes i c g = 0
    let l1 := !(decide (f.ord = 1) || decide (f.ord = 3))
    let figure := fun (hit : Bool) => (if f.h.plane = 2 then c.k + 1 else 1) * (if f.h.plane = 0 then (if hit then 12 else 48) else if hit then 32 else 128)
    let draw := figure (l1 && es.all fun e => (c.nd.l1Line (lineOf e.pa)).isSome)
    (¬ready → exec i s = .next s) ∧
    (ready → noLane → Covers c (figure l1) → exec i s = .next (c.acted (figure l1) (c.resolve f.lsid.toNat .done none))) ∧
    (ready → ¬noLane →
      checkLocs c (loadNeed (tyBytes f.ty)) (f.hv = 1) (isStream i f) (c.rein f.lsid.toNat f.hreg.toNat) (tyBytes f.ty) (formLocs i f c g) = .ok es →
      Covers c draw → exec i s = .next (c.acted draw (issueLoad i c f (isStream i f) es none l1)))

/-- 13 R251, R269: ST, STS and STG, open and with every element's checks passed, make their bytes pending under their LSID and emit their left operand; STG
takes its data from slot 11. Nothing is stored before the commit. -/
def Obligations.StoresPend : Prop :=
  ∀ (f : FmtM) s c g tg cl es,
    let draw := (if f.h.plane = 2 then c.k + 1 else 1) * (if f.h.plane = 0 then 48 else 128)
    let pends := fun (i : Instr) (dp : Bool) (data : Option Tok) => MemOpen i f c dp g →
      checkLocs c (storeNeed (tyBytes f.ty)) (f.hv = 1) (isStream i f) (c.rein f.lsid.toNat f.hreg.toNat) (tyBytes f.ty) (formLocs i f c g) = .ok es →
      Goes i s c draw tg cl → exec i s = .next (c.emitted draw tg cl (.scalar (optScalar c.l)) false (.all [noteXlate c (isStream i f) es,
        c.resolve f.lsid.toNat .pending (some (.store f.lsid.toNat f.ord f.scope (.bytes (es.map fun e =>
          (e, toBytes (tyBytes f.ty) (if c.h.plane = 0 then (optScalar data).toNat else (Vec.lane (optBeat data e.coef) e.lane).toNat))) (f.low.extractLsb' 29 2))))]))
    pends (.st f) false c.r ∧ pends (.sts f) false c.r ∧ pends (.stg f) true c.p

/-- 13 R243, R246, R253; 22 R363: a scalar element through no rein is checked in turn: an address that is not a multiple of its width is ADDRESS_FAULT with
reason 1, one with a bit above 56 reason 6, and one on an unmapped page is held there; the page is not read and nothing is stored.
04 R86, R88; 13 R266: where the source does not allow what is asked (a number above 40 bits, no SPL right, a cut or a span outside the rein, a right that it
has not, no such arena, no SEND right) the rein form is WIDEN (0x32). -/
def Obligations.AddressChecks : Prop :=
  (∀ (f : FmtM) s c g, f.h.plane = 0 → f.hv = 0 → (f.ord = 3 → c.nd.quiet = true ∧ earlierPerformed c = true ∧ lowerReads c f.lsid.toNat = true ∧ mirrorPending c.s c.n = false) →
    let va := ((optScalar c.l) + f.off.signExtend 64).toInt
    let w := tyBytes f.ty
    ∀ e ∈ [(Instr.ld f, 48, false), (.st f, 48, true)], MemOpen e.1 f c false g → Fires e.1 s c → Covers c e.2.1 →
      (¬va % w = 0 → exec e.1 s = .next (c.faulted e.2.1 0x30 (BitVec.ofInt 64 va) 1)) ∧
      (va % w = 0 → (va < 0 ∨ 2 ^ 57 ≤ va) → exec e.1 s = .next (c.faulted e.2.1 0x30 (BitVec.ofInt 64 va) 6)) ∧
      (va % w = 0 → 0 ≤ va → va < 2 ^ 57 → c.xlate (isStream e.1 f) va.toNat = .fault →
        exec e.1 s = .next ((holdPage c.n va.toNat e.2.2 false false c.q c.tag).run s))) ∧
  (∀ (f : FmtM) s c g, Covers c 64 →
    let r := if f.hv = 1 then c.rein f.lsid.toNat f.hreg.toNat else tokRein c.l
    let x := (optScalar c.l).toNat
    let y := (optScalar c.r).toNat
    let widens := fun (i : Instr) => MemOpen i f c false g → Fires i s c → exec i s = .next (c.faulted 64 0x32 0 (BitVec.ofNat 64 c.q))
    (2 ^ 40 ≤ x ∨ 2 ^ 40 ≤ y ∨ y % 1024 = 1023 ∨ c.s.arena c.t.asid (y % 1024) = none → widens (.reinmk f)) ∧
    (r.getLsbD 98 = false → widens (.reindup f)) ∧
    (2 ^ 40 ≤ x ∨ r.getLsbD 98 = false ∨ rLen r < x → widens (.reinspl f)) ∧
    (2 ^ 40 ≤ x ∨ 2 ^ 40 ≤ y ∨ y < x ∨ (x < 2 ^ 40 ∧ y < 2 ^ 40 ∧ rLen r < y) ∨ ¬field f.low 22 4 &&& (15 - rRights r) = 0 → widens (.reinnar f)) ∧
    (f.h.t0 = 0 → r.getLsbD 99 = false ∨ 2 ^ 35 ≤ y → widens (.reinsend f)))

/-- 13 R250, R251, R253: LDSP reads the quad's scratchpad, with the node's own committed stores in view, and emits at once; STSP makes its bytes pending; an
element that is misaligned or outside the first 768 KiB is ADDRESS_FAULT. A gate that leaves LDSP no lane resolves its LSID and emits nothing. -/
def Obligations.ScratchpadForms : Prop :=
  ∀ (f : FmtM) s c g tg cl,
    let w := tyBytes f.ty
    let draw := (if f.h.plane = 2 then c.k + 1 else 1) * (if f.h.plane = 0 then 12 else 32)
    let ok := fun (i : Instr) => ∀ l ∈ formLocs i f c g, l.rel % w = 0 ∧ 0 ≤ l.rel ∧ l.rel + w ≤ 0xC0000
    let noLane := ¬f.h.plane = 0 ∧ ¬f.h.pmode = 0 ∧ activeLanes (.ldsp f) c g = 0
    (MemOpen (.ldsp f) f c false g → Goes (.ldsp f) s c draw tg cl →
      (noLane → exec (.ldsp f) s = .next (c.acted draw (c.resolve f.lsid.toNat .done none))) ∧
      (¬noLane → ok (.ldsp f) → exec (.ldsp f) s = .next (c.emitted draw tg cl (loadResult c.h.plane.toNat c.k f.ty
        ((formLocs (.ldsp f) f c g).map fun l => (l.lane, l.coef, ofBytes ((List.range w).map fun b => c.nd.padByte s (nodeQuad c.n) (l.rel.toNat + b))))) false
        (c.resolve f.lsid.toNat .done none)))) ∧
    (MemOpen (.stsp f) f c false g → ok (.stsp f) → Goes (.stsp f) s c draw tg cl → exec (.stsp f) s = .next (c.emitted draw tg cl (.scalar (optScalar c.l)) false
      (c.resolve f.lsid.toNat .pending (some (.store f.lsid.toNat 0 0 (.scratch ((formLocs (.stsp f) f c g).map fun l =>
        (l.rel.toNat, toBytes w (if c.h.plane = 0 then (optScalar c.r).toNat else (Vec.lane (optBeat c.r l.coef) l.lane).toNat))))))))) ∧
    ∀ i ∈ [Instr.ldsp f, .stsp f], MemOpen i f c false g → ∀ l ∈ formLocs i f c g, f.h.plane = 0 → Fires i s c → Covers c draw →
      (¬l.rel % w = 0 → exec i s = .next (c.faulted draw 0x30 (BitVec.ofInt 64 l.rel) 1)) ∧
      (l.rel % w = 0 → (l.rel < 0 ∨ 0xC0000 < l.rel + w) → exec i s = .next (c.faulted draw 0x30 (BitVec.ofInt 64 l.rel) 2))

/-- 13 R258–R263: LDV is issued to wait at the home slice for its version; STV, RECLAIM, ATOM and CAS, their word checked, make their write pending. Only
RECLAIM emits a token, its left operand; the others answer through the deferred register of T0. ATOM and CAS need their page writable (03 R62), not readable.
13 R262, R263; 02 R39: what an atomic of the spec's functions 0 to 8 leaves in its word and gives back, in both widths: integer functions wrap, minimum
and maximum are signed or not, the compare-and-swap stores only on a match, and a 4-byte old word comes back sign-extended. -/
def Obligations.SyncForms : Prop :=
  (∀ (f : FmtM) s c g tg cl (e : Elem),
    let w := tyBytes f.ty
    let check := fun (nd : Need) (n : Nat) => checkLocs c nd (f.hv = 1) false (c.rein f.lsid.toNat f.hreg.toNat) n [⟨0, 0, relOf c f⟩] = .ok [e]
    let pends := fun (i : Instr) (op : StoreOp) => Fires i s c → Covers c 64 → exec i s = .next (c.acted 64 (.all [noteXlate c false [e],
      c.resolve f.lsid.toNat .pending (some (.store f.lsid.toNat f.ord f.scope op))]))
    (MemOpen (.ldv f) f c false g → check ⟨8, true, false, true, true⟩ 8 →
      (2 ≤ f.ord.toNat → c.nd.quiet = true ∧ earlierPerformed c = true ∧ lowerReads c f.lsid.toNat = true ∧ (¬f.scope = 5 ∨ mirrorPending c.s c.n = false)) → Fires (.ldv f) s c → Covers c 64 →
      exec (.ldv f) s = .next (c.acted 64 (issueLoad (.ldv f) c f false [e] (some ((optScalar c.r).toNat % 2 ^ 32)) false))) ∧
    (MemOpen (.stv f) f c false g → check ⟨8, false, true, true, true⟩ 8 →
      pends (.stv f) (.stv e (optScalar c.r) (f.low.toNat / 2 ^ 15 % 2 ^ 16) (deferOf c f.h.t0))) ∧
    (MemOpen (.reclaim f) f c false g → check ⟨8, false, true, true, true⟩ 8 →
      Goes (.reclaim f) s c 64 tg cl → exec (.reclaim f) s = .next (c.emitted 64 tg cl (.scalar (optScalar c.l)) false (.all [noteXlate c false [e],
        c.resolve f.lsid.toNat .pending (some (.store f.lsid.toNat f.ord f.scope (.reclaim e ((optScalar c.r).toNat % 2 ^ 32))))]))) ∧
    (MemOpen (.atom f) f c false g → check ⟨w, false, true, false, true⟩ w →
      pends (.atom f) (.rmw e (.atom (f.low.extractLsb' 27 4) f.ty (optScalar c.r)) (deferOf c f.h.t0))) ∧
    (MemOpen (.cas f) f c true g → check ⟨w, false, true, false, true⟩ w →
      pends (.cas f) (.rmw e (.cas f.ty (optScalar c.r) (optScalar c.p)) (deferOf c f.h.t0)))) ∧
  (∀ (ty : BitVec 4) (old : Nat) (x e n : Word), (ty = 3 ∨ ty = 4) →
    let w := if ty = 4 then 64 else 32
    let v := x.toNat % 2 ^ w
    let new := fun (fn : BitVec 4) => (rmwApply (.atom fn ty x) old).1
    let lt := fun (a b : Nat) => (BitVec.ofNat w a).slt (BitVec.ofNat w b)
    old < 2 ^ w →
    new 0 = (old + v) % 2 ^ w ∧ new 1 = old &&& v ∧ new 2 = old ||| v ∧ new 3 = old ^^^ v ∧ new 4 = v ∧
    new 5 = (if lt v old then v else old) ∧ new 6 = (if lt old v then v else old) ∧ new 7 = min old v ∧ new 8 = max old v ∧
    (rmwApply (.cas ty e n) old).1 = (if old = e.toNat % 2 ^ w then n.toNat % 2 ^ w else old) ∧
    (∀ r : Rmw, (r = .atom 0 ty x ∨ r = .cas ty e n) → (rmwApply r old).2 * 8 = w ∧ rmwResult (w / 8) old r = (BitVec.ofNat w old).signExtend 64))

/-- 13 R254–R257: PREF resolves its LSID and fetches its lines; NULLST resolves the LSID that it names; L1INV drops the lines of its address, mapped or
not; FENCE waits for what it orders and then resolves, and an acquiring one empties the L1. -/
def Obligations.MemoryCares : Prop :=
  ∀ (f : FmtM) s c g,
    let set := fun (st : LState) => c.resolve f.lsid.toNat st none
    let addr := (optScalar c.l) + f.off.signExtend 64
    let va := addr.toNat
    let drop := fun (gone : L1Line → Bool) => exec (.l1inv f) s = .next (c.acted 4 (.seq (set .done)
      (.upd (.node c.n fun nd => { nd with l1 := nd.l1.filter fun x => !(x.vline == va / 128 || gone x) }))))
    let ready := lowerDone f c = true ∧ (if f.ord = 1 then c.nd.atomicLeft = false else c.nd.quiet = true) ∧ (¬f.scope = 5 ∨ mirrorPending c.s c.n = false)
    (MemOpen (.pref f) f c false g → Fires (.pref f) s c → Covers c 48 → exec (.pref f) s = .next (c.acted 48 (.seq (set .done)
      (Prog.each (List.range (f.low.toNat / 2 ^ 21 % 2 ^ 8 + 1)) fun k => let a := (va / 128 + k) * 128
        Prog.when (a < 2 ^ 57) (prefLine c (f.low.toNat / 2 ^ 29 % 4 = 1) a))))) ∧
    (MemOpen (.l1inv f) f c false g → Fires (.l1inv f) s c → Covers c 4 →
      (2 ^ 57 ≤ va → exec (.l1inv f) s = .next (c.faulted 4 0x30 addr 6)) ∧
      (f.hv = 0 → va < 2 ^ 57 → (∀ w, translate s (nodeDie c.n) c.t.asid va = .entry w → drop fun x => x.line == lineOf (entryPa w va)) ∧
        (translate s (nodeDie c.n) c.t.asid va = .fault → drop fun _ => false))) ∧
    (MemOpen (.fence f) f c false g → Fires (.fence f) s c → (¬ready → exec (.fence f) s = .next s) ∧
      (ready → Covers c 4 → exec (.fence f) s = .next (c.acted 4 (.seq (set .done) (if f.ord = 1 ∨ f.ord = 3 then .upd (.node c.n fun nd => nd.l1Clear) else .skip))))) ∧
    (c.mode false = .go g → Fires (.nullst f) s c → Covers c 4 → exec (.nullst f) s = .next (c.acted 4 (onUnit c.n c.ut fun u =>
      if (u.lsid f.lsid.toNat).resolved = true then u else u.setLsid f.lsid.toNat .nulled)))

/-- 13 R245, R248, R255; 08 R171: an LSID holder whose LSID is nulled or that meets a null operand makes no access: it resolves its LSID and emits null tokens
of the plane that it emits; one whose gate is closed resolves it and emits nothing; one that a lower holder holds back waits.
The draws of a nulled or closed REIN or SYNC holder are the model's reading (log 36). -/
def Obligations.HoldersWithoutAccess : Prop :=
  ∀ (f : FmtM) (i : Instr) s c tg cl, isForm i = true → i.body = .m f → ¬i.opc = 0x189 →
    let dp := decide (i.opc = 0x185 ∨ i.opc = 0x1A4)
    let draw := if f.h.plane = 0 then 4 else 24 * (if f.h.plane = 2 then c.k + 1 else 1)
    let resolve := onUnit c.n c.ut fun u => if (u.lsid f.lsid.toNat).resolved then u else u.setLsid f.lsid.toNat .nulled
    (c.u.lsid f.lsid.toNat = .nulled ∨ c.mode dp = .null → Goes i s c draw tg cl →
      exec i s = .next (c.emitted draw tg cl (nullData ((outPlanes i).headD f.h.plane.toNat) c.k) true resolve)) ∧
    (¬c.u.lsid f.lsid.toNat = .nulled → c.mode dp = .closed → Fires i s c → Covers c draw → exec i s = .next (c.acted draw resolve)) ∧
    (∀ g, ¬c.u.lsid f.lsid.toNat = .nulled → c.mode dp = .go g → heldByOrder i c f.lsid.toNat = true → Fires i s c → exec i s = .next s)

/-- 04 R86, 13 R264–R267: the rein forms on a source of which they may make what they ask: REINMK the lowest free run of an arena, REINDUP a copy, REINSPL two
parts, REINNAR a narrower span with fewer rights, REINDROP nothing; each resolves its LSID, writes its registers and notes the change of coverage.
REINQ gives BASE to T0 and LEN with the rights to T1; REINSEND hands the rein to a port of the task or, with the SEND right, to a rein input of another
task. -/
def Obligations.ReinsAreMade : Prop :=
  ∀ (f : FmtM) s c g tg cl,
    let r := if f.hv = 1 then c.rein f.lsid.toNat f.hreg.toNat else tokRein c.l
    let x := (optScalar c.l).toNat
    let y := (optScalar c.r).toNat
    let hb := field f.low 26 5
    let done := c.resolve f.lsid.toNat .done none
    let len := fun (z : Quad) => TokData.scalar (BitVec.ofNat 64 (rLen z))
    let goes := fun (i : Instr) => MemOpen i f c false g ∧ Goes i s c 64 tg cl
    let emit := fun (t : BitVec 12) (d : TokData) => emitTo c.n c.ut c.q c.tag t (mkTok tg d false)
    ((∀ a, y < 2 ^ 40 → y % 1024 < 1023 → c.s.arena c.t.asid (y % 1024) = some a → x < 2 ^ 40 → goes (.reinmk f) →
      (x = 0 ∨ a.size / 4096 < (x + 4095) / 4096 ∨ freeRun a ((x + 4095) / 4096) = none → exec (.reinmk f) s = .next (c.emitted 64 tg cl (len 0) false
        (.seq done (putRein c f f.hreg.toNat 0 false)))) ∧
      (∀ first, ¬x = 0 → (x + 4095) / 4096 ≤ a.size / 4096 → freeRun a ((x + 4095) / 4096) = some first →
        let z := mkRein (y % 1024) a.gen.toNat 15 (first * 4096) x
        exec (.reinmk f) s = .next (c.emitted 64 tg cl (len z) false (.all [done, putRein c f f.hreg.toNat z false,
          noteCover c (.mk (y % 1024) first ((x + 4095) / 4096)), onUnit c.n c.ut fun u => { u with claims := .run (y % 1024) first ((x + 4095) / 4096) :: u.claims },
          onArena c.t.asid (y % 1024) fun a => { a with taken := a.taken ++ (List.range ((x + 4095) / 4096)).map (first + ·) }])))) ∧
    (r.getLsbD 98 = true → goes (.reindup f) → exec (.reindup f) s = .next (c.emitted 64 tg cl (len r) false
      (.all [done, putRein c f hb r false, noteCover c (.inc (reinSpan r).1 (reinSpan r).2.1 (reinSpan r).2.2)]))) ∧
    (r.getLsbD 98 = true → x < 2 ^ 40 → x ≤ rLen r → goes (.reinspl f) →
      let lo := mkRein (rArena r) (rGen r) (rRights r) (rBase r) x
      exec (.reinspl f) s = .next (c.emitted 64 tg cl (len lo) false (.all [done, putRein c f f.hreg.toNat lo true,
        putRein c f hb (mkRein (rArena r) (rGen r) (rRights r) (rBase r + x) (rLen r - x)) false,
        Prog.when (0 < x && x < rLen r && !((rBase r + x) % 4096 = 0)) (noteCover c (.inc (rArena r) ((rBase r + x) / 4096) 1))]))) ∧
    (x < 2 ^ 40 → y < 2 ^ 40 → x ≤ y → y ≤ rLen r → field f.low 22 4 &&& (15 - rRights r) = 0 → goes (.reinnar f) →
      let z := mkRein (rArena r) (rGen r) (rRights r &&& field f.low 22 4) (rBase r + x) (y - x)
      let now := granules (rBase r + x) (y - x)
      exec (.reinnar f) s = .next (c.emitted 64 tg cl (len z) false (.all [done, putRein c f f.hreg.toNat z true,
        Prog.when (!((reinSpan r).1 = 0)) (Prog.each (leaving (reinSpan r).1 (reinSpan r).2.1 (reinSpan r).2.2 now.1 now.2) fun cv => noteCover c cv)]))) ∧
    (goes (.reindrop f) → exec (.reindrop f) s = .next (c.emitted 64 tg cl (.scalar 0) false (.all [done,
      Prog.when (f.hv = 1) (putRein c f f.hreg.toNat 0 true),
      Prog.when (!((reinSpan r).1 = 0)) (noteCover c (.dec (reinSpan r).1 (reinSpan r).2.1 (reinSpan r).2.2))])))) ∧
    (goes (.reinq f) → exec (.reinq f) s = .next (c.acted 64 (.all [takeClaim c.tid c.n c.ut cl, done,
      Prog.when (f.hv = 0) (putRein c f f.hreg.toNat r false), emit c.h.t0 (.scalar (BitVec.ofNat 64 (rBase r))),
      emit c.h.t1 (.scalar (BitVec.ofNat 64 (rLen r + rRights r * 2 ^ 60)))]))) ∧
    (¬f.h.t0 = 0 → goes (.reinsend f) → exec (.reinsend f) s = .next (c.acted 64 (.all [takeClaim c.tid c.n c.ut cl, done,
      Prog.when (f.hv = 1) (putRein c f f.hreg.toNat 0 true),
      emitTo c.n c.ut c.q c.tag c.h.t0 { mkTok tg (vecData (reinVec r) 0xFFFF) false with rein := true }]))) ∧
    (f.h.t0 = 0 → r.getLsbD 99 = true → (optScalar c.r).toNat < 2 ^ 35 → MemOpen (.reinsend f) f c false g → Fires (.reinsend f) s c → Covers c 64 →
      exec (.reinsend f) s = .next (c.acted 64 (.all [done, Prog.when (f.hv = 1) (putRein c f f.hreg.toNat 0 true),
        addAct c.n c.ut c.q c.tag (.reinTo ((optScalar c.r).toNat % 2 ^ 32) ((optScalar c.r).toNat / 2 ^ 32) r)])))

/-! ## Matrix forms -/

/-- 12 R237, R238; 24 R403: the tile forms pass their trigger on and act at commit; ACCRD waits for an armed tile, reads half a row as TY, and kills its
task on a row whose checksum is wrong; ACCCHK emits the mask of such rows and reports them. Each draws 24.
12 R229, R238: in a tile whose cells and checksums are canonical and whose rows all agree with their checksums, writing a cell keeps every row so and reads
back; transposing a tile swaps its cells. -/
def Obligations.TileForms : Prop :=
  (∀ (f : FmtX) s c tg cl g, c.mode false = .go g →
    let x := (c.l.map fun t => t.data).getD (.scalar 0)
    let acts := fun (i : Instr) (a : Act) => Goes i s c 24 tg cl → exec i s = .next (c.emitted 24 tg cl x false (addAct c.n c.ut c.q c.tag a))
    let t := c.nd.tile f.acc.toNat
    let row := field f.low 59 5
    let rm := if field f.low 51 3 = 6 then c.m.snap.rmode.toNat % 8 else field f.low 51 3
    let out := fun (l : Nat) => Num.cvt 32 (field f.low 54 4) (if t.ty = .int32 then 3 else 9) rm (field f.low 50 1 = 1) (t.cell row (16 * field f.low 58 1 + l)).toNat
    let flags := (List.range 16).map fun l => (l, 0, (out l).2)
    acts (.accclr f) (.accClr f.acc.toNat) ∧ acts (.accarm f) (.accArm f.acc.toNat (f.low.toNat % 2 ^ 32)) ∧
    acts (.accrel f) (.accRel f.acc.toNat) ∧ acts (.mtrans f) (.mtrans f.acc.toNat) ∧
    ((∃ n, t.arm = .armed n) → Fires (.accrd f) s c → exec (.accrd f) s = .next s) ∧
    ((∀ n, ¬t.arm = .armed n) →
      (t.rowBad row = true → Fires (.accrd f) s c → Covers c 24 → exec (.accrd f) s = .next (c.acted 24 (.seq
        (report c.n (mkFault c.nd 0x72 c.q c.tag 0 (BitVec.ofNat 64 (f.acc.toNat + 2 ^ row * 2 ^ 32))) (some 1)) (killTask c.tid)))) ∧
      (t.rowBad row = false → Goes (.accrd f) s c 24 tg cl → exec (.accrd f) s = .next
        (if traps c.h flags = true then c.faulted 24 0x20 0 (trapInfo (c.h.plane = 2) flags)
         else c.emitted 24 tg cl (.beats [(List.range 16).map fun l => BitVec.ofNat 32 (out l).1] 0xFFFF) false (noteFlags c flags)))) ∧
    (Goes (.accchk f) s c 24 tg cl → exec (.accchk f) s = .next (c.emitted 24 tg cl
      (.beats [Vec.mk fun l => if l = 0 then BitVec.ofNat 32 t.badRows else 0] 0xFFFF) false
      (Prog.when (!(t.badRows = 0)) (report c.n (mkFault c.nd 0x72 c.q c.tag 0 (BitVec.ofNat 64 (f.acc.toNat + t.badRows * 2 ^ 32))) (some 0)))))) ∧
  (∀ (t : Tile) (i j : Nat) (x : Lane), i < 32 → j < 32 → Sparse.wf 0 t.cells = true → Sparse.wf 0 t.ck = true → (∀ r, t.rowBad r = false) →
    (∀ r, (t.setCell i j x).rowBad r = false) ∧ (t.setCell i j x).cell i j = x ∧
    (∀ k l, k < 32 → l < 32 → ¬(k = i ∧ l = j) → (t.setCell i j x).cell k l = t.cell k l) ∧ t.trans.cell i j = t.cell j i)

/-- 12 R231–R233, R242: MMAT whose two operands can be read, each under one tag and the pair one that the unit multiplies, reads the lines that its L1 lacks
and makes the product pending, drawing 720 for each step, times (k + 1)(k + 2)/2 where PLANESTRIDE is not 0.
12 R239, R242: TFETCH whose rows can be read reads the lines that its L1 lacks, makes the pin's rows pending and passes its left operand on, drawing
for each row the L1 figure where its line is there. -/
def Obligations.MatrixIssues : Prop :=
  (∀ (f : FmtX) s c g (a b : MatSrc) (ta tb : BitVec 4) (ty : TileTy), c.mode false = .go g →
    let ks := f.ksteps.toNat + 1
    let jet := !decide (f.pstride = 0)
    let np := if jet then c.k + 1 else 1
    let draw := 720 * ks * (if f.pstride = 0 then 1 else (c.k + 1) * (c.k + 2) / 2)
    let ra := srcRows c.s c.nd (4 * ks) a
    let rb := srcRows c.s c.nd (4 * ks) b
    let es := a.elems ++ b.elems
    matSrc c f.acc.toNat ks f.pstride.toNat np (field f.low 14 2) c.l = a → matSrc c f.acc.toNat ks f.pstride.toNat np (field f.low 12 2) c.r = b →
    ((∃ rs, a = .rows rs) ∨ ∃ es, a = .mem es) → ((∃ rs, b = .rows rs) ∨ ∃ es, b = .mem es) →
    readGate c draw (missing c.nd es) = none → halfCross c.s c.nd (4 * ks) es = false → oneTag ra = some ta → oneTag rb = some tb → pairTy ta tb jet = some ty →
    Fires (.mmat f) s c → Covers c draw →
    exec (.mmat f) s = .next (c.acted draw (.seq (noteXlate c false es) (readLines c es
      (addAct c.n c.ut c.q c.tag (.mmat f.acc.toNat ks (np - 1) ⟨ta, ra⟩ ⟨tb, rb⟩ jet c.h)))))) ∧
  (∀ (f : FmtX) s c g tg cl (d : Desc) (es : List Elem), c.mode false = .go g → descOf (optBeat c.l 0) = some d →
    memRows c 0 64 d ((List.range (field f.low 48 14 + 1)).map fun q => (q, 0)) 0 = .mem es →
    readGate c (tfetchDraw c.nd es []) (missing c.nd es) = none → halfCross c.s c.nd 64 es = false →
    Goes (.tfetch f) s c (tfetchDraw c.nd es []) tg cl →
    exec (.tfetch f) s = .next (c.acted (tfetchDraw c.nd es []) (readLines c es (.all [.all [noteXlate c false es,
      addAct c.n c.ut c.q c.tag (.tfetch (field f.low 62 2) (srcRows c.s c.nd 64 (.mem es)))], takeClaim c.tid c.n c.ut cl,
      c.emit tg ((c.l.map fun t => t.data).getD (.scalar 0)) false]))))

/-! ## What firings leave as it was; faults; commits -/

/-- 01 R17, 05 R91: no firing stores. Every form but PREF, MMAT and TFETCH, which read lines from memory, leaves every byte of memory and of the L2,
poison, held lines, page tables and versions as they were, and every form leaves the scratchpads so, unless it ends a task (06 R119). -/
def Obligations.FiringsStoreNothing : Prop :=
  ∀ (i : Instr) (s t : State), isForm i = true → exec i s = .next t → NoneEnds s t →
    t.pads = s.pads ∧ t.tbase = s.tbase ∧ t.power = s.power ∧
    ((∀ f, i ≠ .pref f) → (∀ f, i ≠ .mmat f) → (∀ f, i ≠ .tfetch f) →
      t.tables = s.tables ∧ t.vers = s.vers ∧ t.mem = s.mem ∧ t.l2 = s.l2 ∧ t.poison = s.poison ∧ t.held = s.held ∧ ∀ a, t.byteNow a = s.byteNow a)

/-- 01 R17, R19: no firing of any form writes an S, V, predicate or H register, a tile, a pin, FPSTAT, JFLAGS, RMODE, JORD or RNGKEY of any node: what it
writes waits for the commit. A firing that ends a task clears that task's nodes (06 R119). -/
def Obligations.FiringsWriteNoRegister : Prop :=
  ∀ (i : Instr) (s t : State), isForm i = true → exec i s = .next t → NoneEnds s t → ∀ n, (t.node n).SameRegs (s.node n)

/-- 22 R361, R362, 07 R150, 14 R290: a fault found while a block is mapped stands in the block, and nothing else changes; where the faults of a block
are settled, the one with the lowest index, then tag, is recorded unless one is recorded already, every one is reported to the Farrier, and the block is
discarded without writing a register. FRET with action 0 clears V and goes on at FSPC, FSPEND standing until the fetch (22 R364); with action 1 it ends
the task. That every fault found is reported, not the recorded one alone, is the model's reading (log 71). -/
def Obligations.FaultsAreTaken : Prop :=
  ∀ (s : State) (n : Nat), s.Canonical → n < 2048 →
    let a := s.node n
    (∀ m f, a.cur = some m → (takeFault n f).run s = (Prog.upd (.node n fun nd => { nd with cur := some (m.fail f) })).run s ∧
      (m.fail f).faults = m.faults ++ [f] ∧ (m.fail f).units = m.units) ∧
    (∀ m f fs, a.cur = some m → orderFaults m.faults = f :: fs →
      let t := (settleFaults n).run s
      let b := t.node n
      f ∈ m.faults ∧ (∀ g ∈ m.faults, f.place * 2 ^ 20 + f.tag.toNat ≤ g.place * 2 ^ 20 + g.tag.toNat) ∧
      b.cur = none ∧ b.fetched = none ∧ b.loads = [] ∧ b.ctxs = a.ctxs ∧ b.wq = a.wq ∧ b.SameRegs a ∧
      t.hub.reports = s.hub.reports ++ (f :: fs).map (reportOf s n) ∧
      (bit a.fs.code 63 = true → b.fs = a.fs) ∧
      (bit a.fs.code 63 = false → b.fs.code = BitVec.ofNat 64 (2 ^ 63 + f.place % 256 * 2 ^ 16 + f.code % 2 ^ 16) ∧ b.fs.pc = f.pc.setWidth 64 ∧
        b.fs.tag = f.tag.setWidth 64 ∧ b.fs.addr = f.addr ∧ b.fs.info = f.info)) ∧
    (∀ c, bit a.fs.code 63 = true → a.task.isSome = true → Sparse.wf Ctx.reset a.ctxs = true → (((discardBlock n).run s).node n).nextCtx = some c →
      let b := ((farrierReturn n 0).run s).node n
      bit b.fs.code 63 = false ∧ b.fs.pend = a.fs.pend ∧ b.cur = none ∧ (b.ctx c).pc = a.fs.pc.setWidth 58 ∧ b.SameRegs a) ∧
    (∀ tid, bit a.fs.code 63 = true → a.task = some tid → (s.task tid).isSome = true → ((farrierReturn n 1).run s).ending tid)

/-- 08 R169; 07 R147, R151; 10 R215: at a commit an S register takes the last value that its unit writes to it, unless a header entry defers it, and keeps
its value where no action names it; RMODE, JORD and RNGKEY take what CSRWR and JORD.SET write, FPSTAT and JFLAGS gain the unit's flags.
08 R169, R170; 04 R85, R87: a V register, or one of a jet group, takes the last beats written to it, a P register what PUTG writes, an H register what the rein form
of the highest LSID made of it, each otherwise keeping its value; tiles and pins are those that the unit's matrix actions leave (12 R241). -/
def Obligations.CommitsWriteRegisters : Prop :=
  (∀ (c : Commit) (base : Nat) (late : Bool) (nd : Node) (r : Nat), Sparse.wf SReg.reset nd.s = true → r < 64 →
    let t := commitNode c base late nd
    let names := fun (a : PAct) => (∃ v n, a.act = .regWrite r v n) ∨ (∃ v, a.act = .putg r v) ∨ a.act = .empty r
    let held := fun (l : List PAct) => ∀ a ∈ l, ¬names a
    let writes := fun (a : PAct) (w : Word) => a.act = .regWrite r (.scalar w) false ∨ a.act = .putg r (.scalar w)
    (∀ d ∈ deferred c.m base c.acts, d.2.reg ≠ r) →
    ((c.m.loop = true ∨ r ∉ c.m.takes) → held c.acts → t.sreg r = nd.sreg r) ∧
    (∀ l k a w, c.acts = l ++ a :: k → writes a w → defers c.m r = false → held k → t.sreg r = ⟨w, true, true⟩) ∧
    (∀ l k q g, c.acts = l ++ ⟨q, g, .empty r⟩ :: k → (∀ a ∈ c.acts, (∀ v n, a.act ≠ .regWrite r v n) ∧ ∀ v, a.act ≠ .putg r v) →
      (t.sreg r).full = false ∧ (t.sreg r).val = (nd.sreg r).val) ∧
    ((∀ a ∈ c.acts, ∀ x w, a.act ≠ .csrwr x w) → (∀ a ∈ c.acts, ∀ k, a.act ≠ .jordSet k) → (∀ a ∈ c.acts, ∀ m, a.act ≠ .jflagClr m) →
      t.fpstat = nd.fpstat ||| c.fp.setWidth 64 ∧ t.jflags = nd.jflags ||| c.jet ∧ t.rmode = nd.rmode ∧ t.jord = nd.jord ∧ t.rngkey = nd.rngkey) ∧
    (∀ q g x w, c.acts = [⟨q, g, .csrwr x w⟩] →
      (x = 0x12 → t.rmode = if w.toNat % 8 ≤ 4 then w &&& 7 else nd.rmode) ∧ (x = 0x13 → t.jord = w.toNat % 8) ∧ (x = 0x14 → t.rngkey = w) ∧
      (x = 0x10 → t.fpstat = (w &&& 0x1F) ||| c.fp.setWidth 64) ∧ (x = 0x8004 → t.fs.info = w)) ∧
    (∀ q g k, c.acts = [⟨q, g, .jordSet k⟩] → t.jord = k % 8)) ∧
  (∀ (c : Commit) (base : Nat) (late : Bool) (nd : Node), Sparse.wf VReg.reset nd.v = true → Sparse.wf 0 nd.p = true → Sparse.wf 0 nd.h = true →
    let t := commitNode c base late nd
    let writesV := fun (a : PAct) => ∃ x v, 64 ≤ x ∧ ((∃ n, a.act = .regWrite x v n) ∨ (a.act = .putg x v ∧ x < 96))
    let beats := fun (a : PAct) (x : Nat) (bs : List Vec) => ∃ m, a.act = .regWrite x (.beats bs m) false ∨ (a.act = .putg x (.beats bs m) ∧ x < 96)
    ((∀ x ∈ c.m.takes, x < 64) → (∀ d ∈ deferred c.m base c.acts, d.2.reg < 64) →
      (∀ a ∈ c.acts, ¬writesV a ∧ ∀ x, a.act = .empty x → x < 64) → t.v = nd.v) ∧
    (∀ l k a x bs j, c.acts = l ++ a :: k → 64 ≤ x → beats a x bs → defers c.m x = false → (∀ b ∈ k, ¬writesV b) →
      (∀ d ∈ deferred c.m base c.acts, d.2.reg < 64) → x - 64 ≤ j → j < x - 64 + bs.length →
      t.vreg j = ⟨Vec.mk fun i => Vec.lane (bs.getD (j - (x - 64)) []) i, true, true⟩) ∧
    (∀ j, (∀ a ∈ c.acts, ∀ v, a.act ≠ .putg (96 + j) v) → t.preg j = nd.preg j) ∧
    (∀ l k q g j v, c.acts = l ++ ⟨q, g, .putg (96 + j) v⟩ :: k → (∀ b ∈ k, ∀ w, b.act ≠ .putg (96 + j) w) → t.preg j = (match v with
      | .scalar w => if w.getLsbD 0 then 0xFFFF else 0
      | .beats bs m => maskOf fun i => m.getLsbD i && (Vec.lane (bs.getD 0 []) i).getLsbD 0)) ∧
    (∀ k, (∀ e ∈ c.u.hNew, e.2.1 ≠ k) → t.hreg k = nd.hreg k) ∧
    (∀ o k r, (o, k, r) ∈ c.u.hNew → (∀ e ∈ c.u.hNew, e.2.1 = k → e ≠ (o, k, r) → e.1 < o) → t.hreg k = r) ∧
    t.tiles = c.mat.tiles ∧ t.pins = c.mat.pins)

/-- 03 R72, R73; 05 R91: a store that may be performed, whose line the L2 holds, completes: every byte that it stores reads as its last element there says, at
the address of that element, every other byte as before, and the line is dirty and the task's own. Its turn at the slice has come where nothing that
arrived before it waits there (03 R75). Once a store is performed its result goes on its way; a write to a mirrored line, or to another package's, is
performed only when that has acknowledged it: till then its result and an acquire at domain scope wait (05 R91, R92). -/
def Obligations.StoresArePerformed : Prop :=
  (∀ (s : State) (n tid : Nat) (t : Task) (e : Elem) (b : List Byte) (es : List (Elem × List Byte)) (loc ord : BitVec 2) (scope : BitVec 3) (by_ : Issued)
    (l : L2Line), s.Canonical → n < 2048 →
    let line := lineOf e.pa
    let op := StoreOp.bytes ((e, b) :: es) loc
    ¬b = [] → (s.node n).task = some tid → s.task tid = some t → (s.node n).wq = [.store op ord scope by_] →
    (∀ x ∈ (e, b) :: es, lineOf x.1.pa = line ∧ x.1.pa % 128 + x.2.length ≤ 128) → s.l2Line line = some l → l.data.length = 128 →
    sliceTurn s (.store n) line = .go → mayPerform s tid t (nodeM t n) op ord scope by_ = true →
    performTrouble s ⟨some tid, n, ⟨0x73, by_.q, by_.pc, by_.tag, 0, 0⟩⟩ op = none → awaits s line = false →
    ∃ u, exec (.sliceWritePerform n) s = .next u ∧
      (∀ a, u.byteNow a = ((e, b) :: es).foldl (fun v x => if x.1.pa ≤ a ∧ a < x.1.pa + x.2.length then x.2.getD (a - x.1.pa) 0 else v) (s.byteNow a)) ∧
      (u.l2Line line).map (fun l => (l.dirty, l.owner)) = some (true, some t.owner) ∧ (u.node n).wq = [] ∧ (∀ k, (u.node k).SameRegs (s.node k))) ∧
  (∀ (s : State) (r tid m line : Nat) (by_ : Issued) (acq : Bool) (scope : BitVec 3) (res : Option DefRes),
    let u := (performed r tid m line by_ acq scope res).run s
    (awaits s line = false → u.mirror = s.mirror ∧ u.results = s.results ++ res.toList) ∧
    (awaits s line = true → u.results = s.results ∧ ∃ w ∈ u.mirror, w.line = line ∧ w.task = tid ∧ w.m = m ∧ w.res = res ∧ w.acq = (acq && scope = 5)))


/-! ## Commands and starts -/

/-- 21 R348, R349, R352: each Wenfisil command is answered: in the safe state, and while a start is in progress, one that is not executed there with
STATUS 1; one out of order with its stored response or STATUS 3, one with a nonzero "—" field with STATUS 4; the device's SEQ moves on by one for every
new response.
That STATUS 1 is the answer in the safe state, and that this check stands before that of the sequence, is the model's choice (log 30). -/
def Obligations.CommandsAreAnswered : Prop :=
  ∀ (c : Cmd) (p q n va x y z d k : Nat) (w0 w1 w2 w3 : Word) (bs : List Byte) (ws : List Word) (ns : List Nat) (fs : List FrameReq) (o : Option Lane) (b : Bool),
    ∀ e ∈ ([(.part c p w0 w1 w2, 0x10, false), (.key c p bs, 0x11, false), (.rings c p ws ns x y z k, 0x12, false), (.frames c p n fs, 0x13, false),
      (.quota c p w0 o, 0x20, false), (.arenaCreate c p n x y z d, 0x30, false), (.arenaDestroy c p n x, 0x30, false), (.image c p n va bs, 0x40, false),
      (.fwin c d k w0 w1 w2 w3, 0x50, false), (.enqueue c p q ws va, 0x60, false), (.cancel c p b w0, 0x61, false), (.logfetch c p x y, 0x70, false),
      (.logack c p n, 0x71, false), (.sign c p, 0x72, false), (.msgfetch c p, 0x73, false), (.health c, 0x80, true), (.monitor c x y, 0x81, false),
      (.identity c, 0x82, true), (.debugResume c p n, 0x90, false), (.debugSuspend c p n, 0x90, false), (.fwupdate c bs, 0xA0, true),
      (.noon c b, 0xF0, false), (.dawn c ns, 0xF1, true)] : List (Instr × Nat × Bool)), ∀ s : State,
    let m := fun (st : Nat) => Msg.mk e.2.1 1 st (s.hub.devSeq + 1) c.seq []
    let told := fun (st : Nat) => Host.Outcome.next { s with hub := { s.hub with devSeq := s.hub.devSeq + 1, outbox := s.hub.outbox ++ [m st] } }
    (s.power = .safe → e.2.2 = false → exec e.1 s = told 1) ∧ (s.power = .starting → ¬e.2.1 = 0x80 → ¬e.2.1 = 0x82 → exec e.1 s = told 1) ∧
    (s.power = .running ∨ (s.power = .safe ∧ e.2.2 = true) ∨ (s.power = .starting ∧ (e.2.1 = 0x80 ∨ e.2.1 = 0x82)) →
      (¬c.seq = s.hub.lastCmd + 1 →
        (∀ r, s.hub.stored.find? (fun e => e.1 == c.seq) = some r → c.seq.toNat ≤ s.hub.lastCmd.toNat → s.hub.lastCmd.toNat - c.seq.toNat < 64 →
          exec e.1 s = .next { s with hub := { s.hub with outbox := s.hub.outbox ++ [r.2] } }) ∧
        (s.hub.stored.find? (fun e => e.1 == c.seq) = none → exec e.1 s = told 3)) ∧
      (c.seq = s.hub.lastCmd + 1 → c.dash = true → exec e.1 s = .next { s with hub := { s.hub with
        lastCmd := c.seq
        devSeq := s.hub.devSeq + 1
        outbox := s.hub.outbox ++ [m 4]
        stored := (s.hub.stored ++ [(c.seq, m 4)]).drop (s.hub.stored.length + 1 - 64) } }))

/-- 15 R293–R297, 03 R68, R81, 06 R121, 21 R351: what the commands that set up partitions do when they stand in order and keep their limits; a partition or
ASID that is in use answers STATUS 5. Which bad values are malformed and which refused is the model's reading (log 32). -/
def Obligations.PartitionCommands : Prop :=
  ∀ (c : Cmd) (s : State) (p asid : Nat), InOrder c s → p < 48 →
    let does := fun (i : Instr) (opc : Nat) (eff : Prog) => exec i s = .next ((execute opc c.seq (.ok eff)).run s)
    let busy := fun (i : Instr) (opc : Nat) => exec i s = .next ((execute opc c.seq .busy).run s)
    (∀ w0 w1 w2, let x : Part := { s.part p with w0 := w0, w1 := w1, w2 := w2 }
      field w0 18 12 = 0 → ¬field w0 53 8 = 0 → (s.part p).en = false → x.en = true → rectOk s p x = true → asidsOk s p x = true → minimaOk s p x = true →
      does (.part c p w0 w1 w2) 0x10 (.upd (.part p fun y => ({ y with w0 := w0, w1 := w1, w2 := w2 } : Part).create s.tbase))) ∧
    (∀ wrap, wrap.length = 72 → (partBusy s p = true → busy (.key c p wrap) 0x11) ∧ (partBusy s p = false →
      (∀ k, Config.unwrapKey wrap = some k → ¬k.take 32 = k.drop 32 → does (.key c p wrap) 0x11 (installKey p k) ∧
        ((s.part p).key = none → (installKey p k).run s = (Prog.upd (.part p fun x => { x with key := some k })).run s)) ∧
      (Config.unwrapKey wrap = none → exec (.key c p wrap) s = .next ((execute 0x11 c.seq .badKey).run s)))) ∧
    (∀ bases caps logCap mirBase mirLen partner, bases.length = 16 → caps.length = 16 → partner < 256 → 8 ≤ logCap → (s.part p).log.length ≤ logCap →
      (partBusy s p = true → busy (.rings c p bases caps logCap mirBase mirLen partner) 0x12) ∧
      (partBusy s p = false → does (.rings c p bases caps logCap mirBase mirLen partner) 0x12 (.seq (.upd (.part p fun x => { x with
        queues := (List.range 16).foldl (fun qs k => Sparse.upd Queue.reset qs k fun y => { y with base := bases.getD k 0, cap := caps.getD k 0 }) x.queues
        logCap := logCap
        mirBase := mirBase
        mirLen := mirLen
        partner := partner })) (enterAll p)))) ∧
    (∀ fs, asid < 2048 → asidIn s p asid = true → (∀ f ∈ fs, f.page < 2 ^ 41 ∧ frameOk s p f = true ∧ inArena s asid f.page = false ∧ frameLeaving s f = false) →
      does (.frames c p asid fs) 0x13 (Prog.each fs (assignFrame p asid))) ∧
    (∀ n : Word, does (.quota c p n none) 0x20 (.upd (.part p fun x => { x with quota := n.toNat }))) ∧
    (∀ (n : Word) period, periodWhole s p = true → does (.quota c p n (some period)) 0x20 (openPeriod p period n.toNat)) ∧
    (asid < 2048 → asidIn s p asid = true →
      (∀ id base size die, 1 ≤ id → id ≤ 1023 → base % 2 ^ 16 = 0 → size % 2 ^ 16 = 0 → 0 < size → size ≤ 2 ^ 39 → base + size ≤ 2 ^ 57 → die < 4 →
        (asidBusy s asid = true → busy (.arenaCreate c p asid id base size die) 0x30) ∧
        (asidBusy s asid = false → s.arena asid id = none → coveredBy s p asid base size = true →
          (∀ a ∈ s.hub.arenas, a.1.1 = asid → a.2.live = true → a.2.base + a.2.size ≤ base ∨ base + size ≤ a.2.base) →
          does (.arenaCreate c p asid id base size die) 0x30 (createArena asid id base size die))) ∧
      (∀ id a, 1 ≤ id → id ≤ 1023 → s.arena asid id = some a →
        (¬(a.count = [] ∧ a.pending = []) → exec (.arenaDestroy c p asid id) s = .next ((execute 0x30 c.seq .refused).run s)) ∧
        (a.count = [] → a.pending = [] → (asidBusy s asid = true → busy (.arenaDestroy c p asid id) 0x30) ∧
          (asidBusy s asid = false → does (.arenaDestroy c p asid id) 0x30 (onArena asid id fun a => { a with live := false, gen := a.gen + 1 })))) ∧
      (∀ va bytes, bytes.length ≤ 2 ^ 20 → (asidBusy s asid = true → busy (.image c p asid va bytes) 0x40) ∧
        (asidBusy s asid = false → rangePass s asid va bytes.length (fun _ => true) = true → rangeOwned s asid va bytes.length = false →
          does (.image c p asid va bytes) 0x40 (hostWrite asid va bytes)))) ∧
    (∀ die win w0 w1 w2 w3, let w : Win := ⟨w0, w1, w2, w3⟩
      let d := ownDie s die
      let rs := (winNow s d win).ranges ++ w.ranges
      die < 4 → win < 16 → field w0 52 12 = 0 → field w1 52 12 = 0 → field w2 56 8 = 0 → field w3 32 31 = 0 →
      (winBusy s rs = true → busy (.fwin c die win w0 w1 w2 w3) 0x50) ∧
      (winBusy s rs = false → winsOk s d win w = true → does (.fwin c die win w0 w1 w2 w3) 0x50 (.seq (Prog.each rs fun r => flushRange r.1 (r.1 + r.2 - 1))
        (.upd (.hub fun h => { h with fwins := (d * 16 + win, [w0, w1, w2, w3]) :: h.fwins.filter fun e => !(e.1 == d * 16 + win) })))))

/-- 21 R347–R358, 06 R119, R124–R126: what the other commands do when they stand in order; SYNC is answered with both SEQs and stored by nobody, and a packet
that is no command is counted. The layout of the bodies is the model's (log 31), and so are TASKIDs in order (log 11). -/
def Obligations.HubCommands : Prop :=
  (∀ (c : Cmd) (s : State) (p : Nat), InOrder c s → p < 48 →
    let does := fun (i : Instr) (opc : Nat) (eff : Prog) => exec i s = .next ((execute opc c.seq (.ok eff)).run s)
    let tells := fun (i : Instr) (opc : Nat) (bs : List Byte) => exec i s = .next ((execute opc c.seq (.tell bs)).run s)
    let x := s.part p
    (∀ q (r : List Word) va, q < 16 → r.length = 8 → va % 64 = 0 → va < 2 ^ 57 → recField r 2 26 6 = p → asidIn s p (recAsid r) = true → queueRoom s p q = true →
      dueFrame s (recAsid r) (va / 2 ^ 16) = none → ∀ w, walk s (recAsid r) va = .entry w → entryWr w = true →
      does (.enqueue c p q r va) 0x60 (.seq (devWrite (entryPa w va) (bytesOf r)) (pushQueue p q r va (recAsid r)))) ∧
    (∀ (va : Word) q e, queuedAt s p va.toNat = some (q, e) → logRoom s p = true →
      does (.cancel c p true va) 0x61 (withTaskId fun tid => .seq (dropQueue p q e.enq) (endRecord p e tid 0x84 .skip))) ∧
    (∀ first count, count ≤ 256 → tells (.logfetch c p first count) 0x70 (((x.log.zipIdx.filter fun e => first ≤ e.2 + x.logFirst && e.2 + x.logFirst < first + count).map
        fun e => e.1) ++ ((x.sigs.filter fun g => first ≤ g.n && g.n < first + count).map fun g => toBytes 8 g.n ++ g.bytes)).flatten) ∧
    (∀ n, n ≤ x.nrec → does (.logack c p n) 0x71 (.upd (.part p fun x => { x with
      log := x.log.drop (n - x.logFirst)
      logFirst := if x.logFirst < n then n else x.logFirst }))) ∧
    (s.hub.leaf < 2 ^ 20 → does (.sign c p) 0x72 (signAt p x.nrec x.prev)) ∧
    exec (.msgfetch c p) s = .next ((execute 0x73 c.seq ⟨0, fun _ => bytesOf ([BitVec.ofNat 64 x.msgs.length, BitVec.ofNat 64 x.msgDrop, BitVec.ofNat 64 x.faults.length,
      BitVec.ofNat 64 x.faultDrop] ++ x.msgs.flatten ++ x.faults.flatten), .upd (.part p fun x => { x with msgs := [], msgDrop := 0, faults := [], faultDrop := 0 })⟩).run s) ∧
    (∀ first count, first + count ≤ 128 → tells (.monitor c first count) 0x81 (bytesOf ((List.range count).flatMap fun k => monWords s (first + k)))) ∧
    (∀ n, n < 2048 → debugOk s p n = true → does (.debugResume c p n) 0x90 (.upd (.node n fun nd => { nd with suspended := false })) ∧
      does (.debugSuspend c p n) 0x90 (.upd (.node n fun nd => { nd with suspended := true })))) ∧
  (∀ (c : Cmd) (s : State), ¬s.power = .off → c.seq = s.hub.lastCmd + 1 → c.dash = false →
    exec (.health c) s = .next ((execute 0x80 c.seq (.tell (bytesOf (healthWords s)))).run s) ∧
    exec (.identity c) s = .next ((execute 0x82 c.seq (.tell ((List.range 16).map Config.serial ++ publicKey ++
      toBytes 8 (2 ^ 20 - s.hub.leaf) ++ (List.range 32).map Config.fwKeyHash))).run s) ∧
    ∀ image, ¬s.power = .starting → exec (.fwupdate c image) s = .next ((execute 0xA0 c.seq
      (if Config.fwVerify image = true then .ok (.upd (.hub fun h => { h with fwNext := some image })) else .badKey)).run s)) ∧
  (∀ (c : Cmd) (s : State), ¬s.power = .off → c.dash = false → c.seq = 0 → exec (.sync c) s = .next { s with hub := { s.hub with
    outbox := s.hub.outbox ++ [⟨1, 1, 0, 0, 0, toBytes 8 s.hub.lastCmd.toNat ++ toBytes 8 s.hub.devSeq.toNat⟩] } }) ∧
  (∀ s : State, exec .nonRodPacket s = .next { s with hub := { s.hub with nonRod := s.hub.nonRod + 1 } })

/-- 21 R349, R352, R354, 01 R37, 24 R412: a start begins with the command or the event that asks for it, a noon by ending every task and invalidating
the provisional lines of those that run, and is then in progress; when it is complete, a dawn has left nothing in memory, nodes, tasks and partitions,
time 0 and both SEQs anew, a noon with no provisional line has left the tasks, and the part runs where images verify and a cluster is clean, else is
safe; START goes out first, then the answer to the command. A stable error begins one of the two. That memory is empty after a dawn is the model's
choice (log 1), and so are the safe state after a noon that fails (log 30) and the answer to a start that fails (log 66). -/
def Obligations.StartsBeginAnew : Prop :=
  ∀ s : State, s.Canonical →
    let good := fun (bad : List Nat) => Config.fwVerify (s.hub.fwNext.getD s.hub.fw) = true ∧ ∃ c, c < 128 ∧ ∀ n ∈ bad, ¬nodeCluster n = c
    let begins := fun (i : Instr) (st : Start) => ∃ t, exec i s = .next t ∧ t.power = .starting ∧ t.hub.starting = some st ∧
      (st.dawn = false → (∀ k x, t.task k = some x → x.st = .ending) ∧
        ((∀ k l o, s.l2Line k = some l → l.owner = some o → ∃ j x, s.task j = some x ∧ x.owner = o ∧ ¬x.st = .ending) → ∀ k l, t.l2Line k = some l → l.owner = none))
    (∀ bad, s.power = .off → begins (.powerOn bad) ⟨true, 0, bad, none⟩) ∧
    (∀ c bad, InOrder c s → begins (.dawn c bad) ⟨true, 0, bad, some (0xF1, c.seq)⟩) ∧
    (∀ c force, InOrder c s → (anyTask s = false ∨ force = true) → begins (.noon c force) ⟨false, if force then 2 else 1, [], some (0xF0, c.seq)⟩) ∧
    (∀ c, InOrder c s → anyTask s = true → exec (.noon c false) s = .next ((execute 0xF0 c.seq .busy).run s)) ∧
    (∀ bad fails, s.power = .running → ∃ st, begins (.stableErrorNoon bad fails) st ∧ (fails = true → st.dawn = true) ∧ st.cmd = none) ∧
    (s.power = .starting → ∀ st, s.hub.starting = some st → ∃ t, startDone s = .next t ∧ t.hub.lastCmd = 0 ∧ t.hub.starting = none ∧
      (st.cmd = none → t.hub.devSeq = 1) ∧ (st.cmd.isSome = true → t.hub.devSeq = 2) ∧
      (∀ c, st.cmd = some c → t.hub.outbox.getLast? = some ⟨c.1, 1, if t.power = .running then 0 else 6, 2, c.2, []⟩) ∧
      (st.dawn = true → t.mem = [] ∧ t.pads = [] ∧ t.tables = [] ∧ t.l2 = [] ∧ t.nodes = [] ∧ t.tasks = [] ∧ t.parts = [] ∧ t.cards = [] ∧
        t.tbase = 0 ∧ t.hub.bad = st.bad ∧ t.hub.leaf = s.hub.leaf ∧ (good st.bad → t.power = .running) ∧ (¬good st.bad → t.power = .safe)) ∧
      (st.dawn = false → ¬t.power = .off ∧ ¬t.power = .starting ∧ ((∀ k l, s.l2Line k = some l → l.owner = none) → ∀ k, t.task k = s.task k)))


/-! ## Events -/

/-- 01 R12, R24, R27, R31; 15 R294, R306; 22 R367, R369; 08 R165: a token hops one position nearer; at its destination it takes its place in the matching store, or is
parked where a dusk token has taken nodes of its task; from a die link the escape channel writes it into its destination's spill area; a result reaches
its register; an iteration that nothing uses, and that TALLOC did not give, returns its slot, as one that TFREE marked does, and an ended colour goes.
That the escape channel may be taken at any time is the model's choice (log 38). -/
def Obligations.MeshEvents : Prop :=
  (∀ (s : State) (k : Nat) (f : Flit) (t : Task), s.flits[k]? = some f → s.task f.task = some t → f.tok.par = .good →
    let p := nextHop f.x f.y f.dstX f.dstY
    let rest := s.flits.eraseIdx k
    let n := nodeAt f.dstX f.dstY
    let nd := s.node n
    (¬(f.x = f.dstX ∧ f.y = f.dstY) → hops p.1 p.2 f.dstX f.dstY + 1 = hops f.x f.y f.dstX f.dstY ∧ hops f.x f.y p.1 p.2 = 1 ∧ exec (.tokenHop k) s = .next
      (if forwards s p.1 p.2 (edgeStart t f.edge) (f.dstX, f.dstY) = true then { s with flits := s.flits.modify k fun f => { f with x := p.1, y := p.2 } }
       else { s with flits := rest, hub := { s.hub with dropped := s.hub.dropped + 1 } })) ∧
    (firstOnEdge s k f = true → purged s f.task f.tok = false → (∀ e, t.img.edges[f.edge]? = some e → e.mem = false) →
      (nd.task = some f.task → nd.isDup f.q f.slot f.tok.tag = false → nd.spillBytes + tokBytes f.tok ≤ 61440 →
        let u := fun (g : Node → Node) => { s with flits := rest, nodes := Sparse.upd Node.reset s.nodes n g }
        (f.x = f.dstX ∧ f.y = f.dstY → exec (.tokenArrival k) s = .next (u fun nd => nd.place f.q f.slot f.tok (some f.edge))) ∧
        (¬(f.x = f.dstX ∧ f.y = f.dstY) → crossesDie f.x f.y p = true → exec (.escapeChannelTimeout k) s = .next (u fun nd =>
          { nd with spill := nd.spill ++ [⟨f.q, f.slot, f.tok, some f.edge⟩] }))) ∧
      (nd.task = some f.task → ∀ w, nd.waiting f.q f.slot f.tok.tag = some w → w.par = .good → nd.isDup f.q f.slot f.tok.tag = true → f.x = f.dstX ∧ f.y = f.dstY →
        exec (.tokenArrival k) s = .next ((colourFault n f.task 0x11 f.q f.slot f.tok.tag).run { s with flits := rest })) ∧
      (¬nd.task = some f.task → t.sweeping = true → f.x = f.dstX ∧ f.y = f.dstY → total (nd.spill.map fun x => tokBytes x.tok) + nd.parkBytes + tokBytes f.tok ≤ 65536 →
        exec (.tokenArrival k) s = .next { s with flits := rest, nodes := Sparse.upd Node.reset s.nodes n fun nd => { nd with
          park := nd.park ++ [⟨f.q, f.slot, f.tok, some f.edge⟩] } }))) ∧
  (∀ (s : State) (k : Nat) (d : DefRes) (t : Task), s.results[k]? = some d → s.task d.dst.task = some t →
    let r := homeRef s d.dst.task t d.dst.m
    exec (.deferredWriteArrival k) s = .next ((Prog.when (r < 2048) (injectReads r)).run ((onRef r (Node.deliver d)).run { s with results := s.results.eraseIdx k }))) ∧
  (∀ (nd : Node) (d : DefRes), nd.defs = [⟨d.dst.reg, d.dst.id, none⟩] → nd.deliver d = ({ nd with defs := [] } : Node).writeReg d.dst.reg d.val) ∧
  (∀ (s : State) (tid c i : Nat) (t : Task) (f : Frame), s.task tid = some t → t.frame c = some f →
    (f.kind = .loop ∧ i ∈ f.live ∨ f.kind = .tagSpace ∧ (i ∈ f.freeing ∨ (i ∈ f.live ∧ ¬i ∈ f.given)) → tagInUse s tid t (fun g => g == mkTag c i) = false →
      exec (.iterationRetire tid c i) s = .next ((Prog.seq (returnSlot tid c i) (forgetReads tid (mkTag c i))).run s)) ∧
    (tagInUse s tid t (fun g => tagColour g == c) = false →
      (f.kind = .loop ∧ f.lexit = true ∧ f.live = []) ∨ (f.kind = .call ∧ f.ended = true ∧ colourRuns s tid t c = false) ∨
        (f.kind = .tagSpace ∧ f.live = [] ∧ f.freeing = [] ∧ f.owner = none) →
      exec (.iterationRetire tid c i) s = .next { s with tasks := Sparse.upd none s.tasks tid fun o => o.map (Task.release c) } ∧
      (t.release c).frame c = none))

/-- 07 R145, R146; 01 R17, R19; 13 R247: a fetch reads a block at the context's PC; a map draws 16 + 2 for each instruction and puts the block in the node, or is a
fault; a commit that its checks pass takes effect, an error in a record that it reads being seen to first (26 R419), one that they do not is a fault, units of a loop-resident block in the order in which they became
ready (01 R20); a load that has its lines emits its value. When a unit is complete is the model's reading (log 60). -/
def Obligations.BlockEvents : Prop :=
  ∀ (s : State) (n tid : Nat) (t : Task), (s.node n).task = some tid → s.task tid = some t →
    let nd := s.node n
    (∀ c, mayRun s n = true → nd.cur = none → nd.fetched = none → nd.prefetched = none → nd.nextCtx = some c →
      (∀ w, (nd.ctx c).wide = some w → exec (.blockFetch n) s = .next ((takeFault n (fetchFault (nd.ctx c).pc 6 w)).run s)) ∧
      ((nd.ctx c).wide = none → exec (.blockFetch n) s = .next ((fetchBlock n c (nd.ctx c).pc false).run s))) ∧
    (∀ (c : Nat) (pc : BitVec 58), bit pc 57 = false →
      let a := field pc 0 57
      let b := Fetched.mk c pc (quadsOf 4 (fetchBytes s n t a 64)) []
      fetchStop s n tid t pc a 64 = none → (hKind b = 0xB1 ∨ hKind b = 0xB2) → inExtent t b = true → fetchStop s n tid t pc a (blockBytes b) = none →
      (fetchBlock n c pc false).run s = (fetchDone n false { b with ins := quadsOf (hNins b) (fetchBytes s n t (a + 64) (16 * hNins b)) }).run
        ((fetchFills n t.part (fetchLines s n t a (blockBytes b))).run ((Prog.each (pageStarts a (blockBytes b)) fun v => touchTlb (nodeDie n) t.asid v).run s))) ∧
    (∀ b, s.Canonical → mapJob s n = some b → 16 + 2 * hNins b ≤ nd.crib.remaining →
      let drawn := (Prog.upd (.node n fun nd => { nd with crib := nd.crib.draw (16 + 2 * hNins b) (tagColour (nd.ctx b.ctx).ctag), fetched := none, prefetched := none })).run s
      (∀ code place info addr, mapFailure t n nd.jord b = some (code, place, info, addr) →
        exec (.blockMap n) s = .next ((takeFault n ⟨code, place, b.pc, 0, addr, BitVec.ofNat 64 info⟩).run drawn)) ∧
      (mapFailure t n nd.jord b = none → (hReads b = []) → exec (.blockMap n) s = .next ((Prog.seq (.upd (.node n fun x => { x with cur := some {
        blk := b, snap := snapOf drawn n b, h := nd.h, pins := nd.pins, units := if hKind b = 0xB2 then [] else [CUnit.fresh (nd.ctx b.ctx).ctag],
        reads := [], latches := [], takes := [], ready := [], faults := [], under := none } })) (injectReads n)).run drawn))) ∧
    (∀ colour, readyFirst s n colour = true →
      (∀ c, judge s n colour = .ok c → hubTrouble s c = none → exec (.blockCommit n colour) s = .next ((commitEffects c).run s)) ∧
      (∀ c p, judge s n colour = .ok c → hubTrouble s c = some p → exec (.blockCommit n colour) s = .next (p.run s)) ∧
      (∀ f, judge s n colour = .fault f → exec (.blockCommit n colour) s = .next ((takeFault n f).run s))) ∧
    (∀ colour m, readyFirst s n colour = false → nd.cur = some m → m.loop = true ∧ ∃ x, m.ready.head? = some x ∧ ¬x = unitOf t n nd m colour) ∧
    (∀ k l m tg cl, nd.loads[k]? = some l → nd.cur = some m → bit nd.fs.code 63 = false → l.wait = [] → ¬(m.unit l.unit).lsid l.lsid = .nulled →
      tagRes t l.tag l.instr.hdr.tagop.toNat = .ok tg cl →
      exec (.loadValueReturn n k) s = .next ((loadEmit n l m.snap.jord tid tg cl false).run ((Prog.upd (.node n fun nd => { nd with loads := nd.loads.eraseIdx k })).run s)))

/-- 03 R65, R75, R80; 05 R93: a load is served at its home slice with the node's own stores in view, waits on another task's line in the order of its
arrival there, and asks its base die for a line that is not there; a request takes a tag of its port, and the reply frees it; that
it takes the lowest free one is the model's choice (log 91). Which line a fill replaces is free (log 7). -/
def Obligations.SliceEvents : Prop :=
  (∀ (s : State) (n k tid line : Nat) (ls : List Nat) (t : Task) (l : PLoad), (s.node n).loads[k]? = some l → l.wait = line :: ls → (s.node n).task = some tid →
    s.task tid = some t →
    let who := Party.load n l.order
    (sliceTurn s who line = .wait → exec (.sliceRead n k) s = .refused .notEnabled) ∧
    (sliceTurn s who line = .enter → exec (.sliceRead n k) s = .next ((enterWait who line).run s)) ∧
    (sliceTurn s who line = .go → lineTrouble s (loadWho s n tid l) line = none →
      (∀ x bs, s.l2Line line = some x → l.want = none → wqOverlay (s.node n) line x.data = some bs → exec (.sliceRead n k) s = .next
        ((Prog.when (loadAllocates l) (l1Fill n line (((l.es.find? fun e => lineOf e.pa == line).map fun e => e.va).getD 0 / 128))).run
          ((onLoad n k fun y => { y with got := y.got ++ [(line, bs)], wait := y.wait.drop 1 }).run ((leaveWait who line).run s)))) ∧
      (s.l2Line line = none → (∀ b ∈ s.breqs, b.line = line → b.write.isSome = true) → exec (.sliceRead n k) s = .next { s with
        breqs := s.breqs ++ [⟨paDie (line * 128), homeSlice s line, lineStack line, line, none, none, n,
          some ⟨tid, l.q, l.tag, (mkFault (s.node n) 0 0 0 0 0).pc, some l.order, none⟩, []⟩] }))) ∧
  (∀ (s : State) (r : Nat) (p : Prog), performJob s r = some p → exec (.sliceWritePerform r) s = .next (p.run s)) ∧
  (∀ (s : State) (k : Nat) (b : BReq), s.breqs[k]? = some b →
    (∀ g, b.tag = none → (∀ a ∈ s.breqs.take k, samePort a b = true → a.tag.isSome = true) → g < 8 →
      (∀ h, h < g → ∃ a ∈ s.breqs, samePort a b = true ∧ a.tag = some h) → (∀ a ∈ s.breqs, samePort a b = true → ¬a.tag = some g) →
      exec (.baseDieRequest k) s = .next { s with breqs := s.breqs.modify k fun b => { b with tag := some g } }) ∧
    (b.tag.isSome = true → (∀ a ∈ s.breqs.take k, ¬(samePort a b = true ∧ a.line = b.line)) →
      (b.write.isSome = true → exec (.baseDieReply k) s = .next { s with breqs := s.breqs.eraseIdx k }) ∧
      (b.write = none → brokenWords s b.line = [] → exec (.baseDieReply k) s = .next ((readReply b).run { s with breqs := s.breqs.eraseIdx k })) ∧
      (∀ c, b.write = none → (brokenWords s b.line).head? = some c → exec (.baseDieReply k) s = .next ((memoryUe c).run s))))

/-- 06 R118; 03 R75; 15 R299–R306; 04 R88, R89; 13 R267: a task whose nodes have halted and whose cards are final commits and leaves no provisional line; its slot is then free;
the arbiter sees to an error in an image that bids (26 R419), then admits or rejects the first bid that it can, and counts a bypass for each bid above that
has no placement, or one whose die has no slot for it (23 R389); a slice ends; the dusk token moves on; a granule is freed; a rein is delivered.
TASKIDs in order (log 11), and what counts as a bypass (log 26), are the model's. -/
def Obligations.TaskEvents : Prop :=
  ∀ s : State,
    (∀ tid t, s.Canonical → s.task tid = some t → taskDone s tid t = true → ∃ u, exec (.taskCommit tid) s = .next u ∧ u = (commitTask tid t).run s ∧ u.ending tid ∧
      (∀ h ∈ u.held, ¬h.owner = t.owner) ∧ ∀ k l, u.l2Line k = some l → ¬l.owner = some t.owner) ∧
    (∀ owner tid, slotJob s owner = some tid → exec (.ownerTagCleared owner) s = .next { s with tasks := Sparse.upd none s.tasks tid fun _ => none }) ∧
    (∀ p, let judged := verdict s p (placement s p)
      let trouble := fun (b : Bid) => match b.who with
        | .new _ e => imageTrouble s (recAsid e.trec) (e.trec.getD 0 0).toNat
        | .swept _ _ => none
      (∀ l b k x, bids s p = l ++ b :: k → (∀ a ∈ l, trouble a = none) → trouble b = some x → exec (.areaBidding p) s = .next (x.run s)) ∧
      (∀ l b bs, bids s p = l ++ b :: bs → (∀ a ∈ bids s p, trouble a = none) →
        (∀ a ∈ l, (∃ z, judged a = .wait z) ∨ (∃ k, judged a = .reject k ∧ logRoom s p = false) ∨
          (∃ o c, judged a = .admitted o c ∧ (admissionStopped s p = true ∨ ∃ r, reservingBid s p = some r ∧ r.above a = true))) →
        (∀ k q e, judged b = .reject k → b.who = .new q e → logRoom s p = true → exec (.areaBidding p) s = .next ((rejectRecord p q e k).run s)) ∧
        (∀ o c, judged b = .admitted o c → admissionStopped s p = false → (∀ r, reservingBid s p = some r → r.above b = false) →
          exec (.areaBidding p) s = .next ((Prog.seq (countBypasses s p (placement s p) b) (admitBid p b o c startAll)).run s))) ∧
      (∀ b q e, b.who = .new q e →
        (∀ c, checkRecord s p e.trec = .pass c →
          (placement s p c.img.width c.img.height = none → judged b = .wait true) ∧
          (∀ o, placement s p c.img.width c.img.height = some o → freeSlot s (dieAt o.1 o.2) p = none → judged b = .wait true)) ∧
        (∀ z, checkRecord s p e.trec = .wait (some z) → (placement s p z.1 z.2 = none → judged b = .wait true) ∧
          ∀ o, placement s p z.1 z.2 = some o → judged b = .wait (freeSlot s (dieAt o.1 o.2) p).isNone)) ∧
      (∀ b, reservingBid s p = none → countBypasses s p (placement s p) b =
        let over_ := (bids s p).filter fun x => x.above b && judged x = .wait true
        .seq (Prog.each over_ (countBypass p)) (match over_.find? fun x => (s.part p).bound ≤ x.bypass + 1 with
          | some x => .upd (.part p fun y => { y with reserving := some x.enq })
          | none => .skip))) ∧
    (∀ tid t, s.task tid = some t → t.st = .running → t.dusk = none →
      let slice := field (s.part t.part).w1 40 24
      ¬slice = 0 → slice * 1000 ≤ s.tbase.toNat - t.sliceFrom.toNat →
      (incomingBid s t = none → exec (.sliceExpiry tid) s = .next { s with tasks := Sparse.upd none s.tasks tid fun u => u.map fun t => { t with sliceFrom := s.tbase } }) ∧
      (∀ b o c, incomingBid s t = some (b, o, c) → exec (.sliceExpiry tid) s = .next ((Prog.seq (countBypasses s t.part (placement s t.part) b) (admitBid t.part b o c fun inc =>
        .upd (.task tid fun u => u.map fun t => { t with dusk := some ⟨0, some inc⟩ }))).run s))) ∧
    (∀ tid t d, s.task tid = some t → t.dusk = some d →
      (d.pos < t.img.width * t.img.height → (d.pos = 0 → ∀ e ∈ s.tasks, ∀ u x, e.1 ≠ tid → e.2 = some u → u.dusk = some x → x.pos = 0 ∨ overlaps u.rect t.rect = false) →
        exec (.duskToken tid) s = .next ((duskStep tid t d).run s)) ∧
      (t.img.width * t.img.height ≤ d.pos → (∀ f ∈ s.flits, ¬f.task = tid) → exec (.duskToken tid) s = .next ((duskEnd tid t).run s))) ∧
    (∀ asid arena g a, s.arena asid arena = some a → (∃ p ∈ a.pending, p = (g, [])) → Sparse.get 0 a.count g = 0 → granuleInFlight s asid a.base g = false →
      exec (.ireFree asid arena g) s = .next ((Prog.seq (zeroGranule asid a.base g) (onArena asid arena fun x => { x with
        taken := x.taken.filter fun h => !(h == g), pending := x.pending.filter fun p => !(p.1 == g) })).run s)) ∧
    (∀ k to_ input r sender t d, s.reins[k]? = some (to_, input, r, sender) → s.task to_ = some t → reinInput t input = some d →
      let ref := homeRef s to_ t d.1
      (refNode s ref).cur = none →
      exec (.reinDelivery k) s = .next ((deliverRein t (to_, input, r, sender) ref d.2).run { s with reins := s.reins.eraseIdx k }) ∧
      ((refNode s ref).hreg d.2 = 0 → (deliverRein t (to_, input, r, sender) ref d.2).run { s with reins := s.reins.eraseIdx k } =
        (Prog.upd (.task to_ fun o => o.map fun t => { t with received := t.received ++ [r] })).run
          ((onRef ref fun nd => { nd with h := Sparse.put 0 nd.h d.2 r }).run { s with reins := s.reins.eraseIdx k })))

/-- 22 R373; 23 R377–R379, R384, R387; 03 R70, R71; 06 R108; 24 R404: the Farrier ends the task of a report, or maps the page that is wanted; a report of a task
that is committing, aborting or gone is recorded as superseded; an unmap clears the leaf and waits for its tokens; a cycle of waits that has persisted for
1 ms is broken at its task of the highest enqueue count; a crib without a budget is sealed, and one that loses charge is dealt with. PLACE of that report
is free (log 12).
That a cycle is known by the set of its members, and the moments at which it is noted and broken, are the model's reading (log 80). -/
def Obligations.FarrierEvents : Prop :=
  ∀ s : State,
    (∀ r rs, s.hub.reports = r :: rs →
      let u := { s with hub := { s.hub with reports := rs } }
      exec (.farrierAction 0) s = .next ((actOn r).run u) ∧
      (∀ tid, r.task = some tid → taskLive s tid = true → (actOn r).run u = (abortTask tid 0x82).run ((farrierRecord r 1).run u)) ∧
      (r.task = none → (actOn r).run u = (farrierRecord r 2).run u)) ∧
    (∀ k p, s.hub.pages[k]? = some p →
      let u := { s with hub := { s.hub with pages := s.hub.pages.eraseIdx k } }
      exec (.pageFaultResolve k) s = .next ((resolvePage p).run u) ∧
      ((∀ tid, p.rep.task = some tid → taskLive s tid = false) → (resolvePage p).run u = (farrierRecord p.rep 2).run u) ∧
      ∀ tid t, p.rep.task = some tid → s.task tid = some t → taskLive s tid = true →
        (∀ f, groomFinds u t.asid p = some f → (resolvePage p).run u = (farrierRecord p.rep 0).run ((releasePage tid p.page).run ((mapFrame t.asid f).run u))) ∧
        (groomFinds u t.asid p = none → (resolvePage p).run u = (abortTask tid 0x82).run ((farrierRecord p.rep 1).run u))) ∧
    (∀ asid va k, leafKey s asid va = some k → bit (Sparse.get 0 s.tables k) 63 = true → inArena s asid (va / 2 ^ 16) = false →
      let w := Sparse.get 0 s.tables k
      exec (.unmap asid va) s = .next ((invalidate asid (some (va % 2 ^ 57 / 2 ^ 16)) (some (field w 16 36))).run
        ((Prog.when (entryClass w = 2) (dropHistory (field w 16 36))).run ((clearLeaf asid va).run s)))) ∧
    (∀ k r t, s.relatch[k]? = some r → s.task r.task = some t →
      let n := homeRef s r.task t r.m
      let nd := refNode s n
      let gone := unmapFrame s r.unmap
      (2048 ≤ n ∨ (nd.olderStores r.before = false ∧ (∀ f, gone = some f → nd.pends f = false) ∧
        ∀ l ∈ nd.loads, l.streams = true → ¬l.order < r.before ∧ ∀ f, gone = some f → ∀ e ∈ l.es, ¬e.pa / 2 ^ 16 = f)) →
      exec (.reLatchToken k) s = .next (closeUnmaps.run ((Prog.when (n < 2048) (.upd (.node n fun nd => (match r.page with
        | some p => nd.unhold p
        | none => nd).onCur fun m => { m with latches := [] }))).run { s with relatch := s.relatch.eraseIdx k }))) ∧
    (∀ k d, s.drains[k]? = some d → (∀ t, s.task d.task = some t →
        let nd := refNode s (homeRef s d.task t d.m)
        nd.older d.before = false ∧ ∀ f, unmapFrame s d.unmap = some f → nd.pends f = false) →
      exec (.drainToken k) s = .next (closeUnmaps.run { s with drains := s.drains.eraseIdx k })) ∧
    (∀ p, let now := waitCycles s p
      let noted := s.hub.cycle.filter fun c => c.1 == p
      let fresh := now.filter fun m => !(noted.any fun c => c.2.1 == m)
      (¬fresh = [] → exec (.waitCycleTimeout p) s = .next { s with hub := { s.hub with
        cycle := (s.hub.cycle.filter fun c => !(c.1 == p) || now.contains c.2.1) ++ fresh.map fun m => (p, m, s.tbase) } }) ∧
      (∀ c v, fresh = [] → (∀ c ∈ noted, c.2.1 ∈ now) → noted.find? (fun c => decide (1000000 ≤ s.tbase.toNat - c.2.2.toNat)) = some c → cycleVictim s c.2.1 = some v →
        exec (.waitCycleTimeout p) s = .next ((breakCycle p v).run { s with hub := { s.hub with cycle := s.hub.cycle.filter fun x => !(x == c) } }) ∧
        v ∈ c.2.1 ∧ ∀ w ∈ c.2.1, ((s.task w).map fun x => x.enq).getD 0 ≤ ((s.task v).map fun x => x.enq).getD 0)) ∧
    (∀ n, (s.node n).task.isSome = true → (s.node n).crib.unfed = 0 → (s.node n).crib.sealed = false →
      exec (.cribBudgetEnd n) s = .next { s with nodes := Sparse.upd Node.reset s.nodes n fun nd => { nd with crib := { nd.crib with sealed := true } } }) ∧
    (∀ n tid measured, (s.node n).task = some tid → measured < (s.node n).crib.charge →
      let f := mkFault (s.node n) 0x74 (freePlace s) 0 0 (BitVec.ofNat 64 ((s.node n).crib.charge % 2 ^ 32 + measured % 2 ^ 32 * 2 ^ 32))
      exec (.chargeMismatch n measured true) s = .next ((Prog.all [report n f (some 1), .upd .fresh, markBad n, killTask tid]).run s) ∧
      exec (.chargeMismatch n measured false) s = .next ((Prog.all [report n f (some 0), .upd .fresh, markBad n,
        .upd (.node n fun nd => { nd with crib := { nd.crib with segments := 4095 } }), replaceTask tid]).run s))

/-- 14 R276–R286; 23 R386; 24 R410; 15 R309, R310: a step of each engine class is made for the card that its queue serves next, and a COLL card whose lines are done is final
at the next COLL_STEP; a MIRROR card copies its next line, or fails where the partner is not the partition's; a partner's answer makes a write durable and sends the result that waited for it, 100 ms without one end the pairing, a parked card goes on with its charge, a late card becomes a kernel.
The split of a card's draw over its steps is the model's reading (log 27, 29, 35), and a kernel's draw is free (log 13). -/
def Obligations.EngineEvents : Prop :=
  ∀ (s : State) (k : Nat),
    (∀ c t e p, ∀ x ∈ [(Instr.copyStep k, 0, copyWork), (.gatherStep k, 1, gatherWork), (.topkStep k, 3, topkWork)], openCard s k x.2.1 = some (c, t) → c.fb = false →
      x.2.2 s c t = some e → stepEnters s c t e = none → engineStep s k c t e = some p →
      (∀ b ∈ s.cards, b.site = c.site → cardOpen s b = true → b = c) → exec x.1 s = .next (p.run ((noteTurn c).run s))) ∧
    (∀ c t e p, openCard s k 0 = some (c, t) → c.fb = true → kernelRuns s c t = true → copyWork s c t = some e → stepEnters s c t e = none → engineStep s k c t e = some p →
      exec (.copyStep k) s = .next (p.run s)) ∧
    (∀ c t e p mm others, openCard s k 2 = some (c, t) → collWork s c t mm others = some e → stepEnters s c t e = none → engineStep s k c t e = some p → c.fb = false →
      (∀ b ∈ s.cards, b.site = c.site → cardOpen s b = true → b = c) → exec (.collStep k mm others) s = .next (p.run ((noteTurn c).run s))) ∧
    (∀ c others, s.cards[k]? = some c → c.cls = 2 → cardOpen s c = true → c.workDone = true → cardAwaits s k = false →
      exec (.collStep k false others) s = .next ((endCard k .finished 0).run s)) ∧
    (∀ c t, openCard s k 4 = some (c, t) → (¬(s.part t.part).partner = cf c.words 3 0 8 → exec (.mirrorCopyStep k) s = .next ((endCard k .failed 5).run s)) ∧
      ∀ line, bit (cw c.words 2) 0 = true → (s.part t.part).partner = cf c.words 3 0 8 →
      engineAccess s t c true (((cw c.words 0).toNat + c.dst + c.ptr) / 128) = .ok line → paired s t.part (cf c.words 3 0 8) line = true →
      sliceTurn s (.card c.order) line = .go → canHave s line = true → lineTrouble s (engWho c) line = none →
      exec (.mirrorCopyStep k) s = .next ((payStep k c t (64 + 256 * stepFills s [line]) (.all [leaveWait (.card c.order) line, Prog.when true (fillLine line t.part),
        mirrorLine k c t line, onCard k fun c => { c with st := .running, ptr := c.ptr + 128, step := c.step + 1 }, finishCard k])).run s)) ∧
    (∀ w, s.mirror[k]? = some w → w.lost = false → w.card = none → w.acq = false → s.task w.task = none → exec (.partnerAck k) s = .next { s with
      mirror := s.mirror.eraseIdx k
      results := s.results ++ if w.res.isSome && (s.mirror.eraseIdx k).any (fun x => x.res == w.res && x.by_ == w.by_) then [] else w.res.toList
      hub := { s.hub with acked := if (s.mirror.eraseIdx k).any (fun x => x.line == w.line) || !(s.hub.mirrored.any fun x => x.1 == w.line) then s.hub.acked
        else s.hub.acked ++ [w.line] } }) ∧
    (∀ p w, w ∈ s.mirror → w.far = false → w.lost = false → w.part = p → 100000000 ≤ s.tbase.toNat - w.since.toNat → ∃ u, exec (.mirrorAckTimeout p) s = .next u ∧
      (∀ x ∈ u.hub.mirrored, ¬x.2.1 = p) ∧ ∀ x ∈ u.mirror, x.part = p → x.far = true ∨ x.lost = true) ∧
    (∀ c t, s.cards[k]? = some c → s.task c.task = some t → c.st = .parked →
      let nd := refNode s (homeRef s c.task t c.m)
      (nextDraw s c t ≤ nd.crib.remaining → exec (.cardResume k) s = .next { s with cards := s.cards.modify k fun c => { c with st := .running } }) ∧
      (nd.crib.remaining < nextDraw s c t → nd.halted = true → exec (.cardResume k) s = .next ((lacksCharge k).run s))) ∧
    (∀ c t n x col, fallbackJob s k = some (c, t, n, x, col) → 
      let u := (forgetDraws c.task col).run { s with cards := s.cards.modify k fun c => { c with fb := true } }
      exec (.deadlineFallback k) s = .next { u with
        tasks := Sparse.upd none u.tasks c.task fun o => o.map fun t => { t with frames := t.frames ++ [(col, { Frame.make .spawn 0 with node := c.m, ctx := x, esc := true })] }
        nodes := Sparse.upd Node.reset u.nodes n fun nd => { nd with ctxs := Sparse.put Ctx.reset nd.ctxs x ⟨0, mkTag col 0, .kernel k, none, []⟩ } })

/-- 06 R121, R125, R126; 21 R353, R355; 24 R406–R408; 26 R419, R421: a period that is due opens by itself; the head after every 256th record of a log waits to be signed, and is signed when the event comes (log 34); samples take their places and report
heat; the scrub deals with the error that it finds; a page that waits for retirement is
retired once what its lines hold is seen to and the tasks killed for them have ended (26 R420). The number of a period that opens by itself is free (log 12). -/
def Obligations.MeterAndMonitorEvents : Prop :=
  ∀ s : State,
    (∀ p, (s.part p).en = true → 2 ^ 40 ≤ (s.tbase.toNat - (s.part p).opened.toNat) / 1000 → periodWhole s p = true →
      exec (.periodAutoOpen p) s = .next ((openPeriod p (Config.freePeriod s.ctr) (s.part p).quota).run { s with ctr := s.ctr + 1 })) ∧
    (∀ p n head rest, s.hub.leaf < 2 ^ 20 → (s.part p).toSign = (n, head) :: rest → exec (.logSign256 p) s = .next { s with
      hub := { s.hub with leaf := s.hub.leaf + 1 }
      parts := Sparse.upd Part.reset (Sparse.upd Part.reset s.parts p fun x => { x with
        sigs := x.sigs ++ [⟨n, s.hub.leaf, signature s.hub.leaf (toBytes 8 n ++ toBytes 1 p ++ List.replicate 7 0 ++ head)⟩] }) p fun x => { x with toSign := rest } }) ∧
    (∀ q msg, (signature q msg).length = 2828) ∧
    (∀ l, ¬s.power = .off → exec (.monitorSample l) s = .next (coolDown.run ((Prog.each (l.filter fun m => m.cluster < 128) takeSample).run s))) ∧
    (∀ m : MonSample, ¬s.power = .off → m.cluster < 128 → m.temp.toInt ≤ 1680 → s.hub.thermal = false → exec (.monitorSample [m]) s = .next { s with hub := { s.hub with
      mons := (m.cluster, m) :: s.hub.mons.filter fun e => !(e.1 == m.cluster)
      above105 := s.hub.above105.filter fun c => !(c == m.cluster) } }) ∧
    (∀ line l, s.l2Line line = some l →
      (l.tagUe = false → l.ue = [] → exec (.patrolScrub line) s = .next s) ∧ (l.tagUe = true → exec (.patrolScrub line) s = .next ((l2TagUe line l).run s)) ∧
      (l.tagUe = false → ¬l.ue = [] → exec (.patrolScrub line) s = .next ((l2DataUe Who.none line l).run s)) ∧
      (∀ o t, l.owner = some o → ownerTask s o = some t → taskLive s t = true → (l2DataUe Who.none line l).run s =
        (doomOwner t line l).run ((recordFor t Who.none (BitVec.ofNat 64 (line * 128)) (eccInfo s 2 line l.way)).run s)) ∧
      (∀ t x, s.Canonical → s.task t = some x → taskLive s t = true → let u := (doomOwner t line l).run s
        (u.task t).map (fun y => y.doomed) = some (some 0x83) ∧ u.hub.retires = s.hub.retires ++
          [⟨line, some l.part, some t, some (paDie (line * 128), homeSlice s line, lineSet line, l.way)⟩])) ∧
    (∀ k r, s.hub.retires[k]? = some r →
      let frame := r.line * 128 / 2 ^ 16
      let mine := s.hub.retires.filter fun x => x.line * 128 / 2 ^ 16 == frame
      let u := { s with hub := { s.hub with retires := s.hub.retires.filter fun x => !(x.line * 128 / 2 ^ 16 == frame) } }
      (∀ x, frameTrouble s frame = some x → exec (.frameRetire k) s = .next (x.run s)) ∧
      (frameTrouble s frame = none → frameDying s frame mine = false →
        (frameOwner s frame = none → exec (.frameRetire k) s = .next ((Prog.each (mine.filterMap fun r => r.tid) settleClosing).run u)) ∧
        (∀ p, frameOwner s frame = some p → retireReady s frame = true → exec (.frameRetire k) s = .next ((retireAll s frame mine).run u)))) ∧
    (∀ frame line q, (retireAll s frame [⟨line, some q, none, none⟩]).run s = (deviceEntry q 0 4 (retiredValue s frame)).run ((retirePage frame).run s)) ∧
    (∀ p body, s.Canonical → let x := s.part p
      let u := ((appendLog p body).run s).part p
      u.log = x.log ++ [body ++ x.prev] ∧ u.nrec = x.nrec + 1 ∧ u.toSign = x.toSign ++ if (x.nrec + 1) % 256 = 0 then [(x.nrec + 1, u.prev)] else [])
end

