-- ==== Sys2Proof/Laws/Decode.lean ====
section
/-! SUPPORT. Laws of the encoder's words: what the decoder's fields read from them. -/

namespace Sys2Proof
open Sys2Proof.Machine

/-- The word of a format A body. -/
abbrev wordA (opc : Nat) (f : FmtA) : Quad := encodeTop opc f.h ++ f.imm ++ f.immr ++ f.rm ++ f.ty ++ f.sat ++ f.var ++ (0 : BitVec 8)

theorem decodeA_word (opc : Nat) (f : FmtA) : decodeA (wordA opc f) = f := by
  obtain ⟨⟨p, m, t, x, t0, t1⟩, a0, a1, a2, a3, a4, a5⟩ := f
  simp only [decodeA, decodeHdr, wordA, encodeTop, FmtA.mk.injEq, Hdr.mk.injEq]
  refine ⟨⟨?_, ?_, ?_, ?_, ?_, ?_⟩, ?_, ?_, ?_, ?_, ?_, ?_⟩ <;>
  repeat (first
    | exact BitVec.extractLsb'_eq_self
    | refine (BitVec.extractLsb'_append_eq_of_le (by decide)).trans ?_
    | refine (BitVec.extractLsb'_append_eq_of_add_le (by decide)).trans ?_)

theorem opcOf_wordA (opc : Nat) (f : FmtA) : opcOf (wordA opc f) = opc % 1024 := by
  have h : (wordA opc f).extractLsb' 118 10 = BitVec.ofNat 10 opc := by
    repeat (first
      | exact BitVec.extractLsb'_eq_self
      | refine (BitVec.extractLsb'_append_eq_of_le (by decide)).trans ?_
      | refine (BitVec.extractLsb'_append_eq_of_add_le (by decide)).trans ?_)
  rw [opcOf, h, BitVec.toNat_ofNat]

theorem wordA_low (opc : Nat) (f : FmtA) : (wordA opc f).extractLsb' 0 8 = 0 := by
  repeat (first
    | exact BitVec.extractLsb'_eq_self
    | refine (BitVec.extractLsb'_append_eq_of_le (by decide)).trans ?_
    | refine (BitVec.extractLsb'_append_eq_of_add_le (by decide)).trans ?_)

/-- The word of a format G body. -/
abbrev wordG (opc : Nat) (f : FmtG) : Quad := encodeTop opc f.h ++ f.win ++ f.count ++ f.imm

theorem decodeG_word (opc : Nat) (f : FmtG) : decodeG (wordG opc f) = f := by
  obtain ⟨⟨p, m, t, x, t0, t1⟩, a0, a1, a2⟩ := f
  simp only [decodeG, decodeHdr, wordG, encodeTop, FmtG.mk.injEq, Hdr.mk.injEq]
  refine ⟨⟨?_, ?_, ?_, ?_, ?_, ?_⟩, ?_, ?_, ?_⟩ <;>
  repeat (first
    | exact BitVec.extractLsb'_eq_self
    | refine (BitVec.extractLsb'_append_eq_of_le (by decide)).trans ?_
    | refine (BitVec.extractLsb'_append_eq_of_add_le (by decide)).trans ?_)

theorem opcOf_wordG (opc : Nat) (f : FmtG) : opcOf (wordG opc f) = opc % 1024 := by
  have h : (wordG opc f).extractLsb' 118 10 = BitVec.ofNat 10 opc := by
    repeat (first
      | exact BitVec.extractLsb'_eq_self
      | refine (BitVec.extractLsb'_append_eq_of_le (by decide)).trans ?_
      | refine (BitVec.extractLsb'_append_eq_of_add_le (by decide)).trans ?_)
  rw [opcOf, h, BitVec.toNat_ofNat]

/-- The word of a format B body. -/
abbrev wordB (opc : Nat) (f : FmtB) : Quad := encodeTop opc f.h ++ f.boff ++ f.exit ++ (0 : BitVec 21)

theorem decodeB_word (opc : Nat) (f : FmtB) : decodeB (wordB opc f) = f := by
  obtain ⟨⟨p, m, t, x, t0, t1⟩, a0, a1⟩ := f
  simp only [decodeB, decodeHdr, wordB, encodeTop, FmtB.mk.injEq, Hdr.mk.injEq]
  refine ⟨⟨?_, ?_, ?_, ?_, ?_, ?_⟩, ?_, ?_⟩ <;>
  repeat (first
    | exact BitVec.extractLsb'_eq_self
    | refine (BitVec.extractLsb'_append_eq_of_le (by decide)).trans ?_
    | refine (BitVec.extractLsb'_append_eq_of_add_le (by decide)).trans ?_)

theorem opcOf_wordB (opc : Nat) (f : FmtB) : opcOf (wordB opc f) = opc % 1024 := by
  have h : (wordB opc f).extractLsb' 118 10 = BitVec.ofNat 10 opc := by
    repeat (first
      | exact BitVec.extractLsb'_eq_self
      | refine (BitVec.extractLsb'_append_eq_of_le (by decide)).trans ?_
      | refine (BitVec.extractLsb'_append_eq_of_add_le (by decide)).trans ?_)
  rw [opcOf, h, BitVec.toNat_ofNat]

theorem wordB_low (opc : Nat) (f : FmtB) : (wordB opc f).extractLsb' 0 21 = 0 := by
  repeat (first
    | exact BitVec.extractLsb'_eq_self
    | refine (BitVec.extractLsb'_append_eq_of_le (by decide)).trans ?_
    | refine (BitVec.extractLsb'_append_eq_of_add_le (by decide)).trans ?_)

/-- The word of a format M body. -/
abbrev wordM (opc : Nat) (f : FmtM) : Quad := encodeTop opc f.h ++ f.off ++ f.lsid ++ f.ord ++ f.scope ++ f.ty ++ f.hv ++ f.hreg ++ f.low

theorem decodeM_word (opc : Nat) (f : FmtM) : decodeM (wordM opc f) = f := by
  obtain ⟨⟨p, m, t, x, t0, t1⟩, a0, a1, a2, a3, a4, a5, a6, a7⟩ := f
  simp only [decodeM, decodeHdr, wordM, encodeTop, FmtM.mk.injEq, Hdr.mk.injEq]
  refine ⟨⟨?_, ?_, ?_, ?_, ?_, ?_⟩, ?_, ?_, ?_, ?_, ?_, ?_, ?_, ?_⟩ <;>
  repeat (first
    | exact BitVec.extractLsb'_eq_self
    | refine (BitVec.extractLsb'_append_eq_of_le (by decide)).trans ?_
    | refine (BitVec.extractLsb'_append_eq_of_add_le (by decide)).trans ?_)

theorem opcOf_wordM (opc : Nat) (f : FmtM) : opcOf (wordM opc f) = opc % 1024 := by
  have h : (wordM opc f).extractLsb' 118 10 = BitVec.ofNat 10 opc := by
    repeat (first
      | exact BitVec.extractLsb'_eq_self
      | refine (BitVec.extractLsb'_append_eq_of_le (by decide)).trans ?_
      | refine (BitVec.extractLsb'_append_eq_of_add_le (by decide)).trans ?_)
  rw [opcOf, h, BitVec.toNat_ofNat]

/-- The word of a format X body. -/
abbrev wordX (opc : Nat) (f : FmtX) : Quad := encodeTop opc f.h ++ f.acc ++ f.ksteps ++ f.pstride ++ f.low

theorem decodeX_word (opc : Nat) (f : FmtX) : decodeX (wordX opc f) = f := by
  obtain ⟨⟨p, m, t, x, t0, t1⟩, a0, a1, a2, a3⟩ := f
  simp only [decodeX, decodeHdr, wordX, encodeTop, FmtX.mk.injEq, Hdr.mk.injEq]
  refine ⟨⟨?_, ?_, ?_, ?_, ?_, ?_⟩, ?_, ?_, ?_, ?_⟩ <;>
  repeat (first
    | exact BitVec.extractLsb'_eq_self
    | refine (BitVec.extractLsb'_append_eq_of_le (by decide)).trans ?_
    | refine (BitVec.extractLsb'_append_eq_of_add_le (by decide)).trans ?_)

theorem opcOf_wordX (opc : Nat) (f : FmtX) : opcOf (wordX opc f) = opc % 1024 := by
  have h : (wordX opc f).extractLsb' 118 10 = BitVec.ofNat 10 opc := by
    repeat (first
      | exact BitVec.extractLsb'_eq_self
      | refine (BitVec.extractLsb'_append_eq_of_le (by decide)).trans ?_
      | refine (BitVec.extractLsb'_append_eq_of_add_le (by decide)).trans ?_)
  rw [opcOf, h, BitVec.toNat_ofNat]

/-- The word of a format E body. -/
abbrev wordE (opc : Nat) (f : FmtE) : Quad := encodeTop opc f.h ++ f.eng ++ f.chan ++ f.flags ++ f.card

theorem decodeE_word (opc : Nat) (f : FmtE) : decodeE (wordE opc f) = f := by
  obtain ⟨⟨p, m, t, x, t0, t1⟩, a0, a1, a2, a3⟩ := f
  simp only [decodeE, decodeHdr, wordE, encodeTop, FmtE.mk.injEq, Hdr.mk.injEq]
  refine ⟨⟨?_, ?_, ?_, ?_, ?_, ?_⟩, ?_, ?_, ?_, ?_⟩ <;>
  repeat (first
    | exact BitVec.extractLsb'_eq_self
    | refine (BitVec.extractLsb'_append_eq_of_le (by decide)).trans ?_
    | refine (BitVec.extractLsb'_append_eq_of_add_le (by decide)).trans ?_)

theorem opcOf_wordE (opc : Nat) (f : FmtE) : opcOf (wordE opc f) = opc % 1024 := by
  have h : (wordE opc f).extractLsb' 118 10 = BitVec.ofNat 10 opc := by
    repeat (first
      | exact BitVec.extractLsb'_eq_self
      | refine (BitVec.extractLsb'_append_eq_of_le (by decide)).trans ?_
      | refine (BitVec.extractLsb'_append_eq_of_add_le (by decide)).trans ?_)
  rw [opcOf, h, BitVec.toNat_ofNat]

/-- The word of a format Y body. -/
abbrev wordY (opc : Nat) (f : FmtY) : Quad := encodeTop opc f.h ++ f.csr ++ f.imm

theorem decodeY_word (opc : Nat) (f : FmtY) : decodeY (wordY opc f) = f := by
  obtain ⟨⟨p, m, t, x, t0, t1⟩, a0, a1⟩ := f
  simp only [decodeY, decodeHdr, wordY, encodeTop, FmtY.mk.injEq, Hdr.mk.injEq]
  refine ⟨⟨?_, ?_, ?_, ?_, ?_, ?_⟩, ?_, ?_⟩ <;>
  repeat (first
    | exact BitVec.extractLsb'_eq_self
    | refine (BitVec.extractLsb'_append_eq_of_le (by decide)).trans ?_
    | refine (BitVec.extractLsb'_append_eq_of_add_le (by decide)).trans ?_)

theorem opcOf_wordY (opc : Nat) (f : FmtY) : opcOf (wordY opc f) = opc % 1024 := by
  have h : (wordY opc f).extractLsb' 118 10 = BitVec.ofNat 10 opc := by
    repeat (first
      | exact BitVec.extractLsb'_eq_self
      | refine (BitVec.extractLsb'_append_eq_of_le (by decide)).trans ?_
      | refine (BitVec.extractLsb'_append_eq_of_add_le (by decide)).trans ?_)
  rw [opcOf, h, BitVec.toNat_ofNat]

end Sys2Proof
end

