-- ==== Sys2Proof/Laws/Sparse.lean ====
section
/-! SUPPORT. Laws of the sparse maps: a read after a write, and that every write keeps the canonical form. -/

namespace Sys2Proof

/-- Putting below the first key. -/
theorem Sparse.put_lt {α : Type} [DecidableEq α] {d : α} {a k : Nat} {w : α} {m : List (Nat × α)} (v : α) (h : k < a) :
    Sparse.put d ((a, w) :: m) k v = if v = d then (a, w) :: m else (k, v) :: (a, w) :: m := by
  simp [Sparse.put, h]

/-- Putting at the first key. -/
theorem Sparse.put_eq {α : Type} [DecidableEq α] {d : α} {k : Nat} {w : α} {m : List (Nat × α)} (v : α) :
    Sparse.put d ((k, w) :: m) k v = if v = d then m else (k, v) :: m := by
  simp [Sparse.put]

/-- Putting above the first key. -/
theorem Sparse.put_gt {α : Type} [DecidableEq α] {d : α} {a k : Nat} {w : α} {m : List (Nat × α)} (v : α) (h : a < k) :
    Sparse.put d ((a, w) :: m) k v = (a, w) :: Sparse.put d m k v := by
  have h1 : ¬ k < a := by omega
  have h2 : ¬ a = k := by omega
  simp [Sparse.put, h1, h2]

theorem Sparse.get_eq {α : Type} {d : α} {k : Nat} {w : α} {m : List (Nat × α)} : Sparse.get d ((k, w) :: m) k = w := by
  simp [Sparse.get]

theorem Sparse.get_ne {α : Type} {d : α} {a k : Nat} {w : α} {m : List (Nat × α)} (h : a ≠ k) :
    Sparse.get d ((a, w) :: m) k = Sparse.get d m k := by
  simp [Sparse.get, h]

theorem Sparse.okFrom_cons {α : Type} [DecidableEq α] {d : α} {lo a : Nat} {w : α} {m : List (Nat × α)} :
    Sparse.okFrom d lo ((a, w) :: m) = true ↔ lo ≤ a ∧ w ≠ d ∧ Sparse.okFrom d (a + 1) m = true := by
  simp [Sparse.okFrom, and_assoc]

theorem Sparse.okFrom_mono {α : Type} [DecidableEq α] {d : α} {lo lo' : Nat} {m : List (Nat × α)} (h : lo' ≤ lo)
    (hm : Sparse.okFrom d lo m = true) : Sparse.okFrom d lo' m = true := by
  cases m with
  | nil => rfl
  | cons e m =>
    obtain ⟨a, w⟩ := e
    rw [Sparse.okFrom_cons] at hm ⊢
    exact ⟨by omega, hm.2⟩

/-- A key below every listed one reads as the default. -/
theorem Sparse.get_below {α : Type} [DecidableEq α] {d : α} {lo k : Nat} {m : List (Nat × α)} (hm : Sparse.okFrom d lo m = true)
    (h : k < lo) : Sparse.get d m k = d := by
  induction m generalizing lo with
  | nil => rfl
  | cons e m ih =>
    obtain ⟨a, w⟩ := e
    rw [Sparse.okFrom_cons] at hm
    rw [Sparse.get_ne (by omega)]
    exact ih hm.2.2 (by omega)

theorem Sparse.put_okFrom {α : Type} [DecidableEq α] {d : α} {lo k : Nat} {m : List (Nat × α)} (v : α)
    (hm : Sparse.okFrom d lo m = true) (h : lo ≤ k) : Sparse.okFrom d lo (Sparse.put d m k v) = true := by
  induction m generalizing lo with
  | nil => by_cases hv : v = d <;> simp [Sparse.put, hv, Sparse.okFrom, h]
  | cons e m ih =>
    obtain ⟨a, w⟩ := e
    rw [Sparse.okFrom_cons] at hm
    obtain ⟨h1, h2, h3⟩ := hm
    rcases Nat.lt_trichotomy k a with hk | hk | hk
    · rw [Sparse.put_lt v hk]
      by_cases hv : v = d
      · simp [hv, Sparse.okFrom, h1, h2, h3]
      · have h4 : k + 1 ≤ a := hk
        simp [hv, Sparse.okFrom, h, h2, h3, h4]
    · subst hk
      rw [Sparse.put_eq]
      by_cases hv : v = d
      · simp only [hv, if_true]
        exact Sparse.okFrom_mono (by omega) h3
      · simp [hv, Sparse.okFrom, h, h3]
    · rw [Sparse.put_gt v hk, Sparse.okFrom_cons]
      exact ⟨h1, h2, ih h3 (by omega)⟩

/-- A write keeps the canonical form. -/
theorem Sparse.put_wf {α : Type} [DecidableEq α] {d : α} {m : List (Nat × α)} (k : Nat) (v : α) (hm : Sparse.wf d m = true) :
    Sparse.wf d (Sparse.put d m k v) = true :=
  Sparse.put_okFrom v hm (Nat.zero_le k)

/-- A change of one value keeps the canonical form. -/
theorem Sparse.upd_wf {α : Type} [DecidableEq α] {d : α} {m : List (Nat × α)} (k : Nat) (f : α → α) (hm : Sparse.wf d m = true) :
    Sparse.wf d (Sparse.upd d m k f) = true :=
  Sparse.put_wf k _ hm

/-- Elsewhere a write changes nothing, canonical or not. -/
theorem Sparse.get_put_ne {α : Type} [DecidableEq α] {d : α} {m : List (Nat × α)} {k j : Nat} (v : α) (h : j ≠ k) :
    Sparse.get d (Sparse.put d m k v) j = Sparse.get d m j := by
  induction m with
  | nil =>
    by_cases hv : v = d
    · simp [Sparse.put, hv]
    · simp [Sparse.put, hv, Sparse.get, h.symm]
  | cons e m ih =>
    obtain ⟨a, w⟩ := e
    rcases Nat.lt_trichotomy k a with hk | hk | hk
    · rw [Sparse.put_lt v hk]
      by_cases hv : v = d
      · simp [hv]
      · simp only [hv, if_false]
        exact Sparse.get_ne h.symm
    · subst hk
      rw [Sparse.put_eq, Sparse.get_ne h.symm]
      by_cases hv : v = d
      · simp [hv]
      · simp only [hv, if_false]
        exact Sparse.get_ne h.symm
    · rw [Sparse.put_gt v hk]
      by_cases hj : a = j
      · subst hj
        rw [Sparse.get_eq, Sparse.get_eq]
      · rw [Sparse.get_ne hj, Sparse.get_ne hj, ih]

theorem Sparse.get_put_okFrom {α : Type} [DecidableEq α] {d : α} {lo k : Nat} {m : List (Nat × α)} (v : α)
    (hm : Sparse.okFrom d lo m = true) : Sparse.get d (Sparse.put d m k v) k = v := by
  induction m generalizing lo with
  | nil =>
    by_cases hv : v = d
    · simp [Sparse.put, hv, Sparse.get]
    · simp [Sparse.put, hv, Sparse.get]
  | cons e m ih =>
    obtain ⟨a, w⟩ := e
    rw [Sparse.okFrom_cons] at hm
    rcases Nat.lt_trichotomy k a with hk | hk | hk
    · rw [Sparse.put_lt v hk]
      by_cases hv : v = d
      · simp only [hv, if_true]
        rw [Sparse.get_ne (by omega)]
        exact Sparse.get_below hm.2.2 (by omega)
      · simp only [hv, if_false]
        exact Sparse.get_eq
    · subst hk
      rw [Sparse.put_eq]
      by_cases hv : v = d
      · simp only [hv, if_true]
        exact Sparse.get_below hm.2.2 (by omega)
      · simp only [hv, if_false]
        exact Sparse.get_eq
    · rw [Sparse.put_gt v hk, Sparse.get_ne (by omega)]
      exact ih hm.2.2

/-- A read after a write: the value written at its key, and elsewhere what was there. -/
theorem Sparse.get_put {α : Type} [DecidableEq α] {d : α} {m : List (Nat × α)} (k : Nat) (v : α) (j : Nat)
    (hm : Sparse.wf d m = true) : Sparse.get d (Sparse.put d m k v) j = if j = k then v else Sparse.get d m j := by
  by_cases hj : j = k
  · rw [if_pos hj, hj]
    exact Sparse.get_put_okFrom v hm
  · rw [if_neg hj, Sparse.get_put_ne v hj]

end Sys2Proof
end

