-- ==== Sys2Proof/Laws/State.lean ====
section
/-! SUPPORT. One lemma per field per update: what the update leaves in that field. -/

namespace Sys2Proof.Machine

/-! ### mem -/

@[simp] theorem Upd.mem_agenda (a : Nat) (b : Byte) (s : State) : ((Upd.mem a b).apply s).agenda = s.agenda := rfl
@[simp] theorem Upd.mem_cur (a : Nat) (b : Byte) (s : State) : ((Upd.mem a b).apply s).cur = s.cur := rfl
@[simp] theorem Upd.mem_ctr (a : Nat) (b : Byte) (s : State) : ((Upd.mem a b).apply s).ctr = s.ctr := rfl
@[simp] theorem Upd.mem_tbase (a : Nat) (b : Byte) (s : State) : ((Upd.mem a b).apply s).tbase = s.tbase := rfl
@[simp] theorem Upd.mem_power (a : Nat) (b : Byte) (s : State) : ((Upd.mem a b).apply s).power = s.power := rfl
@[simp] theorem Upd.mem_nodes (a : Nat) (b : Byte) (s : State) : ((Upd.mem a b).apply s).nodes = s.nodes := rfl
@[simp] theorem Upd.mem_pads (a : Nat) (b : Byte) (s : State) : ((Upd.mem a b).apply s).pads = s.pads := rfl
@[simp] theorem Upd.mem_mem (a : Nat) (b : Byte) (s : State) : ((Upd.mem a b).apply s).mem = Sparse.put memDefault s.mem a b := rfl
@[simp] theorem Upd.mem_tables (a : Nat) (b : Byte) (s : State) : ((Upd.mem a b).apply s).tables = s.tables := rfl
@[simp] theorem Upd.mem_vers (a : Nat) (b : Byte) (s : State) : ((Upd.mem a b).apply s).vers = s.vers := rfl
@[simp] theorem Upd.mem_l2 (a : Nat) (b : Byte) (s : State) : ((Upd.mem a b).apply s).l2 = s.l2 := rfl
@[simp] theorem Upd.mem_poison (a : Nat) (b : Byte) (s : State) : ((Upd.mem a b).apply s).poison = s.poison := rfl
@[simp] theorem Upd.mem_held (a : Nat) (b : Byte) (s : State) : ((Upd.mem a b).apply s).held = s.held := rfl
@[simp] theorem Upd.mem_breqs (a : Nat) (b : Byte) (s : State) : ((Upd.mem a b).apply s).breqs = s.breqs := rfl
@[simp] theorem Upd.mem_tlb (a : Nat) (b : Byte) (s : State) : ((Upd.mem a b).apply s).tlb = s.tlb := rfl
@[simp] theorem Upd.mem_tasks (a : Nat) (b : Byte) (s : State) : ((Upd.mem a b).apply s).tasks = s.tasks := rfl
@[simp] theorem Upd.mem_parts (a : Nat) (b : Byte) (s : State) : ((Upd.mem a b).apply s).parts = s.parts := rfl
@[simp] theorem Upd.mem_cards (a : Nat) (b : Byte) (s : State) : ((Upd.mem a b).apply s).cards = s.cards := rfl
@[simp] theorem Upd.mem_flits (a : Nat) (b : Byte) (s : State) : ((Upd.mem a b).apply s).flits = s.flits := rfl
@[simp] theorem Upd.mem_results (a : Nat) (b : Byte) (s : State) : ((Upd.mem a b).apply s).results = s.results := rfl
@[simp] theorem Upd.mem_relatch (a : Nat) (b : Byte) (s : State) : ((Upd.mem a b).apply s).relatch = s.relatch := rfl
@[simp] theorem Upd.mem_drains (a : Nat) (b : Byte) (s : State) : ((Upd.mem a b).apply s).drains = s.drains := rfl
@[simp] theorem Upd.mem_unmaps (a : Nat) (b : Byte) (s : State) : ((Upd.mem a b).apply s).unmaps = s.unmaps := rfl
@[simp] theorem Upd.mem_mirror (a : Nat) (b : Byte) (s : State) : ((Upd.mem a b).apply s).mirror = s.mirror := rfl
@[simp] theorem Upd.mem_reins (a : Nat) (b : Byte) (s : State) : ((Upd.mem a b).apply s).reins = s.reins := rfl
@[simp] theorem Upd.mem_waiters (a : Nat) (b : Byte) (s : State) : ((Upd.mem a b).apply s).waiters = s.waiters := rfl
@[simp] theorem Upd.mem_since (a : Nat) (b : Byte) (s : State) : ((Upd.mem a b).apply s).since = s.since := rfl
@[simp] theorem Upd.mem_hub (a : Nat) (b : Byte) (s : State) : ((Upd.mem a b).apply s).hub = s.hub := rfl

/-! ### pad -/

@[simp] theorem Upd.pad_agenda (a : Nat) (b : Byte) (s : State) : ((Upd.pad a b).apply s).agenda = s.agenda := rfl
@[simp] theorem Upd.pad_cur (a : Nat) (b : Byte) (s : State) : ((Upd.pad a b).apply s).cur = s.cur := rfl
@[simp] theorem Upd.pad_ctr (a : Nat) (b : Byte) (s : State) : ((Upd.pad a b).apply s).ctr = s.ctr := rfl
@[simp] theorem Upd.pad_tbase (a : Nat) (b : Byte) (s : State) : ((Upd.pad a b).apply s).tbase = s.tbase := rfl
@[simp] theorem Upd.pad_power (a : Nat) (b : Byte) (s : State) : ((Upd.pad a b).apply s).power = s.power := rfl
@[simp] theorem Upd.pad_nodes (a : Nat) (b : Byte) (s : State) : ((Upd.pad a b).apply s).nodes = s.nodes := rfl
@[simp] theorem Upd.pad_pads (a : Nat) (b : Byte) (s : State) : ((Upd.pad a b).apply s).pads = Sparse.put 0 s.pads a b := rfl
@[simp] theorem Upd.pad_mem (a : Nat) (b : Byte) (s : State) : ((Upd.pad a b).apply s).mem = s.mem := rfl
@[simp] theorem Upd.pad_tables (a : Nat) (b : Byte) (s : State) : ((Upd.pad a b).apply s).tables = s.tables := rfl
@[simp] theorem Upd.pad_vers (a : Nat) (b : Byte) (s : State) : ((Upd.pad a b).apply s).vers = s.vers := rfl
@[simp] theorem Upd.pad_l2 (a : Nat) (b : Byte) (s : State) : ((Upd.pad a b).apply s).l2 = s.l2 := rfl
@[simp] theorem Upd.pad_poison (a : Nat) (b : Byte) (s : State) : ((Upd.pad a b).apply s).poison = s.poison := rfl
@[simp] theorem Upd.pad_held (a : Nat) (b : Byte) (s : State) : ((Upd.pad a b).apply s).held = s.held := rfl
@[simp] theorem Upd.pad_breqs (a : Nat) (b : Byte) (s : State) : ((Upd.pad a b).apply s).breqs = s.breqs := rfl
@[simp] theorem Upd.pad_tlb (a : Nat) (b : Byte) (s : State) : ((Upd.pad a b).apply s).tlb = s.tlb := rfl
@[simp] theorem Upd.pad_tasks (a : Nat) (b : Byte) (s : State) : ((Upd.pad a b).apply s).tasks = s.tasks := rfl
@[simp] theorem Upd.pad_parts (a : Nat) (b : Byte) (s : State) : ((Upd.pad a b).apply s).parts = s.parts := rfl
@[simp] theorem Upd.pad_cards (a : Nat) (b : Byte) (s : State) : ((Upd.pad a b).apply s).cards = s.cards := rfl
@[simp] theorem Upd.pad_flits (a : Nat) (b : Byte) (s : State) : ((Upd.pad a b).apply s).flits = s.flits := rfl
@[simp] theorem Upd.pad_results (a : Nat) (b : Byte) (s : State) : ((Upd.pad a b).apply s).results = s.results := rfl
@[simp] theorem Upd.pad_relatch (a : Nat) (b : Byte) (s : State) : ((Upd.pad a b).apply s).relatch = s.relatch := rfl
@[simp] theorem Upd.pad_drains (a : Nat) (b : Byte) (s : State) : ((Upd.pad a b).apply s).drains = s.drains := rfl
@[simp] theorem Upd.pad_unmaps (a : Nat) (b : Byte) (s : State) : ((Upd.pad a b).apply s).unmaps = s.unmaps := rfl
@[simp] theorem Upd.pad_mirror (a : Nat) (b : Byte) (s : State) : ((Upd.pad a b).apply s).mirror = s.mirror := rfl
@[simp] theorem Upd.pad_reins (a : Nat) (b : Byte) (s : State) : ((Upd.pad a b).apply s).reins = s.reins := rfl
@[simp] theorem Upd.pad_waiters (a : Nat) (b : Byte) (s : State) : ((Upd.pad a b).apply s).waiters = s.waiters := rfl
@[simp] theorem Upd.pad_since (a : Nat) (b : Byte) (s : State) : ((Upd.pad a b).apply s).since = s.since := rfl
@[simp] theorem Upd.pad_hub (a : Nat) (b : Byte) (s : State) : ((Upd.pad a b).apply s).hub = s.hub := rfl

/-! ### table -/

@[simp] theorem Upd.table_agenda (k : Nat) (w : Word) (s : State) : ((Upd.table k w).apply s).agenda = s.agenda := rfl
@[simp] theorem Upd.table_cur (k : Nat) (w : Word) (s : State) : ((Upd.table k w).apply s).cur = s.cur := rfl
@[simp] theorem Upd.table_ctr (k : Nat) (w : Word) (s : State) : ((Upd.table k w).apply s).ctr = s.ctr := rfl
@[simp] theorem Upd.table_tbase (k : Nat) (w : Word) (s : State) : ((Upd.table k w).apply s).tbase = s.tbase := rfl
@[simp] theorem Upd.table_power (k : Nat) (w : Word) (s : State) : ((Upd.table k w).apply s).power = s.power := rfl
@[simp] theorem Upd.table_nodes (k : Nat) (w : Word) (s : State) : ((Upd.table k w).apply s).nodes = s.nodes := rfl
@[simp] theorem Upd.table_pads (k : Nat) (w : Word) (s : State) : ((Upd.table k w).apply s).pads = s.pads := rfl
@[simp] theorem Upd.table_mem (k : Nat) (w : Word) (s : State) : ((Upd.table k w).apply s).mem = s.mem := rfl
@[simp] theorem Upd.table_tables (k : Nat) (w : Word) (s : State) : ((Upd.table k w).apply s).tables = Sparse.put 0 s.tables k w := rfl
@[simp] theorem Upd.table_vers (k : Nat) (w : Word) (s : State) : ((Upd.table k w).apply s).vers = s.vers := rfl
@[simp] theorem Upd.table_l2 (k : Nat) (w : Word) (s : State) : ((Upd.table k w).apply s).l2 = s.l2 := rfl
@[simp] theorem Upd.table_poison (k : Nat) (w : Word) (s : State) : ((Upd.table k w).apply s).poison = s.poison := rfl
@[simp] theorem Upd.table_held (k : Nat) (w : Word) (s : State) : ((Upd.table k w).apply s).held = s.held := rfl
@[simp] theorem Upd.table_breqs (k : Nat) (w : Word) (s : State) : ((Upd.table k w).apply s).breqs = s.breqs := rfl
@[simp] theorem Upd.table_tlb (k : Nat) (w : Word) (s : State) : ((Upd.table k w).apply s).tlb = s.tlb := rfl
@[simp] theorem Upd.table_tasks (k : Nat) (w : Word) (s : State) : ((Upd.table k w).apply s).tasks = s.tasks := rfl
@[simp] theorem Upd.table_parts (k : Nat) (w : Word) (s : State) : ((Upd.table k w).apply s).parts = s.parts := rfl
@[simp] theorem Upd.table_cards (k : Nat) (w : Word) (s : State) : ((Upd.table k w).apply s).cards = s.cards := rfl
@[simp] theorem Upd.table_flits (k : Nat) (w : Word) (s : State) : ((Upd.table k w).apply s).flits = s.flits := rfl
@[simp] theorem Upd.table_results (k : Nat) (w : Word) (s : State) : ((Upd.table k w).apply s).results = s.results := rfl
@[simp] theorem Upd.table_relatch (k : Nat) (w : Word) (s : State) : ((Upd.table k w).apply s).relatch = s.relatch := rfl
@[simp] theorem Upd.table_drains (k : Nat) (w : Word) (s : State) : ((Upd.table k w).apply s).drains = s.drains := rfl
@[simp] theorem Upd.table_unmaps (k : Nat) (w : Word) (s : State) : ((Upd.table k w).apply s).unmaps = s.unmaps := rfl
@[simp] theorem Upd.table_mirror (k : Nat) (w : Word) (s : State) : ((Upd.table k w).apply s).mirror = s.mirror := rfl
@[simp] theorem Upd.table_reins (k : Nat) (w : Word) (s : State) : ((Upd.table k w).apply s).reins = s.reins := rfl
@[simp] theorem Upd.table_waiters (k : Nat) (w : Word) (s : State) : ((Upd.table k w).apply s).waiters = s.waiters := rfl
@[simp] theorem Upd.table_since (k : Nat) (w : Word) (s : State) : ((Upd.table k w).apply s).since = s.since := rfl
@[simp] theorem Upd.table_hub (k : Nat) (w : Word) (s : State) : ((Upd.table k w).apply s).hub = s.hub := rfl

/-! ### ver -/

@[simp] theorem Upd.ver_agenda (k : Nat) (v : VerWord) (s : State) : ((Upd.ver k v).apply s).agenda = s.agenda := rfl
@[simp] theorem Upd.ver_cur (k : Nat) (v : VerWord) (s : State) : ((Upd.ver k v).apply s).cur = s.cur := rfl
@[simp] theorem Upd.ver_ctr (k : Nat) (v : VerWord) (s : State) : ((Upd.ver k v).apply s).ctr = s.ctr := rfl
@[simp] theorem Upd.ver_tbase (k : Nat) (v : VerWord) (s : State) : ((Upd.ver k v).apply s).tbase = s.tbase := rfl
@[simp] theorem Upd.ver_power (k : Nat) (v : VerWord) (s : State) : ((Upd.ver k v).apply s).power = s.power := rfl
@[simp] theorem Upd.ver_nodes (k : Nat) (v : VerWord) (s : State) : ((Upd.ver k v).apply s).nodes = s.nodes := rfl
@[simp] theorem Upd.ver_pads (k : Nat) (v : VerWord) (s : State) : ((Upd.ver k v).apply s).pads = s.pads := rfl
@[simp] theorem Upd.ver_mem (k : Nat) (v : VerWord) (s : State) : ((Upd.ver k v).apply s).mem = s.mem := rfl
@[simp] theorem Upd.ver_tables (k : Nat) (v : VerWord) (s : State) : ((Upd.ver k v).apply s).tables = s.tables := rfl
@[simp] theorem Upd.ver_vers (k : Nat) (v : VerWord) (s : State) : ((Upd.ver k v).apply s).vers = Sparse.put VerWord.reset s.vers k v := rfl
@[simp] theorem Upd.ver_l2 (k : Nat) (v : VerWord) (s : State) : ((Upd.ver k v).apply s).l2 = s.l2 := rfl
@[simp] theorem Upd.ver_poison (k : Nat) (v : VerWord) (s : State) : ((Upd.ver k v).apply s).poison = s.poison := rfl
@[simp] theorem Upd.ver_held (k : Nat) (v : VerWord) (s : State) : ((Upd.ver k v).apply s).held = s.held := rfl
@[simp] theorem Upd.ver_breqs (k : Nat) (v : VerWord) (s : State) : ((Upd.ver k v).apply s).breqs = s.breqs := rfl
@[simp] theorem Upd.ver_tlb (k : Nat) (v : VerWord) (s : State) : ((Upd.ver k v).apply s).tlb = s.tlb := rfl
@[simp] theorem Upd.ver_tasks (k : Nat) (v : VerWord) (s : State) : ((Upd.ver k v).apply s).tasks = s.tasks := rfl
@[simp] theorem Upd.ver_parts (k : Nat) (v : VerWord) (s : State) : ((Upd.ver k v).apply s).parts = s.parts := rfl
@[simp] theorem Upd.ver_cards (k : Nat) (v : VerWord) (s : State) : ((Upd.ver k v).apply s).cards = s.cards := rfl
@[simp] theorem Upd.ver_flits (k : Nat) (v : VerWord) (s : State) : ((Upd.ver k v).apply s).flits = s.flits := rfl
@[simp] theorem Upd.ver_results (k : Nat) (v : VerWord) (s : State) : ((Upd.ver k v).apply s).results = s.results := rfl
@[simp] theorem Upd.ver_relatch (k : Nat) (v : VerWord) (s : State) : ((Upd.ver k v).apply s).relatch = s.relatch := rfl
@[simp] theorem Upd.ver_drains (k : Nat) (v : VerWord) (s : State) : ((Upd.ver k v).apply s).drains = s.drains := rfl
@[simp] theorem Upd.ver_unmaps (k : Nat) (v : VerWord) (s : State) : ((Upd.ver k v).apply s).unmaps = s.unmaps := rfl
@[simp] theorem Upd.ver_mirror (k : Nat) (v : VerWord) (s : State) : ((Upd.ver k v).apply s).mirror = s.mirror := rfl
@[simp] theorem Upd.ver_reins (k : Nat) (v : VerWord) (s : State) : ((Upd.ver k v).apply s).reins = s.reins := rfl
@[simp] theorem Upd.ver_waiters (k : Nat) (v : VerWord) (s : State) : ((Upd.ver k v).apply s).waiters = s.waiters := rfl
@[simp] theorem Upd.ver_since (k : Nat) (v : VerWord) (s : State) : ((Upd.ver k v).apply s).since = s.since := rfl
@[simp] theorem Upd.ver_hub (k : Nat) (v : VerWord) (s : State) : ((Upd.ver k v).apply s).hub = s.hub := rfl

/-! ### l2 -/

@[simp] theorem Upd.l2_agenda (l : Nat) (x : Option L2Line) (s : State) : ((Upd.l2 l x).apply s).agenda = s.agenda := rfl
@[simp] theorem Upd.l2_cur (l : Nat) (x : Option L2Line) (s : State) : ((Upd.l2 l x).apply s).cur = s.cur := rfl
@[simp] theorem Upd.l2_ctr (l : Nat) (x : Option L2Line) (s : State) : ((Upd.l2 l x).apply s).ctr = s.ctr := rfl
@[simp] theorem Upd.l2_tbase (l : Nat) (x : Option L2Line) (s : State) : ((Upd.l2 l x).apply s).tbase = s.tbase := rfl
@[simp] theorem Upd.l2_power (l : Nat) (x : Option L2Line) (s : State) : ((Upd.l2 l x).apply s).power = s.power := rfl
@[simp] theorem Upd.l2_nodes (l : Nat) (x : Option L2Line) (s : State) : ((Upd.l2 l x).apply s).nodes = s.nodes := rfl
@[simp] theorem Upd.l2_pads (l : Nat) (x : Option L2Line) (s : State) : ((Upd.l2 l x).apply s).pads = s.pads := rfl
@[simp] theorem Upd.l2_mem (l : Nat) (x : Option L2Line) (s : State) : ((Upd.l2 l x).apply s).mem = s.mem := rfl
@[simp] theorem Upd.l2_tables (l : Nat) (x : Option L2Line) (s : State) : ((Upd.l2 l x).apply s).tables = s.tables := rfl
@[simp] theorem Upd.l2_vers (l : Nat) (x : Option L2Line) (s : State) : ((Upd.l2 l x).apply s).vers = s.vers := rfl
@[simp] theorem Upd.l2_l2 (l : Nat) (x : Option L2Line) (s : State) : ((Upd.l2 l x).apply s).l2 = Sparse.put none s.l2 l x := rfl
@[simp] theorem Upd.l2_poison (l : Nat) (x : Option L2Line) (s : State) : ((Upd.l2 l x).apply s).poison = s.poison := rfl
@[simp] theorem Upd.l2_held (l : Nat) (x : Option L2Line) (s : State) : ((Upd.l2 l x).apply s).held = s.held := rfl
@[simp] theorem Upd.l2_breqs (l : Nat) (x : Option L2Line) (s : State) : ((Upd.l2 l x).apply s).breqs = s.breqs := rfl
@[simp] theorem Upd.l2_tlb (l : Nat) (x : Option L2Line) (s : State) : ((Upd.l2 l x).apply s).tlb = s.tlb := rfl
@[simp] theorem Upd.l2_tasks (l : Nat) (x : Option L2Line) (s : State) : ((Upd.l2 l x).apply s).tasks = s.tasks := rfl
@[simp] theorem Upd.l2_parts (l : Nat) (x : Option L2Line) (s : State) : ((Upd.l2 l x).apply s).parts = s.parts := rfl
@[simp] theorem Upd.l2_cards (l : Nat) (x : Option L2Line) (s : State) : ((Upd.l2 l x).apply s).cards = s.cards := rfl
@[simp] theorem Upd.l2_flits (l : Nat) (x : Option L2Line) (s : State) : ((Upd.l2 l x).apply s).flits = s.flits := rfl
@[simp] theorem Upd.l2_results (l : Nat) (x : Option L2Line) (s : State) : ((Upd.l2 l x).apply s).results = s.results := rfl
@[simp] theorem Upd.l2_relatch (l : Nat) (x : Option L2Line) (s : State) : ((Upd.l2 l x).apply s).relatch = s.relatch := rfl
@[simp] theorem Upd.l2_drains (l : Nat) (x : Option L2Line) (s : State) : ((Upd.l2 l x).apply s).drains = s.drains := rfl
@[simp] theorem Upd.l2_unmaps (l : Nat) (x : Option L2Line) (s : State) : ((Upd.l2 l x).apply s).unmaps = s.unmaps := rfl
@[simp] theorem Upd.l2_mirror (l : Nat) (x : Option L2Line) (s : State) : ((Upd.l2 l x).apply s).mirror = s.mirror := rfl
@[simp] theorem Upd.l2_reins (l : Nat) (x : Option L2Line) (s : State) : ((Upd.l2 l x).apply s).reins = s.reins := rfl
@[simp] theorem Upd.l2_waiters (l : Nat) (x : Option L2Line) (s : State) : ((Upd.l2 l x).apply s).waiters = s.waiters := rfl
@[simp] theorem Upd.l2_since (l : Nat) (x : Option L2Line) (s : State) : ((Upd.l2 l x).apply s).since = s.since := rfl
@[simp] theorem Upd.l2_hub (l : Nat) (x : Option L2Line) (s : State) : ((Upd.l2 l x).apply s).hub = s.hub := rfl

/-! ### poison -/

@[simp] theorem Upd.poison_agenda (l : Nat) (b : Bool) (s : State) : ((Upd.poison l b).apply s).agenda = s.agenda := rfl
@[simp] theorem Upd.poison_cur (l : Nat) (b : Bool) (s : State) : ((Upd.poison l b).apply s).cur = s.cur := rfl
@[simp] theorem Upd.poison_ctr (l : Nat) (b : Bool) (s : State) : ((Upd.poison l b).apply s).ctr = s.ctr := rfl
@[simp] theorem Upd.poison_tbase (l : Nat) (b : Bool) (s : State) : ((Upd.poison l b).apply s).tbase = s.tbase := rfl
@[simp] theorem Upd.poison_power (l : Nat) (b : Bool) (s : State) : ((Upd.poison l b).apply s).power = s.power := rfl
@[simp] theorem Upd.poison_nodes (l : Nat) (b : Bool) (s : State) : ((Upd.poison l b).apply s).nodes = s.nodes := rfl
@[simp] theorem Upd.poison_pads (l : Nat) (b : Bool) (s : State) : ((Upd.poison l b).apply s).pads = s.pads := rfl
@[simp] theorem Upd.poison_mem (l : Nat) (b : Bool) (s : State) : ((Upd.poison l b).apply s).mem = s.mem := rfl
@[simp] theorem Upd.poison_tables (l : Nat) (b : Bool) (s : State) : ((Upd.poison l b).apply s).tables = s.tables := rfl
@[simp] theorem Upd.poison_vers (l : Nat) (b : Bool) (s : State) : ((Upd.poison l b).apply s).vers = s.vers := rfl
@[simp] theorem Upd.poison_l2 (l : Nat) (b : Bool) (s : State) : ((Upd.poison l b).apply s).l2 = s.l2 := rfl
@[simp] theorem Upd.poison_poison (l : Nat) (b : Bool) (s : State) : ((Upd.poison l b).apply s).poison = Sparse.put false s.poison l b := rfl
@[simp] theorem Upd.poison_held (l : Nat) (b : Bool) (s : State) : ((Upd.poison l b).apply s).held = s.held := rfl
@[simp] theorem Upd.poison_breqs (l : Nat) (b : Bool) (s : State) : ((Upd.poison l b).apply s).breqs = s.breqs := rfl
@[simp] theorem Upd.poison_tlb (l : Nat) (b : Bool) (s : State) : ((Upd.poison l b).apply s).tlb = s.tlb := rfl
@[simp] theorem Upd.poison_tasks (l : Nat) (b : Bool) (s : State) : ((Upd.poison l b).apply s).tasks = s.tasks := rfl
@[simp] theorem Upd.poison_parts (l : Nat) (b : Bool) (s : State) : ((Upd.poison l b).apply s).parts = s.parts := rfl
@[simp] theorem Upd.poison_cards (l : Nat) (b : Bool) (s : State) : ((Upd.poison l b).apply s).cards = s.cards := rfl
@[simp] theorem Upd.poison_flits (l : Nat) (b : Bool) (s : State) : ((Upd.poison l b).apply s).flits = s.flits := rfl
@[simp] theorem Upd.poison_results (l : Nat) (b : Bool) (s : State) : ((Upd.poison l b).apply s).results = s.results := rfl
@[simp] theorem Upd.poison_relatch (l : Nat) (b : Bool) (s : State) : ((Upd.poison l b).apply s).relatch = s.relatch := rfl
@[simp] theorem Upd.poison_drains (l : Nat) (b : Bool) (s : State) : ((Upd.poison l b).apply s).drains = s.drains := rfl
@[simp] theorem Upd.poison_unmaps (l : Nat) (b : Bool) (s : State) : ((Upd.poison l b).apply s).unmaps = s.unmaps := rfl
@[simp] theorem Upd.poison_mirror (l : Nat) (b : Bool) (s : State) : ((Upd.poison l b).apply s).mirror = s.mirror := rfl
@[simp] theorem Upd.poison_reins (l : Nat) (b : Bool) (s : State) : ((Upd.poison l b).apply s).reins = s.reins := rfl
@[simp] theorem Upd.poison_waiters (l : Nat) (b : Bool) (s : State) : ((Upd.poison l b).apply s).waiters = s.waiters := rfl
@[simp] theorem Upd.poison_since (l : Nat) (b : Bool) (s : State) : ((Upd.poison l b).apply s).since = s.since := rfl
@[simp] theorem Upd.poison_hub (l : Nat) (b : Bool) (s : State) : ((Upd.poison l b).apply s).hub = s.hub := rfl

/-! ### node -/

@[simp] theorem Upd.node_agenda (n : Nat) (f : Node → Node) (s : State) : ((Upd.node n f).apply s).agenda = s.agenda := rfl
@[simp] theorem Upd.node_cur (n : Nat) (f : Node → Node) (s : State) : ((Upd.node n f).apply s).cur = s.cur := rfl
@[simp] theorem Upd.node_ctr (n : Nat) (f : Node → Node) (s : State) : ((Upd.node n f).apply s).ctr = s.ctr := rfl
@[simp] theorem Upd.node_tbase (n : Nat) (f : Node → Node) (s : State) : ((Upd.node n f).apply s).tbase = s.tbase := rfl
@[simp] theorem Upd.node_power (n : Nat) (f : Node → Node) (s : State) : ((Upd.node n f).apply s).power = s.power := rfl
@[simp] theorem Upd.node_nodes (n : Nat) (f : Node → Node) (s : State) : ((Upd.node n f).apply s).nodes = Sparse.upd Node.reset s.nodes n f := rfl
@[simp] theorem Upd.node_pads (n : Nat) (f : Node → Node) (s : State) : ((Upd.node n f).apply s).pads = s.pads := rfl
@[simp] theorem Upd.node_mem (n : Nat) (f : Node → Node) (s : State) : ((Upd.node n f).apply s).mem = s.mem := rfl
@[simp] theorem Upd.node_tables (n : Nat) (f : Node → Node) (s : State) : ((Upd.node n f).apply s).tables = s.tables := rfl
@[simp] theorem Upd.node_vers (n : Nat) (f : Node → Node) (s : State) : ((Upd.node n f).apply s).vers = s.vers := rfl
@[simp] theorem Upd.node_l2 (n : Nat) (f : Node → Node) (s : State) : ((Upd.node n f).apply s).l2 = s.l2 := rfl
@[simp] theorem Upd.node_poison (n : Nat) (f : Node → Node) (s : State) : ((Upd.node n f).apply s).poison = s.poison := rfl
@[simp] theorem Upd.node_held (n : Nat) (f : Node → Node) (s : State) : ((Upd.node n f).apply s).held = s.held := rfl
@[simp] theorem Upd.node_breqs (n : Nat) (f : Node → Node) (s : State) : ((Upd.node n f).apply s).breqs = s.breqs := rfl
@[simp] theorem Upd.node_tlb (n : Nat) (f : Node → Node) (s : State) : ((Upd.node n f).apply s).tlb = s.tlb := rfl
@[simp] theorem Upd.node_tasks (n : Nat) (f : Node → Node) (s : State) : ((Upd.node n f).apply s).tasks = s.tasks := rfl
@[simp] theorem Upd.node_parts (n : Nat) (f : Node → Node) (s : State) : ((Upd.node n f).apply s).parts = s.parts := rfl
@[simp] theorem Upd.node_cards (n : Nat) (f : Node → Node) (s : State) : ((Upd.node n f).apply s).cards = s.cards := rfl
@[simp] theorem Upd.node_flits (n : Nat) (f : Node → Node) (s : State) : ((Upd.node n f).apply s).flits = s.flits := rfl
@[simp] theorem Upd.node_results (n : Nat) (f : Node → Node) (s : State) : ((Upd.node n f).apply s).results = s.results := rfl
@[simp] theorem Upd.node_relatch (n : Nat) (f : Node → Node) (s : State) : ((Upd.node n f).apply s).relatch = s.relatch := rfl
@[simp] theorem Upd.node_drains (n : Nat) (f : Node → Node) (s : State) : ((Upd.node n f).apply s).drains = s.drains := rfl
@[simp] theorem Upd.node_unmaps (n : Nat) (f : Node → Node) (s : State) : ((Upd.node n f).apply s).unmaps = s.unmaps := rfl
@[simp] theorem Upd.node_mirror (n : Nat) (f : Node → Node) (s : State) : ((Upd.node n f).apply s).mirror = s.mirror := rfl
@[simp] theorem Upd.node_reins (n : Nat) (f : Node → Node) (s : State) : ((Upd.node n f).apply s).reins = s.reins := rfl
@[simp] theorem Upd.node_waiters (n : Nat) (f : Node → Node) (s : State) : ((Upd.node n f).apply s).waiters = s.waiters := rfl
@[simp] theorem Upd.node_since (n : Nat) (f : Node → Node) (s : State) : ((Upd.node n f).apply s).since = s.since := rfl
@[simp] theorem Upd.node_hub (n : Nat) (f : Node → Node) (s : State) : ((Upd.node n f).apply s).hub = s.hub := rfl

/-! ### task -/

@[simp] theorem Upd.task_agenda (t : Nat) (f : Option Task → Option Task) (s : State) : ((Upd.task t f).apply s).agenda = s.agenda := rfl
@[simp] theorem Upd.task_cur (t : Nat) (f : Option Task → Option Task) (s : State) : ((Upd.task t f).apply s).cur = s.cur := rfl
@[simp] theorem Upd.task_ctr (t : Nat) (f : Option Task → Option Task) (s : State) : ((Upd.task t f).apply s).ctr = s.ctr := rfl
@[simp] theorem Upd.task_tbase (t : Nat) (f : Option Task → Option Task) (s : State) : ((Upd.task t f).apply s).tbase = s.tbase := rfl
@[simp] theorem Upd.task_power (t : Nat) (f : Option Task → Option Task) (s : State) : ((Upd.task t f).apply s).power = s.power := rfl
@[simp] theorem Upd.task_nodes (t : Nat) (f : Option Task → Option Task) (s : State) : ((Upd.task t f).apply s).nodes = s.nodes := rfl
@[simp] theorem Upd.task_pads (t : Nat) (f : Option Task → Option Task) (s : State) : ((Upd.task t f).apply s).pads = s.pads := rfl
@[simp] theorem Upd.task_mem (t : Nat) (f : Option Task → Option Task) (s : State) : ((Upd.task t f).apply s).mem = s.mem := rfl
@[simp] theorem Upd.task_tables (t : Nat) (f : Option Task → Option Task) (s : State) : ((Upd.task t f).apply s).tables = s.tables := rfl
@[simp] theorem Upd.task_vers (t : Nat) (f : Option Task → Option Task) (s : State) : ((Upd.task t f).apply s).vers = s.vers := rfl
@[simp] theorem Upd.task_l2 (t : Nat) (f : Option Task → Option Task) (s : State) : ((Upd.task t f).apply s).l2 = s.l2 := rfl
@[simp] theorem Upd.task_poison (t : Nat) (f : Option Task → Option Task) (s : State) : ((Upd.task t f).apply s).poison = s.poison := rfl
@[simp] theorem Upd.task_held (t : Nat) (f : Option Task → Option Task) (s : State) : ((Upd.task t f).apply s).held = s.held := rfl
@[simp] theorem Upd.task_breqs (t : Nat) (f : Option Task → Option Task) (s : State) : ((Upd.task t f).apply s).breqs = s.breqs := rfl
@[simp] theorem Upd.task_tlb (t : Nat) (f : Option Task → Option Task) (s : State) : ((Upd.task t f).apply s).tlb = s.tlb := rfl
@[simp] theorem Upd.task_tasks (t : Nat) (f : Option Task → Option Task) (s : State) : ((Upd.task t f).apply s).tasks = Sparse.upd none s.tasks t f := rfl
@[simp] theorem Upd.task_parts (t : Nat) (f : Option Task → Option Task) (s : State) : ((Upd.task t f).apply s).parts = s.parts := rfl
@[simp] theorem Upd.task_cards (t : Nat) (f : Option Task → Option Task) (s : State) : ((Upd.task t f).apply s).cards = s.cards := rfl
@[simp] theorem Upd.task_flits (t : Nat) (f : Option Task → Option Task) (s : State) : ((Upd.task t f).apply s).flits = s.flits := rfl
@[simp] theorem Upd.task_results (t : Nat) (f : Option Task → Option Task) (s : State) : ((Upd.task t f).apply s).results = s.results := rfl
@[simp] theorem Upd.task_relatch (t : Nat) (f : Option Task → Option Task) (s : State) : ((Upd.task t f).apply s).relatch = s.relatch := rfl
@[simp] theorem Upd.task_drains (t : Nat) (f : Option Task → Option Task) (s : State) : ((Upd.task t f).apply s).drains = s.drains := rfl
@[simp] theorem Upd.task_unmaps (t : Nat) (f : Option Task → Option Task) (s : State) : ((Upd.task t f).apply s).unmaps = s.unmaps := rfl
@[simp] theorem Upd.task_mirror (t : Nat) (f : Option Task → Option Task) (s : State) : ((Upd.task t f).apply s).mirror = s.mirror := rfl
@[simp] theorem Upd.task_reins (t : Nat) (f : Option Task → Option Task) (s : State) : ((Upd.task t f).apply s).reins = s.reins := rfl
@[simp] theorem Upd.task_waiters (t : Nat) (f : Option Task → Option Task) (s : State) : ((Upd.task t f).apply s).waiters = s.waiters := rfl
@[simp] theorem Upd.task_since (t : Nat) (f : Option Task → Option Task) (s : State) : ((Upd.task t f).apply s).since = s.since := rfl
@[simp] theorem Upd.task_hub (t : Nat) (f : Option Task → Option Task) (s : State) : ((Upd.task t f).apply s).hub = s.hub := rfl

/-! ### part -/

@[simp] theorem Upd.part_agenda (p : Nat) (f : Part → Part) (s : State) : ((Upd.part p f).apply s).agenda = s.agenda := rfl
@[simp] theorem Upd.part_cur (p : Nat) (f : Part → Part) (s : State) : ((Upd.part p f).apply s).cur = s.cur := rfl
@[simp] theorem Upd.part_ctr (p : Nat) (f : Part → Part) (s : State) : ((Upd.part p f).apply s).ctr = s.ctr := rfl
@[simp] theorem Upd.part_tbase (p : Nat) (f : Part → Part) (s : State) : ((Upd.part p f).apply s).tbase = s.tbase := rfl
@[simp] theorem Upd.part_power (p : Nat) (f : Part → Part) (s : State) : ((Upd.part p f).apply s).power = s.power := rfl
@[simp] theorem Upd.part_nodes (p : Nat) (f : Part → Part) (s : State) : ((Upd.part p f).apply s).nodes = s.nodes := rfl
@[simp] theorem Upd.part_pads (p : Nat) (f : Part → Part) (s : State) : ((Upd.part p f).apply s).pads = s.pads := rfl
@[simp] theorem Upd.part_mem (p : Nat) (f : Part → Part) (s : State) : ((Upd.part p f).apply s).mem = s.mem := rfl
@[simp] theorem Upd.part_tables (p : Nat) (f : Part → Part) (s : State) : ((Upd.part p f).apply s).tables = s.tables := rfl
@[simp] theorem Upd.part_vers (p : Nat) (f : Part → Part) (s : State) : ((Upd.part p f).apply s).vers = s.vers := rfl
@[simp] theorem Upd.part_l2 (p : Nat) (f : Part → Part) (s : State) : ((Upd.part p f).apply s).l2 = s.l2 := rfl
@[simp] theorem Upd.part_poison (p : Nat) (f : Part → Part) (s : State) : ((Upd.part p f).apply s).poison = s.poison := rfl
@[simp] theorem Upd.part_held (p : Nat) (f : Part → Part) (s : State) : ((Upd.part p f).apply s).held = s.held := rfl
@[simp] theorem Upd.part_breqs (p : Nat) (f : Part → Part) (s : State) : ((Upd.part p f).apply s).breqs = s.breqs := rfl
@[simp] theorem Upd.part_tlb (p : Nat) (f : Part → Part) (s : State) : ((Upd.part p f).apply s).tlb = s.tlb := rfl
@[simp] theorem Upd.part_tasks (p : Nat) (f : Part → Part) (s : State) : ((Upd.part p f).apply s).tasks = s.tasks := rfl
@[simp] theorem Upd.part_parts (p : Nat) (f : Part → Part) (s : State) : ((Upd.part p f).apply s).parts = Sparse.upd Part.reset s.parts p f := rfl
@[simp] theorem Upd.part_cards (p : Nat) (f : Part → Part) (s : State) : ((Upd.part p f).apply s).cards = s.cards := rfl
@[simp] theorem Upd.part_flits (p : Nat) (f : Part → Part) (s : State) : ((Upd.part p f).apply s).flits = s.flits := rfl
@[simp] theorem Upd.part_results (p : Nat) (f : Part → Part) (s : State) : ((Upd.part p f).apply s).results = s.results := rfl
@[simp] theorem Upd.part_relatch (p : Nat) (f : Part → Part) (s : State) : ((Upd.part p f).apply s).relatch = s.relatch := rfl
@[simp] theorem Upd.part_drains (p : Nat) (f : Part → Part) (s : State) : ((Upd.part p f).apply s).drains = s.drains := rfl
@[simp] theorem Upd.part_unmaps (p : Nat) (f : Part → Part) (s : State) : ((Upd.part p f).apply s).unmaps = s.unmaps := rfl
@[simp] theorem Upd.part_mirror (p : Nat) (f : Part → Part) (s : State) : ((Upd.part p f).apply s).mirror = s.mirror := rfl
@[simp] theorem Upd.part_reins (p : Nat) (f : Part → Part) (s : State) : ((Upd.part p f).apply s).reins = s.reins := rfl
@[simp] theorem Upd.part_waiters (p : Nat) (f : Part → Part) (s : State) : ((Upd.part p f).apply s).waiters = s.waiters := rfl
@[simp] theorem Upd.part_since (p : Nat) (f : Part → Part) (s : State) : ((Upd.part p f).apply s).since = s.since := rfl
@[simp] theorem Upd.part_hub (p : Nat) (f : Part → Part) (s : State) : ((Upd.part p f).apply s).hub = s.hub := rfl

/-! ### hub -/

@[simp] theorem Upd.hub_agenda (f : Hub → Hub) (s : State) : ((Upd.hub f).apply s).agenda = s.agenda := rfl
@[simp] theorem Upd.hub_cur (f : Hub → Hub) (s : State) : ((Upd.hub f).apply s).cur = s.cur := rfl
@[simp] theorem Upd.hub_ctr (f : Hub → Hub) (s : State) : ((Upd.hub f).apply s).ctr = s.ctr := rfl
@[simp] theorem Upd.hub_tbase (f : Hub → Hub) (s : State) : ((Upd.hub f).apply s).tbase = s.tbase := rfl
@[simp] theorem Upd.hub_power (f : Hub → Hub) (s : State) : ((Upd.hub f).apply s).power = s.power := rfl
@[simp] theorem Upd.hub_nodes (f : Hub → Hub) (s : State) : ((Upd.hub f).apply s).nodes = s.nodes := rfl
@[simp] theorem Upd.hub_pads (f : Hub → Hub) (s : State) : ((Upd.hub f).apply s).pads = s.pads := rfl
@[simp] theorem Upd.hub_mem (f : Hub → Hub) (s : State) : ((Upd.hub f).apply s).mem = s.mem := rfl
@[simp] theorem Upd.hub_tables (f : Hub → Hub) (s : State) : ((Upd.hub f).apply s).tables = s.tables := rfl
@[simp] theorem Upd.hub_vers (f : Hub → Hub) (s : State) : ((Upd.hub f).apply s).vers = s.vers := rfl
@[simp] theorem Upd.hub_l2 (f : Hub → Hub) (s : State) : ((Upd.hub f).apply s).l2 = s.l2 := rfl
@[simp] theorem Upd.hub_poison (f : Hub → Hub) (s : State) : ((Upd.hub f).apply s).poison = s.poison := rfl
@[simp] theorem Upd.hub_held (f : Hub → Hub) (s : State) : ((Upd.hub f).apply s).held = s.held := rfl
@[simp] theorem Upd.hub_breqs (f : Hub → Hub) (s : State) : ((Upd.hub f).apply s).breqs = s.breqs := rfl
@[simp] theorem Upd.hub_tlb (f : Hub → Hub) (s : State) : ((Upd.hub f).apply s).tlb = s.tlb := rfl
@[simp] theorem Upd.hub_tasks (f : Hub → Hub) (s : State) : ((Upd.hub f).apply s).tasks = s.tasks := rfl
@[simp] theorem Upd.hub_parts (f : Hub → Hub) (s : State) : ((Upd.hub f).apply s).parts = s.parts := rfl
@[simp] theorem Upd.hub_cards (f : Hub → Hub) (s : State) : ((Upd.hub f).apply s).cards = s.cards := rfl
@[simp] theorem Upd.hub_flits (f : Hub → Hub) (s : State) : ((Upd.hub f).apply s).flits = s.flits := rfl
@[simp] theorem Upd.hub_results (f : Hub → Hub) (s : State) : ((Upd.hub f).apply s).results = s.results := rfl
@[simp] theorem Upd.hub_relatch (f : Hub → Hub) (s : State) : ((Upd.hub f).apply s).relatch = s.relatch := rfl
@[simp] theorem Upd.hub_drains (f : Hub → Hub) (s : State) : ((Upd.hub f).apply s).drains = s.drains := rfl
@[simp] theorem Upd.hub_unmaps (f : Hub → Hub) (s : State) : ((Upd.hub f).apply s).unmaps = s.unmaps := rfl
@[simp] theorem Upd.hub_mirror (f : Hub → Hub) (s : State) : ((Upd.hub f).apply s).mirror = s.mirror := rfl
@[simp] theorem Upd.hub_reins (f : Hub → Hub) (s : State) : ((Upd.hub f).apply s).reins = s.reins := rfl
@[simp] theorem Upd.hub_waiters (f : Hub → Hub) (s : State) : ((Upd.hub f).apply s).waiters = s.waiters := rfl
@[simp] theorem Upd.hub_since (f : Hub → Hub) (s : State) : ((Upd.hub f).apply s).since = s.since := rfl
@[simp] theorem Upd.hub_hub (f : Hub → Hub) (s : State) : ((Upd.hub f).apply s).hub = f s.hub := rfl

/-! ### cards -/

@[simp] theorem Upd.cards_agenda (f : List Card → List Card) (s : State) : ((Upd.cards f).apply s).agenda = s.agenda := rfl
@[simp] theorem Upd.cards_cur (f : List Card → List Card) (s : State) : ((Upd.cards f).apply s).cur = s.cur := rfl
@[simp] theorem Upd.cards_ctr (f : List Card → List Card) (s : State) : ((Upd.cards f).apply s).ctr = s.ctr := rfl
@[simp] theorem Upd.cards_tbase (f : List Card → List Card) (s : State) : ((Upd.cards f).apply s).tbase = s.tbase := rfl
@[simp] theorem Upd.cards_power (f : List Card → List Card) (s : State) : ((Upd.cards f).apply s).power = s.power := rfl
@[simp] theorem Upd.cards_nodes (f : List Card → List Card) (s : State) : ((Upd.cards f).apply s).nodes = s.nodes := rfl
@[simp] theorem Upd.cards_pads (f : List Card → List Card) (s : State) : ((Upd.cards f).apply s).pads = s.pads := rfl
@[simp] theorem Upd.cards_mem (f : List Card → List Card) (s : State) : ((Upd.cards f).apply s).mem = s.mem := rfl
@[simp] theorem Upd.cards_tables (f : List Card → List Card) (s : State) : ((Upd.cards f).apply s).tables = s.tables := rfl
@[simp] theorem Upd.cards_vers (f : List Card → List Card) (s : State) : ((Upd.cards f).apply s).vers = s.vers := rfl
@[simp] theorem Upd.cards_l2 (f : List Card → List Card) (s : State) : ((Upd.cards f).apply s).l2 = s.l2 := rfl
@[simp] theorem Upd.cards_poison (f : List Card → List Card) (s : State) : ((Upd.cards f).apply s).poison = s.poison := rfl
@[simp] theorem Upd.cards_held (f : List Card → List Card) (s : State) : ((Upd.cards f).apply s).held = s.held := rfl
@[simp] theorem Upd.cards_breqs (f : List Card → List Card) (s : State) : ((Upd.cards f).apply s).breqs = s.breqs := rfl
@[simp] theorem Upd.cards_tlb (f : List Card → List Card) (s : State) : ((Upd.cards f).apply s).tlb = s.tlb := rfl
@[simp] theorem Upd.cards_tasks (f : List Card → List Card) (s : State) : ((Upd.cards f).apply s).tasks = s.tasks := rfl
@[simp] theorem Upd.cards_parts (f : List Card → List Card) (s : State) : ((Upd.cards f).apply s).parts = s.parts := rfl
@[simp] theorem Upd.cards_cards (f : List Card → List Card) (s : State) : ((Upd.cards f).apply s).cards = f s.cards := rfl
@[simp] theorem Upd.cards_flits (f : List Card → List Card) (s : State) : ((Upd.cards f).apply s).flits = s.flits := rfl
@[simp] theorem Upd.cards_results (f : List Card → List Card) (s : State) : ((Upd.cards f).apply s).results = s.results := rfl
@[simp] theorem Upd.cards_relatch (f : List Card → List Card) (s : State) : ((Upd.cards f).apply s).relatch = s.relatch := rfl
@[simp] theorem Upd.cards_drains (f : List Card → List Card) (s : State) : ((Upd.cards f).apply s).drains = s.drains := rfl
@[simp] theorem Upd.cards_unmaps (f : List Card → List Card) (s : State) : ((Upd.cards f).apply s).unmaps = s.unmaps := rfl
@[simp] theorem Upd.cards_mirror (f : List Card → List Card) (s : State) : ((Upd.cards f).apply s).mirror = s.mirror := rfl
@[simp] theorem Upd.cards_reins (f : List Card → List Card) (s : State) : ((Upd.cards f).apply s).reins = s.reins := rfl
@[simp] theorem Upd.cards_waiters (f : List Card → List Card) (s : State) : ((Upd.cards f).apply s).waiters = s.waiters := rfl
@[simp] theorem Upd.cards_since (f : List Card → List Card) (s : State) : ((Upd.cards f).apply s).since = s.since := rfl
@[simp] theorem Upd.cards_hub (f : List Card → List Card) (s : State) : ((Upd.cards f).apply s).hub = s.hub := rfl

/-! ### flits -/

@[simp] theorem Upd.flits_agenda (f : List Flit → List Flit) (s : State) : ((Upd.flits f).apply s).agenda = s.agenda := rfl
@[simp] theorem Upd.flits_cur (f : List Flit → List Flit) (s : State) : ((Upd.flits f).apply s).cur = s.cur := rfl
@[simp] theorem Upd.flits_ctr (f : List Flit → List Flit) (s : State) : ((Upd.flits f).apply s).ctr = s.ctr := rfl
@[simp] theorem Upd.flits_tbase (f : List Flit → List Flit) (s : State) : ((Upd.flits f).apply s).tbase = s.tbase := rfl
@[simp] theorem Upd.flits_power (f : List Flit → List Flit) (s : State) : ((Upd.flits f).apply s).power = s.power := rfl
@[simp] theorem Upd.flits_nodes (f : List Flit → List Flit) (s : State) : ((Upd.flits f).apply s).nodes = s.nodes := rfl
@[simp] theorem Upd.flits_pads (f : List Flit → List Flit) (s : State) : ((Upd.flits f).apply s).pads = s.pads := rfl
@[simp] theorem Upd.flits_mem (f : List Flit → List Flit) (s : State) : ((Upd.flits f).apply s).mem = s.mem := rfl
@[simp] theorem Upd.flits_tables (f : List Flit → List Flit) (s : State) : ((Upd.flits f).apply s).tables = s.tables := rfl
@[simp] theorem Upd.flits_vers (f : List Flit → List Flit) (s : State) : ((Upd.flits f).apply s).vers = s.vers := rfl
@[simp] theorem Upd.flits_l2 (f : List Flit → List Flit) (s : State) : ((Upd.flits f).apply s).l2 = s.l2 := rfl
@[simp] theorem Upd.flits_poison (f : List Flit → List Flit) (s : State) : ((Upd.flits f).apply s).poison = s.poison := rfl
@[simp] theorem Upd.flits_held (f : List Flit → List Flit) (s : State) : ((Upd.flits f).apply s).held = s.held := rfl
@[simp] theorem Upd.flits_breqs (f : List Flit → List Flit) (s : State) : ((Upd.flits f).apply s).breqs = s.breqs := rfl
@[simp] theorem Upd.flits_tlb (f : List Flit → List Flit) (s : State) : ((Upd.flits f).apply s).tlb = s.tlb := rfl
@[simp] theorem Upd.flits_tasks (f : List Flit → List Flit) (s : State) : ((Upd.flits f).apply s).tasks = s.tasks := rfl
@[simp] theorem Upd.flits_parts (f : List Flit → List Flit) (s : State) : ((Upd.flits f).apply s).parts = s.parts := rfl
@[simp] theorem Upd.flits_cards (f : List Flit → List Flit) (s : State) : ((Upd.flits f).apply s).cards = s.cards := rfl
@[simp] theorem Upd.flits_flits (f : List Flit → List Flit) (s : State) : ((Upd.flits f).apply s).flits = f s.flits := rfl
@[simp] theorem Upd.flits_results (f : List Flit → List Flit) (s : State) : ((Upd.flits f).apply s).results = s.results := rfl
@[simp] theorem Upd.flits_relatch (f : List Flit → List Flit) (s : State) : ((Upd.flits f).apply s).relatch = s.relatch := rfl
@[simp] theorem Upd.flits_drains (f : List Flit → List Flit) (s : State) : ((Upd.flits f).apply s).drains = s.drains := rfl
@[simp] theorem Upd.flits_unmaps (f : List Flit → List Flit) (s : State) : ((Upd.flits f).apply s).unmaps = s.unmaps := rfl
@[simp] theorem Upd.flits_mirror (f : List Flit → List Flit) (s : State) : ((Upd.flits f).apply s).mirror = s.mirror := rfl
@[simp] theorem Upd.flits_reins (f : List Flit → List Flit) (s : State) : ((Upd.flits f).apply s).reins = s.reins := rfl
@[simp] theorem Upd.flits_waiters (f : List Flit → List Flit) (s : State) : ((Upd.flits f).apply s).waiters = s.waiters := rfl
@[simp] theorem Upd.flits_since (f : List Flit → List Flit) (s : State) : ((Upd.flits f).apply s).since = s.since := rfl
@[simp] theorem Upd.flits_hub (f : List Flit → List Flit) (s : State) : ((Upd.flits f).apply s).hub = s.hub := rfl

/-! ### results -/

@[simp] theorem Upd.results_agenda (f : List DefRes → List DefRes) (s : State) : ((Upd.results f).apply s).agenda = s.agenda := rfl
@[simp] theorem Upd.results_cur (f : List DefRes → List DefRes) (s : State) : ((Upd.results f).apply s).cur = s.cur := rfl
@[simp] theorem Upd.results_ctr (f : List DefRes → List DefRes) (s : State) : ((Upd.results f).apply s).ctr = s.ctr := rfl
@[simp] theorem Upd.results_tbase (f : List DefRes → List DefRes) (s : State) : ((Upd.results f).apply s).tbase = s.tbase := rfl
@[simp] theorem Upd.results_power (f : List DefRes → List DefRes) (s : State) : ((Upd.results f).apply s).power = s.power := rfl
@[simp] theorem Upd.results_nodes (f : List DefRes → List DefRes) (s : State) : ((Upd.results f).apply s).nodes = s.nodes := rfl
@[simp] theorem Upd.results_pads (f : List DefRes → List DefRes) (s : State) : ((Upd.results f).apply s).pads = s.pads := rfl
@[simp] theorem Upd.results_mem (f : List DefRes → List DefRes) (s : State) : ((Upd.results f).apply s).mem = s.mem := rfl
@[simp] theorem Upd.results_tables (f : List DefRes → List DefRes) (s : State) : ((Upd.results f).apply s).tables = s.tables := rfl
@[simp] theorem Upd.results_vers (f : List DefRes → List DefRes) (s : State) : ((Upd.results f).apply s).vers = s.vers := rfl
@[simp] theorem Upd.results_l2 (f : List DefRes → List DefRes) (s : State) : ((Upd.results f).apply s).l2 = s.l2 := rfl
@[simp] theorem Upd.results_poison (f : List DefRes → List DefRes) (s : State) : ((Upd.results f).apply s).poison = s.poison := rfl
@[simp] theorem Upd.results_held (f : List DefRes → List DefRes) (s : State) : ((Upd.results f).apply s).held = s.held := rfl
@[simp] theorem Upd.results_breqs (f : List DefRes → List DefRes) (s : State) : ((Upd.results f).apply s).breqs = s.breqs := rfl
@[simp] theorem Upd.results_tlb (f : List DefRes → List DefRes) (s : State) : ((Upd.results f).apply s).tlb = s.tlb := rfl
@[simp] theorem Upd.results_tasks (f : List DefRes → List DefRes) (s : State) : ((Upd.results f).apply s).tasks = s.tasks := rfl
@[simp] theorem Upd.results_parts (f : List DefRes → List DefRes) (s : State) : ((Upd.results f).apply s).parts = s.parts := rfl
@[simp] theorem Upd.results_cards (f : List DefRes → List DefRes) (s : State) : ((Upd.results f).apply s).cards = s.cards := rfl
@[simp] theorem Upd.results_flits (f : List DefRes → List DefRes) (s : State) : ((Upd.results f).apply s).flits = s.flits := rfl
@[simp] theorem Upd.results_results (f : List DefRes → List DefRes) (s : State) : ((Upd.results f).apply s).results = f s.results := rfl
@[simp] theorem Upd.results_relatch (f : List DefRes → List DefRes) (s : State) : ((Upd.results f).apply s).relatch = s.relatch := rfl
@[simp] theorem Upd.results_drains (f : List DefRes → List DefRes) (s : State) : ((Upd.results f).apply s).drains = s.drains := rfl
@[simp] theorem Upd.results_unmaps (f : List DefRes → List DefRes) (s : State) : ((Upd.results f).apply s).unmaps = s.unmaps := rfl
@[simp] theorem Upd.results_mirror (f : List DefRes → List DefRes) (s : State) : ((Upd.results f).apply s).mirror = s.mirror := rfl
@[simp] theorem Upd.results_reins (f : List DefRes → List DefRes) (s : State) : ((Upd.results f).apply s).reins = s.reins := rfl
@[simp] theorem Upd.results_waiters (f : List DefRes → List DefRes) (s : State) : ((Upd.results f).apply s).waiters = s.waiters := rfl
@[simp] theorem Upd.results_since (f : List DefRes → List DefRes) (s : State) : ((Upd.results f).apply s).since = s.since := rfl
@[simp] theorem Upd.results_hub (f : List DefRes → List DefRes) (s : State) : ((Upd.results f).apply s).hub = s.hub := rfl

/-! ### held -/

@[simp] theorem Upd.held_agenda (f : List Held → List Held) (s : State) : ((Upd.held f).apply s).agenda = s.agenda := rfl
@[simp] theorem Upd.held_cur (f : List Held → List Held) (s : State) : ((Upd.held f).apply s).cur = s.cur := rfl
@[simp] theorem Upd.held_ctr (f : List Held → List Held) (s : State) : ((Upd.held f).apply s).ctr = s.ctr := rfl
@[simp] theorem Upd.held_tbase (f : List Held → List Held) (s : State) : ((Upd.held f).apply s).tbase = s.tbase := rfl
@[simp] theorem Upd.held_power (f : List Held → List Held) (s : State) : ((Upd.held f).apply s).power = s.power := rfl
@[simp] theorem Upd.held_nodes (f : List Held → List Held) (s : State) : ((Upd.held f).apply s).nodes = s.nodes := rfl
@[simp] theorem Upd.held_pads (f : List Held → List Held) (s : State) : ((Upd.held f).apply s).pads = s.pads := rfl
@[simp] theorem Upd.held_mem (f : List Held → List Held) (s : State) : ((Upd.held f).apply s).mem = s.mem := rfl
@[simp] theorem Upd.held_tables (f : List Held → List Held) (s : State) : ((Upd.held f).apply s).tables = s.tables := rfl
@[simp] theorem Upd.held_vers (f : List Held → List Held) (s : State) : ((Upd.held f).apply s).vers = s.vers := rfl
@[simp] theorem Upd.held_l2 (f : List Held → List Held) (s : State) : ((Upd.held f).apply s).l2 = s.l2 := rfl
@[simp] theorem Upd.held_poison (f : List Held → List Held) (s : State) : ((Upd.held f).apply s).poison = s.poison := rfl
@[simp] theorem Upd.held_held (f : List Held → List Held) (s : State) : ((Upd.held f).apply s).held = f s.held := rfl
@[simp] theorem Upd.held_breqs (f : List Held → List Held) (s : State) : ((Upd.held f).apply s).breqs = s.breqs := rfl
@[simp] theorem Upd.held_tlb (f : List Held → List Held) (s : State) : ((Upd.held f).apply s).tlb = s.tlb := rfl
@[simp] theorem Upd.held_tasks (f : List Held → List Held) (s : State) : ((Upd.held f).apply s).tasks = s.tasks := rfl
@[simp] theorem Upd.held_parts (f : List Held → List Held) (s : State) : ((Upd.held f).apply s).parts = s.parts := rfl
@[simp] theorem Upd.held_cards (f : List Held → List Held) (s : State) : ((Upd.held f).apply s).cards = s.cards := rfl
@[simp] theorem Upd.held_flits (f : List Held → List Held) (s : State) : ((Upd.held f).apply s).flits = s.flits := rfl
@[simp] theorem Upd.held_results (f : List Held → List Held) (s : State) : ((Upd.held f).apply s).results = s.results := rfl
@[simp] theorem Upd.held_relatch (f : List Held → List Held) (s : State) : ((Upd.held f).apply s).relatch = s.relatch := rfl
@[simp] theorem Upd.held_drains (f : List Held → List Held) (s : State) : ((Upd.held f).apply s).drains = s.drains := rfl
@[simp] theorem Upd.held_unmaps (f : List Held → List Held) (s : State) : ((Upd.held f).apply s).unmaps = s.unmaps := rfl
@[simp] theorem Upd.held_mirror (f : List Held → List Held) (s : State) : ((Upd.held f).apply s).mirror = s.mirror := rfl
@[simp] theorem Upd.held_reins (f : List Held → List Held) (s : State) : ((Upd.held f).apply s).reins = s.reins := rfl
@[simp] theorem Upd.held_waiters (f : List Held → List Held) (s : State) : ((Upd.held f).apply s).waiters = s.waiters := rfl
@[simp] theorem Upd.held_since (f : List Held → List Held) (s : State) : ((Upd.held f).apply s).since = s.since := rfl
@[simp] theorem Upd.held_hub (f : List Held → List Held) (s : State) : ((Upd.held f).apply s).hub = s.hub := rfl

/-! ### breqs -/

@[simp] theorem Upd.breqs_agenda (f : List BReq → List BReq) (s : State) : ((Upd.breqs f).apply s).agenda = s.agenda := rfl
@[simp] theorem Upd.breqs_cur (f : List BReq → List BReq) (s : State) : ((Upd.breqs f).apply s).cur = s.cur := rfl
@[simp] theorem Upd.breqs_ctr (f : List BReq → List BReq) (s : State) : ((Upd.breqs f).apply s).ctr = s.ctr := rfl
@[simp] theorem Upd.breqs_tbase (f : List BReq → List BReq) (s : State) : ((Upd.breqs f).apply s).tbase = s.tbase := rfl
@[simp] theorem Upd.breqs_power (f : List BReq → List BReq) (s : State) : ((Upd.breqs f).apply s).power = s.power := rfl
@[simp] theorem Upd.breqs_nodes (f : List BReq → List BReq) (s : State) : ((Upd.breqs f).apply s).nodes = s.nodes := rfl
@[simp] theorem Upd.breqs_pads (f : List BReq → List BReq) (s : State) : ((Upd.breqs f).apply s).pads = s.pads := rfl
@[simp] theorem Upd.breqs_mem (f : List BReq → List BReq) (s : State) : ((Upd.breqs f).apply s).mem = s.mem := rfl
@[simp] theorem Upd.breqs_tables (f : List BReq → List BReq) (s : State) : ((Upd.breqs f).apply s).tables = s.tables := rfl
@[simp] theorem Upd.breqs_vers (f : List BReq → List BReq) (s : State) : ((Upd.breqs f).apply s).vers = s.vers := rfl
@[simp] theorem Upd.breqs_l2 (f : List BReq → List BReq) (s : State) : ((Upd.breqs f).apply s).l2 = s.l2 := rfl
@[simp] theorem Upd.breqs_poison (f : List BReq → List BReq) (s : State) : ((Upd.breqs f).apply s).poison = s.poison := rfl
@[simp] theorem Upd.breqs_held (f : List BReq → List BReq) (s : State) : ((Upd.breqs f).apply s).held = s.held := rfl
@[simp] theorem Upd.breqs_breqs (f : List BReq → List BReq) (s : State) : ((Upd.breqs f).apply s).breqs = f s.breqs := rfl
@[simp] theorem Upd.breqs_tlb (f : List BReq → List BReq) (s : State) : ((Upd.breqs f).apply s).tlb = s.tlb := rfl
@[simp] theorem Upd.breqs_tasks (f : List BReq → List BReq) (s : State) : ((Upd.breqs f).apply s).tasks = s.tasks := rfl
@[simp] theorem Upd.breqs_parts (f : List BReq → List BReq) (s : State) : ((Upd.breqs f).apply s).parts = s.parts := rfl
@[simp] theorem Upd.breqs_cards (f : List BReq → List BReq) (s : State) : ((Upd.breqs f).apply s).cards = s.cards := rfl
@[simp] theorem Upd.breqs_flits (f : List BReq → List BReq) (s : State) : ((Upd.breqs f).apply s).flits = s.flits := rfl
@[simp] theorem Upd.breqs_results (f : List BReq → List BReq) (s : State) : ((Upd.breqs f).apply s).results = s.results := rfl
@[simp] theorem Upd.breqs_relatch (f : List BReq → List BReq) (s : State) : ((Upd.breqs f).apply s).relatch = s.relatch := rfl
@[simp] theorem Upd.breqs_drains (f : List BReq → List BReq) (s : State) : ((Upd.breqs f).apply s).drains = s.drains := rfl
@[simp] theorem Upd.breqs_unmaps (f : List BReq → List BReq) (s : State) : ((Upd.breqs f).apply s).unmaps = s.unmaps := rfl
@[simp] theorem Upd.breqs_mirror (f : List BReq → List BReq) (s : State) : ((Upd.breqs f).apply s).mirror = s.mirror := rfl
@[simp] theorem Upd.breqs_reins (f : List BReq → List BReq) (s : State) : ((Upd.breqs f).apply s).reins = s.reins := rfl
@[simp] theorem Upd.breqs_waiters (f : List BReq → List BReq) (s : State) : ((Upd.breqs f).apply s).waiters = s.waiters := rfl
@[simp] theorem Upd.breqs_since (f : List BReq → List BReq) (s : State) : ((Upd.breqs f).apply s).since = s.since := rfl
@[simp] theorem Upd.breqs_hub (f : List BReq → List BReq) (s : State) : ((Upd.breqs f).apply s).hub = s.hub := rfl

/-! ### tlb -/

@[simp] theorem Upd.tlb_agenda (f : List TlbEnt → List TlbEnt) (s : State) : ((Upd.tlb f).apply s).agenda = s.agenda := rfl
@[simp] theorem Upd.tlb_cur (f : List TlbEnt → List TlbEnt) (s : State) : ((Upd.tlb f).apply s).cur = s.cur := rfl
@[simp] theorem Upd.tlb_ctr (f : List TlbEnt → List TlbEnt) (s : State) : ((Upd.tlb f).apply s).ctr = s.ctr := rfl
@[simp] theorem Upd.tlb_tbase (f : List TlbEnt → List TlbEnt) (s : State) : ((Upd.tlb f).apply s).tbase = s.tbase := rfl
@[simp] theorem Upd.tlb_power (f : List TlbEnt → List TlbEnt) (s : State) : ((Upd.tlb f).apply s).power = s.power := rfl
@[simp] theorem Upd.tlb_nodes (f : List TlbEnt → List TlbEnt) (s : State) : ((Upd.tlb f).apply s).nodes = s.nodes := rfl
@[simp] theorem Upd.tlb_pads (f : List TlbEnt → List TlbEnt) (s : State) : ((Upd.tlb f).apply s).pads = s.pads := rfl
@[simp] theorem Upd.tlb_mem (f : List TlbEnt → List TlbEnt) (s : State) : ((Upd.tlb f).apply s).mem = s.mem := rfl
@[simp] theorem Upd.tlb_tables (f : List TlbEnt → List TlbEnt) (s : State) : ((Upd.tlb f).apply s).tables = s.tables := rfl
@[simp] theorem Upd.tlb_vers (f : List TlbEnt → List TlbEnt) (s : State) : ((Upd.tlb f).apply s).vers = s.vers := rfl
@[simp] theorem Upd.tlb_l2 (f : List TlbEnt → List TlbEnt) (s : State) : ((Upd.tlb f).apply s).l2 = s.l2 := rfl
@[simp] theorem Upd.tlb_poison (f : List TlbEnt → List TlbEnt) (s : State) : ((Upd.tlb f).apply s).poison = s.poison := rfl
@[simp] theorem Upd.tlb_held (f : List TlbEnt → List TlbEnt) (s : State) : ((Upd.tlb f).apply s).held = s.held := rfl
@[simp] theorem Upd.tlb_breqs (f : List TlbEnt → List TlbEnt) (s : State) : ((Upd.tlb f).apply s).breqs = s.breqs := rfl
@[simp] theorem Upd.tlb_tlb (f : List TlbEnt → List TlbEnt) (s : State) : ((Upd.tlb f).apply s).tlb = f s.tlb := rfl
@[simp] theorem Upd.tlb_tasks (f : List TlbEnt → List TlbEnt) (s : State) : ((Upd.tlb f).apply s).tasks = s.tasks := rfl
@[simp] theorem Upd.tlb_parts (f : List TlbEnt → List TlbEnt) (s : State) : ((Upd.tlb f).apply s).parts = s.parts := rfl
@[simp] theorem Upd.tlb_cards (f : List TlbEnt → List TlbEnt) (s : State) : ((Upd.tlb f).apply s).cards = s.cards := rfl
@[simp] theorem Upd.tlb_flits (f : List TlbEnt → List TlbEnt) (s : State) : ((Upd.tlb f).apply s).flits = s.flits := rfl
@[simp] theorem Upd.tlb_results (f : List TlbEnt → List TlbEnt) (s : State) : ((Upd.tlb f).apply s).results = s.results := rfl
@[simp] theorem Upd.tlb_relatch (f : List TlbEnt → List TlbEnt) (s : State) : ((Upd.tlb f).apply s).relatch = s.relatch := rfl
@[simp] theorem Upd.tlb_drains (f : List TlbEnt → List TlbEnt) (s : State) : ((Upd.tlb f).apply s).drains = s.drains := rfl
@[simp] theorem Upd.tlb_unmaps (f : List TlbEnt → List TlbEnt) (s : State) : ((Upd.tlb f).apply s).unmaps = s.unmaps := rfl
@[simp] theorem Upd.tlb_mirror (f : List TlbEnt → List TlbEnt) (s : State) : ((Upd.tlb f).apply s).mirror = s.mirror := rfl
@[simp] theorem Upd.tlb_reins (f : List TlbEnt → List TlbEnt) (s : State) : ((Upd.tlb f).apply s).reins = s.reins := rfl
@[simp] theorem Upd.tlb_waiters (f : List TlbEnt → List TlbEnt) (s : State) : ((Upd.tlb f).apply s).waiters = s.waiters := rfl
@[simp] theorem Upd.tlb_since (f : List TlbEnt → List TlbEnt) (s : State) : ((Upd.tlb f).apply s).since = s.since := rfl
@[simp] theorem Upd.tlb_hub (f : List TlbEnt → List TlbEnt) (s : State) : ((Upd.tlb f).apply s).hub = s.hub := rfl

/-! ### relatch -/

@[simp] theorem Upd.relatch_agenda (f : List ReLatch → List ReLatch) (s : State) : ((Upd.relatch f).apply s).agenda = s.agenda := rfl
@[simp] theorem Upd.relatch_cur (f : List ReLatch → List ReLatch) (s : State) : ((Upd.relatch f).apply s).cur = s.cur := rfl
@[simp] theorem Upd.relatch_ctr (f : List ReLatch → List ReLatch) (s : State) : ((Upd.relatch f).apply s).ctr = s.ctr := rfl
@[simp] theorem Upd.relatch_tbase (f : List ReLatch → List ReLatch) (s : State) : ((Upd.relatch f).apply s).tbase = s.tbase := rfl
@[simp] theorem Upd.relatch_power (f : List ReLatch → List ReLatch) (s : State) : ((Upd.relatch f).apply s).power = s.power := rfl
@[simp] theorem Upd.relatch_nodes (f : List ReLatch → List ReLatch) (s : State) : ((Upd.relatch f).apply s).nodes = s.nodes := rfl
@[simp] theorem Upd.relatch_pads (f : List ReLatch → List ReLatch) (s : State) : ((Upd.relatch f).apply s).pads = s.pads := rfl
@[simp] theorem Upd.relatch_mem (f : List ReLatch → List ReLatch) (s : State) : ((Upd.relatch f).apply s).mem = s.mem := rfl
@[simp] theorem Upd.relatch_tables (f : List ReLatch → List ReLatch) (s : State) : ((Upd.relatch f).apply s).tables = s.tables := rfl
@[simp] theorem Upd.relatch_vers (f : List ReLatch → List ReLatch) (s : State) : ((Upd.relatch f).apply s).vers = s.vers := rfl
@[simp] theorem Upd.relatch_l2 (f : List ReLatch → List ReLatch) (s : State) : ((Upd.relatch f).apply s).l2 = s.l2 := rfl
@[simp] theorem Upd.relatch_poison (f : List ReLatch → List ReLatch) (s : State) : ((Upd.relatch f).apply s).poison = s.poison := rfl
@[simp] theorem Upd.relatch_held (f : List ReLatch → List ReLatch) (s : State) : ((Upd.relatch f).apply s).held = s.held := rfl
@[simp] theorem Upd.relatch_breqs (f : List ReLatch → List ReLatch) (s : State) : ((Upd.relatch f).apply s).breqs = s.breqs := rfl
@[simp] theorem Upd.relatch_tlb (f : List ReLatch → List ReLatch) (s : State) : ((Upd.relatch f).apply s).tlb = s.tlb := rfl
@[simp] theorem Upd.relatch_tasks (f : List ReLatch → List ReLatch) (s : State) : ((Upd.relatch f).apply s).tasks = s.tasks := rfl
@[simp] theorem Upd.relatch_parts (f : List ReLatch → List ReLatch) (s : State) : ((Upd.relatch f).apply s).parts = s.parts := rfl
@[simp] theorem Upd.relatch_cards (f : List ReLatch → List ReLatch) (s : State) : ((Upd.relatch f).apply s).cards = s.cards := rfl
@[simp] theorem Upd.relatch_flits (f : List ReLatch → List ReLatch) (s : State) : ((Upd.relatch f).apply s).flits = s.flits := rfl
@[simp] theorem Upd.relatch_results (f : List ReLatch → List ReLatch) (s : State) : ((Upd.relatch f).apply s).results = s.results := rfl
@[simp] theorem Upd.relatch_relatch (f : List ReLatch → List ReLatch) (s : State) : ((Upd.relatch f).apply s).relatch = f s.relatch := rfl
@[simp] theorem Upd.relatch_drains (f : List ReLatch → List ReLatch) (s : State) : ((Upd.relatch f).apply s).drains = s.drains := rfl
@[simp] theorem Upd.relatch_unmaps (f : List ReLatch → List ReLatch) (s : State) : ((Upd.relatch f).apply s).unmaps = s.unmaps := rfl
@[simp] theorem Upd.relatch_mirror (f : List ReLatch → List ReLatch) (s : State) : ((Upd.relatch f).apply s).mirror = s.mirror := rfl
@[simp] theorem Upd.relatch_reins (f : List ReLatch → List ReLatch) (s : State) : ((Upd.relatch f).apply s).reins = s.reins := rfl
@[simp] theorem Upd.relatch_waiters (f : List ReLatch → List ReLatch) (s : State) : ((Upd.relatch f).apply s).waiters = s.waiters := rfl
@[simp] theorem Upd.relatch_since (f : List ReLatch → List ReLatch) (s : State) : ((Upd.relatch f).apply s).since = s.since := rfl
@[simp] theorem Upd.relatch_hub (f : List ReLatch → List ReLatch) (s : State) : ((Upd.relatch f).apply s).hub = s.hub := rfl

/-! ### drains -/

@[simp] theorem Upd.drains_agenda (f : List Drain → List Drain) (s : State) : ((Upd.drains f).apply s).agenda = s.agenda := rfl
@[simp] theorem Upd.drains_cur (f : List Drain → List Drain) (s : State) : ((Upd.drains f).apply s).cur = s.cur := rfl
@[simp] theorem Upd.drains_ctr (f : List Drain → List Drain) (s : State) : ((Upd.drains f).apply s).ctr = s.ctr := rfl
@[simp] theorem Upd.drains_tbase (f : List Drain → List Drain) (s : State) : ((Upd.drains f).apply s).tbase = s.tbase := rfl
@[simp] theorem Upd.drains_power (f : List Drain → List Drain) (s : State) : ((Upd.drains f).apply s).power = s.power := rfl
@[simp] theorem Upd.drains_nodes (f : List Drain → List Drain) (s : State) : ((Upd.drains f).apply s).nodes = s.nodes := rfl
@[simp] theorem Upd.drains_pads (f : List Drain → List Drain) (s : State) : ((Upd.drains f).apply s).pads = s.pads := rfl
@[simp] theorem Upd.drains_mem (f : List Drain → List Drain) (s : State) : ((Upd.drains f).apply s).mem = s.mem := rfl
@[simp] theorem Upd.drains_tables (f : List Drain → List Drain) (s : State) : ((Upd.drains f).apply s).tables = s.tables := rfl
@[simp] theorem Upd.drains_vers (f : List Drain → List Drain) (s : State) : ((Upd.drains f).apply s).vers = s.vers := rfl
@[simp] theorem Upd.drains_l2 (f : List Drain → List Drain) (s : State) : ((Upd.drains f).apply s).l2 = s.l2 := rfl
@[simp] theorem Upd.drains_poison (f : List Drain → List Drain) (s : State) : ((Upd.drains f).apply s).poison = s.poison := rfl
@[simp] theorem Upd.drains_held (f : List Drain → List Drain) (s : State) : ((Upd.drains f).apply s).held = s.held := rfl
@[simp] theorem Upd.drains_breqs (f : List Drain → List Drain) (s : State) : ((Upd.drains f).apply s).breqs = s.breqs := rfl
@[simp] theorem Upd.drains_tlb (f : List Drain → List Drain) (s : State) : ((Upd.drains f).apply s).tlb = s.tlb := rfl
@[simp] theorem Upd.drains_tasks (f : List Drain → List Drain) (s : State) : ((Upd.drains f).apply s).tasks = s.tasks := rfl
@[simp] theorem Upd.drains_parts (f : List Drain → List Drain) (s : State) : ((Upd.drains f).apply s).parts = s.parts := rfl
@[simp] theorem Upd.drains_cards (f : List Drain → List Drain) (s : State) : ((Upd.drains f).apply s).cards = s.cards := rfl
@[simp] theorem Upd.drains_flits (f : List Drain → List Drain) (s : State) : ((Upd.drains f).apply s).flits = s.flits := rfl
@[simp] theorem Upd.drains_results (f : List Drain → List Drain) (s : State) : ((Upd.drains f).apply s).results = s.results := rfl
@[simp] theorem Upd.drains_relatch (f : List Drain → List Drain) (s : State) : ((Upd.drains f).apply s).relatch = s.relatch := rfl
@[simp] theorem Upd.drains_drains (f : List Drain → List Drain) (s : State) : ((Upd.drains f).apply s).drains = f s.drains := rfl
@[simp] theorem Upd.drains_unmaps (f : List Drain → List Drain) (s : State) : ((Upd.drains f).apply s).unmaps = s.unmaps := rfl
@[simp] theorem Upd.drains_mirror (f : List Drain → List Drain) (s : State) : ((Upd.drains f).apply s).mirror = s.mirror := rfl
@[simp] theorem Upd.drains_reins (f : List Drain → List Drain) (s : State) : ((Upd.drains f).apply s).reins = s.reins := rfl
@[simp] theorem Upd.drains_waiters (f : List Drain → List Drain) (s : State) : ((Upd.drains f).apply s).waiters = s.waiters := rfl
@[simp] theorem Upd.drains_since (f : List Drain → List Drain) (s : State) : ((Upd.drains f).apply s).since = s.since := rfl
@[simp] theorem Upd.drains_hub (f : List Drain → List Drain) (s : State) : ((Upd.drains f).apply s).hub = s.hub := rfl

/-! ### unmaps -/

@[simp] theorem Upd.unmaps_agenda (f : List Unmap → List Unmap) (s : State) : ((Upd.unmaps f).apply s).agenda = s.agenda := rfl
@[simp] theorem Upd.unmaps_cur (f : List Unmap → List Unmap) (s : State) : ((Upd.unmaps f).apply s).cur = s.cur := rfl
@[simp] theorem Upd.unmaps_ctr (f : List Unmap → List Unmap) (s : State) : ((Upd.unmaps f).apply s).ctr = s.ctr := rfl
@[simp] theorem Upd.unmaps_tbase (f : List Unmap → List Unmap) (s : State) : ((Upd.unmaps f).apply s).tbase = s.tbase := rfl
@[simp] theorem Upd.unmaps_power (f : List Unmap → List Unmap) (s : State) : ((Upd.unmaps f).apply s).power = s.power := rfl
@[simp] theorem Upd.unmaps_nodes (f : List Unmap → List Unmap) (s : State) : ((Upd.unmaps f).apply s).nodes = s.nodes := rfl
@[simp] theorem Upd.unmaps_pads (f : List Unmap → List Unmap) (s : State) : ((Upd.unmaps f).apply s).pads = s.pads := rfl
@[simp] theorem Upd.unmaps_mem (f : List Unmap → List Unmap) (s : State) : ((Upd.unmaps f).apply s).mem = s.mem := rfl
@[simp] theorem Upd.unmaps_tables (f : List Unmap → List Unmap) (s : State) : ((Upd.unmaps f).apply s).tables = s.tables := rfl
@[simp] theorem Upd.unmaps_vers (f : List Unmap → List Unmap) (s : State) : ((Upd.unmaps f).apply s).vers = s.vers := rfl
@[simp] theorem Upd.unmaps_l2 (f : List Unmap → List Unmap) (s : State) : ((Upd.unmaps f).apply s).l2 = s.l2 := rfl
@[simp] theorem Upd.unmaps_poison (f : List Unmap → List Unmap) (s : State) : ((Upd.unmaps f).apply s).poison = s.poison := rfl
@[simp] theorem Upd.unmaps_held (f : List Unmap → List Unmap) (s : State) : ((Upd.unmaps f).apply s).held = s.held := rfl
@[simp] theorem Upd.unmaps_breqs (f : List Unmap → List Unmap) (s : State) : ((Upd.unmaps f).apply s).breqs = s.breqs := rfl
@[simp] theorem Upd.unmaps_tlb (f : List Unmap → List Unmap) (s : State) : ((Upd.unmaps f).apply s).tlb = s.tlb := rfl
@[simp] theorem Upd.unmaps_tasks (f : List Unmap → List Unmap) (s : State) : ((Upd.unmaps f).apply s).tasks = s.tasks := rfl
@[simp] theorem Upd.unmaps_parts (f : List Unmap → List Unmap) (s : State) : ((Upd.unmaps f).apply s).parts = s.parts := rfl
@[simp] theorem Upd.unmaps_cards (f : List Unmap → List Unmap) (s : State) : ((Upd.unmaps f).apply s).cards = s.cards := rfl
@[simp] theorem Upd.unmaps_flits (f : List Unmap → List Unmap) (s : State) : ((Upd.unmaps f).apply s).flits = s.flits := rfl
@[simp] theorem Upd.unmaps_results (f : List Unmap → List Unmap) (s : State) : ((Upd.unmaps f).apply s).results = s.results := rfl
@[simp] theorem Upd.unmaps_relatch (f : List Unmap → List Unmap) (s : State) : ((Upd.unmaps f).apply s).relatch = s.relatch := rfl
@[simp] theorem Upd.unmaps_drains (f : List Unmap → List Unmap) (s : State) : ((Upd.unmaps f).apply s).drains = s.drains := rfl
@[simp] theorem Upd.unmaps_unmaps (f : List Unmap → List Unmap) (s : State) : ((Upd.unmaps f).apply s).unmaps = f s.unmaps := rfl
@[simp] theorem Upd.unmaps_mirror (f : List Unmap → List Unmap) (s : State) : ((Upd.unmaps f).apply s).mirror = s.mirror := rfl
@[simp] theorem Upd.unmaps_reins (f : List Unmap → List Unmap) (s : State) : ((Upd.unmaps f).apply s).reins = s.reins := rfl
@[simp] theorem Upd.unmaps_waiters (f : List Unmap → List Unmap) (s : State) : ((Upd.unmaps f).apply s).waiters = s.waiters := rfl
@[simp] theorem Upd.unmaps_since (f : List Unmap → List Unmap) (s : State) : ((Upd.unmaps f).apply s).since = s.since := rfl
@[simp] theorem Upd.unmaps_hub (f : List Unmap → List Unmap) (s : State) : ((Upd.unmaps f).apply s).hub = s.hub := rfl

/-! ### mirror -/

@[simp] theorem Upd.mirror_agenda (f : List MirWait → List MirWait) (s : State) : ((Upd.mirror f).apply s).agenda = s.agenda := rfl
@[simp] theorem Upd.mirror_cur (f : List MirWait → List MirWait) (s : State) : ((Upd.mirror f).apply s).cur = s.cur := rfl
@[simp] theorem Upd.mirror_ctr (f : List MirWait → List MirWait) (s : State) : ((Upd.mirror f).apply s).ctr = s.ctr := rfl
@[simp] theorem Upd.mirror_tbase (f : List MirWait → List MirWait) (s : State) : ((Upd.mirror f).apply s).tbase = s.tbase := rfl
@[simp] theorem Upd.mirror_power (f : List MirWait → List MirWait) (s : State) : ((Upd.mirror f).apply s).power = s.power := rfl
@[simp] theorem Upd.mirror_nodes (f : List MirWait → List MirWait) (s : State) : ((Upd.mirror f).apply s).nodes = s.nodes := rfl
@[simp] theorem Upd.mirror_pads (f : List MirWait → List MirWait) (s : State) : ((Upd.mirror f).apply s).pads = s.pads := rfl
@[simp] theorem Upd.mirror_mem (f : List MirWait → List MirWait) (s : State) : ((Upd.mirror f).apply s).mem = s.mem := rfl
@[simp] theorem Upd.mirror_tables (f : List MirWait → List MirWait) (s : State) : ((Upd.mirror f).apply s).tables = s.tables := rfl
@[simp] theorem Upd.mirror_vers (f : List MirWait → List MirWait) (s : State) : ((Upd.mirror f).apply s).vers = s.vers := rfl
@[simp] theorem Upd.mirror_l2 (f : List MirWait → List MirWait) (s : State) : ((Upd.mirror f).apply s).l2 = s.l2 := rfl
@[simp] theorem Upd.mirror_poison (f : List MirWait → List MirWait) (s : State) : ((Upd.mirror f).apply s).poison = s.poison := rfl
@[simp] theorem Upd.mirror_held (f : List MirWait → List MirWait) (s : State) : ((Upd.mirror f).apply s).held = s.held := rfl
@[simp] theorem Upd.mirror_breqs (f : List MirWait → List MirWait) (s : State) : ((Upd.mirror f).apply s).breqs = s.breqs := rfl
@[simp] theorem Upd.mirror_tlb (f : List MirWait → List MirWait) (s : State) : ((Upd.mirror f).apply s).tlb = s.tlb := rfl
@[simp] theorem Upd.mirror_tasks (f : List MirWait → List MirWait) (s : State) : ((Upd.mirror f).apply s).tasks = s.tasks := rfl
@[simp] theorem Upd.mirror_parts (f : List MirWait → List MirWait) (s : State) : ((Upd.mirror f).apply s).parts = s.parts := rfl
@[simp] theorem Upd.mirror_cards (f : List MirWait → List MirWait) (s : State) : ((Upd.mirror f).apply s).cards = s.cards := rfl
@[simp] theorem Upd.mirror_flits (f : List MirWait → List MirWait) (s : State) : ((Upd.mirror f).apply s).flits = s.flits := rfl
@[simp] theorem Upd.mirror_results (f : List MirWait → List MirWait) (s : State) : ((Upd.mirror f).apply s).results = s.results := rfl
@[simp] theorem Upd.mirror_relatch (f : List MirWait → List MirWait) (s : State) : ((Upd.mirror f).apply s).relatch = s.relatch := rfl
@[simp] theorem Upd.mirror_drains (f : List MirWait → List MirWait) (s : State) : ((Upd.mirror f).apply s).drains = s.drains := rfl
@[simp] theorem Upd.mirror_unmaps (f : List MirWait → List MirWait) (s : State) : ((Upd.mirror f).apply s).unmaps = s.unmaps := rfl
@[simp] theorem Upd.mirror_mirror (f : List MirWait → List MirWait) (s : State) : ((Upd.mirror f).apply s).mirror = f s.mirror := rfl
@[simp] theorem Upd.mirror_reins (f : List MirWait → List MirWait) (s : State) : ((Upd.mirror f).apply s).reins = s.reins := rfl
@[simp] theorem Upd.mirror_waiters (f : List MirWait → List MirWait) (s : State) : ((Upd.mirror f).apply s).waiters = s.waiters := rfl
@[simp] theorem Upd.mirror_since (f : List MirWait → List MirWait) (s : State) : ((Upd.mirror f).apply s).since = s.since := rfl
@[simp] theorem Upd.mirror_hub (f : List MirWait → List MirWait) (s : State) : ((Upd.mirror f).apply s).hub = s.hub := rfl

/-! ### reins -/

@[simp] theorem Upd.reins_agenda (f : List (Nat × Nat × Quad × Nat) → List (Nat × Nat × Quad × Nat)) (s : State) : ((Upd.reins f).apply s).agenda = s.agenda := rfl
@[simp] theorem Upd.reins_cur (f : List (Nat × Nat × Quad × Nat) → List (Nat × Nat × Quad × Nat)) (s : State) : ((Upd.reins f).apply s).cur = s.cur := rfl
@[simp] theorem Upd.reins_ctr (f : List (Nat × Nat × Quad × Nat) → List (Nat × Nat × Quad × Nat)) (s : State) : ((Upd.reins f).apply s).ctr = s.ctr := rfl
@[simp] theorem Upd.reins_tbase (f : List (Nat × Nat × Quad × Nat) → List (Nat × Nat × Quad × Nat)) (s : State) : ((Upd.reins f).apply s).tbase = s.tbase := rfl
@[simp] theorem Upd.reins_power (f : List (Nat × Nat × Quad × Nat) → List (Nat × Nat × Quad × Nat)) (s : State) : ((Upd.reins f).apply s).power = s.power := rfl
@[simp] theorem Upd.reins_nodes (f : List (Nat × Nat × Quad × Nat) → List (Nat × Nat × Quad × Nat)) (s : State) : ((Upd.reins f).apply s).nodes = s.nodes := rfl
@[simp] theorem Upd.reins_pads (f : List (Nat × Nat × Quad × Nat) → List (Nat × Nat × Quad × Nat)) (s : State) : ((Upd.reins f).apply s).pads = s.pads := rfl
@[simp] theorem Upd.reins_mem (f : List (Nat × Nat × Quad × Nat) → List (Nat × Nat × Quad × Nat)) (s : State) : ((Upd.reins f).apply s).mem = s.mem := rfl
@[simp] theorem Upd.reins_tables (f : List (Nat × Nat × Quad × Nat) → List (Nat × Nat × Quad × Nat)) (s : State) : ((Upd.reins f).apply s).tables = s.tables := rfl
@[simp] theorem Upd.reins_vers (f : List (Nat × Nat × Quad × Nat) → List (Nat × Nat × Quad × Nat)) (s : State) : ((Upd.reins f).apply s).vers = s.vers := rfl
@[simp] theorem Upd.reins_l2 (f : List (Nat × Nat × Quad × Nat) → List (Nat × Nat × Quad × Nat)) (s : State) : ((Upd.reins f).apply s).l2 = s.l2 := rfl
@[simp] theorem Upd.reins_poison (f : List (Nat × Nat × Quad × Nat) → List (Nat × Nat × Quad × Nat)) (s : State) : ((Upd.reins f).apply s).poison = s.poison := rfl
@[simp] theorem Upd.reins_held (f : List (Nat × Nat × Quad × Nat) → List (Nat × Nat × Quad × Nat)) (s : State) : ((Upd.reins f).apply s).held = s.held := rfl
@[simp] theorem Upd.reins_breqs (f : List (Nat × Nat × Quad × Nat) → List (Nat × Nat × Quad × Nat)) (s : State) : ((Upd.reins f).apply s).breqs = s.breqs := rfl
@[simp] theorem Upd.reins_tlb (f : List (Nat × Nat × Quad × Nat) → List (Nat × Nat × Quad × Nat)) (s : State) : ((Upd.reins f).apply s).tlb = s.tlb := rfl
@[simp] theorem Upd.reins_tasks (f : List (Nat × Nat × Quad × Nat) → List (Nat × Nat × Quad × Nat)) (s : State) : ((Upd.reins f).apply s).tasks = s.tasks := rfl
@[simp] theorem Upd.reins_parts (f : List (Nat × Nat × Quad × Nat) → List (Nat × Nat × Quad × Nat)) (s : State) : ((Upd.reins f).apply s).parts = s.parts := rfl
@[simp] theorem Upd.reins_cards (f : List (Nat × Nat × Quad × Nat) → List (Nat × Nat × Quad × Nat)) (s : State) : ((Upd.reins f).apply s).cards = s.cards := rfl
@[simp] theorem Upd.reins_flits (f : List (Nat × Nat × Quad × Nat) → List (Nat × Nat × Quad × Nat)) (s : State) : ((Upd.reins f).apply s).flits = s.flits := rfl
@[simp] theorem Upd.reins_results (f : List (Nat × Nat × Quad × Nat) → List (Nat × Nat × Quad × Nat)) (s : State) : ((Upd.reins f).apply s).results = s.results := rfl
@[simp] theorem Upd.reins_relatch (f : List (Nat × Nat × Quad × Nat) → List (Nat × Nat × Quad × Nat)) (s : State) : ((Upd.reins f).apply s).relatch = s.relatch := rfl
@[simp] theorem Upd.reins_drains (f : List (Nat × Nat × Quad × Nat) → List (Nat × Nat × Quad × Nat)) (s : State) : ((Upd.reins f).apply s).drains = s.drains := rfl
@[simp] theorem Upd.reins_unmaps (f : List (Nat × Nat × Quad × Nat) → List (Nat × Nat × Quad × Nat)) (s : State) : ((Upd.reins f).apply s).unmaps = s.unmaps := rfl
@[simp] theorem Upd.reins_mirror (f : List (Nat × Nat × Quad × Nat) → List (Nat × Nat × Quad × Nat)) (s : State) : ((Upd.reins f).apply s).mirror = s.mirror := rfl
@[simp] theorem Upd.reins_reins (f : List (Nat × Nat × Quad × Nat) → List (Nat × Nat × Quad × Nat)) (s : State) : ((Upd.reins f).apply s).reins = f s.reins := rfl
@[simp] theorem Upd.reins_waiters (f : List (Nat × Nat × Quad × Nat) → List (Nat × Nat × Quad × Nat)) (s : State) : ((Upd.reins f).apply s).waiters = s.waiters := rfl
@[simp] theorem Upd.reins_since (f : List (Nat × Nat × Quad × Nat) → List (Nat × Nat × Quad × Nat)) (s : State) : ((Upd.reins f).apply s).since = s.since := rfl
@[simp] theorem Upd.reins_hub (f : List (Nat × Nat × Quad × Nat) → List (Nat × Nat × Quad × Nat)) (s : State) : ((Upd.reins f).apply s).hub = s.hub := rfl

/-! ### waiters -/

@[simp] theorem Upd.waiters_agenda (f : List Waiter → List Waiter) (s : State) : ((Upd.waiters f).apply s).agenda = s.agenda := rfl
@[simp] theorem Upd.waiters_cur (f : List Waiter → List Waiter) (s : State) : ((Upd.waiters f).apply s).cur = s.cur := rfl
@[simp] theorem Upd.waiters_ctr (f : List Waiter → List Waiter) (s : State) : ((Upd.waiters f).apply s).ctr = s.ctr := rfl
@[simp] theorem Upd.waiters_tbase (f : List Waiter → List Waiter) (s : State) : ((Upd.waiters f).apply s).tbase = s.tbase := rfl
@[simp] theorem Upd.waiters_power (f : List Waiter → List Waiter) (s : State) : ((Upd.waiters f).apply s).power = s.power := rfl
@[simp] theorem Upd.waiters_nodes (f : List Waiter → List Waiter) (s : State) : ((Upd.waiters f).apply s).nodes = s.nodes := rfl
@[simp] theorem Upd.waiters_pads (f : List Waiter → List Waiter) (s : State) : ((Upd.waiters f).apply s).pads = s.pads := rfl
@[simp] theorem Upd.waiters_mem (f : List Waiter → List Waiter) (s : State) : ((Upd.waiters f).apply s).mem = s.mem := rfl
@[simp] theorem Upd.waiters_tables (f : List Waiter → List Waiter) (s : State) : ((Upd.waiters f).apply s).tables = s.tables := rfl
@[simp] theorem Upd.waiters_vers (f : List Waiter → List Waiter) (s : State) : ((Upd.waiters f).apply s).vers = s.vers := rfl
@[simp] theorem Upd.waiters_l2 (f : List Waiter → List Waiter) (s : State) : ((Upd.waiters f).apply s).l2 = s.l2 := rfl
@[simp] theorem Upd.waiters_poison (f : List Waiter → List Waiter) (s : State) : ((Upd.waiters f).apply s).poison = s.poison := rfl
@[simp] theorem Upd.waiters_held (f : List Waiter → List Waiter) (s : State) : ((Upd.waiters f).apply s).held = s.held := rfl
@[simp] theorem Upd.waiters_breqs (f : List Waiter → List Waiter) (s : State) : ((Upd.waiters f).apply s).breqs = s.breqs := rfl
@[simp] theorem Upd.waiters_tlb (f : List Waiter → List Waiter) (s : State) : ((Upd.waiters f).apply s).tlb = s.tlb := rfl
@[simp] theorem Upd.waiters_tasks (f : List Waiter → List Waiter) (s : State) : ((Upd.waiters f).apply s).tasks = s.tasks := rfl
@[simp] theorem Upd.waiters_parts (f : List Waiter → List Waiter) (s : State) : ((Upd.waiters f).apply s).parts = s.parts := rfl
@[simp] theorem Upd.waiters_cards (f : List Waiter → List Waiter) (s : State) : ((Upd.waiters f).apply s).cards = s.cards := rfl
@[simp] theorem Upd.waiters_flits (f : List Waiter → List Waiter) (s : State) : ((Upd.waiters f).apply s).flits = s.flits := rfl
@[simp] theorem Upd.waiters_results (f : List Waiter → List Waiter) (s : State) : ((Upd.waiters f).apply s).results = s.results := rfl
@[simp] theorem Upd.waiters_relatch (f : List Waiter → List Waiter) (s : State) : ((Upd.waiters f).apply s).relatch = s.relatch := rfl
@[simp] theorem Upd.waiters_drains (f : List Waiter → List Waiter) (s : State) : ((Upd.waiters f).apply s).drains = s.drains := rfl
@[simp] theorem Upd.waiters_unmaps (f : List Waiter → List Waiter) (s : State) : ((Upd.waiters f).apply s).unmaps = s.unmaps := rfl
@[simp] theorem Upd.waiters_mirror (f : List Waiter → List Waiter) (s : State) : ((Upd.waiters f).apply s).mirror = s.mirror := rfl
@[simp] theorem Upd.waiters_reins (f : List Waiter → List Waiter) (s : State) : ((Upd.waiters f).apply s).reins = s.reins := rfl
@[simp] theorem Upd.waiters_waiters (f : List Waiter → List Waiter) (s : State) : ((Upd.waiters f).apply s).waiters = f s.waiters := rfl
@[simp] theorem Upd.waiters_since (f : List Waiter → List Waiter) (s : State) : ((Upd.waiters f).apply s).since = s.since := rfl
@[simp] theorem Upd.waiters_hub (f : List Waiter → List Waiter) (s : State) : ((Upd.waiters f).apply s).hub = s.hub := rfl

/-! ### since -/

@[simp] theorem Upd.since_agenda (f : List (Move × Nat) → List (Move × Nat)) (s : State) : ((Upd.since f).apply s).agenda = s.agenda := rfl
@[simp] theorem Upd.since_cur (f : List (Move × Nat) → List (Move × Nat)) (s : State) : ((Upd.since f).apply s).cur = s.cur := rfl
@[simp] theorem Upd.since_ctr (f : List (Move × Nat) → List (Move × Nat)) (s : State) : ((Upd.since f).apply s).ctr = s.ctr := rfl
@[simp] theorem Upd.since_tbase (f : List (Move × Nat) → List (Move × Nat)) (s : State) : ((Upd.since f).apply s).tbase = s.tbase := rfl
@[simp] theorem Upd.since_power (f : List (Move × Nat) → List (Move × Nat)) (s : State) : ((Upd.since f).apply s).power = s.power := rfl
@[simp] theorem Upd.since_nodes (f : List (Move × Nat) → List (Move × Nat)) (s : State) : ((Upd.since f).apply s).nodes = s.nodes := rfl
@[simp] theorem Upd.since_pads (f : List (Move × Nat) → List (Move × Nat)) (s : State) : ((Upd.since f).apply s).pads = s.pads := rfl
@[simp] theorem Upd.since_mem (f : List (Move × Nat) → List (Move × Nat)) (s : State) : ((Upd.since f).apply s).mem = s.mem := rfl
@[simp] theorem Upd.since_tables (f : List (Move × Nat) → List (Move × Nat)) (s : State) : ((Upd.since f).apply s).tables = s.tables := rfl
@[simp] theorem Upd.since_vers (f : List (Move × Nat) → List (Move × Nat)) (s : State) : ((Upd.since f).apply s).vers = s.vers := rfl
@[simp] theorem Upd.since_l2 (f : List (Move × Nat) → List (Move × Nat)) (s : State) : ((Upd.since f).apply s).l2 = s.l2 := rfl
@[simp] theorem Upd.since_poison (f : List (Move × Nat) → List (Move × Nat)) (s : State) : ((Upd.since f).apply s).poison = s.poison := rfl
@[simp] theorem Upd.since_held (f : List (Move × Nat) → List (Move × Nat)) (s : State) : ((Upd.since f).apply s).held = s.held := rfl
@[simp] theorem Upd.since_breqs (f : List (Move × Nat) → List (Move × Nat)) (s : State) : ((Upd.since f).apply s).breqs = s.breqs := rfl
@[simp] theorem Upd.since_tlb (f : List (Move × Nat) → List (Move × Nat)) (s : State) : ((Upd.since f).apply s).tlb = s.tlb := rfl
@[simp] theorem Upd.since_tasks (f : List (Move × Nat) → List (Move × Nat)) (s : State) : ((Upd.since f).apply s).tasks = s.tasks := rfl
@[simp] theorem Upd.since_parts (f : List (Move × Nat) → List (Move × Nat)) (s : State) : ((Upd.since f).apply s).parts = s.parts := rfl
@[simp] theorem Upd.since_cards (f : List (Move × Nat) → List (Move × Nat)) (s : State) : ((Upd.since f).apply s).cards = s.cards := rfl
@[simp] theorem Upd.since_flits (f : List (Move × Nat) → List (Move × Nat)) (s : State) : ((Upd.since f).apply s).flits = s.flits := rfl
@[simp] theorem Upd.since_results (f : List (Move × Nat) → List (Move × Nat)) (s : State) : ((Upd.since f).apply s).results = s.results := rfl
@[simp] theorem Upd.since_relatch (f : List (Move × Nat) → List (Move × Nat)) (s : State) : ((Upd.since f).apply s).relatch = s.relatch := rfl
@[simp] theorem Upd.since_drains (f : List (Move × Nat) → List (Move × Nat)) (s : State) : ((Upd.since f).apply s).drains = s.drains := rfl
@[simp] theorem Upd.since_unmaps (f : List (Move × Nat) → List (Move × Nat)) (s : State) : ((Upd.since f).apply s).unmaps = s.unmaps := rfl
@[simp] theorem Upd.since_mirror (f : List (Move × Nat) → List (Move × Nat)) (s : State) : ((Upd.since f).apply s).mirror = s.mirror := rfl
@[simp] theorem Upd.since_reins (f : List (Move × Nat) → List (Move × Nat)) (s : State) : ((Upd.since f).apply s).reins = s.reins := rfl
@[simp] theorem Upd.since_waiters (f : List (Move × Nat) → List (Move × Nat)) (s : State) : ((Upd.since f).apply s).waiters = s.waiters := rfl
@[simp] theorem Upd.since_since (f : List (Move × Nat) → List (Move × Nat)) (s : State) : ((Upd.since f).apply s).since = f s.since := rfl
@[simp] theorem Upd.since_hub (f : List (Move × Nat) → List (Move × Nat)) (s : State) : ((Upd.since f).apply s).hub = s.hub := rfl

/-! ### agenda -/

@[simp] theorem Upd.agenda_agenda (f : List Move → List Move) (s : State) : ((Upd.agenda f).apply s).agenda = f s.agenda := rfl
@[simp] theorem Upd.agenda_cur (f : List Move → List Move) (s : State) : ((Upd.agenda f).apply s).cur = s.cur := rfl
@[simp] theorem Upd.agenda_ctr (f : List Move → List Move) (s : State) : ((Upd.agenda f).apply s).ctr = s.ctr := rfl
@[simp] theorem Upd.agenda_tbase (f : List Move → List Move) (s : State) : ((Upd.agenda f).apply s).tbase = s.tbase := rfl
@[simp] theorem Upd.agenda_power (f : List Move → List Move) (s : State) : ((Upd.agenda f).apply s).power = s.power := rfl
@[simp] theorem Upd.agenda_nodes (f : List Move → List Move) (s : State) : ((Upd.agenda f).apply s).nodes = s.nodes := rfl
@[simp] theorem Upd.agenda_pads (f : List Move → List Move) (s : State) : ((Upd.agenda f).apply s).pads = s.pads := rfl
@[simp] theorem Upd.agenda_mem (f : List Move → List Move) (s : State) : ((Upd.agenda f).apply s).mem = s.mem := rfl
@[simp] theorem Upd.agenda_tables (f : List Move → List Move) (s : State) : ((Upd.agenda f).apply s).tables = s.tables := rfl
@[simp] theorem Upd.agenda_vers (f : List Move → List Move) (s : State) : ((Upd.agenda f).apply s).vers = s.vers := rfl
@[simp] theorem Upd.agenda_l2 (f : List Move → List Move) (s : State) : ((Upd.agenda f).apply s).l2 = s.l2 := rfl
@[simp] theorem Upd.agenda_poison (f : List Move → List Move) (s : State) : ((Upd.agenda f).apply s).poison = s.poison := rfl
@[simp] theorem Upd.agenda_held (f : List Move → List Move) (s : State) : ((Upd.agenda f).apply s).held = s.held := rfl
@[simp] theorem Upd.agenda_breqs (f : List Move → List Move) (s : State) : ((Upd.agenda f).apply s).breqs = s.breqs := rfl
@[simp] theorem Upd.agenda_tlb (f : List Move → List Move) (s : State) : ((Upd.agenda f).apply s).tlb = s.tlb := rfl
@[simp] theorem Upd.agenda_tasks (f : List Move → List Move) (s : State) : ((Upd.agenda f).apply s).tasks = s.tasks := rfl
@[simp] theorem Upd.agenda_parts (f : List Move → List Move) (s : State) : ((Upd.agenda f).apply s).parts = s.parts := rfl
@[simp] theorem Upd.agenda_cards (f : List Move → List Move) (s : State) : ((Upd.agenda f).apply s).cards = s.cards := rfl
@[simp] theorem Upd.agenda_flits (f : List Move → List Move) (s : State) : ((Upd.agenda f).apply s).flits = s.flits := rfl
@[simp] theorem Upd.agenda_results (f : List Move → List Move) (s : State) : ((Upd.agenda f).apply s).results = s.results := rfl
@[simp] theorem Upd.agenda_relatch (f : List Move → List Move) (s : State) : ((Upd.agenda f).apply s).relatch = s.relatch := rfl
@[simp] theorem Upd.agenda_drains (f : List Move → List Move) (s : State) : ((Upd.agenda f).apply s).drains = s.drains := rfl
@[simp] theorem Upd.agenda_unmaps (f : List Move → List Move) (s : State) : ((Upd.agenda f).apply s).unmaps = s.unmaps := rfl
@[simp] theorem Upd.agenda_mirror (f : List Move → List Move) (s : State) : ((Upd.agenda f).apply s).mirror = s.mirror := rfl
@[simp] theorem Upd.agenda_reins (f : List Move → List Move) (s : State) : ((Upd.agenda f).apply s).reins = s.reins := rfl
@[simp] theorem Upd.agenda_waiters (f : List Move → List Move) (s : State) : ((Upd.agenda f).apply s).waiters = s.waiters := rfl
@[simp] theorem Upd.agenda_since (f : List Move → List Move) (s : State) : ((Upd.agenda f).apply s).since = s.since := rfl
@[simp] theorem Upd.agenda_hub (f : List Move → List Move) (s : State) : ((Upd.agenda f).apply s).hub = s.hub := rfl

/-! ### cur -/

@[simp] theorem Upd.cur_agenda (c : Option Site) (s : State) : ((Upd.cur c).apply s).agenda = s.agenda := rfl
@[simp] theorem Upd.cur_cur (c : Option Site) (s : State) : ((Upd.cur c).apply s).cur = c := rfl
@[simp] theorem Upd.cur_ctr (c : Option Site) (s : State) : ((Upd.cur c).apply s).ctr = s.ctr := rfl
@[simp] theorem Upd.cur_tbase (c : Option Site) (s : State) : ((Upd.cur c).apply s).tbase = s.tbase := rfl
@[simp] theorem Upd.cur_power (c : Option Site) (s : State) : ((Upd.cur c).apply s).power = s.power := rfl
@[simp] theorem Upd.cur_nodes (c : Option Site) (s : State) : ((Upd.cur c).apply s).nodes = s.nodes := rfl
@[simp] theorem Upd.cur_pads (c : Option Site) (s : State) : ((Upd.cur c).apply s).pads = s.pads := rfl
@[simp] theorem Upd.cur_mem (c : Option Site) (s : State) : ((Upd.cur c).apply s).mem = s.mem := rfl
@[simp] theorem Upd.cur_tables (c : Option Site) (s : State) : ((Upd.cur c).apply s).tables = s.tables := rfl
@[simp] theorem Upd.cur_vers (c : Option Site) (s : State) : ((Upd.cur c).apply s).vers = s.vers := rfl
@[simp] theorem Upd.cur_l2 (c : Option Site) (s : State) : ((Upd.cur c).apply s).l2 = s.l2 := rfl
@[simp] theorem Upd.cur_poison (c : Option Site) (s : State) : ((Upd.cur c).apply s).poison = s.poison := rfl
@[simp] theorem Upd.cur_held (c : Option Site) (s : State) : ((Upd.cur c).apply s).held = s.held := rfl
@[simp] theorem Upd.cur_breqs (c : Option Site) (s : State) : ((Upd.cur c).apply s).breqs = s.breqs := rfl
@[simp] theorem Upd.cur_tlb (c : Option Site) (s : State) : ((Upd.cur c).apply s).tlb = s.tlb := rfl
@[simp] theorem Upd.cur_tasks (c : Option Site) (s : State) : ((Upd.cur c).apply s).tasks = s.tasks := rfl
@[simp] theorem Upd.cur_parts (c : Option Site) (s : State) : ((Upd.cur c).apply s).parts = s.parts := rfl
@[simp] theorem Upd.cur_cards (c : Option Site) (s : State) : ((Upd.cur c).apply s).cards = s.cards := rfl
@[simp] theorem Upd.cur_flits (c : Option Site) (s : State) : ((Upd.cur c).apply s).flits = s.flits := rfl
@[simp] theorem Upd.cur_results (c : Option Site) (s : State) : ((Upd.cur c).apply s).results = s.results := rfl
@[simp] theorem Upd.cur_relatch (c : Option Site) (s : State) : ((Upd.cur c).apply s).relatch = s.relatch := rfl
@[simp] theorem Upd.cur_drains (c : Option Site) (s : State) : ((Upd.cur c).apply s).drains = s.drains := rfl
@[simp] theorem Upd.cur_unmaps (c : Option Site) (s : State) : ((Upd.cur c).apply s).unmaps = s.unmaps := rfl
@[simp] theorem Upd.cur_mirror (c : Option Site) (s : State) : ((Upd.cur c).apply s).mirror = s.mirror := rfl
@[simp] theorem Upd.cur_reins (c : Option Site) (s : State) : ((Upd.cur c).apply s).reins = s.reins := rfl
@[simp] theorem Upd.cur_waiters (c : Option Site) (s : State) : ((Upd.cur c).apply s).waiters = s.waiters := rfl
@[simp] theorem Upd.cur_since (c : Option Site) (s : State) : ((Upd.cur c).apply s).since = s.since := rfl
@[simp] theorem Upd.cur_hub (c : Option Site) (s : State) : ((Upd.cur c).apply s).hub = s.hub := rfl

/-! ### tick -/

@[simp] theorem Upd.tick_agenda (ns : Nat) (s : State) : ((Upd.tick ns).apply s).agenda = s.agenda := rfl
@[simp] theorem Upd.tick_cur (ns : Nat) (s : State) : ((Upd.tick ns).apply s).cur = s.cur := rfl
@[simp] theorem Upd.tick_ctr (ns : Nat) (s : State) : ((Upd.tick ns).apply s).ctr = s.ctr := rfl
@[simp] theorem Upd.tick_tbase (ns : Nat) (s : State) : ((Upd.tick ns).apply s).tbase = s.tbase + BitVec.ofNat 64 ns := rfl
@[simp] theorem Upd.tick_power (ns : Nat) (s : State) : ((Upd.tick ns).apply s).power = s.power := rfl
@[simp] theorem Upd.tick_nodes (ns : Nat) (s : State) : ((Upd.tick ns).apply s).nodes = s.nodes := rfl
@[simp] theorem Upd.tick_pads (ns : Nat) (s : State) : ((Upd.tick ns).apply s).pads = s.pads := rfl
@[simp] theorem Upd.tick_mem (ns : Nat) (s : State) : ((Upd.tick ns).apply s).mem = s.mem := rfl
@[simp] theorem Upd.tick_tables (ns : Nat) (s : State) : ((Upd.tick ns).apply s).tables = s.tables := rfl
@[simp] theorem Upd.tick_vers (ns : Nat) (s : State) : ((Upd.tick ns).apply s).vers = s.vers := rfl
@[simp] theorem Upd.tick_l2 (ns : Nat) (s : State) : ((Upd.tick ns).apply s).l2 = s.l2 := rfl
@[simp] theorem Upd.tick_poison (ns : Nat) (s : State) : ((Upd.tick ns).apply s).poison = s.poison := rfl
@[simp] theorem Upd.tick_held (ns : Nat) (s : State) : ((Upd.tick ns).apply s).held = s.held := rfl
@[simp] theorem Upd.tick_breqs (ns : Nat) (s : State) : ((Upd.tick ns).apply s).breqs = s.breqs := rfl
@[simp] theorem Upd.tick_tlb (ns : Nat) (s : State) : ((Upd.tick ns).apply s).tlb = s.tlb := rfl
@[simp] theorem Upd.tick_tasks (ns : Nat) (s : State) : ((Upd.tick ns).apply s).tasks = s.tasks := rfl
@[simp] theorem Upd.tick_parts (ns : Nat) (s : State) : ((Upd.tick ns).apply s).parts = s.parts := rfl
@[simp] theorem Upd.tick_cards (ns : Nat) (s : State) : ((Upd.tick ns).apply s).cards = s.cards := rfl
@[simp] theorem Upd.tick_flits (ns : Nat) (s : State) : ((Upd.tick ns).apply s).flits = s.flits := rfl
@[simp] theorem Upd.tick_results (ns : Nat) (s : State) : ((Upd.tick ns).apply s).results = s.results := rfl
@[simp] theorem Upd.tick_relatch (ns : Nat) (s : State) : ((Upd.tick ns).apply s).relatch = s.relatch := rfl
@[simp] theorem Upd.tick_drains (ns : Nat) (s : State) : ((Upd.tick ns).apply s).drains = s.drains := rfl
@[simp] theorem Upd.tick_unmaps (ns : Nat) (s : State) : ((Upd.tick ns).apply s).unmaps = s.unmaps := rfl
@[simp] theorem Upd.tick_mirror (ns : Nat) (s : State) : ((Upd.tick ns).apply s).mirror = s.mirror := rfl
@[simp] theorem Upd.tick_reins (ns : Nat) (s : State) : ((Upd.tick ns).apply s).reins = s.reins := rfl
@[simp] theorem Upd.tick_waiters (ns : Nat) (s : State) : ((Upd.tick ns).apply s).waiters = s.waiters := rfl
@[simp] theorem Upd.tick_since (ns : Nat) (s : State) : ((Upd.tick ns).apply s).since = s.since := rfl
@[simp] theorem Upd.tick_hub (ns : Nat) (s : State) : ((Upd.tick ns).apply s).hub = s.hub := rfl

/-! ### fresh -/

@[simp] theorem Upd.fresh_agenda (s : State) : (Upd.fresh.apply s).agenda = s.agenda := rfl
@[simp] theorem Upd.fresh_cur (s : State) : (Upd.fresh.apply s).cur = s.cur := rfl
@[simp] theorem Upd.fresh_ctr (s : State) : (Upd.fresh.apply s).ctr = s.ctr + 1 := rfl
@[simp] theorem Upd.fresh_tbase (s : State) : (Upd.fresh.apply s).tbase = s.tbase := rfl
@[simp] theorem Upd.fresh_power (s : State) : (Upd.fresh.apply s).power = s.power := rfl
@[simp] theorem Upd.fresh_nodes (s : State) : (Upd.fresh.apply s).nodes = s.nodes := rfl
@[simp] theorem Upd.fresh_pads (s : State) : (Upd.fresh.apply s).pads = s.pads := rfl
@[simp] theorem Upd.fresh_mem (s : State) : (Upd.fresh.apply s).mem = s.mem := rfl
@[simp] theorem Upd.fresh_tables (s : State) : (Upd.fresh.apply s).tables = s.tables := rfl
@[simp] theorem Upd.fresh_vers (s : State) : (Upd.fresh.apply s).vers = s.vers := rfl
@[simp] theorem Upd.fresh_l2 (s : State) : (Upd.fresh.apply s).l2 = s.l2 := rfl
@[simp] theorem Upd.fresh_poison (s : State) : (Upd.fresh.apply s).poison = s.poison := rfl
@[simp] theorem Upd.fresh_held (s : State) : (Upd.fresh.apply s).held = s.held := rfl
@[simp] theorem Upd.fresh_breqs (s : State) : (Upd.fresh.apply s).breqs = s.breqs := rfl
@[simp] theorem Upd.fresh_tlb (s : State) : (Upd.fresh.apply s).tlb = s.tlb := rfl
@[simp] theorem Upd.fresh_tasks (s : State) : (Upd.fresh.apply s).tasks = s.tasks := rfl
@[simp] theorem Upd.fresh_parts (s : State) : (Upd.fresh.apply s).parts = s.parts := rfl
@[simp] theorem Upd.fresh_cards (s : State) : (Upd.fresh.apply s).cards = s.cards := rfl
@[simp] theorem Upd.fresh_flits (s : State) : (Upd.fresh.apply s).flits = s.flits := rfl
@[simp] theorem Upd.fresh_results (s : State) : (Upd.fresh.apply s).results = s.results := rfl
@[simp] theorem Upd.fresh_relatch (s : State) : (Upd.fresh.apply s).relatch = s.relatch := rfl
@[simp] theorem Upd.fresh_drains (s : State) : (Upd.fresh.apply s).drains = s.drains := rfl
@[simp] theorem Upd.fresh_unmaps (s : State) : (Upd.fresh.apply s).unmaps = s.unmaps := rfl
@[simp] theorem Upd.fresh_mirror (s : State) : (Upd.fresh.apply s).mirror = s.mirror := rfl
@[simp] theorem Upd.fresh_reins (s : State) : (Upd.fresh.apply s).reins = s.reins := rfl
@[simp] theorem Upd.fresh_waiters (s : State) : (Upd.fresh.apply s).waiters = s.waiters := rfl
@[simp] theorem Upd.fresh_since (s : State) : (Upd.fresh.apply s).since = s.since := rfl
@[simp] theorem Upd.fresh_hub (s : State) : (Upd.fresh.apply s).hub = s.hub := rfl

/-! ### power -/

@[simp] theorem Upd.power_agenda (p : Power) (s : State) : ((Upd.power p).apply s).agenda = s.agenda := rfl
@[simp] theorem Upd.power_cur (p : Power) (s : State) : ((Upd.power p).apply s).cur = s.cur := rfl
@[simp] theorem Upd.power_ctr (p : Power) (s : State) : ((Upd.power p).apply s).ctr = s.ctr := rfl
@[simp] theorem Upd.power_tbase (p : Power) (s : State) : ((Upd.power p).apply s).tbase = s.tbase := rfl
@[simp] theorem Upd.power_power (p : Power) (s : State) : ((Upd.power p).apply s).power = p := rfl
@[simp] theorem Upd.power_nodes (p : Power) (s : State) : ((Upd.power p).apply s).nodes = s.nodes := rfl
@[simp] theorem Upd.power_pads (p : Power) (s : State) : ((Upd.power p).apply s).pads = s.pads := rfl
@[simp] theorem Upd.power_mem (p : Power) (s : State) : ((Upd.power p).apply s).mem = s.mem := rfl
@[simp] theorem Upd.power_tables (p : Power) (s : State) : ((Upd.power p).apply s).tables = s.tables := rfl
@[simp] theorem Upd.power_vers (p : Power) (s : State) : ((Upd.power p).apply s).vers = s.vers := rfl
@[simp] theorem Upd.power_l2 (p : Power) (s : State) : ((Upd.power p).apply s).l2 = s.l2 := rfl
@[simp] theorem Upd.power_poison (p : Power) (s : State) : ((Upd.power p).apply s).poison = s.poison := rfl
@[simp] theorem Upd.power_held (p : Power) (s : State) : ((Upd.power p).apply s).held = s.held := rfl
@[simp] theorem Upd.power_breqs (p : Power) (s : State) : ((Upd.power p).apply s).breqs = s.breqs := rfl
@[simp] theorem Upd.power_tlb (p : Power) (s : State) : ((Upd.power p).apply s).tlb = s.tlb := rfl
@[simp] theorem Upd.power_tasks (p : Power) (s : State) : ((Upd.power p).apply s).tasks = s.tasks := rfl
@[simp] theorem Upd.power_parts (p : Power) (s : State) : ((Upd.power p).apply s).parts = s.parts := rfl
@[simp] theorem Upd.power_cards (p : Power) (s : State) : ((Upd.power p).apply s).cards = s.cards := rfl
@[simp] theorem Upd.power_flits (p : Power) (s : State) : ((Upd.power p).apply s).flits = s.flits := rfl
@[simp] theorem Upd.power_results (p : Power) (s : State) : ((Upd.power p).apply s).results = s.results := rfl
@[simp] theorem Upd.power_relatch (p : Power) (s : State) : ((Upd.power p).apply s).relatch = s.relatch := rfl
@[simp] theorem Upd.power_drains (p : Power) (s : State) : ((Upd.power p).apply s).drains = s.drains := rfl
@[simp] theorem Upd.power_unmaps (p : Power) (s : State) : ((Upd.power p).apply s).unmaps = s.unmaps := rfl
@[simp] theorem Upd.power_mirror (p : Power) (s : State) : ((Upd.power p).apply s).mirror = s.mirror := rfl
@[simp] theorem Upd.power_reins (p : Power) (s : State) : ((Upd.power p).apply s).reins = s.reins := rfl
@[simp] theorem Upd.power_waiters (p : Power) (s : State) : ((Upd.power p).apply s).waiters = s.waiters := rfl
@[simp] theorem Upd.power_since (p : Power) (s : State) : ((Upd.power p).apply s).since = s.since := rfl
@[simp] theorem Upd.power_hub (p : Power) (s : State) : ((Upd.power p).apply s).hub = s.hub := rfl

end Sys2Proof.Machine
end

