-- ==== Sys2Proof/Laws/Prog.lean ====
section
/-! SUPPORT. Laws of programs: how they run, that every one keeps the canonical form, and frames from the updates they can make. -/

namespace Sys2Proof.Machine

@[simp] theorem Prog.run_skip (s : State) : Prog.skip.run s = s := rfl
@[simp] theorem Prog.run_upd (u : Upd) (s : State) : (Prog.upd u).run s = u.apply s := rfl
@[simp] theorem Prog.run_seq (p q : Prog) (s : State) : (Prog.seq p q).run s = q.run (p.run s) := rfl
@[simp] theorem Prog.run_ask (k : State → Prog) (s : State) : (Prog.ask k).run s = (k s).run s := rfl
@[simp] theorem Prog.run_all_nil (s : State) : (Prog.all []).run s = s := rfl
@[simp] theorem Prog.run_all_cons (p : Prog) (ps : List Prog) (s : State) :
    (Prog.all (p :: ps)).run s = (Prog.all ps).run (p.run s) := rfl
@[simp] theorem Prog.run_when_true (p : Prog) (s : State) : (Prog.when true p).run s = p.run s := rfl
@[simp] theorem Prog.run_when_false (p : Prog) (s : State) : (Prog.when false p).run s = s := rfl
@[simp] theorem Prog.done_eq (p : Prog) (s : State) : p.done s = .next (p.run s) := rfl

/-- A reflexive and transitive relation that every update of a program respects holds between the state before and the state after. -/
theorem Prog.run_rel {ok : Upd → Prop} {R : State → State → Prop} (hr : ∀ s, R s s) (ht : ∀ a b c, R a b → R b c → R a c)
    (hu : ∀ u, ok u → ∀ s, R s (u.apply s)) : ∀ (p : Prog), p.Only ok → ∀ s, R s (p.run s) := by
  intro p
  induction p with
  | skip => exact fun _ s => hr s
  | upd u => exact fun h s => hu u h s
  | seq p q ihp ihq => exact fun h s => ht _ _ _ (ihp h.1 s) (ihq h.2 _)
  | ask k ih => exact fun h s => ih s (h s) s

/-- What every update keeps, every program keeps. -/
theorem Prog.run_keeps {I : State → Prop} (hu : ∀ u s, I s → I (Upd.apply u s)) : ∀ (p : Prog) (s : State), I s → I (p.run s) := by
  intro p
  induction p with
  | skip => exact fun _ h => h
  | upd u => exact fun s h => hu u s h
  | seq p q ihp ihq => exact fun s h => ihq _ (ihp s h)
  | ask k ih => exact fun s h => ih s s h

theorem Prog.only_all {ok : Upd → Prop} : ∀ {ps : List Prog}, (∀ p ∈ ps, p.Only ok) → (Prog.all ps).Only ok
  | [], _ => trivial
  | p :: ps, h => ⟨h p (List.mem_cons_self ..), Prog.only_all fun q hq => h q (List.mem_cons_of_mem _ hq)⟩

theorem Prog.only_each {ok : Upd → Prop} {α : Type} {l : List α} {f : α → Prog} (h : ∀ x ∈ l, (f x).Only ok) :
    (Prog.each l f).Only ok := by
  apply Prog.only_all
  intro p hp
  obtain ⟨x, hx, rfl⟩ := List.mem_map.1 hp
  exact h x hx

theorem Prog.only_when {ok : Upd → Prop} {c : Bool} {p : Prog} (h : p.Only ok) : (Prog.when c p).Only ok := by
  cases c
  · exact trivial
  · exact h

/-- Fewer updates allowed is a stronger claim. -/
theorem Prog.Only.mono {ok ok' : Upd → Prop} (h : ∀ u, ok u → ok' u) : ∀ {p : Prog}, p.Only ok → p.Only ok' := by
  intro p
  induction p with
  | skip => exact fun _ => trivial
  | upd u => exact fun hp => h u hp
  | seq p q ihp ihq => exact fun hp => ⟨ihp hp.1, ihq hp.2⟩
  | ask k ih => exact fun hp s => ih s (hp s)

/-- Writing a byte keeps memory's canonical form. -/
theorem Memory.write_wf {m : List Host.Cell} (a : Nat) (b : Byte) (h : Memory.wf m = true) : Memory.wf (Sparse.put memDefault m a b) = true :=
  Sparse.put_wf a b h

/-- Memory at reset has the canonical form. -/
theorem Memory.reset_wf : Memory.wf State.reset.mem = true := rfl

/-- Every update keeps the canonical form. -/
theorem Upd.canonical (u : Upd) {s : State} (h : s.Canonical) : (u.apply s).Canonical := by
  obtain ⟨h1, h2, h3, h4, h5, h6, h7, h8, h9⟩ := h
  cases u <;> constructor <;>
    first | assumption | exact Sparse.put_wf _ _ ‹_› | exact Sparse.upd_wf _ _ ‹_›

/-- Every program keeps the canonical form. -/
theorem Prog.canonical (p : Prog) {s : State} (h : s.Canonical) : (p.run s).Canonical :=
  Prog.run_keeps (fun u _ hs => u.canonical hs) p s h

end Sys2Proof.Machine
end

