-- ==== Sys2Proof/Laws/Fire.lean ====
section
/-! SUPPORT. Laws of a firing: what `fire` and the run of a plan can do, said once. -/

namespace Sys2Proof.Machine

/-- Everything that a firing rests on: a site in hand, its node's mapped block and task, and operands that wait on a node that is
neither faulted nor suspended, inside the block's window. -/
theorem fireCtx_some {i : Instr} {s : State} {c : Fx} (h : fireCtx i s = some c) :
    ∃ st m tid t, s.cur = some st ∧ (s.node st.node).cur = some m ∧ (s.node st.node).task = some tid ∧ s.taskOf st.node = some t ∧
      ((s.node st.node).allThere i st.q st.tag && !(s.node st.node).stopped m (st.q, st.tag) && !(s.node st.node).suspended &&
        !outsideWindow t st.node m st.tag) = true ∧
      c = ⟨s, st.node, st.q, st.tag, s.node st.node, m, unitTag (s.node st.node) m st.tag, m.unit (unitTag (s.node st.node) m st.tag),
        tid, t, m.snap.jord, i.hdr, (s.node st.node).waiting st.q 1 st.tag,
        if needsRight i then (s.node st.node).waiting st.q 2 st.tag else none,
        if needsPred i then (s.node st.node).waiting st.q 3 st.tag else none, (outPlanes i).headD i.hdr.plane.toNat⟩ := by
  cases hc : s.cur with
  | none => simp [fireCtx, hc] at h
  | some st =>
    cases hm : (s.node st.node).cur with
    | none => simp [fireCtx, hc, hm] at h
    | some m =>
      cases ht : (s.node st.node).task with
      | none => simp [fireCtx, hc, hm, ht] at h
      | some tid =>
        cases hk : s.taskOf st.node with
        | none => simp [fireCtx, hc, hm, ht, hk] at h
        | some t =>
          simp only [fireCtx, hc, hm, ht, hk] at h
          refine ⟨st, m, tid, t, rfl, hm, ht, hk, ?_⟩
          by_cases hg : ((s.node st.node).allThere i st.q st.tag && !(s.node st.node).stopped m (st.q, st.tag) &&
              !(s.node st.node).suspended && !outsideWindow t st.node m st.tag) = true
          · rw [if_pos hg] at h
            exact ⟨hg, (Option.some.inj h).symm⟩
          · rw [if_neg hg] at h
            cases h

/-- The state that a firing sees is the state it is made in. -/
theorem fireCtx_state {i : Instr} {s : State} {c : Fx} (h : fireCtx i s = some c) : c.s = s := by
  obtain ⟨_, _, _, _, -, -, -, -, -, rfl⟩ := fireCtx_some h
  rfl

/-- The header that a firing sees is its instruction's. -/
theorem fireCtx_hdr {i : Instr} {s : State} {c : Fx} (h : fireCtx i s = some c) : c.h = i.hdr := by
  obtain ⟨_, _, _, _, -, -, -, -, -, rfl⟩ := fireCtx_some h
  rfl

theorem Fires.state {i : Instr} {s : State} {c : Fx} (h : Fires i s c) : c.s = s := fireCtx_state h.ctx
theorem Fires.hdr {i : Instr} {s : State} {c : Fx} (h : Fires i s c) : c.h = i.hdr := fireCtx_hdr h.ctx

/-- Where nothing stops a firing, it runs its plan. -/
theorem fire_fires {i : Instr} {plan : Fx → Plan} {s : State} {c : Fx} (h : Fires i s c) : fire i plan s = c.run (plan c) := by
  simp only [fire, h.ctx, h.good, h.marks, h.beats, h.upset, Bool.not_true, Bool.false_eq_true, if_false]

/-- A site that is not there is refused. -/
theorem fire_notReady {i : Instr} {plan : Fx → Plan} {s : State} (h : fireCtx i s = none) : fire i plan s = .refused .notReady := by
  simp only [fire, h]

theorem drawOr_covered {c : Fx} {d place : Nat} {pc : BitVec 58} {tag : Tag} {k : Prog} (h : Covers c d) :
    (drawOr c.n d place pc tag k).run c.s =
      k.run ((onRef c.n fun nd => { nd with crib := nd.crib.draw d (tagColour tag) }).run c.s) := by
  have h' : d ≤ (refNode c.s c.n).crib.remaining := h
  simp only [drawOr, Prog.run_ask, h', if_true, Prog.run_seq]

/-- A plan that acts, and whose draw is covered: draw, take the operands, act. -/
theorem Fx.run_act {c : Fx} {d : Nat} {p : Prog} (h : Covers c d) : c.run (.act d p) = .next (p.run (c.taken d)) := by
  simp only [Fx.run, Prog.done_eq, drawOr_covered h, Prog.run_seq, Fx.taken]

/-- A draw that is not covered ends the task instead. -/
theorem Fx.run_act_short {c : Fx} {d : Nat} {p : Prog} (h : ¬ Covers c d) :
    c.run (.act d p) = .next ((shortfall c.n d c.q c.m.blk.pc c.tag).run c.s) := by
  have h' : ¬ d ≤ (refNode c.s c.n).crib.remaining := h
  simp only [Fx.run, Prog.done_eq, drawOr, Prog.run_ask, h', if_false]

/-- A plan that faults draws first. -/
theorem Fx.run_fault {c : Fx} {d code : Nat} {addr info : Word} (h : Covers c d) :
    c.run (.fault d code addr info) = .next (c.faulted d code addr info) := by
  simp only [Fx.run, Prog.done_eq, drawOr_covered h, Fx.faulted]

theorem Fx.run_wait {c : Fx} : c.run .wait = .next c.s := rfl
theorem Fx.run_hold {c : Fx} {p : Prog} : c.run (.hold p) = .next (p.run c.s) := rfl

/-- Emission under a tag that is there. -/
theorem Fx.emitPlan_tags {c : Fx} {d : Nat} {x : TokData} {null : Bool} {b : Prog} {tg : Tag} {cl : Option Claim} (h : Tags c tg cl) :
    c.emitPlan d x null b = .act d (.all [b, takeClaim c.tid c.n c.ut cl, c.emit tg x null]) := by
  have h' : tagRes c.t c.tag c.h.tagop.toNat = .ok tg cl := h
  simp only [Fx.emitPlan, h']

theorem Fx.run_emitPlan {c : Fx} {d : Nat} {x : TokData} {null : Bool} {b : Prog} {tg : Tag} {cl : Option Claim} (h : Tags c tg cl)
    (hd : Covers c d) : c.run (c.emitPlan d x null b) = .next (c.emitted d tg cl x null b) := by
  rw [Fx.emitPlan_tags h, Fx.run_act hd]
  rfl

/-- A run of a plan always answers a next state, which a program makes of the state before. -/
theorem Fx.run_program (c : Fx) (pl : Plan) : ∃ p : Prog, c.run pl = .next (p.run c.s) := by
  cases pl with
  | wait => exact ⟨.skip, rfl⟩
  | hold p => exact ⟨p, rfl⟩
  | fault d code addr info => exact ⟨_, rfl⟩
  | act d p => exact ⟨_, rfl⟩

/-- A firing answers a next state that a program makes of the state before, or is refused because it is not ready. -/
theorem fire_program (i : Instr) (plan : Fx → Plan) (s : State) :
    fire i plan s = .refused .notReady ∨ ∃ p : Prog, fire i plan s = .next (p.run s) := by
  unfold fire
  split
  · exact .inl rfl
  · rename_i c hc
    have hs := fireCtx_state hc
    have key : ∀ pl, ∃ p : Prog, c.run pl = .next (p.run s) := fun pl => hs ▸ c.run_program pl
    right
    split
    · exact ⟨_, rfl⟩
    · split
      · exact key _
      · split
        · exact key _
        · split
          · exact key _
          · split
            · exact ⟨_, rfl⟩
            · exact ⟨_, rfl⟩

end Sys2Proof.Machine
end

