-- ==== Sys2Proof/Laws/Exec.lean ====
section
/-! SUPPORT. Every meaning answers a next state that a program of updates makes, or refuses: nothing faults the model. -/

namespace Sys2Proof.Machine

/-- An outcome that is a refusal, or the next state of a program run on `s`. -/
def Programmed (o : Host.Outcome State Fault Refusal) (s : State) : Prop :=
  (∃ r, o = .refused r) ∨ ∃ p : Prog, o = .next (p.run s)

theorem programmed_done (p : Prog) (s : State) : Programmed (p.done s) s := .inr ⟨p, rfl⟩
theorem programmed_refused (r : Refusal) (s : State) : Programmed (.refused r) s := .inl ⟨r, rfl⟩
theorem programmed_stay (s : State) : Programmed (.next s) s := .inr ⟨.skip, rfl⟩

theorem programmed_fire (i : Instr) (plan : Fx → Plan) (s : State) : Programmed (fire i plan s) s :=
  (fire_program i plan s).imp (fun h => ⟨_, h⟩) id

theorem programmed_jetForm (i : Instr) (f : FmtA) (elem : Fx → Nat → Nat → Nat → Nat → LaneOut)
    (jet : Fx → List Nat → List Nat → List Nat → LaneOut) (s : State) : Programmed (jetForm i f elem jet s) s := by
  unfold jetForm
  split
  · exact programmed_fire _ _ s
  · exact programmed_fire _ _ s

theorem programmed_job (o : Option Prog) (s : State) : Programmed (match o with
    | some p => p.done s
    | none => .refused .notEnabled) s := by
  cases o
  · exact programmed_refused _ s
  · exact programmed_done _ s

theorem programmed_inOrder {opc : Nat} {c : Cmd} {safe : Bool} {k : Host.Outcome State Fault Refusal} {s : State}
    (hk : Programmed k s) : Programmed (inOrder opc c safe k s) s := by
  unfold inOrder
  split
  · exact programmed_refused _ s
  · split
    · exact programmed_done _ s
    · split
      · exact programmed_done _ s
      · split
        · exact programmed_done _ s
        · exact hk

theorem programmed_hubCommand (opc : Nat) (c : Cmd) (safe : Bool) (run : State → Option Reply) (s : State) :
    Programmed (hubCommand opc c safe run s) s := by
  apply programmed_inOrder
  split
  · exact programmed_done _ s
  · exact programmed_refused _ s

/-! ### One lemma per meaning -/

theorem programmed_execPowerOn (bad) (s : State) : Programmed (execPowerOn bad s) s := by
  unfold execPowerOn
  repeat' (first | exact programmed_done _ s | exact programmed_refused _ s | exact programmed_stay s | apply programmed_inOrder | split | dsimp only)
theorem programmed_execDawn (c bad) (s : State) : Programmed (execDawn c bad s) s := by
  unfold execDawn
  repeat' (first | exact programmed_done _ s | exact programmed_refused _ s | exact programmed_stay s | apply programmed_inOrder | split | dsimp only)
theorem programmed_execNoon (c force) (s : State) : Programmed (execNoon c force s) s := by
  unfold execNoon
  repeat' (first | exact programmed_done _ s | exact programmed_refused _ s | exact programmed_stay s | apply programmed_inOrder | split | dsimp only)
theorem programmed_execSync (c) (s : State) : Programmed (execSync c s) s := by
  unfold execSync
  repeat' (first | exact programmed_done _ s | exact programmed_refused _ s | exact programmed_stay s | apply programmed_inOrder | split | dsimp only)
theorem programmed_execPart (c p w0 w1 w2) (s : State) : Programmed (execPart c p w0 w1 w2 s) s := by
  unfold execPart
  exact programmed_hubCommand _ _ _ _ s
theorem programmed_execKey (c p wrap) (s : State) : Programmed (execKey c p wrap s) s := by
  unfold execKey
  exact programmed_hubCommand _ _ _ _ s
theorem programmed_execRings (c p bases caps logCap mirBase mirLen partner) (s : State) : Programmed (execRings c p bases caps logCap mirBase mirLen partner s) s := by
  unfold execRings
  exact programmed_hubCommand _ _ _ _ s
theorem programmed_execFrames (c p asid fs) (s : State) : Programmed (execFrames c p asid fs s) s := by
  unfold execFrames
  exact programmed_hubCommand _ _ _ _ s
theorem programmed_execQuota (c p counter period) (s : State) : Programmed (execQuota c p counter period s) s := by
  unfold execQuota
  exact programmed_hubCommand _ _ _ _ s
theorem programmed_execArenaCreate (c p asid id base size die) (s : State) : Programmed (execArenaCreate c p asid id base size die s) s := by
  unfold execArenaCreate
  exact programmed_hubCommand _ _ _ _ s
theorem programmed_execArenaDestroy (c p asid id) (s : State) : Programmed (execArenaDestroy c p asid id s) s := by
  unfold execArenaDestroy
  exact programmed_hubCommand _ _ _ _ s
theorem programmed_execImage (c p asid va bytes) (s : State) : Programmed (execImage c p asid va bytes s) s := by
  unfold execImage
  exact programmed_hubCommand _ _ _ _ s
theorem programmed_execFwin (c die win w0 w1 w2 w3) (s : State) : Programmed (execFwin c die win w0 w1 w2 w3 s) s := by
  unfold execFwin
  exact programmed_hubCommand _ _ _ _ s
theorem programmed_execEnqueue (c p queue record va) (s : State) : Programmed (execEnqueue c p queue record va s) s := by
  unfold execEnqueue
  exact programmed_hubCommand _ _ _ _ s
theorem programmed_execCancel (c p byVa x) (s : State) : Programmed (execCancel c p byVa x s) s := by
  unfold execCancel
  exact programmed_hubCommand _ _ _ _ s
theorem programmed_execLogfetch (c p first count) (s : State) : Programmed (execLogfetch c p first count s) s := by
  unfold execLogfetch
  exact programmed_hubCommand _ _ _ _ s
theorem programmed_execLogack (c p n) (s : State) : Programmed (execLogack c p n s) s := by
  unfold execLogack
  exact programmed_hubCommand _ _ _ _ s
theorem programmed_execSign (c p) (s : State) : Programmed (execSign c p s) s := by
  unfold execSign
  exact programmed_hubCommand _ _ _ _ s
theorem programmed_execMsgfetch (c p) (s : State) : Programmed (execMsgfetch c p s) s := by
  unfold execMsgfetch
  exact programmed_hubCommand _ _ _ _ s
theorem programmed_execHealth (c) (s : State) : Programmed (execHealth c s) s := by
  unfold execHealth
  exact programmed_hubCommand _ _ _ _ s
theorem programmed_execMonitor (c first count) (s : State) : Programmed (execMonitor c first count s) s := by
  unfold execMonitor
  exact programmed_hubCommand _ _ _ _ s
theorem programmed_execIdentity (c) (s : State) : Programmed (execIdentity c s) s := by
  unfold execIdentity
  exact programmed_hubCommand _ _ _ _ s
theorem programmed_execDebugResume (c p node) (s : State) : Programmed (execDebugResume c p node s) s := by
  unfold execDebugResume
  exact programmed_hubCommand _ _ _ _ s
theorem programmed_execDebugSuspend (c p node) (s : State) : Programmed (execDebugSuspend c p node s) s := by
  unfold execDebugSuspend
  exact programmed_hubCommand _ _ _ _ s
theorem programmed_execFwupdate (c image) (s : State) : Programmed (execFwupdate c image s) s := by
  unfold execFwupdate
  exact programmed_hubCommand _ _ _ _ s
theorem programmed_execNonRodPacket (s : State) : Programmed (execNonRodPacket s) s := by
  unfold execNonRodPacket
  repeat' (first | exact programmed_done _ s | exact programmed_refused _ s | exact programmed_stay s | apply programmed_inOrder | split | dsimp only)
theorem programmed_execBr (f) (s : State) : Programmed (execBr f s) s := programmed_fire _ _ s
theorem programmed_execBri (f) (s : State) : Programmed (execBri f s) s := programmed_fire _ _ s
theorem programmed_execCall (f) (s : State) : Programmed (execCall f s) s := programmed_fire _ _ s
theorem programmed_execCalli (f) (s : State) : Programmed (execCalli f s) s := programmed_fire _ _ s
theorem programmed_execRet (f) (s : State) : Programmed (execRet f s) s := programmed_fire _ _ s
theorem programmed_execHalt (f) (s : State) : Programmed (execHalt f s) s := programmed_fire _ _ s
theorem programmed_execMov (f) (s : State) : Programmed (execMov f s) s := programmed_fire _ _ s
theorem programmed_execConst (f) (s : State) : Programmed (execConst f s) s := programmed_fire _ _ s
theorem programmed_execLenter (f) (s : State) : Programmed (execLenter f s) s := programmed_fire _ _ s
theorem programmed_execInext (f) (s : State) : Programmed (execInext f s) s := programmed_fire _ _ s
theorem programmed_execIprev (f) (s : State) : Programmed (execIprev f s) s := programmed_fire _ _ s
theorem programmed_execLexit (f) (s : State) : Programmed (execLexit f s) s := programmed_fire _ _ s
theorem programmed_execTalloc (f) (s : State) : Programmed (execTalloc f s) s := programmed_fire _ _ s
theorem programmed_execTfree (f) (s : State) : Programmed (execTfree f s) s := programmed_fire _ _ s
theorem programmed_execSpawn (f) (s : State) : Programmed (execSpawn f s) s := programmed_fire _ _ s
theorem programmed_execJoin (f) (s : State) : Programmed (execJoin f s) s := programmed_fire _ _ s
theorem programmed_execGetg (f) (s : State) : Programmed (execGetg f s) s := programmed_fire _ _ s
theorem programmed_execPutg (f) (s : State) : Programmed (execPutg f s) s := programmed_fire _ _ s
theorem programmed_execEmpty (f) (s : State) : Programmed (execEmpty f s) s := programmed_fire _ _ s
theorem programmed_execNull (f) (s : State) : Programmed (execNull f s) s := programmed_fire _ _ s
theorem programmed_execCmp (f) (s : State) : Programmed (execCmp f s) s := programmed_fire _ _ s
theorem programmed_execFcmp (f) (s : State) : Programmed (execFcmp f s) s := programmed_fire _ _ s
theorem programmed_execPand (f) (s : State) : Programmed (execPand f s) s := programmed_fire _ _ s
theorem programmed_execPor (f) (s : State) : Programmed (execPor f s) s := programmed_fire _ _ s
theorem programmed_execPxor (f) (s : State) : Programmed (execPxor f s) s := programmed_fire _ _ s
theorem programmed_execPnot (f) (s : State) : Programmed (execPnot f s) s := programmed_fire _ _ s
theorem programmed_execAny (f) (s : State) : Programmed (execAny f s) s := programmed_fire _ _ s
theorem programmed_execAll (f) (s : State) : Programmed (execAll f s) s := programmed_fire _ _ s
theorem programmed_execMaskn (f) (s : State) : Programmed (execMaskn f s) s := programmed_fire _ _ s
theorem programmed_execSel (f) (s : State) : Programmed (execSel f s) s := programmed_fire _ _ s
theorem programmed_execAdd (f) (s : State) : Programmed (execAdd f s) s := programmed_fire _ _ s
theorem programmed_execSub (f) (s : State) : Programmed (execSub f s) s := programmed_fire _ _ s
theorem programmed_execMul (f) (s : State) : Programmed (execMul f s) s := programmed_fire _ _ s
theorem programmed_execMulh (f) (s : State) : Programmed (execMulh f s) s := programmed_fire _ _ s
theorem programmed_execDiv (f) (s : State) : Programmed (execDiv f s) s := programmed_fire _ _ s
theorem programmed_execRem (f) (s : State) : Programmed (execRem f s) s := programmed_fire _ _ s
theorem programmed_execNeg (f) (s : State) : Programmed (execNeg f s) s := programmed_fire _ _ s
theorem programmed_execAbs (f) (s : State) : Programmed (execAbs f s) s := programmed_fire _ _ s
theorem programmed_execMin (f) (s : State) : Programmed (execMin f s) s := programmed_fire _ _ s
theorem programmed_execMax (f) (s : State) : Programmed (execMax f s) s := programmed_fire _ _ s
theorem programmed_execMadd (f) (s : State) : Programmed (execMadd f s) s := programmed_fire _ _ s
theorem programmed_execDot4 (f) (s : State) : Programmed (execDot4 f s) s := programmed_fire _ _ s
theorem programmed_execLea (f) (s : State) : Programmed (execLea f s) s := programmed_fire _ _ s
theorem programmed_execAnd (f) (s : State) : Programmed (execAnd f s) s := programmed_fire _ _ s
theorem programmed_execOr (f) (s : State) : Programmed (execOr f s) s := programmed_fire _ _ s
theorem programmed_execXor (f) (s : State) : Programmed (execXor f s) s := programmed_fire _ _ s
theorem programmed_execAndn (f) (s : State) : Programmed (execAndn f s) s := programmed_fire _ _ s
theorem programmed_execNot (f) (s : State) : Programmed (execNot f s) s := programmed_fire _ _ s
theorem programmed_execShl (f) (s : State) : Programmed (execShl f s) s := programmed_fire _ _ s
theorem programmed_execShr (f) (s : State) : Programmed (execShr f s) s := programmed_fire _ _ s
theorem programmed_execSar (f) (s : State) : Programmed (execSar f s) s := programmed_fire _ _ s
theorem programmed_execRol (f) (s : State) : Programmed (execRol f s) s := programmed_fire _ _ s
theorem programmed_execClz (f) (s : State) : Programmed (execClz f s) s := programmed_fire _ _ s
theorem programmed_execPopc (f) (s : State) : Programmed (execPopc f s) s := programmed_fire _ _ s
theorem programmed_execBrev (f) (s : State) : Programmed (execBrev f s) s := programmed_fire _ _ s
theorem programmed_execBfx (f) (s : State) : Programmed (execBfx f s) s := programmed_fire _ _ s
theorem programmed_execBfi (f) (s : State) : Programmed (execBfi f s) s := programmed_fire _ _ s
theorem programmed_execSext (f) (s : State) : Programmed (execSext f s) s := programmed_fire _ _ s
theorem programmed_execZext (f) (s : State) : Programmed (execZext f s) s := programmed_fire _ _ s
theorem programmed_execFadd (f) (s : State) : Programmed (execFadd f s) s := by
  unfold execFadd
  exact programmed_jetForm _ _ _ _ s
theorem programmed_execFsub (f) (s : State) : Programmed (execFsub f s) s := by
  unfold execFsub
  exact programmed_jetForm _ _ _ _ s
theorem programmed_execFmul (f) (s : State) : Programmed (execFmul f s) s := by
  unfold execFmul
  exact programmed_jetForm _ _ _ _ s
theorem programmed_execFma (f) (s : State) : Programmed (execFma f s) s := by
  unfold execFma
  exact programmed_jetForm _ _ _ _ s
theorem programmed_execFnma (f) (s : State) : Programmed (execFnma f s) s := by
  unfold execFnma
  exact programmed_jetForm _ _ _ _ s
theorem programmed_execFdiv (f) (s : State) : Programmed (execFdiv f s) s := by
  unfold execFdiv
  exact programmed_jetForm _ _ _ _ s
theorem programmed_execFsqrt (f) (s : State) : Programmed (execFsqrt f s) s := by
  unfold execFsqrt
  exact programmed_jetForm _ _ _ _ s
theorem programmed_execFrsqrt (f) (s : State) : Programmed (execFrsqrt f s) s := by
  unfold execFrsqrt
  exact programmed_jetForm _ _ _ _ s
theorem programmed_execFrcp (f) (s : State) : Programmed (execFrcp f s) s := by
  unfold execFrcp
  exact programmed_jetForm _ _ _ _ s
theorem programmed_execFmin (f) (s : State) : Programmed (execFmin f s) s := by
  unfold execFmin
  exact programmed_jetForm _ _ _ _ s
theorem programmed_execFmax (f) (s : State) : Programmed (execFmax f s) s := by
  unfold execFmax
  exact programmed_jetForm _ _ _ _ s
theorem programmed_execFabs (f) (s : State) : Programmed (execFabs f s) s := by
  unfold execFabs
  exact programmed_jetForm _ _ _ _ s
theorem programmed_execFneg (f) (s : State) : Programmed (execFneg f s) s := by
  unfold execFneg
  exact programmed_jetForm _ _ _ _ s
theorem programmed_execFcpys (f) (s : State) : Programmed (execFcpys f s) s := by
  unfold execFcpys
  exact programmed_jetForm _ _ _ _ s
theorem programmed_execFclass (f) (s : State) : Programmed (execFclass f s) s := programmed_fire _ _ s
theorem programmed_execFrint (f) (s : State) : Programmed (execFrint f s) s := programmed_fire _ _ s
theorem programmed_execFscale (f) (s : State) : Programmed (execFscale f s) s := by
  unfold execFscale
  exact programmed_jetForm _ _ _ _ s
theorem programmed_execFexp (f) (s : State) : Programmed (execFexp f s) s := by
  unfold execFexp specForm
  exact programmed_jetForm _ _ _ _ s
theorem programmed_execFexp2 (f) (s : State) : Programmed (execFexp2 f s) s := by
  unfold execFexp2 specForm
  exact programmed_jetForm _ _ _ _ s
theorem programmed_execFlog (f) (s : State) : Programmed (execFlog f s) s := by
  unfold execFlog specForm
  exact programmed_jetForm _ _ _ _ s
theorem programmed_execFlog2 (f) (s : State) : Programmed (execFlog2 f s) s := by
  unfold execFlog2 specForm
  exact programmed_jetForm _ _ _ _ s
theorem programmed_execFsin (f) (s : State) : Programmed (execFsin f s) s := by
  unfold execFsin specForm
  exact programmed_jetForm _ _ _ _ s
theorem programmed_execFcos (f) (s : State) : Programmed (execFcos f s) s := by
  unfold execFcos specForm
  exact programmed_jetForm _ _ _ _ s
theorem programmed_execFtanh (f) (s : State) : Programmed (execFtanh f s) s := by
  unfold execFtanh specForm
  exact programmed_jetForm _ _ _ _ s
theorem programmed_execFlgst (f) (s : State) : Programmed (execFlgst f s) s := by
  unfold execFlgst specForm
  exact programmed_jetForm _ _ _ _ s
theorem programmed_execFerf (f) (s : State) : Programmed (execFerf f s) s := by
  unfold execFerf specForm
  exact programmed_jetForm _ _ _ _ s
theorem programmed_execCvt (f) (s : State) : Programmed (execCvt f s) s := programmed_fire _ _ s
theorem programmed_execCvtsr (f) (s : State) : Programmed (execCvtsr f s) s := programmed_fire _ _ s
theorem programmed_execRng (f) (s : State) : Programmed (execRng f s) s := programmed_fire _ _ s
theorem programmed_execPack4 (f) (s : State) : Programmed (execPack4 f s) s := programmed_fire _ _ s
theorem programmed_execUnpk4 (f) (s : State) : Programmed (execUnpk4 f s) s := programmed_fire _ _ s
theorem programmed_execJord (f) (s : State) : Programmed (execJord f s) s := programmed_fire _ _ s
theorem programmed_execJordSet (f) (s : State) : Programmed (execJordSet f s) s := programmed_fire _ _ s
theorem programmed_execJseed (f) (s : State) : Programmed (execJseed f s) s := programmed_fire _ _ s
theorem programmed_execJcoef (f) (s : State) : Programmed (execJcoef f s) s := programmed_fire _ _ s
theorem programmed_execJsetc (f) (s : State) : Programmed (execJsetc f s) s := programmed_fire _ _ s
theorem programmed_execJdiff (f) (s : State) : Programmed (execJdiff f s) s := programmed_fire _ _ s
theorem programmed_execJintg (f) (s : State) : Programmed (execJintg f s) s := programmed_fire _ _ s
theorem programmed_execJtrunc (f) (s : State) : Programmed (execJtrunc f s) s := programmed_fire _ _ s
theorem programmed_execJeval (f) (s : State) : Programmed (execJeval f s) s := programmed_fire _ _ s
theorem programmed_execJflag (f) (s : State) : Programmed (execJflag f s) s := programmed_fire _ _ s
theorem programmed_execJflagClr (f) (s : State) : Programmed (execJflagClr f s) s := programmed_fire _ _ s
theorem programmed_execRepl (f) (s : State) : Programmed (execRepl f s) s := programmed_fire _ _ s
theorem programmed_execLane (f) (s : State) : Programmed (execLane f s) s := programmed_fire _ _ s
theorem programmed_execInsl (f) (s : State) : Programmed (execInsl f s) s := programmed_fire _ _ s
theorem programmed_execPerm (f) (s : State) : Programmed (execPerm f s) s := programmed_fire _ _ s
theorem programmed_execShuf (f) (s : State) : Programmed (execShuf f s) s := programmed_fire _ _ s
theorem programmed_execRotl (f) (s : State) : Programmed (execRotl f s) s := programmed_fire _ _ s
theorem programmed_execSlide (f) (s : State) : Programmed (execSlide f s) s := programmed_fire _ _ s
theorem programmed_execZip (f) (s : State) : Programmed (execZip f s) s := programmed_fire _ _ s
theorem programmed_execUnzip (f) (s : State) : Programmed (execUnzip f s) s := programmed_fire _ _ s
theorem programmed_execIota (f) (s : State) : Programmed (execIota f s) s := programmed_fire _ _ s
theorem programmed_execRed (f) (s : State) : Programmed (execRed f s) s := programmed_fire _ _ s
theorem programmed_execScan (f) (s : State) : Programmed (execScan f s) s := programmed_fire _ _ s
theorem programmed_execAccum (f) (s : State) : Programmed (execAccum f s) s := programmed_fire _ _ s
theorem programmed_execFilter (f) (s : State) : Programmed (execFilter f s) s := programmed_fire _ _ s
theorem programmed_execCompact (f) (s : State) : Programmed (execCompact f s) s := programmed_fire _ _ s
theorem programmed_execSteer (f) (s : State) : Programmed (execSteer f s) s := programmed_fire _ _ s
theorem programmed_execMerge (f) (s : State) : Programmed (execMerge f s) s := programmed_fire _ _ s
theorem programmed_execMmat (f) (s : State) : Programmed (execMmat f s) s := programmed_fire _ _ s
theorem programmed_execTfetch (f) (s : State) : Programmed (execTfetch f s) s := programmed_fire _ _ s
theorem programmed_execAccclr (f) (s : State) : Programmed (execAccclr f s) s := programmed_fire _ _ s
theorem programmed_execAccarm (f) (s : State) : Programmed (execAccarm f s) s := programmed_fire _ _ s
theorem programmed_execAccrel (f) (s : State) : Programmed (execAccrel f s) s := programmed_fire _ _ s
theorem programmed_execAccrd (f) (s : State) : Programmed (execAccrd f s) s := programmed_fire _ _ s
theorem programmed_execAccchk (f) (s : State) : Programmed (execAccchk f s) s := programmed_fire _ _ s
theorem programmed_execMtrans (f) (s : State) : Programmed (execMtrans f s) s := programmed_fire _ _ s
theorem programmed_execLd (f) (s : State) : Programmed (execLd f s) s := programmed_fire _ _ s
theorem programmed_execLds (f) (s : State) : Programmed (execLds f s) s := programmed_fire _ _ s
theorem programmed_execLdg (f) (s : State) : Programmed (execLdg f s) s := programmed_fire _ _ s
theorem programmed_execSt (f) (s : State) : Programmed (execSt f s) s := programmed_fire _ _ s
theorem programmed_execSts (f) (s : State) : Programmed (execSts f s) s := programmed_fire _ _ s
theorem programmed_execStg (f) (s : State) : Programmed (execStg f s) s := programmed_fire _ _ s
theorem programmed_execLdsp (f) (s : State) : Programmed (execLdsp f s) s := programmed_fire _ _ s
theorem programmed_execStsp (f) (s : State) : Programmed (execStsp f s) s := programmed_fire _ _ s
theorem programmed_execPref (f) (s : State) : Programmed (execPref f s) s := programmed_fire _ _ s
theorem programmed_execNullst (f) (s : State) : Programmed (execNullst f s) s := programmed_fire _ _ s
theorem programmed_execL1inv (f) (s : State) : Programmed (execL1inv f s) s := programmed_fire _ _ s
theorem programmed_execFence (f) (s : State) : Programmed (execFence f s) s := programmed_fire _ _ s
theorem programmed_execLdv (f) (s : State) : Programmed (execLdv f s) s := programmed_fire _ _ s
theorem programmed_execStv (f) (s : State) : Programmed (execStv f s) s := programmed_fire _ _ s
theorem programmed_execReclaim (f) (s : State) : Programmed (execReclaim f s) s := programmed_fire _ _ s
theorem programmed_execAtom (f) (s : State) : Programmed (execAtom f s) s := programmed_fire _ _ s
theorem programmed_execCas (f) (s : State) : Programmed (execCas f s) s := programmed_fire _ _ s
theorem programmed_execReinmk (f) (s : State) : Programmed (execReinmk f s) s := programmed_fire _ _ s
theorem programmed_execReindup (f) (s : State) : Programmed (execReindup f s) s := programmed_fire _ _ s
theorem programmed_execReinspl (f) (s : State) : Programmed (execReinspl f s) s := programmed_fire _ _ s
theorem programmed_execReinnar (f) (s : State) : Programmed (execReinnar f s) s := programmed_fire _ _ s
theorem programmed_execReindrop (f) (s : State) : Programmed (execReindrop f s) s := programmed_fire _ _ s
theorem programmed_execReinq (f) (s : State) : Programmed (execReinq f s) s := programmed_fire _ _ s
theorem programmed_execReinsend (f) (s : State) : Programmed (execReinsend f s) s := programmed_fire _ _ s
theorem programmed_execCopy (f) (s : State) : Programmed (execCopy f s) s := programmed_fire _ _ s
theorem programmed_execWpwait (f) (s : State) : Programmed (execWpwait f s) s := programmed_fire _ _ s
theorem programmed_execWprd (f) (s : State) : Programmed (execWprd f s) s := programmed_fire _ _ s
theorem programmed_execGather (f) (s : State) : Programmed (execGather f s) s := programmed_fire _ _ s
theorem programmed_execColl (f) (s : State) : Programmed (execColl f s) s := programmed_fire _ _ s
theorem programmed_execTopk (f) (s : State) : Programmed (execTopk f s) s := programmed_fire _ _ s
theorem programmed_execCwait (f) (s : State) : Programmed (execCwait f s) s := programmed_fire _ _ s
theorem programmed_execCstat (f) (s : State) : Programmed (execCstat f s) s := programmed_fire _ _ s
theorem programmed_execCcancel (f) (s : State) : Programmed (execCcancel f s) s := programmed_fire _ _ s
theorem programmed_execMirror (f) (s : State) : Programmed (execMirror f s) s := programmed_fire _ _ s
theorem programmed_execQpush (f) (s : State) : Programmed (execQpush f s) s := programmed_fire _ _ s
theorem programmed_execQpop (f) (s : State) : Programmed (execQpop f s) s := programmed_fire _ _ s
theorem programmed_execQstat (f) (s : State) : Programmed (execQstat f s) s := programmed_fire _ _ s
theorem programmed_execChgrd (f) (s : State) : Programmed (execChgrd f s) s := programmed_fire _ _ s
theorem programmed_execChgask (f) (s : State) : Programmed (execChgask f s) s := programmed_fire _ _ s
theorem programmed_execTlaunch (f) (s : State) : Programmed (execTlaunch f s) s := programmed_fire _ _ s
theorem programmed_execTrap (f) (s : State) : Programmed (execTrap f s) s := programmed_fire _ _ s
theorem programmed_execFret (f) (s : State) : Programmed (execFret f s) s := programmed_fire _ _ s
theorem programmed_execCsrrd (f) (s : State) : Programmed (execCsrrd f s) s := programmed_fire _ _ s
theorem programmed_execCsrwr (f) (s : State) : Programmed (execCsrwr f s) s := programmed_fire _ _ s
theorem programmed_execBkpt (f) (s : State) : Programmed (execBkpt f s) s := programmed_fire _ _ s
theorem programmed_execTbase (f) (s : State) : Programmed (execTbase f s) s := programmed_fire _ _ s
theorem programmed_execTlbinv (f) (s : State) : Programmed (execTlbinv f s) s := programmed_fire _ _ s
theorem programmed_execCodesync (f) (s : State) : Programmed (execCodesync f s) s := programmed_fire _ _ s
theorem programmed_execMlog (f) (s : State) : Programmed (execMlog f s) s := programmed_fire _ _ s
theorem programmed_execBlockFetch (n) (s : State) : Programmed (execBlockFetch n s) s := by
  unfold execBlockFetch
  repeat' (first | exact programmed_done _ s | exact programmed_refused _ s | exact programmed_stay s | apply programmed_inOrder | split | dsimp only)
theorem programmed_execBlockMap (n) (s : State) : Programmed (execBlockMap n s) s := by
  unfold execBlockMap
  repeat' (first | exact programmed_done _ s | exact programmed_refused _ s | exact programmed_stay s | apply programmed_inOrder | split | dsimp only)
theorem programmed_execTokenHop (k) (s : State) : Programmed (execTokenHop k s) s := by
  unfold execTokenHop
  repeat' (first | exact programmed_done _ s | exact programmed_refused _ s | exact programmed_stay s | apply programmed_inOrder | split | dsimp only)
theorem programmed_execTokenArrival (k) (s : State) : Programmed (execTokenArrival k s) s := by
  unfold execTokenArrival
  repeat' (first | exact programmed_done _ s | exact programmed_refused _ s | exact programmed_stay s | apply programmed_inOrder | split | dsimp only)
theorem programmed_execEscapeChannelTimeout (k) (s : State) : Programmed (execEscapeChannelTimeout k s) s := by
  unfold execEscapeChannelTimeout
  repeat' (first | exact programmed_done _ s | exact programmed_refused _ s | exact programmed_stay s | apply programmed_inOrder | split | dsimp only)
theorem programmed_execBlockCommit (n colour) (s : State) : Programmed (execBlockCommit n colour s) s := by
  unfold execBlockCommit
  repeat' (first | exact programmed_done _ s | exact programmed_refused _ s | exact programmed_stay s | apply programmed_inOrder | split | dsimp only)
theorem programmed_execIterationRetire (task colour iter) (s : State) : Programmed (execIterationRetire task colour iter s) s := by
  unfold execIterationRetire
  repeat' (first | exact programmed_done _ s | exact programmed_refused _ s | exact programmed_stay s | apply programmed_inOrder | split | dsimp only)
theorem programmed_execLoadValueReturn (n k) (s : State) : Programmed (execLoadValueReturn n k s) s := by
  unfold execLoadValueReturn
  repeat' (first | exact programmed_done _ s | exact programmed_refused _ s | exact programmed_stay s | apply programmed_inOrder | split | dsimp only)
theorem programmed_execDeferredWriteArrival (k) (s : State) : Programmed (execDeferredWriteArrival k s) s := by
  unfold execDeferredWriteArrival
  repeat' (first | exact programmed_done _ s | exact programmed_refused _ s | exact programmed_stay s | apply programmed_inOrder | split | dsimp only)
theorem programmed_execSliceRead (n k) (s : State) : Programmed (execSliceRead n k s) s := by
  unfold execSliceRead
  repeat' (first | exact programmed_done _ s | exact programmed_refused _ s | exact programmed_stay s | apply programmed_inOrder | split | dsimp only)
theorem programmed_execSliceWritePerform (n) (s : State) : Programmed (execSliceWritePerform n s) s := by
  unfold execSliceWritePerform
  repeat' (first | exact programmed_done _ s | exact programmed_refused _ s | exact programmed_stay s | apply programmed_inOrder | split | dsimp only)
theorem programmed_execBaseDieRequest (k) (s : State) : Programmed (execBaseDieRequest k s) s := by
  unfold execBaseDieRequest
  repeat' (first | exact programmed_done _ s | exact programmed_refused _ s | exact programmed_stay s | apply programmed_inOrder | split | dsimp only)
theorem programmed_execBaseDieReply (k) (s : State) : Programmed (execBaseDieReply k s) s := by
  unfold execBaseDieReply
  repeat' (first | exact programmed_done _ s | exact programmed_refused _ s | exact programmed_stay s | apply programmed_inOrder | split | dsimp only)
theorem programmed_execTaskCommit (task) (s : State) : Programmed (execTaskCommit task s) s := by
  unfold execTaskCommit
  repeat' (first | exact programmed_done _ s | exact programmed_refused _ s | exact programmed_stay s | apply programmed_inOrder | split | dsimp only)
theorem programmed_execFarrierAction (k) (s : State) : Programmed (execFarrierAction k s) s := by
  unfold execFarrierAction
  repeat' (first | exact programmed_done _ s | exact programmed_refused _ s | exact programmed_stay s | apply programmed_inOrder | split | dsimp only)
theorem programmed_execPageFaultResolve (k) (s : State) : Programmed (execPageFaultResolve k s) s := by
  unfold execPageFaultResolve
  repeat' (first | exact programmed_done _ s | exact programmed_refused _ s | exact programmed_stay s | apply programmed_inOrder | split | dsimp only)
theorem programmed_execReLatchToken (k) (s : State) : Programmed (execReLatchToken k s) s := by
  unfold execReLatchToken
  repeat' (first | exact programmed_done _ s | exact programmed_refused _ s | exact programmed_stay s | apply programmed_inOrder | split | dsimp only)
theorem programmed_execDrainToken (k) (s : State) : Programmed (execDrainToken k s) s := by
  unfold execDrainToken
  repeat' (first | exact programmed_done _ s | exact programmed_refused _ s | exact programmed_stay s | apply programmed_inOrder | split | dsimp only)
theorem programmed_execWaitCycleTimeout (p) (s : State) : Programmed (execWaitCycleTimeout p s) s := by
  unfold execWaitCycleTimeout
  repeat' (first | exact programmed_done _ s | exact programmed_refused _ s | exact programmed_stay s | apply programmed_inOrder | split | dsimp only)
theorem programmed_execAreaBidding (p) (s : State) : Programmed (execAreaBidding p s) s := by
  unfold execAreaBidding
  repeat' (first | exact programmed_done _ s | exact programmed_refused _ s | exact programmed_stay s | apply programmed_inOrder | split | dsimp only)
theorem programmed_execSliceExpiry (task) (s : State) : Programmed (execSliceExpiry task s) s := by
  unfold execSliceExpiry
  repeat' (first | exact programmed_done _ s | exact programmed_refused _ s | exact programmed_stay s | apply programmed_inOrder | split | dsimp only)
theorem programmed_execDuskToken (task) (s : State) : Programmed (execDuskToken task s) s := by
  unfold execDuskToken
  repeat' (first | exact programmed_done _ s | exact programmed_refused _ s | exact programmed_stay s | apply programmed_inOrder | split | dsimp only)
theorem programmed_execCribBudgetEnd (n) (s : State) : Programmed (execCribBudgetEnd n s) s := by
  unfold execCribBudgetEnd
  repeat' (first | exact programmed_done _ s | exact programmed_refused _ s | exact programmed_stay s | apply programmed_inOrder | split | dsimp only)
theorem programmed_execChargeMismatch (n measured fast) (s : State) : Programmed (execChargeMismatch n measured fast s) s := by
  unfold execChargeMismatch
  repeat' (first | exact programmed_done _ s | exact programmed_refused _ s | exact programmed_stay s | apply programmed_inOrder | split | dsimp only)
theorem programmed_execPeriodAutoOpen (p) (s : State) : Programmed (execPeriodAutoOpen p s) s := by
  unfold execPeriodAutoOpen
  repeat' (first | exact programmed_done _ s | exact programmed_refused _ s | exact programmed_stay s | apply programmed_inOrder | split | dsimp only)
theorem programmed_execLogSign256 (p) (s : State) : Programmed (execLogSign256 p s) s := by
  unfold execLogSign256
  repeat' (first | exact programmed_done _ s | exact programmed_refused _ s | exact programmed_stay s | apply programmed_inOrder | split | dsimp only)
theorem programmed_execIreFree (asid arena granule) (s : State) : Programmed (execIreFree asid arena granule s) s := by
  unfold execIreFree
  repeat' (first | exact programmed_done _ s | exact programmed_refused _ s | exact programmed_stay s | apply programmed_inOrder | split | dsimp only)
theorem programmed_execReinDelivery (k) (s : State) : Programmed (execReinDelivery k s) s := by
  unfold execReinDelivery
  repeat' (first | exact programmed_done _ s | exact programmed_refused _ s | exact programmed_stay s | apply programmed_inOrder | split | dsimp only)
theorem programmed_execCopyStep (k) (s : State) : Programmed (execCopyStep k s) s := by
  unfold execCopyStep
  repeat' (first | exact programmed_done _ s | exact programmed_refused _ s | exact programmed_stay s | apply programmed_inOrder | split | dsimp only)
theorem programmed_execGatherStep (k) (s : State) : Programmed (execGatherStep k s) s := by
  unfold execGatherStep
  repeat' (first | exact programmed_done _ s | exact programmed_refused _ s | exact programmed_stay s | apply programmed_inOrder | split | dsimp only)
theorem programmed_execCollStep (k mismatch others) (s : State) : Programmed (execCollStep k mismatch others s) s := by
  unfold execCollStep
  repeat' (first | exact programmed_done _ s | exact programmed_refused _ s | exact programmed_stay s | apply programmed_inOrder | split | dsimp only)
theorem programmed_execTopkStep (k) (s : State) : Programmed (execTopkStep k s) s := by
  unfold execTopkStep
  repeat' (first | exact programmed_done _ s | exact programmed_refused _ s | exact programmed_stay s | apply programmed_inOrder | split | dsimp only)
theorem programmed_execMirrorCopyStep (k) (s : State) : Programmed (execMirrorCopyStep k s) s := by
  unfold execMirrorCopyStep
  repeat' (first | exact programmed_done _ s | exact programmed_refused _ s | exact programmed_stay s | apply programmed_inOrder | split | dsimp only)
theorem programmed_execPartnerAck (k) (s : State) : Programmed (execPartnerAck k s) s := by
  unfold execPartnerAck
  repeat' (first | exact programmed_done _ s | exact programmed_refused _ s | exact programmed_stay s | apply programmed_inOrder | split | dsimp only)
theorem programmed_execMirrorAckTimeout (p) (s : State) : Programmed (execMirrorAckTimeout p s) s := by
  unfold execMirrorAckTimeout
  repeat' (first | exact programmed_done _ s | exact programmed_refused _ s | exact programmed_stay s | apply programmed_inOrder | split | dsimp only)
theorem programmed_execCardResume (k) (s : State) : Programmed (execCardResume k s) s := by
  unfold execCardResume
  repeat' (first | exact programmed_done _ s | exact programmed_refused _ s | exact programmed_stay s | apply programmed_inOrder | split | dsimp only)
theorem programmed_execDeadlineFallback (k) (s : State) : Programmed (execDeadlineFallback k s) s := by
  unfold execDeadlineFallback
  repeat' (first | exact programmed_done _ s | exact programmed_refused _ s | exact programmed_stay s | apply programmed_inOrder | split | dsimp only)
theorem programmed_execMonitorSample (samples) (s : State) : Programmed (execMonitorSample samples s) s := by
  unfold execMonitorSample
  repeat' (first | exact programmed_done _ s | exact programmed_refused _ s | exact programmed_stay s | apply programmed_inOrder | split | dsimp only)
theorem programmed_execPatrolScrub (line) (s : State) : Programmed (execPatrolScrub line s) s := by
  unfold execPatrolScrub
  repeat' (first | exact programmed_done _ s | exact programmed_refused _ s | exact programmed_stay s | apply programmed_inOrder | split | dsimp only)
theorem programmed_execFrameRetire (k) (s : State) : Programmed (execFrameRetire k s) s := by
  unfold execFrameRetire
  repeat' (first | exact programmed_done _ s | exact programmed_refused _ s | exact programmed_stay s | apply programmed_inOrder | split | dsimp only)
theorem programmed_execStableErrorNoon (bad noonFails) (s : State) : Programmed (execStableErrorNoon bad noonFails s) s := by
  unfold execStableErrorNoon
  repeat' (first | exact programmed_done _ s | exact programmed_refused _ s | exact programmed_stay s | apply programmed_inOrder | split | dsimp only)
theorem programmed_execOwnerTagCleared (owner) (s : State) : Programmed (execOwnerTagCleared owner s) s := by
  unfold execOwnerTagCleared
  repeat' (first | exact programmed_done _ s | exact programmed_refused _ s | exact programmed_stay s | apply programmed_inOrder | split | dsimp only)
theorem programmed_execUnmap (asid va) (s : State) : Programmed (execUnmap asid va s) s := by
  unfold execUnmap
  repeat' (first | exact programmed_done _ s | exact programmed_refused _ s | exact programmed_stay s | apply programmed_inOrder | split | dsimp only)

/-- Every instruction and event: a refusal, or a next state made by a program. -/
theorem exec_programmed (i : Instr) (s : State) : Programmed (exec i s) s :=
  match i with
  | .powerOn bad => programmed_execPowerOn bad s
  | .dawn c bad => programmed_execDawn c bad s
  | .noon c force => programmed_execNoon c force s
  | .sync c => programmed_execSync c s
  | .part c p w0 w1 w2 => programmed_execPart c p w0 w1 w2 s
  | .key c p wrap => programmed_execKey c p wrap s
  | .rings c p bases caps logCap mirBase mirLen partner => programmed_execRings c p bases caps logCap mirBase mirLen partner s
  | .frames c p asid fs => programmed_execFrames c p asid fs s
  | .quota c p counter period => programmed_execQuota c p counter period s
  | .arenaCreate c p asid id base size die => programmed_execArenaCreate c p asid id base size die s
  | .arenaDestroy c p asid id => programmed_execArenaDestroy c p asid id s
  | .image c p asid va bytes => programmed_execImage c p asid va bytes s
  | .fwin c die win w0 w1 w2 w3 => programmed_execFwin c die win w0 w1 w2 w3 s
  | .enqueue c p queue record va => programmed_execEnqueue c p queue record va s
  | .cancel c p byVa x => programmed_execCancel c p byVa x s
  | .logfetch c p first count => programmed_execLogfetch c p first count s
  | .logack c p n => programmed_execLogack c p n s
  | .sign c p => programmed_execSign c p s
  | .msgfetch c p => programmed_execMsgfetch c p s
  | .health c => programmed_execHealth c s
  | .monitor c first count => programmed_execMonitor c first count s
  | .identity c => programmed_execIdentity c s
  | .debugResume c p node => programmed_execDebugResume c p node s
  | .debugSuspend c p node => programmed_execDebugSuspend c p node s
  | .fwupdate c image => programmed_execFwupdate c image s
  | .nonRodPacket => programmed_execNonRodPacket s
  | .br f => programmed_execBr f s
  | .bri f => programmed_execBri f s
  | .call f => programmed_execCall f s
  | .calli f => programmed_execCalli f s
  | .ret f => programmed_execRet f s
  | .halt f => programmed_execHalt f s
  | .mov f => programmed_execMov f s
  | .const f => programmed_execConst f s
  | .lenter f => programmed_execLenter f s
  | .inext f => programmed_execInext f s
  | .iprev f => programmed_execIprev f s
  | .lexit f => programmed_execLexit f s
  | .talloc f => programmed_execTalloc f s
  | .tfree f => programmed_execTfree f s
  | .spawn f => programmed_execSpawn f s
  | .join f => programmed_execJoin f s
  | .getg f => programmed_execGetg f s
  | .putg f => programmed_execPutg f s
  | .empty f => programmed_execEmpty f s
  | .null f => programmed_execNull f s
  | .cmp f => programmed_execCmp f s
  | .fcmp f => programmed_execFcmp f s
  | .pand f => programmed_execPand f s
  | .por f => programmed_execPor f s
  | .pxor f => programmed_execPxor f s
  | .pnot f => programmed_execPnot f s
  | .any f => programmed_execAny f s
  | .all f => programmed_execAll f s
  | .maskn f => programmed_execMaskn f s
  | .sel f => programmed_execSel f s
  | .add f => programmed_execAdd f s
  | .sub f => programmed_execSub f s
  | .mul f => programmed_execMul f s
  | .mulh f => programmed_execMulh f s
  | .div f => programmed_execDiv f s
  | .rem f => programmed_execRem f s
  | .neg f => programmed_execNeg f s
  | .abs f => programmed_execAbs f s
  | .min f => programmed_execMin f s
  | .max f => programmed_execMax f s
  | .madd f => programmed_execMadd f s
  | .dot4 f => programmed_execDot4 f s
  | .lea f => programmed_execLea f s
  | .and f => programmed_execAnd f s
  | .or f => programmed_execOr f s
  | .xor f => programmed_execXor f s
  | .andn f => programmed_execAndn f s
  | .not f => programmed_execNot f s
  | .shl f => programmed_execShl f s
  | .shr f => programmed_execShr f s
  | .sar f => programmed_execSar f s
  | .rol f => programmed_execRol f s
  | .clz f => programmed_execClz f s
  | .popc f => programmed_execPopc f s
  | .brev f => programmed_execBrev f s
  | .bfx f => programmed_execBfx f s
  | .bfi f => programmed_execBfi f s
  | .sext f => programmed_execSext f s
  | .zext f => programmed_execZext f s
  | .fadd f => programmed_execFadd f s
  | .fsub f => programmed_execFsub f s
  | .fmul f => programmed_execFmul f s
  | .fma f => programmed_execFma f s
  | .fnma f => programmed_execFnma f s
  | .fdiv f => programmed_execFdiv f s
  | .fsqrt f => programmed_execFsqrt f s
  | .frsqrt f => programmed_execFrsqrt f s
  | .frcp f => programmed_execFrcp f s
  | .fmin f => programmed_execFmin f s
  | .fmax f => programmed_execFmax f s
  | .fabs f => programmed_execFabs f s
  | .fneg f => programmed_execFneg f s
  | .fcpys f => programmed_execFcpys f s
  | .fclass f => programmed_execFclass f s
  | .frint f => programmed_execFrint f s
  | .fscale f => programmed_execFscale f s
  | .fexp f => programmed_execFexp f s
  | .fexp2 f => programmed_execFexp2 f s
  | .flog f => programmed_execFlog f s
  | .flog2 f => programmed_execFlog2 f s
  | .fsin f => programmed_execFsin f s
  | .fcos f => programmed_execFcos f s
  | .ftanh f => programmed_execFtanh f s
  | .flgst f => programmed_execFlgst f s
  | .ferf f => programmed_execFerf f s
  | .cvt f => programmed_execCvt f s
  | .cvtsr f => programmed_execCvtsr f s
  | .rng f => programmed_execRng f s
  | .pack4 f => programmed_execPack4 f s
  | .unpk4 f => programmed_execUnpk4 f s
  | .jord f => programmed_execJord f s
  | .jordSet f => programmed_execJordSet f s
  | .jseed f => programmed_execJseed f s
  | .jcoef f => programmed_execJcoef f s
  | .jsetc f => programmed_execJsetc f s
  | .jdiff f => programmed_execJdiff f s
  | .jintg f => programmed_execJintg f s
  | .jtrunc f => programmed_execJtrunc f s
  | .jeval f => programmed_execJeval f s
  | .jflag f => programmed_execJflag f s
  | .jflagClr f => programmed_execJflagClr f s
  | .repl f => programmed_execRepl f s
  | .lane f => programmed_execLane f s
  | .insl f => programmed_execInsl f s
  | .perm f => programmed_execPerm f s
  | .shuf f => programmed_execShuf f s
  | .rotl f => programmed_execRotl f s
  | .slide f => programmed_execSlide f s
  | .zip f => programmed_execZip f s
  | .unzip f => programmed_execUnzip f s
  | .iota f => programmed_execIota f s
  | .red f => programmed_execRed f s
  | .scan f => programmed_execScan f s
  | .accum f => programmed_execAccum f s
  | .filter f => programmed_execFilter f s
  | .compact f => programmed_execCompact f s
  | .steer f => programmed_execSteer f s
  | .merge f => programmed_execMerge f s
  | .mmat f => programmed_execMmat f s
  | .tfetch f => programmed_execTfetch f s
  | .accclr f => programmed_execAccclr f s
  | .accarm f => programmed_execAccarm f s
  | .accrel f => programmed_execAccrel f s
  | .accrd f => programmed_execAccrd f s
  | .accchk f => programmed_execAccchk f s
  | .mtrans f => programmed_execMtrans f s
  | .ld f => programmed_execLd f s
  | .lds f => programmed_execLds f s
  | .ldg f => programmed_execLdg f s
  | .st f => programmed_execSt f s
  | .sts f => programmed_execSts f s
  | .stg f => programmed_execStg f s
  | .ldsp f => programmed_execLdsp f s
  | .stsp f => programmed_execStsp f s
  | .pref f => programmed_execPref f s
  | .nullst f => programmed_execNullst f s
  | .l1inv f => programmed_execL1inv f s
  | .fence f => programmed_execFence f s
  | .ldv f => programmed_execLdv f s
  | .stv f => programmed_execStv f s
  | .reclaim f => programmed_execReclaim f s
  | .atom f => programmed_execAtom f s
  | .cas f => programmed_execCas f s
  | .reinmk f => programmed_execReinmk f s
  | .reindup f => programmed_execReindup f s
  | .reinspl f => programmed_execReinspl f s
  | .reinnar f => programmed_execReinnar f s
  | .reindrop f => programmed_execReindrop f s
  | .reinq f => programmed_execReinq f s
  | .reinsend f => programmed_execReinsend f s
  | .copy f => programmed_execCopy f s
  | .wpwait f => programmed_execWpwait f s
  | .wprd f => programmed_execWprd f s
  | .gather f => programmed_execGather f s
  | .coll f => programmed_execColl f s
  | .topk f => programmed_execTopk f s
  | .cwait f => programmed_execCwait f s
  | .cstat f => programmed_execCstat f s
  | .ccancel f => programmed_execCcancel f s
  | .mirror f => programmed_execMirror f s
  | .qpush f => programmed_execQpush f s
  | .qpop f => programmed_execQpop f s
  | .qstat f => programmed_execQstat f s
  | .chgrd f => programmed_execChgrd f s
  | .chgask f => programmed_execChgask f s
  | .tlaunch f => programmed_execTlaunch f s
  | .trap f => programmed_execTrap f s
  | .fret f => programmed_execFret f s
  | .csrrd f => programmed_execCsrrd f s
  | .csrwr f => programmed_execCsrwr f s
  | .bkpt f => programmed_execBkpt f s
  | .tbase f => programmed_execTbase f s
  | .tlbinv f => programmed_execTlbinv f s
  | .codesync f => programmed_execCodesync f s
  | .mlog f => programmed_execMlog f s
  | .blockFetch n => programmed_execBlockFetch n s
  | .blockMap n => programmed_execBlockMap n s
  | .tokenHop k => programmed_execTokenHop k s
  | .tokenArrival k => programmed_execTokenArrival k s
  | .escapeChannelTimeout k => programmed_execEscapeChannelTimeout k s
  | .blockCommit n colour => programmed_execBlockCommit n colour s
  | .iterationRetire task colour iter => programmed_execIterationRetire task colour iter s
  | .loadValueReturn n k => programmed_execLoadValueReturn n k s
  | .deferredWriteArrival k => programmed_execDeferredWriteArrival k s
  | .sliceRead n k => programmed_execSliceRead n k s
  | .sliceWritePerform n => programmed_execSliceWritePerform n s
  | .baseDieRequest k => programmed_execBaseDieRequest k s
  | .baseDieReply k => programmed_execBaseDieReply k s
  | .taskCommit task => programmed_execTaskCommit task s
  | .farrierAction k => programmed_execFarrierAction k s
  | .pageFaultResolve k => programmed_execPageFaultResolve k s
  | .reLatchToken k => programmed_execReLatchToken k s
  | .drainToken k => programmed_execDrainToken k s
  | .waitCycleTimeout p => programmed_execWaitCycleTimeout p s
  | .areaBidding p => programmed_execAreaBidding p s
  | .sliceExpiry task => programmed_execSliceExpiry task s
  | .duskToken task => programmed_execDuskToken task s
  | .cribBudgetEnd n => programmed_execCribBudgetEnd n s
  | .chargeMismatch n measured fast => programmed_execChargeMismatch n measured fast s
  | .periodAutoOpen p => programmed_execPeriodAutoOpen p s
  | .logSign256 p => programmed_execLogSign256 p s
  | .ireFree asid arena granule => programmed_execIreFree asid arena granule s
  | .reinDelivery k => programmed_execReinDelivery k s
  | .copyStep k => programmed_execCopyStep k s
  | .gatherStep k => programmed_execGatherStep k s
  | .collStep k mismatch others => programmed_execCollStep k mismatch others s
  | .topkStep k => programmed_execTopkStep k s
  | .mirrorCopyStep k => programmed_execMirrorCopyStep k s
  | .partnerAck k => programmed_execPartnerAck k s
  | .mirrorAckTimeout p => programmed_execMirrorAckTimeout p s
  | .cardResume k => programmed_execCardResume k s
  | .deadlineFallback k => programmed_execDeadlineFallback k s
  | .monitorSample samples => programmed_execMonitorSample samples s
  | .patrolScrub line => programmed_execPatrolScrub line s
  | .frameRetire k => programmed_execFrameRetire k s
  | .stableErrorNoon bad noonFails => programmed_execStableErrorNoon bad noonFails s
  | .ownerTagCleared owner => programmed_execOwnerTagCleared owner s
  | .unmap asid va => programmed_execUnmap asid va s

end Sys2Proof.Machine
end

