-- ==== Sys2Proof/Laws/Opc.lean ====
section
/-! SUPPORT. The opcode and the group of each form (07 R144), one lemma each, so that no proof unfolds the table. -/

namespace Sys2Proof.Machine

@[simp] theorem Instr.opc_br (f) : (Instr.br f).opc = 0x000 := rfl
@[simp] theorem Instr.opc_bri (f) : (Instr.bri f).opc = 0x001 := rfl
@[simp] theorem Instr.opc_call (f) : (Instr.call f).opc = 0x002 := rfl
@[simp] theorem Instr.opc_calli (f) : (Instr.calli f).opc = 0x003 := rfl
@[simp] theorem Instr.opc_ret (f) : (Instr.ret f).opc = 0x004 := rfl
@[simp] theorem Instr.opc_halt (f) : (Instr.halt f).opc = 0x005 := rfl
@[simp] theorem Instr.opc_mov (f) : (Instr.mov f).opc = 0x020 := rfl
@[simp] theorem Instr.opc_const (f) : (Instr.const f).opc = 0x021 := rfl
@[simp] theorem Instr.opc_lenter (f) : (Instr.lenter f).opc = 0x022 := rfl
@[simp] theorem Instr.opc_inext (f) : (Instr.inext f).opc = 0x023 := rfl
@[simp] theorem Instr.opc_iprev (f) : (Instr.iprev f).opc = 0x024 := rfl
@[simp] theorem Instr.opc_lexit (f) : (Instr.lexit f).opc = 0x025 := rfl
@[simp] theorem Instr.opc_talloc (f) : (Instr.talloc f).opc = 0x026 := rfl
@[simp] theorem Instr.opc_tfree (f) : (Instr.tfree f).opc = 0x027 := rfl
@[simp] theorem Instr.opc_spawn (f) : (Instr.spawn f).opc = 0x028 := rfl
@[simp] theorem Instr.opc_join (f) : (Instr.join f).opc = 0x029 := rfl
@[simp] theorem Instr.opc_getg (f) : (Instr.getg f).opc = 0x02A := rfl
@[simp] theorem Instr.opc_putg (f) : (Instr.putg f).opc = 0x02B := rfl
@[simp] theorem Instr.opc_empty (f) : (Instr.empty f).opc = 0x02C := rfl
@[simp] theorem Instr.opc_null (f) : (Instr.null f).opc = 0x02D := rfl
@[simp] theorem Instr.opc_cmp (f) : (Instr.cmp f).opc = 0x040 := rfl
@[simp] theorem Instr.opc_fcmp (f) : (Instr.fcmp f).opc = 0x041 := rfl
@[simp] theorem Instr.opc_pand (f) : (Instr.pand f).opc = 0x042 := rfl
@[simp] theorem Instr.opc_por (f) : (Instr.por f).opc = 0x043 := rfl
@[simp] theorem Instr.opc_pxor (f) : (Instr.pxor f).opc = 0x044 := rfl
@[simp] theorem Instr.opc_pnot (f) : (Instr.pnot f).opc = 0x045 := rfl
@[simp] theorem Instr.opc_any (f) : (Instr.any f).opc = 0x046 := rfl
@[simp] theorem Instr.opc_all (f) : (Instr.all f).opc = 0x047 := rfl
@[simp] theorem Instr.opc_maskn (f) : (Instr.maskn f).opc = 0x048 := rfl
@[simp] theorem Instr.opc_sel (f) : (Instr.sel f).opc = 0x049 := rfl
@[simp] theorem Instr.opc_add (f) : (Instr.add f).opc = 0x060 := rfl
@[simp] theorem Instr.opc_sub (f) : (Instr.sub f).opc = 0x061 := rfl
@[simp] theorem Instr.opc_mul (f) : (Instr.mul f).opc = 0x062 := rfl
@[simp] theorem Instr.opc_mulh (f) : (Instr.mulh f).opc = 0x063 := rfl
@[simp] theorem Instr.opc_div (f) : (Instr.div f).opc = 0x064 := rfl
@[simp] theorem Instr.opc_rem (f) : (Instr.rem f).opc = 0x065 := rfl
@[simp] theorem Instr.opc_neg (f) : (Instr.neg f).opc = 0x066 := rfl
@[simp] theorem Instr.opc_abs (f) : (Instr.abs f).opc = 0x067 := rfl
@[simp] theorem Instr.opc_min (f) : (Instr.min f).opc = 0x068 := rfl
@[simp] theorem Instr.opc_max (f) : (Instr.max f).opc = 0x069 := rfl
@[simp] theorem Instr.opc_madd (f) : (Instr.madd f).opc = 0x06A := rfl
@[simp] theorem Instr.opc_dot4 (f) : (Instr.dot4 f).opc = 0x06B := rfl
@[simp] theorem Instr.opc_lea (f) : (Instr.lea f).opc = 0x06C := rfl
@[simp] theorem Instr.opc_and (f) : (Instr.and f).opc = 0x080 := rfl
@[simp] theorem Instr.opc_or (f) : (Instr.or f).opc = 0x081 := rfl
@[simp] theorem Instr.opc_xor (f) : (Instr.xor f).opc = 0x082 := rfl
@[simp] theorem Instr.opc_andn (f) : (Instr.andn f).opc = 0x083 := rfl
@[simp] theorem Instr.opc_not (f) : (Instr.not f).opc = 0x084 := rfl
@[simp] theorem Instr.opc_shl (f) : (Instr.shl f).opc = 0x085 := rfl
@[simp] theorem Instr.opc_shr (f) : (Instr.shr f).opc = 0x086 := rfl
@[simp] theorem Instr.opc_sar (f) : (Instr.sar f).opc = 0x087 := rfl
@[simp] theorem Instr.opc_rol (f) : (Instr.rol f).opc = 0x088 := rfl
@[simp] theorem Instr.opc_clz (f) : (Instr.clz f).opc = 0x089 := rfl
@[simp] theorem Instr.opc_popc (f) : (Instr.popc f).opc = 0x08A := rfl
@[simp] theorem Instr.opc_brev (f) : (Instr.brev f).opc = 0x08B := rfl
@[simp] theorem Instr.opc_bfx (f) : (Instr.bfx f).opc = 0x08C := rfl
@[simp] theorem Instr.opc_bfi (f) : (Instr.bfi f).opc = 0x08D := rfl
@[simp] theorem Instr.opc_sext (f) : (Instr.sext f).opc = 0x08E := rfl
@[simp] theorem Instr.opc_zext (f) : (Instr.zext f).opc = 0x08F := rfl
@[simp] theorem Instr.opc_fadd (f) : (Instr.fadd f).opc = 0x0A0 := rfl
@[simp] theorem Instr.opc_fsub (f) : (Instr.fsub f).opc = 0x0A1 := rfl
@[simp] theorem Instr.opc_fmul (f) : (Instr.fmul f).opc = 0x0A2 := rfl
@[simp] theorem Instr.opc_fma (f) : (Instr.fma f).opc = 0x0A3 := rfl
@[simp] theorem Instr.opc_fnma (f) : (Instr.fnma f).opc = 0x0A4 := rfl
@[simp] theorem Instr.opc_fdiv (f) : (Instr.fdiv f).opc = 0x0A5 := rfl
@[simp] theorem Instr.opc_fsqrt (f) : (Instr.fsqrt f).opc = 0x0A6 := rfl
@[simp] theorem Instr.opc_frsqrt (f) : (Instr.frsqrt f).opc = 0x0A7 := rfl
@[simp] theorem Instr.opc_frcp (f) : (Instr.frcp f).opc = 0x0A8 := rfl
@[simp] theorem Instr.opc_fmin (f) : (Instr.fmin f).opc = 0x0A9 := rfl
@[simp] theorem Instr.opc_fmax (f) : (Instr.fmax f).opc = 0x0AA := rfl
@[simp] theorem Instr.opc_fabs (f) : (Instr.fabs f).opc = 0x0AB := rfl
@[simp] theorem Instr.opc_fneg (f) : (Instr.fneg f).opc = 0x0AC := rfl
@[simp] theorem Instr.opc_fcpys (f) : (Instr.fcpys f).opc = 0x0AD := rfl
@[simp] theorem Instr.opc_fclass (f) : (Instr.fclass f).opc = 0x0AE := rfl
@[simp] theorem Instr.opc_frint (f) : (Instr.frint f).opc = 0x0AF := rfl
@[simp] theorem Instr.opc_fscale (f) : (Instr.fscale f).opc = 0x0B0 := rfl
@[simp] theorem Instr.opc_fexp (f) : (Instr.fexp f).opc = 0x0C0 := rfl
@[simp] theorem Instr.opc_fexp2 (f) : (Instr.fexp2 f).opc = 0x0C1 := rfl
@[simp] theorem Instr.opc_flog (f) : (Instr.flog f).opc = 0x0C2 := rfl
@[simp] theorem Instr.opc_flog2 (f) : (Instr.flog2 f).opc = 0x0C3 := rfl
@[simp] theorem Instr.opc_fsin (f) : (Instr.fsin f).opc = 0x0C4 := rfl
@[simp] theorem Instr.opc_fcos (f) : (Instr.fcos f).opc = 0x0C5 := rfl
@[simp] theorem Instr.opc_ftanh (f) : (Instr.ftanh f).opc = 0x0C6 := rfl
@[simp] theorem Instr.opc_flgst (f) : (Instr.flgst f).opc = 0x0C7 := rfl
@[simp] theorem Instr.opc_ferf (f) : (Instr.ferf f).opc = 0x0C8 := rfl
@[simp] theorem Instr.opc_cvt (f) : (Instr.cvt f).opc = 0x0E0 := rfl
@[simp] theorem Instr.opc_cvtsr (f) : (Instr.cvtsr f).opc = 0x0E1 := rfl
@[simp] theorem Instr.opc_rng (f) : (Instr.rng f).opc = 0x0E2 := rfl
@[simp] theorem Instr.opc_pack4 (f) : (Instr.pack4 f).opc = 0x0E3 := rfl
@[simp] theorem Instr.opc_unpk4 (f) : (Instr.unpk4 f).opc = 0x0E4 := rfl
@[simp] theorem Instr.opc_jord (f) : (Instr.jord f).opc = 0x100 := rfl
@[simp] theorem Instr.opc_jseed (f) : (Instr.jseed f).opc = 0x101 := rfl
@[simp] theorem Instr.opc_jcoef (f) : (Instr.jcoef f).opc = 0x102 := rfl
@[simp] theorem Instr.opc_jsetc (f) : (Instr.jsetc f).opc = 0x103 := rfl
@[simp] theorem Instr.opc_jdiff (f) : (Instr.jdiff f).opc = 0x104 := rfl
@[simp] theorem Instr.opc_jintg (f) : (Instr.jintg f).opc = 0x105 := rfl
@[simp] theorem Instr.opc_jtrunc (f) : (Instr.jtrunc f).opc = 0x106 := rfl
@[simp] theorem Instr.opc_jeval (f) : (Instr.jeval f).opc = 0x107 := rfl
@[simp] theorem Instr.opc_jflag (f) : (Instr.jflag f).opc = 0x108 := rfl
@[simp] theorem Instr.opc_repl (f) : (Instr.repl f).opc = 0x120 := rfl
@[simp] theorem Instr.opc_lane (f) : (Instr.lane f).opc = 0x121 := rfl
@[simp] theorem Instr.opc_insl (f) : (Instr.insl f).opc = 0x122 := rfl
@[simp] theorem Instr.opc_perm (f) : (Instr.perm f).opc = 0x123 := rfl
@[simp] theorem Instr.opc_shuf (f) : (Instr.shuf f).opc = 0x124 := rfl
@[simp] theorem Instr.opc_rotl (f) : (Instr.rotl f).opc = 0x125 := rfl
@[simp] theorem Instr.opc_slide (f) : (Instr.slide f).opc = 0x126 := rfl
@[simp] theorem Instr.opc_zip (f) : (Instr.zip f).opc = 0x127 := rfl
@[simp] theorem Instr.opc_unzip (f) : (Instr.unzip f).opc = 0x128 := rfl
@[simp] theorem Instr.opc_iota (f) : (Instr.iota f).opc = 0x129 := rfl
@[simp] theorem Instr.opc_red (f) : (Instr.red f).opc = 0x140 := rfl
@[simp] theorem Instr.opc_scan (f) : (Instr.scan f).opc = 0x141 := rfl
@[simp] theorem Instr.opc_accum (f) : (Instr.accum f).opc = 0x142 := rfl
@[simp] theorem Instr.opc_filter (f) : (Instr.filter f).opc = 0x143 := rfl
@[simp] theorem Instr.opc_compact (f) : (Instr.compact f).opc = 0x144 := rfl
@[simp] theorem Instr.opc_steer (f) : (Instr.steer f).opc = 0x145 := rfl
@[simp] theorem Instr.opc_merge (f) : (Instr.merge f).opc = 0x146 := rfl
@[simp] theorem Instr.opc_mmat (f) : (Instr.mmat f).opc = 0x160 := rfl
@[simp] theorem Instr.opc_tfetch (f) : (Instr.tfetch f).opc = 0x161 := rfl
@[simp] theorem Instr.opc_accclr (f) : (Instr.accclr f).opc = 0x162 := rfl
@[simp] theorem Instr.opc_accarm (f) : (Instr.accarm f).opc = 0x163 := rfl
@[simp] theorem Instr.opc_accrel (f) : (Instr.accrel f).opc = 0x164 := rfl
@[simp] theorem Instr.opc_accrd (f) : (Instr.accrd f).opc = 0x165 := rfl
@[simp] theorem Instr.opc_accchk (f) : (Instr.accchk f).opc = 0x166 := rfl
@[simp] theorem Instr.opc_mtrans (f) : (Instr.mtrans f).opc = 0x167 := rfl
@[simp] theorem Instr.opc_ld (f) : (Instr.ld f).opc = 0x180 := rfl
@[simp] theorem Instr.opc_lds (f) : (Instr.lds f).opc = 0x181 := rfl
@[simp] theorem Instr.opc_ldg (f) : (Instr.ldg f).opc = 0x182 := rfl
@[simp] theorem Instr.opc_st (f) : (Instr.st f).opc = 0x183 := rfl
@[simp] theorem Instr.opc_sts (f) : (Instr.sts f).opc = 0x184 := rfl
@[simp] theorem Instr.opc_stg (f) : (Instr.stg f).opc = 0x185 := rfl
@[simp] theorem Instr.opc_ldsp (f) : (Instr.ldsp f).opc = 0x186 := rfl
@[simp] theorem Instr.opc_stsp (f) : (Instr.stsp f).opc = 0x187 := rfl
@[simp] theorem Instr.opc_pref (f) : (Instr.pref f).opc = 0x188 := rfl
@[simp] theorem Instr.opc_nullst (f) : (Instr.nullst f).opc = 0x189 := rfl
@[simp] theorem Instr.opc_l1inv (f) : (Instr.l1inv f).opc = 0x18A := rfl
@[simp] theorem Instr.opc_fence (f) : (Instr.fence f).opc = 0x18B := rfl
@[simp] theorem Instr.opc_ldv (f) : (Instr.ldv f).opc = 0x1A0 := rfl
@[simp] theorem Instr.opc_stv (f) : (Instr.stv f).opc = 0x1A1 := rfl
@[simp] theorem Instr.opc_reclaim (f) : (Instr.reclaim f).opc = 0x1A2 := rfl
@[simp] theorem Instr.opc_atom (f) : (Instr.atom f).opc = 0x1A3 := rfl
@[simp] theorem Instr.opc_cas (f) : (Instr.cas f).opc = 0x1A4 := rfl
@[simp] theorem Instr.opc_reinmk (f) : (Instr.reinmk f).opc = 0x1C0 := rfl
@[simp] theorem Instr.opc_reindup (f) : (Instr.reindup f).opc = 0x1C1 := rfl
@[simp] theorem Instr.opc_reinspl (f) : (Instr.reinspl f).opc = 0x1C2 := rfl
@[simp] theorem Instr.opc_reinnar (f) : (Instr.reinnar f).opc = 0x1C3 := rfl
@[simp] theorem Instr.opc_reindrop (f) : (Instr.reindrop f).opc = 0x1C4 := rfl
@[simp] theorem Instr.opc_reinq (f) : (Instr.reinq f).opc = 0x1C5 := rfl
@[simp] theorem Instr.opc_reinsend (f) : (Instr.reinsend f).opc = 0x1C6 := rfl
@[simp] theorem Instr.opc_copy (f) : (Instr.copy f).opc = 0x1E0 := rfl
@[simp] theorem Instr.opc_wpwait (f) : (Instr.wpwait f).opc = 0x1E1 := rfl
@[simp] theorem Instr.opc_wprd (f) : (Instr.wprd f).opc = 0x1E2 := rfl
@[simp] theorem Instr.opc_gather (f) : (Instr.gather f).opc = 0x1E3 := rfl
@[simp] theorem Instr.opc_coll (f) : (Instr.coll f).opc = 0x1E4 := rfl
@[simp] theorem Instr.opc_topk (f) : (Instr.topk f).opc = 0x1E5 := rfl
@[simp] theorem Instr.opc_cwait (f) : (Instr.cwait f).opc = 0x1E6 := rfl
@[simp] theorem Instr.opc_cstat (f) : (Instr.cstat f).opc = 0x1E7 := rfl
@[simp] theorem Instr.opc_ccancel (f) : (Instr.ccancel f).opc = 0x1E8 := rfl
@[simp] theorem Instr.opc_mirror (f) : (Instr.mirror f).opc = 0x1E9 := rfl
@[simp] theorem Instr.opc_qpush (f) : (Instr.qpush f).opc = 0x200 := rfl
@[simp] theorem Instr.opc_qpop (f) : (Instr.qpop f).opc = 0x201 := rfl
@[simp] theorem Instr.opc_qstat (f) : (Instr.qstat f).opc = 0x202 := rfl
@[simp] theorem Instr.opc_chgrd (f) : (Instr.chgrd f).opc = 0x203 := rfl
@[simp] theorem Instr.opc_chgask (f) : (Instr.chgask f).opc = 0x204 := rfl
@[simp] theorem Instr.opc_tlaunch (f) : (Instr.tlaunch f).opc = 0x205 := rfl
@[simp] theorem Instr.opc_trap (f) : (Instr.trap f).opc = 0x220 := rfl
@[simp] theorem Instr.opc_fret (f) : (Instr.fret f).opc = 0x221 := rfl
@[simp] theorem Instr.opc_csrrd (f) : (Instr.csrrd f).opc = 0x222 := rfl
@[simp] theorem Instr.opc_csrwr (f) : (Instr.csrwr f).opc = 0x223 := rfl
@[simp] theorem Instr.opc_bkpt (f) : (Instr.bkpt f).opc = 0x224 := rfl
@[simp] theorem Instr.opc_tbase (f) : (Instr.tbase f).opc = 0x225 := rfl
@[simp] theorem Instr.opc_tlbinv (f) : (Instr.tlbinv f).opc = 0x226 := rfl
@[simp] theorem Instr.opc_codesync (f) : (Instr.codesync f).opc = 0x227 := rfl
@[simp] theorem Instr.opc_mlog (f) : (Instr.mlog f).opc = 0x228 := rfl
@[simp] theorem Instr.opc_jordSet (f) : (Instr.jordSet f).opc = 0x100 := rfl
@[simp] theorem Instr.opc_jflagClr (f) : (Instr.jflagClr f).opc = 0x108 := rfl

@[simp] theorem groupOf_br (f) : groupOf (.br f) = 0 := by simp [groupOf]
@[simp] theorem groupOf_bri (f) : groupOf (.bri f) = 0 := by simp [groupOf]
@[simp] theorem groupOf_call (f) : groupOf (.call f) = 0 := by simp [groupOf]
@[simp] theorem groupOf_calli (f) : groupOf (.calli f) = 0 := by simp [groupOf]
@[simp] theorem groupOf_ret (f) : groupOf (.ret f) = 0 := by simp [groupOf]
@[simp] theorem groupOf_halt (f) : groupOf (.halt f) = 0 := by simp [groupOf]
@[simp] theorem groupOf_mov (f) : groupOf (.mov f) = 1 := by simp [groupOf]
@[simp] theorem groupOf_const (f) : groupOf (.const f) = 1 := by simp [groupOf]
@[simp] theorem groupOf_lenter (f) : groupOf (.lenter f) = 1 := by simp [groupOf]
@[simp] theorem groupOf_inext (f) : groupOf (.inext f) = 1 := by simp [groupOf]
@[simp] theorem groupOf_iprev (f) : groupOf (.iprev f) = 1 := by simp [groupOf]
@[simp] theorem groupOf_lexit (f) : groupOf (.lexit f) = 1 := by simp [groupOf]
@[simp] theorem groupOf_talloc (f) : groupOf (.talloc f) = 1 := by simp [groupOf]
@[simp] theorem groupOf_tfree (f) : groupOf (.tfree f) = 1 := by simp [groupOf]
@[simp] theorem groupOf_spawn (f) : groupOf (.spawn f) = 1 := by simp [groupOf]
@[simp] theorem groupOf_join (f) : groupOf (.join f) = 1 := by simp [groupOf]
@[simp] theorem groupOf_getg (f) : groupOf (.getg f) = 1 := by simp [groupOf]
@[simp] theorem groupOf_putg (f) : groupOf (.putg f) = 1 := by simp [groupOf]
@[simp] theorem groupOf_empty (f) : groupOf (.empty f) = 1 := by simp [groupOf]
@[simp] theorem groupOf_null (f) : groupOf (.null f) = 1 := by simp [groupOf]
@[simp] theorem groupOf_cmp (f) : groupOf (.cmp f) = 2 := by simp [groupOf]
@[simp] theorem groupOf_fcmp (f) : groupOf (.fcmp f) = 2 := by simp [groupOf]
@[simp] theorem groupOf_pand (f) : groupOf (.pand f) = 2 := by simp [groupOf]
@[simp] theorem groupOf_por (f) : groupOf (.por f) = 2 := by simp [groupOf]
@[simp] theorem groupOf_pxor (f) : groupOf (.pxor f) = 2 := by simp [groupOf]
@[simp] theorem groupOf_pnot (f) : groupOf (.pnot f) = 2 := by simp [groupOf]
@[simp] theorem groupOf_any (f) : groupOf (.any f) = 2 := by simp [groupOf]
@[simp] theorem groupOf_all (f) : groupOf (.all f) = 2 := by simp [groupOf]
@[simp] theorem groupOf_maskn (f) : groupOf (.maskn f) = 2 := by simp [groupOf]
@[simp] theorem groupOf_sel (f) : groupOf (.sel f) = 2 := by simp [groupOf]
@[simp] theorem groupOf_add (f) : groupOf (.add f) = 3 := by simp [groupOf]
@[simp] theorem groupOf_sub (f) : groupOf (.sub f) = 3 := by simp [groupOf]
@[simp] theorem groupOf_mul (f) : groupOf (.mul f) = 3 := by simp [groupOf]
@[simp] theorem groupOf_mulh (f) : groupOf (.mulh f) = 3 := by simp [groupOf]
@[simp] theorem groupOf_div (f) : groupOf (.div f) = 3 := by simp [groupOf]
@[simp] theorem groupOf_rem (f) : groupOf (.rem f) = 3 := by simp [groupOf]
@[simp] theorem groupOf_neg (f) : groupOf (.neg f) = 3 := by simp [groupOf]
@[simp] theorem groupOf_abs (f) : groupOf (.abs f) = 3 := by simp [groupOf]
@[simp] theorem groupOf_min (f) : groupOf (.min f) = 3 := by simp [groupOf]
@[simp] theorem groupOf_max (f) : groupOf (.max f) = 3 := by simp [groupOf]
@[simp] theorem groupOf_madd (f) : groupOf (.madd f) = 3 := by simp [groupOf]
@[simp] theorem groupOf_dot4 (f) : groupOf (.dot4 f) = 3 := by simp [groupOf]
@[simp] theorem groupOf_lea (f) : groupOf (.lea f) = 3 := by simp [groupOf]
@[simp] theorem groupOf_and (f) : groupOf (.and f) = 4 := by simp [groupOf]
@[simp] theorem groupOf_or (f) : groupOf (.or f) = 4 := by simp [groupOf]
@[simp] theorem groupOf_xor (f) : groupOf (.xor f) = 4 := by simp [groupOf]
@[simp] theorem groupOf_andn (f) : groupOf (.andn f) = 4 := by simp [groupOf]
@[simp] theorem groupOf_not (f) : groupOf (.not f) = 4 := by simp [groupOf]
@[simp] theorem groupOf_shl (f) : groupOf (.shl f) = 4 := by simp [groupOf]
@[simp] theorem groupOf_shr (f) : groupOf (.shr f) = 4 := by simp [groupOf]
@[simp] theorem groupOf_sar (f) : groupOf (.sar f) = 4 := by simp [groupOf]
@[simp] theorem groupOf_rol (f) : groupOf (.rol f) = 4 := by simp [groupOf]
@[simp] theorem groupOf_clz (f) : groupOf (.clz f) = 4 := by simp [groupOf]
@[simp] theorem groupOf_popc (f) : groupOf (.popc f) = 4 := by simp [groupOf]
@[simp] theorem groupOf_brev (f) : groupOf (.brev f) = 4 := by simp [groupOf]
@[simp] theorem groupOf_bfx (f) : groupOf (.bfx f) = 4 := by simp [groupOf]
@[simp] theorem groupOf_bfi (f) : groupOf (.bfi f) = 4 := by simp [groupOf]
@[simp] theorem groupOf_sext (f) : groupOf (.sext f) = 4 := by simp [groupOf]
@[simp] theorem groupOf_zext (f) : groupOf (.zext f) = 4 := by simp [groupOf]
@[simp] theorem groupOf_fadd (f) : groupOf (.fadd f) = 5 := by simp [groupOf]
@[simp] theorem groupOf_fsub (f) : groupOf (.fsub f) = 5 := by simp [groupOf]
@[simp] theorem groupOf_fmul (f) : groupOf (.fmul f) = 5 := by simp [groupOf]
@[simp] theorem groupOf_fma (f) : groupOf (.fma f) = 5 := by simp [groupOf]
@[simp] theorem groupOf_fnma (f) : groupOf (.fnma f) = 5 := by simp [groupOf]
@[simp] theorem groupOf_fdiv (f) : groupOf (.fdiv f) = 5 := by simp [groupOf]
@[simp] theorem groupOf_fsqrt (f) : groupOf (.fsqrt f) = 5 := by simp [groupOf]
@[simp] theorem groupOf_frsqrt (f) : groupOf (.frsqrt f) = 5 := by simp [groupOf]
@[simp] theorem groupOf_frcp (f) : groupOf (.frcp f) = 5 := by simp [groupOf]
@[simp] theorem groupOf_fmin (f) : groupOf (.fmin f) = 5 := by simp [groupOf]
@[simp] theorem groupOf_fmax (f) : groupOf (.fmax f) = 5 := by simp [groupOf]
@[simp] theorem groupOf_fabs (f) : groupOf (.fabs f) = 5 := by simp [groupOf]
@[simp] theorem groupOf_fneg (f) : groupOf (.fneg f) = 5 := by simp [groupOf]
@[simp] theorem groupOf_fcpys (f) : groupOf (.fcpys f) = 5 := by simp [groupOf]
@[simp] theorem groupOf_fclass (f) : groupOf (.fclass f) = 5 := by simp [groupOf]
@[simp] theorem groupOf_frint (f) : groupOf (.frint f) = 5 := by simp [groupOf]
@[simp] theorem groupOf_fscale (f) : groupOf (.fscale f) = 5 := by simp [groupOf]
@[simp] theorem groupOf_fexp (f) : groupOf (.fexp f) = 6 := by simp [groupOf]
@[simp] theorem groupOf_fexp2 (f) : groupOf (.fexp2 f) = 6 := by simp [groupOf]
@[simp] theorem groupOf_flog (f) : groupOf (.flog f) = 6 := by simp [groupOf]
@[simp] theorem groupOf_flog2 (f) : groupOf (.flog2 f) = 6 := by simp [groupOf]
@[simp] theorem groupOf_fsin (f) : groupOf (.fsin f) = 6 := by simp [groupOf]
@[simp] theorem groupOf_fcos (f) : groupOf (.fcos f) = 6 := by simp [groupOf]
@[simp] theorem groupOf_ftanh (f) : groupOf (.ftanh f) = 6 := by simp [groupOf]
@[simp] theorem groupOf_flgst (f) : groupOf (.flgst f) = 6 := by simp [groupOf]
@[simp] theorem groupOf_ferf (f) : groupOf (.ferf f) = 6 := by simp [groupOf]
@[simp] theorem groupOf_cvt (f) : groupOf (.cvt f) = 7 := by simp [groupOf]
@[simp] theorem groupOf_cvtsr (f) : groupOf (.cvtsr f) = 7 := by simp [groupOf]
@[simp] theorem groupOf_rng (f) : groupOf (.rng f) = 7 := by simp [groupOf]
@[simp] theorem groupOf_pack4 (f) : groupOf (.pack4 f) = 7 := by simp [groupOf]
@[simp] theorem groupOf_unpk4 (f) : groupOf (.unpk4 f) = 7 := by simp [groupOf]
@[simp] theorem groupOf_jord (f) : groupOf (.jord f) = 8 := by simp [groupOf]
@[simp] theorem groupOf_jseed (f) : groupOf (.jseed f) = 8 := by simp [groupOf]
@[simp] theorem groupOf_jcoef (f) : groupOf (.jcoef f) = 8 := by simp [groupOf]
@[simp] theorem groupOf_jsetc (f) : groupOf (.jsetc f) = 8 := by simp [groupOf]
@[simp] theorem groupOf_jdiff (f) : groupOf (.jdiff f) = 8 := by simp [groupOf]
@[simp] theorem groupOf_jintg (f) : groupOf (.jintg f) = 8 := by simp [groupOf]
@[simp] theorem groupOf_jtrunc (f) : groupOf (.jtrunc f) = 8 := by simp [groupOf]
@[simp] theorem groupOf_jeval (f) : groupOf (.jeval f) = 8 := by simp [groupOf]
@[simp] theorem groupOf_jflag (f) : groupOf (.jflag f) = 8 := by simp [groupOf]
@[simp] theorem groupOf_repl (f) : groupOf (.repl f) = 9 := by simp [groupOf]
@[simp] theorem groupOf_lane (f) : groupOf (.lane f) = 9 := by simp [groupOf]
@[simp] theorem groupOf_insl (f) : groupOf (.insl f) = 9 := by simp [groupOf]
@[simp] theorem groupOf_perm (f) : groupOf (.perm f) = 9 := by simp [groupOf]
@[simp] theorem groupOf_shuf (f) : groupOf (.shuf f) = 9 := by simp [groupOf]
@[simp] theorem groupOf_rotl (f) : groupOf (.rotl f) = 9 := by simp [groupOf]
@[simp] theorem groupOf_slide (f) : groupOf (.slide f) = 9 := by simp [groupOf]
@[simp] theorem groupOf_zip (f) : groupOf (.zip f) = 9 := by simp [groupOf]
@[simp] theorem groupOf_unzip (f) : groupOf (.unzip f) = 9 := by simp [groupOf]
@[simp] theorem groupOf_iota (f) : groupOf (.iota f) = 9 := by simp [groupOf]
@[simp] theorem groupOf_red (f) : groupOf (.red f) = 10 := by simp [groupOf]
@[simp] theorem groupOf_scan (f) : groupOf (.scan f) = 10 := by simp [groupOf]
@[simp] theorem groupOf_accum (f) : groupOf (.accum f) = 10 := by simp [groupOf]
@[simp] theorem groupOf_filter (f) : groupOf (.filter f) = 10 := by simp [groupOf]
@[simp] theorem groupOf_compact (f) : groupOf (.compact f) = 10 := by simp [groupOf]
@[simp] theorem groupOf_steer (f) : groupOf (.steer f) = 10 := by simp [groupOf]
@[simp] theorem groupOf_merge (f) : groupOf (.merge f) = 10 := by simp [groupOf]
@[simp] theorem groupOf_mmat (f) : groupOf (.mmat f) = 11 := by simp [groupOf]
@[simp] theorem groupOf_tfetch (f) : groupOf (.tfetch f) = 11 := by simp [groupOf]
@[simp] theorem groupOf_accclr (f) : groupOf (.accclr f) = 11 := by simp [groupOf]
@[simp] theorem groupOf_accarm (f) : groupOf (.accarm f) = 11 := by simp [groupOf]
@[simp] theorem groupOf_accrel (f) : groupOf (.accrel f) = 11 := by simp [groupOf]
@[simp] theorem groupOf_accrd (f) : groupOf (.accrd f) = 11 := by simp [groupOf]
@[simp] theorem groupOf_accchk (f) : groupOf (.accchk f) = 11 := by simp [groupOf]
@[simp] theorem groupOf_mtrans (f) : groupOf (.mtrans f) = 11 := by simp [groupOf]
@[simp] theorem groupOf_ld (f) : groupOf (.ld f) = 12 := by simp [groupOf]
@[simp] theorem groupOf_lds (f) : groupOf (.lds f) = 12 := by simp [groupOf]
@[simp] theorem groupOf_ldg (f) : groupOf (.ldg f) = 12 := by simp [groupOf]
@[simp] theorem groupOf_st (f) : groupOf (.st f) = 12 := by simp [groupOf]
@[simp] theorem groupOf_sts (f) : groupOf (.sts f) = 12 := by simp [groupOf]
@[simp] theorem groupOf_stg (f) : groupOf (.stg f) = 12 := by simp [groupOf]
@[simp] theorem groupOf_ldsp (f) : groupOf (.ldsp f) = 12 := by simp [groupOf]
@[simp] theorem groupOf_stsp (f) : groupOf (.stsp f) = 12 := by simp [groupOf]
@[simp] theorem groupOf_pref (f) : groupOf (.pref f) = 12 := by simp [groupOf]
@[simp] theorem groupOf_nullst (f) : groupOf (.nullst f) = 12 := by simp [groupOf]
@[simp] theorem groupOf_l1inv (f) : groupOf (.l1inv f) = 12 := by simp [groupOf]
@[simp] theorem groupOf_fence (f) : groupOf (.fence f) = 12 := by simp [groupOf]
@[simp] theorem groupOf_ldv (f) : groupOf (.ldv f) = 13 := by simp [groupOf]
@[simp] theorem groupOf_stv (f) : groupOf (.stv f) = 13 := by simp [groupOf]
@[simp] theorem groupOf_reclaim (f) : groupOf (.reclaim f) = 13 := by simp [groupOf]
@[simp] theorem groupOf_atom (f) : groupOf (.atom f) = 13 := by simp [groupOf]
@[simp] theorem groupOf_cas (f) : groupOf (.cas f) = 13 := by simp [groupOf]
@[simp] theorem groupOf_reinmk (f) : groupOf (.reinmk f) = 14 := by simp [groupOf]
@[simp] theorem groupOf_reindup (f) : groupOf (.reindup f) = 14 := by simp [groupOf]
@[simp] theorem groupOf_reinspl (f) : groupOf (.reinspl f) = 14 := by simp [groupOf]
@[simp] theorem groupOf_reinnar (f) : groupOf (.reinnar f) = 14 := by simp [groupOf]
@[simp] theorem groupOf_reindrop (f) : groupOf (.reindrop f) = 14 := by simp [groupOf]
@[simp] theorem groupOf_reinq (f) : groupOf (.reinq f) = 14 := by simp [groupOf]
@[simp] theorem groupOf_reinsend (f) : groupOf (.reinsend f) = 14 := by simp [groupOf]
@[simp] theorem groupOf_copy (f) : groupOf (.copy f) = 15 := by simp [groupOf]
@[simp] theorem groupOf_wpwait (f) : groupOf (.wpwait f) = 15 := by simp [groupOf]
@[simp] theorem groupOf_wprd (f) : groupOf (.wprd f) = 15 := by simp [groupOf]
@[simp] theorem groupOf_gather (f) : groupOf (.gather f) = 15 := by simp [groupOf]
@[simp] theorem groupOf_coll (f) : groupOf (.coll f) = 15 := by simp [groupOf]
@[simp] theorem groupOf_topk (f) : groupOf (.topk f) = 15 := by simp [groupOf]
@[simp] theorem groupOf_cwait (f) : groupOf (.cwait f) = 15 := by simp [groupOf]
@[simp] theorem groupOf_cstat (f) : groupOf (.cstat f) = 15 := by simp [groupOf]
@[simp] theorem groupOf_ccancel (f) : groupOf (.ccancel f) = 15 := by simp [groupOf]
@[simp] theorem groupOf_mirror (f) : groupOf (.mirror f) = 15 := by simp [groupOf]
@[simp] theorem groupOf_qpush (f) : groupOf (.qpush f) = 16 := by simp [groupOf]
@[simp] theorem groupOf_qpop (f) : groupOf (.qpop f) = 16 := by simp [groupOf]
@[simp] theorem groupOf_qstat (f) : groupOf (.qstat f) = 16 := by simp [groupOf]
@[simp] theorem groupOf_chgrd (f) : groupOf (.chgrd f) = 16 := by simp [groupOf]
@[simp] theorem groupOf_chgask (f) : groupOf (.chgask f) = 16 := by simp [groupOf]
@[simp] theorem groupOf_tlaunch (f) : groupOf (.tlaunch f) = 16 := by simp [groupOf]
@[simp] theorem groupOf_trap (f) : groupOf (.trap f) = 17 := by simp [groupOf]
@[simp] theorem groupOf_fret (f) : groupOf (.fret f) = 17 := by simp [groupOf]
@[simp] theorem groupOf_csrrd (f) : groupOf (.csrrd f) = 17 := by simp [groupOf]
@[simp] theorem groupOf_csrwr (f) : groupOf (.csrwr f) = 17 := by simp [groupOf]
@[simp] theorem groupOf_bkpt (f) : groupOf (.bkpt f) = 17 := by simp [groupOf]
@[simp] theorem groupOf_tbase (f) : groupOf (.tbase f) = 17 := by simp [groupOf]
@[simp] theorem groupOf_tlbinv (f) : groupOf (.tlbinv f) = 17 := by simp [groupOf]
@[simp] theorem groupOf_codesync (f) : groupOf (.codesync f) = 17 := by simp [groupOf]
@[simp] theorem groupOf_mlog (f) : groupOf (.mlog f) = 17 := by simp [groupOf]
@[simp] theorem groupOf_jordSet (f) : groupOf (.jordSet f) = 8 := by simp [groupOf]
@[simp] theorem groupOf_jflagClr (f) : groupOf (.jflagClr f) = 8 := by simp [groupOf]

end Sys2Proof.Machine
end

