-- ==== Sys2Proof/Laws/Forms.lean ====
section
/-! SUPPORT. Laws of the common frames of the forms: what a firing that goes through answers, said once for each frame. -/

namespace Sys2Proof.Machine

theorem Goes.run_emitPlan {i : Instr} {s : State} {c : Fx} {draw : Nat} {tg : Tag} {cl : Option Claim} (h : Goes i s c draw tg cl)
    (d : TokData) (null : Bool) (b : Prog) : c.run (c.emitPlan draw d null b) = .next (c.emitted draw tg cl d null b) :=
  Fx.run_emitPlan h.tags h.covers

theorem Goes.run_act {i : Instr} {s : State} {c : Fx} {draw : Nat} {tg : Tag} {cl : Option Claim} (h : Goes i s c draw tg cl) (p : Prog) :
    c.run (.act draw p) = .next (c.acted draw p) := Fx.run_act h.covers

theorem Fx.acted_skip (c : Fx) (d : Nat) : c.acted d .skip = c.taken d := rfl

/-- What `finish` comes to: the trap, or the emission with its flags noted. -/
theorem Fx.run_finish {c : Fx} {draw : Nat} {r : Raised} {d : TokData} {tg : Tag} {cl : Option Claim} (ht : Tags c tg cl) (hc : Covers c draw) :
    c.run (c.finish draw r d) = .next (if traps c.h r = true then c.faulted draw 0x20 0 (trapInfo (c.h.plane = 2) r)
      else c.emitted draw tg cl d false (noteFlags c r)) := by
  unfold Fx.finish
  split
  · exact Fx.run_fault hc
  · exact Fx.run_emitPlan ht hc

theorem run_scalarOut {c : Fx} {draw : Nat} {o : LaneOut} {tg : Tag} {cl : Option Claim} (hp : c.h.plane = 0) (ht : Tags c tg cl)
    (hc : Covers c draw) : c.run (scalarOut c draw o) = .next (c.scalared draw tg cl o) := by
  unfold scalarOut
  rw [Fx.run_finish ht hc]
  simp only [Fx.scalared, hp]
  rfl

/-- Outside the gate nothing is open, so a gate of PMODE 00 leaves everything. -/
theorem Fx.mode_always {c : Fx} {dp : Bool} {g : BitVec 16} (h : c.mode dp = .go g) (hp : c.h.pmode = 0) : g = 0xFFFF := by
  unfold Fx.mode at h
  split at h
  · cases h
  · simp only [hp, decide_true, Bool.or_true, if_true] at h
    cases h
    rfl

/-- A form whose slot 11 is data has no gate. -/
theorem Fx.mode_data {c : Fx} {g : BitVec 16} (h : c.mode true = .go g) : g = 0xFFFF := by
  unfold Fx.mode at h
  split at h
  · cases h
  · simp only [Bool.true_or, if_true] at h
    cases h
    rfl

theorem ones_and (m : BitVec 16) : m &&& (0xFFFF : BitVec 16) = m := by
  rw [show (0xFFFF : BitVec 16) = BitVec.allOnes 16 from rfl, BitVec.and_allOnes]

theorem zipIdx_map_range {α β : Type} (f : Nat → α) (g : α × Nat → β) (n : Nat) :
    ((List.range n).map f).zipIdx.map g = (List.range n).map fun k => g (f k, k) := by
  apply List.ext_getElem
  · simp
  · intro k h1 h2
    simp

theorem mk_congr {f g : Nat → Lane} (h : ∀ l, l < 16 → f l = g l) : Vec.mk f = Vec.mk g := by
  unfold Vec.mk
  apply List.map_congr_left
  intro l hl
  exact h l (List.mem_range.1 hl)

theorem lane_mk (f : Nat → Lane) {l : Nat} (h : l < 16) : Vec.lane (Vec.mk f) l = f l := by
  unfold Vec.lane Vec.mk
  simp [List.getD, h]

/-- The lane gate over beats that are given lane by lane. -/
theorem laneGate_range {h : Hdr} {g : BitVec 16} {left : Option Tok} {nb : Nat} {v : Nat → Nat → Lane} {m : BitVec 16} (hg : h.pmode = 0 → g = 0xFFFF) :
    laneGate h g left ((List.range nb).map fun j => Vec.mk fun l => v j l) m =
      if ¬h.pmode = 0 ∧ m &&& g = 0 then none
      else some (.beats ((List.range nb).map fun j => Vec.mk fun l => if g.getLsbD l then v j l else Vec.lane (optBeat left j) l) (m &&& g)) := by
  unfold laneGate
  by_cases hp : h.pmode = 0
  · have hg' := hg hp
    subst hg'
    simp only [hp, if_true, not_true, false_and, if_false, ones_and]
    congr 2
  · simp only [hp, if_false, not_false_eq_true, true_and]
    split
    · rfl
    · congr 2
      rw [zipIdx_map_range]
      apply List.map_congr_left
      intro j _
      apply mk_congr
      intro l hl
      simp only [lane_mk _ hl]

/-- A vector form without flags: what its gate lets out (08 R173). -/
theorem run_gated {i : Instr} {s : State} {c : Fx} {draw : Nat} {tg : Tag} {cl : Option Claim} {g : BitVec 16} {m : BitVec 16} {nb : Nat}
    {v : Nat → Nat → Lane} (h : Goes i s c draw tg cl) {dp : Bool} (hm : c.mode dp = .go g) :
    c.run (match laneGate c.h g c.l ((List.range nb).map fun j => Vec.mk fun l => v j l) m with
      | none => .act draw .skip
      | some d => c.emitPlan draw d false .skip) = .next (c.laned draw tg cl true g m nb v .skip) := by
  rw [laneGate_range (Fx.mode_always hm)]
  by_cases hx : ¬c.h.pmode = 0 ∧ m &&& g = 0
  · rw [if_pos hx]
    simp only [Fx.laned, true_and, if_pos hx]
    exact h.run_act _
  · rw [if_neg hx]
    simp only [Fx.laned, true_and, if_neg hx]
    exact h.run_emitPlan _ _ _

/-- The flags that `lanesOut` collects. -/
theorem raised_zip (comp : BitVec 16) (lane : Nat → LaneOut) :
    (((List.range 16).map fun l => if comp.getLsbD l then some (lane l) else none).zipIdx.flatMap fun e => match e.1 with
      | some o => o.fls.map fun x => (e.2, x.1, x.2)
      | none => []) = raisedOf comp lane := by
  unfold raisedOf
  rw [List.flatMap_def, zipIdx_map_range, List.flatMap_def]
  congr 1
  apply List.map_congr_left
  intro l _
  dsimp only
  cases h : comp.getLsbD l <;> simp

theorem getD_range_map {α : Type} (f : Nat → Option α) {l : Nat} (h : l < 16) : ((List.range 16).map f).getD l none = f l := by
  simp [List.getD, h]

theorem ones_bit {l : Nat} (hl : l < 16) : (0xFFFF : BitVec 16).getLsbD l = true := by
  rw [show (0xFFFF : BitVec 16) = BitVec.allOnes 16 from rfl, BitVec.getLsbD_allOnes]
  simpa using hl

/-- Beats and flags that pass the gate, or leave it out. -/
theorem run_beats {c : Fx} {draw : Nat} {tg : Tag} {cl : Option Claim} {gate : Bool} {g m : BitVec 16} {nb : Nat} {v : Nat → Nat → Lane} {r : Raised}
    {B : List Vec} (ht : Tags c tg cl) (hc : Covers c draw) {dp : Bool} (hm : c.mode dp = .go g) (hg : gate = false → g = 0xFFFF)
    (hB : B = (List.range nb).map fun j => Vec.mk fun l => v j l) :
    c.run (match (if gate then laneGate c.h g c.l B m else some (.beats B m)) with
      | none => .act draw .skip
      | some d => c.finish draw r d) =
    .next (if ¬(gate = true ∧ ¬c.h.pmode = 0 ∧ m &&& g = 0) ∧ traps c.h r = true then c.faulted draw 0x20 0 (trapInfo (c.h.plane = 2) r)
      else c.laned draw tg cl gate g m nb v (noteFlags c r)) := by
  subst hB
  cases gate with
  | true =>
    simp only [if_true]
    rw [laneGate_range (Fx.mode_always hm)]
    by_cases hx : ¬c.h.pmode = 0 ∧ m &&& g = 0
    · rw [if_pos hx]
      rw [if_neg (fun h => h.1 ⟨trivial, hx⟩)]
      simp only [Fx.laned, true_and, if_pos hx]
      exact Fx.run_act hc
    · rw [if_neg hx]
      simp only [Fx.laned, true_and, if_neg hx]
      rw [Fx.run_finish ht hc]
      simp only [hx, not_false_eq_true, true_and, Fx.gatedBeats]
  | false =>
    have hg' := hg rfl
    subst hg'
    have hv : c.gatedBeats 0xFFFF nb v = (List.range nb).map fun j => Vec.mk fun l => v j l := by
      apply List.map_congr_left
      intro j _
      exact mk_congr fun l hl => if_pos (ones_bit hl)
    simp only [Bool.false_eq_true, if_false]
    rw [Fx.run_finish ht hc]
    simp only [Fx.laned, Bool.false_eq_true, false_and, not_false_eq_true, true_and, if_false, ones_and, hv]

/-- A vector form with flags of its own: what its gate lets out, or its trap (08 R173; 22 R370). -/
theorem run_noted {c : Fx} {draw : Nat} {tg : Tag} {cl : Option Claim} {g m : BitVec 16} {nb : Nat} {v : Nat → Nat → Lane} {r : Raised}
    (ht : Tags c tg cl) (hc : Covers c draw) {dp : Bool} (hm : c.mode dp = .go g) :
    c.run (match laneGate c.h g c.l ((List.range nb).map fun j => Vec.mk fun l => v j l) m with
      | none => .act draw .skip
      | some d => c.finish draw r d) = .next (c.noted draw tg cl g m nb v r) := by
  have := run_beats (gate := true) (g := g) (m := m) (nb := nb) (v := v) (r := r) ht hc hm (by simp) rfl
  simp only [if_true, true_and] at this
  exact this

/-- What `lanesOut` comes to. -/
theorem run_lanesOut {c : Fx} {draw : Nat} {tg : Tag} {cl : Option Claim} {gate : Bool} {g m comp : BitVec 16} {nb : Nat}
    {lane : Nat → LaneOut} (ht : Tags c tg cl) (hc : Covers c draw) {dp : Bool} (hm : c.mode dp = .go g) (hg : gate = false → g = 0xFFFF) :
    c.run (lanesOut c draw gate g m comp nb lane) = .next (c.computed draw tg cl gate g m comp nb lane) := by
  have hr := raised_zip comp lane
  refine Eq.trans (run_beats (nb := nb) (tg := tg) (cl := cl) (v := fun j l => if comp.getLsbD l then BitVec.ofNat 32 ((lane l).vals.getD j 0) else Vec.lane (optBeat c.l j) l)
    ht hc hm hg ?_) ?_
  · apply List.map_congr_left
    intro j _
    apply mk_congr
    intro l hl
    rw [getD_range_map _ hl]
    cases comp.getLsbD l <;> rfl
  · erw [hr]
    rfl

/-- What an open firing of a gated frame does. -/
theorem gateForm_go {i : Instr} {plan : Fx → BitVec 16 → Plan} {s : State} {c : Fx} {g : BitVec 16} (h : Fires i s c)
    (hm : c.mode (thirdData i) = .go g) : gateForm i plan s = c.run (plan c g) := by
  unfold gateForm
  rw [fire_fires h, hm]

/-- Where its flags do not trap, a plan that finishes with data is an action. -/
theorem finish_act {c : Fx} {draw : Nat} {r : Raised} {d : TokData} {tg : Tag} {cl : Option Claim} (ht : Tags c tg cl) (h : traps c.h r = false) :
    ∃ p, c.finish draw r d = .act draw p := by
  unfold Fx.finish
  rw [if_neg (by simp [h]), Fx.emitPlan_tags ht]
  exact ⟨_, rfl⟩

/-- Something more done at the end of an action. -/
theorem Fx.run_more {c : Fx} {draw : Nat} {p q : Prog} {t : State} (hc : Covers c draw) (h : c.run (.act draw p) = .next t) :
    c.run (.act draw (.seq p q)) = .next (q.run t) := by
  rw [Fx.run_act hc] at h ⊢
  cases h
  rfl

/-- What `lanesOut` is: a fault where its gate is open and its flags trap, else an action. -/
theorem lanesOut_shape {c : Fx} {draw : Nat} {g m comp : BitVec 16} {nb : Nat} {lane : Nat → LaneOut} {tg : Tag} {cl : Option Claim}
    (ht : Tags c tg cl) :
    if ¬(¬c.h.pmode = 0 ∧ m &&& g = 0) ∧ traps c.h (raisedOf comp lane) = true then
      lanesOut c draw true g m comp nb lane = .fault draw 0x20 0 (trapInfo (c.h.plane = 2) (raisedOf comp lane))
    else ∃ p, lanesOut c draw true g m comp nb lane = .act draw p := by
  have hr := raised_zip comp lane
  unfold lanesOut
  simp only [if_true]
  by_cases hx : ¬c.h.pmode = 0 ∧ m &&& g = 0
  · rw [if_neg (fun h => h.1 hx)]
    unfold laneGate
    simp only [hx.1, hx.2, if_false, if_true]
    exact ⟨_, rfl⟩
  · have hg : ∀ B, ∃ d, laneGate c.h g c.l B m = some d := by
      intro B
      unfold laneGate
      by_cases hp : c.h.pmode = 0
      · simp [hp]
      · rw [if_neg hp, if_neg (fun h => hx ⟨hp, h⟩)]
        exact ⟨_, rfl⟩
    obtain ⟨d, hd⟩ := hg ((List.range nb).map fun j => Vec.mk fun l =>
      match ((List.range 16).map fun l => if comp.getLsbD l then some (lane l) else none).getD l none with
      | some o => BitVec.ofNat 32 (o.vals.getD j 0)
      | none => Vec.lane (optBeat c.l j) l)
    erw [hd, hr]
    by_cases htr : traps c.h (raisedOf comp lane) = true
    · rw [if_pos ⟨hx, htr⟩]
      simp [Fx.finish, htr]
    · rw [if_neg (fun h => htr h.2)]
      exact finish_act ht (by simpa using htr)

/-- The frame of the predicates computes a predicate. -/
theorem predForm_predicate {i : Instr} {f : FmtA} {el : Nat → Nat → Bool × Num.Flags} (hx : exec i = predForm i f el) (hh : i.hdr = f.h)
    (hg : groupOf i = 2) (ht : thirdData i = false) : PredicateForm i f el := by
  intro s c tg cl g hm
  have hm' : c.mode (thirdData i) = .go g := by rw [ht]; exact hm
  have hd : ∀ k, formDraw i k = (if planeOf i = 0 then 4 else 24) * linJ (planeOf i) k := fun k => by simp [formDraw, hg]
  have key : ∀ draw comp, c.h.plane ≠ 0 → comp = (if c.h.plane = 1 then 0xFFFF else dataMask i c f) → Goes i s c draw tg cl →
      formDraw i c.k = draw → exec i s = .next (c.predicated draw tg cl g (dataMask i c f) comp (predLane i c f el)) := by
    intro draw comp hp hc hgo he
    subst hc
    rw [hx]
    unfold predForm
    rw [gateForm_go hgo.fires hm']
    simp only [he, hp, if_false]
    have hs := lanesOut_shape (draw := draw) (g := g) (m := dataMask i c f) (nb := 1) (comp := if c.h.plane = 1 then 0xFFFF else dataMask i c f)
      (lane := predLane i c f el) hgo.tags
    have hrun := run_lanesOut (gate := true) (g := g) (m := dataMask i c f) (nb := 1) (comp := if c.h.plane = 1 then 0xFFFF else dataMask i c f)
      (lane := predLane i c f el) hgo.tags hgo.covers hm (fun h => by cases h)
    unfold Fx.predicated
    by_cases hy : ¬(¬c.h.pmode = 0 ∧ dataMask i c f &&& g = 0) ∧
        traps c.h (raisedOf (if c.h.plane = 1 then 0xFFFF else dataMask i c f) (predLane i c f el)) = true
    · rw [if_pos hy] at hs ⊢
      rw [hs] at hrun
      erw [hs]
      exact hrun
    · rw [if_neg hy] at hs ⊢
      obtain ⟨p, hp⟩ := hs
      rw [hp] at hrun
      erw [hp]
      exact Fx.run_more hgo.covers hrun
  refine ⟨fun hp hgo => ?_, fun hp hgo => ?_, fun hp hgo => ?_⟩
  · have hpl : c.h.plane = 0 := by rw [hgo.fires.hdr, hh]; exact hp
    have hpo : planeOf i = 0 := by simp [planeOf, hh, hp]
    rw [hx]
    unfold predForm
    rw [gateForm_go hgo.fires hm']
    simp only [hpl, if_true, hd, hpo, linJ]
    exact run_scalarOut hpl hgo.tags hgo.covers
  · have hpl : c.h.plane = 1 := by rw [hgo.fires.hdr, hh]; exact hp
    have hpo : planeOf i = 1 := by simp [planeOf, hh, hp]
    exact key _ _ (by rw [hpl]; decide) (by simp [hpl]) hgo (by simp [hd, hpo, linJ])
  · have hpl : c.h.plane = 2 := by rw [hgo.fires.hdr, hh]; exact hp
    have hpo : planeOf i = 2 := by simp [planeOf, hh, hp]
    exact key _ _ (by rw [hpl]; decide) (by simp [hpl]) hgo (by simp [hd, hpo, linJ])

/-- Element-by-element forms compute element by element. -/
theorem elemForm_element {i : Instr} {f : FmtA} {el : Fx → Nat → Nat → Nat → Nat → LaneOut} {dS dV : Nat} (hx : exec i = elemForm i f el)
    (hh : i.hdr = f.h) (hS : f.h.plane = 0 → ∀ k, formDraw i k = dS) (hV : f.h.plane = 1 → ∀ k, formDraw i k = dV) : ElementForm i f dS dV el := by
  intro s c tg cl g hm
  constructor
  · intro hp hgo
    have hpl : c.h.plane = 0 := by rw [hgo.fires.hdr, hh]; exact hp
    rw [hx]
    unfold elemForm
    rw [gateForm_go hgo.fires hm]
    simp only [hpl, if_true, hS hp]
    exact run_scalarOut hpl hgo.tags hgo.covers
  · intro hp hgo
    have hpl : c.h.plane = 1 := by rw [hgo.fires.hdr, hh]; exact hp
    rw [hx]
    unfold elemForm
    rw [gateForm_go hgo.fires hm]
    simp only [hpl, hV hp]
    rw [if_neg (by decide)]
    refine run_lanesOut hgo.tags hgo.covers hm ?_
    intro hd
    have : thirdData i = true := by simpa using hd
    rw [this] at hm
    exact Fx.mode_data hm

/-- Forms with a jet meaning compute jet by jet on the J plane. -/
theorem jetForm_jet {i : Instr} {f : FmtA} {el : Fx → Nat → Nat → Nat → Nat → LaneOut} {jet : Fx → List Nat → List Nat → List Nat → LaneOut}
    {draw : Nat → Nat} (hx : exec i = jetForm i f el jet) (hh : i.hdr = f.h) (hJ : f.h.plane = 2 → ∀ k, formDraw i k = draw k) :
    JetForm i f draw jet := by
  intro s c tg cl g hp hm hgo
  have hpl : planeOf i = 2 := by
    unfold planeOf
    rw [hh, hp]
    rfl
  rw [hx]
  unfold jetForm
  rw [if_pos hpl, gateForm_go hgo.fires hm]
  simp only [hJ hp]
  refine run_lanesOut hgo.tags hgo.covers hm ?_
  intro hd
  have : thirdData i = true := by simpa using hd
  rw [this] at hm
  exact Fx.mode_data hm

/-- On the S and V planes a form with a jet meaning is an element form. -/
theorem jetForm_element {i : Instr} {f : FmtA} {el : Fx → Nat → Nat → Nat → Nat → LaneOut} {jet : Fx → List Nat → List Nat → List Nat → LaneOut}
    {dS dV : Nat} (hx : exec i = jetForm i f el jet) (hh : i.hdr = f.h) (hS : f.h.plane = 0 → ∀ k, formDraw i k = dS)
    (hV : f.h.plane = 1 → ∀ k, formDraw i k = dV) : ElementForm i f dS dV el := by
  by_cases hp : planeOf i = 2
  · have : f.h.plane = 2 := by
      unfold planeOf at hp
      rw [hh] at hp
      exact BitVec.eq_of_toNat_eq hp
    intro s c tg cl g hm
    rw [this]
    constructor <;> intro h <;> cases h
  · apply elemForm_element _ hh hS hV
    rw [hx]
    unfold jetForm
    funext s
    rw [if_neg hp]

open Sys2Proof.Bits in
theorem maskOf_congr {a b : Nat → Bool} (h : ∀ l, l < 16 → a l = b l) : maskOf a = maskOf b := by
  have e : ((List.range 16).map fun k => if a k then 2 ^ k else 0) = (List.range 16).map fun k => if b k then 2 ^ k else 0 := by
    apply List.map_congr_left
    intro k hk
    rw [h k (List.mem_range.1 hk)]
  exact congrArg (fun l => BitVec.ofNat 16 (total l)) e

/-- The draw of a LANE form. -/
theorem lane_draw {i : Instr} {f : FmtA} (hh : i.hdr = f.h) (hg : groupOf i = 9) (k : Nat) :
    formDraw i k = 24 * if f.h.plane = 2 then k + 1 else 1 := by
  by_cases hp : f.h.plane = 2
  · have : planeOf i = 2 := by simp [planeOf, hh, hp]
    simp [formDraw, hg, this, linJ, hp]
  · have : planeOf i ≠ 2 := by
      simp only [planeOf, hh]
      intro h
      exact hp (BitVec.eq_of_toNat_eq h)
    simp only [formDraw, hg, linJ, if_neg this, if_neg hp]

/-- The frame of the LANE forms is a gated one. -/
theorem laneForm_gated {i : Instr} {f : FmtA} {pat : Fx → Nat → Pick} {mask : Fx → BitVec 16} (hx : exec i = laneForm i f pat mask)
    (hh : i.hdr = f.h) (hg : groupOf i = 9) : GatedForm i (fun k => 24 * if f.h.plane = 2 then k + 1 else 1) (fun c => if f.h.plane = 2 then c.k + 1 else 1)
      (fun c j l => pickLane c f j (pat c l)) mask := by
  intro s c tg cl g hmo hgo
  rw [hx]
  unfold laneForm
  rw [gateForm_go hgo.fires hmo, lane_draw hh hg]
  have hpl : c.h.plane = f.h.plane := by rw [hgo.fires.hdr, hh]
  rw [hpl]
  exact run_gated hgo hmo

/-- A gated form with other, equal, lanes and mask. -/
theorem GatedForm.congr {i : Instr} {draw : Nat → Nat} {nb : Fx → Nat} {v v' : Fx → Nat → Nat → Lane} {m m' : Fx → BitVec 16} (h : GatedForm i draw nb v m)
    (hv : ∀ c j l, l < 16 → v c j l = v' c j l) (hm : ∀ c, m c = m' c) : GatedForm i draw nb v' m' := by
  intro s c tg cl g hmo hgo
  rw [h s c tg cl g hmo hgo, hm c]
  simp only [Fx.laned]
  have e : c.gatedBeats g (nb c) (v c) = c.gatedBeats g (nb c) (v' c) := by
    unfold Fx.gatedBeats
    apply List.map_congr_left
    intro j _
    apply mk_congr
    intro l hl
    rw [hv c j l hl]
  rw [e]

/-- An open LSID holder runs its own plan. -/
theorem memForm_open {i : Instr} {f : FmtM} {dp : Bool} {plan : Fx → BitVec 16 → Plan} {s : State} {c : Fx} {g : BitVec 16} (h : Fires i s c)
    (ho : MemOpen i f c dp g) : memForm i f dp plan s = c.run (plan c g) := by
  unfold memForm
  rw [fire_fires h]
  simp only [ho.live, if_false, ho.mode, ho.turn, Bool.false_eq_true]

/-- A field of a word as a quotient and a rest. -/
theorem field_eq {n : Nat} (x : BitVec n) (lo k : Nat) : Bits.field x lo k = x.toNat / 2 ^ lo % 2 ^ k := by
  simp [Bits.field, BitVec.extractLsb'_toNat, Nat.shiftRight_eq_div_pow]

end Sys2Proof.Machine
end

