-- ==== Sys2Proof/Laws/PerInstr.lean ====
section
/-! SUPPORT. The family Encoding: every form with every operand at every value is read back from its word; an event has no word. -/

namespace Sys2Proof
open Sys2Proof.Machine

/-- Decoding the word of an instruction form gives the form back, with every operand; an event has no word. -/
def Laws.Encoding.Statement (i : Instr) : Prop :=
  (isForm i = true → varFits i = true → ∃ w, encode i = some w ∧ decode w = .ok i) ∧ (isForm i = false → encode i = none)

theorem Laws.Encoding.ofA {i : Instr} {f : FmtA} {opc : Nat} (hb : i.body = .a f) (ho : i.opc = opc)
    (hd : varFits i = true → decode (wordA opc f) = .ok i) : Laws.Encoding.Statement i := by
  refine ⟨fun _ hv => ⟨wordA opc f, ?_, hd hv⟩, fun h => ?_⟩
  · simp only [encode, hb, ho]
  · simp [isForm, hb] at h

theorem Laws.Encoding.decodeA (opc : Nat) (f : FmtA) {i : Instr} (h : formA opc f = some i)
    (ho : 2 ≤ opc / 32 ∧ opc / 32 ≤ 9) (hl : opc < 1024) : decode (wordA opc f) = .ok i := by
  have e : opc % 1024 = opc := Nat.mod_eq_of_lt hl
  have h0 : ¬ opc / 32 = 0 := by omega
  have h1 : ¬ (opc / 32 = 1 ∨ opc / 32 = 10) := by omega
  have h9 : opc / 32 ≤ 9 := ho.2
  simp only [decode, opcOf_wordA, e, h0, if_false, Bool.or_eq_true, decide_eq_true_eq, h1, h9, if_true, wordA_low, decodeA_word, h, orUnassigned]

theorem Laws.Encoding.ofG {i : Instr} {f : FmtG} {opc : Nat} (hb : i.body = .g f) (ho : i.opc = opc)
    (hd : varFits i = true → decode (wordG opc f) = .ok i) : Laws.Encoding.Statement i := by
  refine ⟨fun _ hv => ⟨wordG opc f, ?_, hd hv⟩, fun h => ?_⟩
  · simp only [encode, hb, ho]
  · simp [isForm, hb] at h

theorem Laws.Encoding.decodeG (opc : Nat) (f : FmtG) {i : Instr} (h : formG opc f = some i)
    (ho : opc / 32 = 1 ∨ opc / 32 = 10) (hl : opc < 1024) : decode (wordG opc f) = .ok i := by
  have e : opc % 1024 = opc := Nat.mod_eq_of_lt hl
  have h0 : ¬ opc / 32 = 0 := by omega
  simp only [decode, opcOf_wordG, e, h0, if_false, Bool.or_eq_true, decide_eq_true_eq, ho, if_true, decodeG_word, h, orUnassigned]

theorem Laws.Encoding.ofB {i : Instr} {f : FmtB} {opc : Nat} (hb : i.body = .b f) (ho : i.opc = opc)
    (hd : varFits i = true → decode (wordB opc f) = .ok i) : Laws.Encoding.Statement i := by
  refine ⟨fun _ hv => ⟨wordB opc f, ?_, hd hv⟩, fun h => ?_⟩
  · simp only [encode, hb, ho]
  · simp [isForm, hb] at h

theorem Laws.Encoding.decodeB (opc : Nat) (f : FmtB) {i : Instr} (h : formB opc f = some i)
    (ho : opc / 32 = 0) (hl : opc < 1024) : decode (wordB opc f) = .ok i := by
  have e : opc % 1024 = opc := Nat.mod_eq_of_lt hl
  simp only [decode, opcOf_wordB, e, ho, if_true, wordB_low, decodeB_word, h, orUnassigned]

theorem Laws.Encoding.ofM {i : Instr} {f : FmtM} {opc : Nat} (hb : i.body = .m f) (ho : i.opc = opc)
    (hd : varFits i = true → decode (wordM opc f) = .ok i) : Laws.Encoding.Statement i := by
  refine ⟨fun _ hv => ⟨wordM opc f, ?_, hd hv⟩, fun h => ?_⟩
  · simp only [encode, hb, ho]
  · simp [isForm, hb] at h

theorem Laws.Encoding.decodeM (opc : Nat) (f : FmtM) {i : Instr} (h : formM opc f = some i)
    (ho : 12 ≤ opc / 32 ∧ opc / 32 ≤ 14) (hl : opc < 1024) : decode (wordM opc f) = .ok i := by
  have e : opc % 1024 = opc := Nat.mod_eq_of_lt hl
  have h0 : ¬ opc / 32 = 0 := by omega
  have h1 : ¬ (opc / 32 = 1 ∨ opc / 32 = 10) := by omega
  have h9 : ¬ opc / 32 ≤ 9 := by omega
  have h11 : ¬ opc / 32 = 11 := by omega
  have h14 : opc / 32 ≤ 14 := ho.2
  simp only [decode, opcOf_wordM, e, h0, if_false, Bool.or_eq_true, decide_eq_true_eq, h1, h9, h11, h14, if_true, decodeM_word, h, orUnassigned]

theorem Laws.Encoding.ofX {i : Instr} {f : FmtX} {opc : Nat} (hb : i.body = .x f) (ho : i.opc = opc)
    (hd : varFits i = true → decode (wordX opc f) = .ok i) : Laws.Encoding.Statement i := by
  refine ⟨fun _ hv => ⟨wordX opc f, ?_, hd hv⟩, fun h => ?_⟩
  · simp only [encode, hb, ho]
  · simp [isForm, hb] at h

theorem Laws.Encoding.decodeX (opc : Nat) (f : FmtX) {i : Instr} (h : formX opc f = some i)
    (ho : opc / 32 = 11) (hl : opc < 1024) : decode (wordX opc f) = .ok i := by
  have e : opc % 1024 = opc := Nat.mod_eq_of_lt hl
  simp [decode, opcOf_wordX, e, ho, decodeX_word, h, orUnassigned]

theorem Laws.Encoding.ofE {i : Instr} {f : FmtE} {opc : Nat} (hb : i.body = .e f) (ho : i.opc = opc)
    (hd : varFits i = true → decode (wordE opc f) = .ok i) : Laws.Encoding.Statement i := by
  refine ⟨fun _ hv => ⟨wordE opc f, ?_, hd hv⟩, fun h => ?_⟩
  · simp only [encode, hb, ho]
  · simp [isForm, hb] at h

theorem Laws.Encoding.decodeE (opc : Nat) (f : FmtE) {i : Instr} (h : formE opc f = some i)
    (ho : 15 ≤ opc / 32 ∧ opc / 32 ≤ 16) (hl : opc < 1024) : decode (wordE opc f) = .ok i := by
  have e : opc % 1024 = opc := Nat.mod_eq_of_lt hl
  have h0 : ¬ opc / 32 = 0 := by omega
  have h1 : ¬ (opc / 32 = 1 ∨ opc / 32 = 10) := by omega
  have h9 : ¬ opc / 32 ≤ 9 := by omega
  have h11 : ¬ opc / 32 = 11 := by omega
  have h14 : ¬ opc / 32 ≤ 14 := by omega
  have h16 : opc / 32 ≤ 16 := ho.2
  simp only [decode, opcOf_wordE, e, h0, if_false, Bool.or_eq_true, decide_eq_true_eq, h1, h9, h11, h14, h16, if_true, decodeE_word, h, orUnassigned]

theorem Laws.Encoding.ofY {i : Instr} {f : FmtY} {opc : Nat} (hb : i.body = .y f) (ho : i.opc = opc)
    (hd : varFits i = true → decode (wordY opc f) = .ok i) : Laws.Encoding.Statement i := by
  refine ⟨fun _ hv => ⟨wordY opc f, ?_, hd hv⟩, fun h => ?_⟩
  · simp only [encode, hb, ho]
  · simp [isForm, hb] at h

theorem Laws.Encoding.decodeY (opc : Nat) (f : FmtY) {i : Instr} (h : formY opc f = some i)
    (ho : opc / 32 = 17) (hl : opc < 1024) : decode (wordY opc f) = .ok i := by
  have e : opc % 1024 = opc := Nat.mod_eq_of_lt hl
  have h0 : ¬ opc / 32 = 0 := by omega
  have h1 : ¬ (opc / 32 = 1 ∨ opc / 32 = 10) := by omega
  have h9 : ¬ opc / 32 ≤ 9 := by omega
  have h11 : ¬ opc / 32 = 11 := by omega
  have h14 : ¬ opc / 32 ≤ 14 := by omega
  have h16 : ¬ opc / 32 ≤ 16 := by omega
  simp only [decode, opcOf_wordY, e, h0, if_false, Bool.or_eq_true, decide_eq_true_eq, h1, h9, h11, h14, h16, decodeY_word, h, orUnassigned]

theorem Laws.Encoding.powerOn (bad) : Laws.Encoding.Statement (.powerOn bad) :=
  ⟨fun h => Bool.noConfusion h, fun _ => rfl⟩
theorem Laws.Encoding.dawn (c bad) : Laws.Encoding.Statement (.dawn c bad) :=
  ⟨fun h => Bool.noConfusion h, fun _ => rfl⟩
theorem Laws.Encoding.noon (c force) : Laws.Encoding.Statement (.noon c force) :=
  ⟨fun h => Bool.noConfusion h, fun _ => rfl⟩
theorem Laws.Encoding.sync (c) : Laws.Encoding.Statement (.sync c) :=
  ⟨fun h => Bool.noConfusion h, fun _ => rfl⟩
theorem Laws.Encoding.part (c p w0 w1 w2) : Laws.Encoding.Statement (.part c p w0 w1 w2) :=
  ⟨fun h => Bool.noConfusion h, fun _ => rfl⟩
theorem Laws.Encoding.key (c p wrap) : Laws.Encoding.Statement (.key c p wrap) :=
  ⟨fun h => Bool.noConfusion h, fun _ => rfl⟩
theorem Laws.Encoding.rings (c p bases caps logCap mirBase mirLen partner) : Laws.Encoding.Statement (.rings c p bases caps logCap mirBase mirLen partner) :=
  ⟨fun h => Bool.noConfusion h, fun _ => rfl⟩
theorem Laws.Encoding.frames (c p asid fs) : Laws.Encoding.Statement (.frames c p asid fs) :=
  ⟨fun h => Bool.noConfusion h, fun _ => rfl⟩
theorem Laws.Encoding.quota (c p counter period) : Laws.Encoding.Statement (.quota c p counter period) :=
  ⟨fun h => Bool.noConfusion h, fun _ => rfl⟩
theorem Laws.Encoding.arenaCreate (c p asid id base size die) : Laws.Encoding.Statement (.arenaCreate c p asid id base size die) :=
  ⟨fun h => Bool.noConfusion h, fun _ => rfl⟩
theorem Laws.Encoding.arenaDestroy (c p asid id) : Laws.Encoding.Statement (.arenaDestroy c p asid id) :=
  ⟨fun h => Bool.noConfusion h, fun _ => rfl⟩
theorem Laws.Encoding.image (c p asid va bytes) : Laws.Encoding.Statement (.image c p asid va bytes) :=
  ⟨fun h => Bool.noConfusion h, fun _ => rfl⟩
theorem Laws.Encoding.fwin (c die win w0 w1 w2 w3) : Laws.Encoding.Statement (.fwin c die win w0 w1 w2 w3) :=
  ⟨fun h => Bool.noConfusion h, fun _ => rfl⟩
theorem Laws.Encoding.enqueue (c p queue record va) : Laws.Encoding.Statement (.enqueue c p queue record va) :=
  ⟨fun h => Bool.noConfusion h, fun _ => rfl⟩
theorem Laws.Encoding.cancel (c p byVa x) : Laws.Encoding.Statement (.cancel c p byVa x) :=
  ⟨fun h => Bool.noConfusion h, fun _ => rfl⟩
theorem Laws.Encoding.logfetch (c p first count) : Laws.Encoding.Statement (.logfetch c p first count) :=
  ⟨fun h => Bool.noConfusion h, fun _ => rfl⟩
theorem Laws.Encoding.logack (c p n) : Laws.Encoding.Statement (.logack c p n) :=
  ⟨fun h => Bool.noConfusion h, fun _ => rfl⟩
theorem Laws.Encoding.sign (c p) : Laws.Encoding.Statement (.sign c p) :=
  ⟨fun h => Bool.noConfusion h, fun _ => rfl⟩
theorem Laws.Encoding.msgfetch (c p) : Laws.Encoding.Statement (.msgfetch c p) :=
  ⟨fun h => Bool.noConfusion h, fun _ => rfl⟩
theorem Laws.Encoding.health (c) : Laws.Encoding.Statement (.health c) :=
  ⟨fun h => Bool.noConfusion h, fun _ => rfl⟩
theorem Laws.Encoding.monitor (c first count) : Laws.Encoding.Statement (.monitor c first count) :=
  ⟨fun h => Bool.noConfusion h, fun _ => rfl⟩
theorem Laws.Encoding.identity (c) : Laws.Encoding.Statement (.identity c) :=
  ⟨fun h => Bool.noConfusion h, fun _ => rfl⟩
theorem Laws.Encoding.debugResume (c p node) : Laws.Encoding.Statement (.debugResume c p node) :=
  ⟨fun h => Bool.noConfusion h, fun _ => rfl⟩
theorem Laws.Encoding.debugSuspend (c p node) : Laws.Encoding.Statement (.debugSuspend c p node) :=
  ⟨fun h => Bool.noConfusion h, fun _ => rfl⟩
theorem Laws.Encoding.fwupdate (c image) : Laws.Encoding.Statement (.fwupdate c image) :=
  ⟨fun h => Bool.noConfusion h, fun _ => rfl⟩
theorem Laws.Encoding.nonRodPacket : Laws.Encoding.Statement .nonRodPacket :=
  ⟨fun h => Bool.noConfusion h, fun _ => rfl⟩
theorem Laws.Encoding.br (f : FmtB) : Laws.Encoding.Statement (.br f) := ofB rfl rfl fun _ => decodeB 0x000 f rfl (by decide) (by decide)
theorem Laws.Encoding.bri (f : FmtB) : Laws.Encoding.Statement (.bri f) := ofB rfl rfl fun _ => decodeB 0x001 f rfl (by decide) (by decide)
theorem Laws.Encoding.call (f : FmtB) : Laws.Encoding.Statement (.call f) := ofB rfl rfl fun _ => decodeB 0x002 f rfl (by decide) (by decide)
theorem Laws.Encoding.calli (f : FmtB) : Laws.Encoding.Statement (.calli f) := ofB rfl rfl fun _ => decodeB 0x003 f rfl (by decide) (by decide)
theorem Laws.Encoding.ret (f : FmtB) : Laws.Encoding.Statement (.ret f) := ofB rfl rfl fun _ => decodeB 0x004 f rfl (by decide) (by decide)
theorem Laws.Encoding.halt (f : FmtB) : Laws.Encoding.Statement (.halt f) := ofB rfl rfl fun _ => decodeB 0x005 f rfl (by decide) (by decide)
theorem Laws.Encoding.mov (f : FmtG) : Laws.Encoding.Statement (.mov f) := ofG rfl rfl fun _ => decodeG 0x020 f rfl (by decide) (by decide)
theorem Laws.Encoding.const (f : FmtG) : Laws.Encoding.Statement (.const f) := ofG rfl rfl fun _ => decodeG 0x021 f rfl (by decide) (by decide)
theorem Laws.Encoding.lenter (f : FmtG) : Laws.Encoding.Statement (.lenter f) := ofG rfl rfl fun _ => decodeG 0x022 f rfl (by decide) (by decide)
theorem Laws.Encoding.inext (f : FmtG) : Laws.Encoding.Statement (.inext f) := ofG rfl rfl fun _ => decodeG 0x023 f rfl (by decide) (by decide)
theorem Laws.Encoding.iprev (f : FmtG) : Laws.Encoding.Statement (.iprev f) := ofG rfl rfl fun _ => decodeG 0x024 f rfl (by decide) (by decide)
theorem Laws.Encoding.lexit (f : FmtG) : Laws.Encoding.Statement (.lexit f) := ofG rfl rfl fun _ => decodeG 0x025 f rfl (by decide) (by decide)
theorem Laws.Encoding.talloc (f : FmtG) : Laws.Encoding.Statement (.talloc f) := ofG rfl rfl fun _ => decodeG 0x026 f rfl (by decide) (by decide)
theorem Laws.Encoding.tfree (f : FmtG) : Laws.Encoding.Statement (.tfree f) := ofG rfl rfl fun _ => decodeG 0x027 f rfl (by decide) (by decide)
theorem Laws.Encoding.spawn (f : FmtG) : Laws.Encoding.Statement (.spawn f) := ofG rfl rfl fun _ => decodeG 0x028 f rfl (by decide) (by decide)
theorem Laws.Encoding.join (f : FmtG) : Laws.Encoding.Statement (.join f) := ofG rfl rfl fun _ => decodeG 0x029 f rfl (by decide) (by decide)
theorem Laws.Encoding.getg (f : FmtG) : Laws.Encoding.Statement (.getg f) := ofG rfl rfl fun _ => decodeG 0x02A f rfl (by decide) (by decide)
theorem Laws.Encoding.putg (f : FmtG) : Laws.Encoding.Statement (.putg f) := ofG rfl rfl fun _ => decodeG 0x02B f rfl (by decide) (by decide)
theorem Laws.Encoding.empty (f : FmtG) : Laws.Encoding.Statement (.empty f) := ofG rfl rfl fun _ => decodeG 0x02C f rfl (by decide) (by decide)
theorem Laws.Encoding.null (f : FmtG) : Laws.Encoding.Statement (.null f) := ofG rfl rfl fun _ => decodeG 0x02D f rfl (by decide) (by decide)
theorem Laws.Encoding.cmp (f : FmtA) : Laws.Encoding.Statement (.cmp f) := ofA rfl rfl fun _ => decodeA 0x040 f rfl (by decide) (by decide)
theorem Laws.Encoding.fcmp (f : FmtA) : Laws.Encoding.Statement (.fcmp f) := ofA rfl rfl fun _ => decodeA 0x041 f rfl (by decide) (by decide)
theorem Laws.Encoding.pand (f : FmtA) : Laws.Encoding.Statement (.pand f) := ofA rfl rfl fun _ => decodeA 0x042 f rfl (by decide) (by decide)
theorem Laws.Encoding.por (f : FmtA) : Laws.Encoding.Statement (.por f) := ofA rfl rfl fun _ => decodeA 0x043 f rfl (by decide) (by decide)
theorem Laws.Encoding.pxor (f : FmtA) : Laws.Encoding.Statement (.pxor f) := ofA rfl rfl fun _ => decodeA 0x044 f rfl (by decide) (by decide)
theorem Laws.Encoding.pnot (f : FmtA) : Laws.Encoding.Statement (.pnot f) := ofA rfl rfl fun _ => decodeA 0x045 f rfl (by decide) (by decide)
theorem Laws.Encoding.any (f : FmtA) : Laws.Encoding.Statement (.any f) := ofA rfl rfl fun _ => decodeA 0x046 f rfl (by decide) (by decide)
theorem Laws.Encoding.all (f : FmtA) : Laws.Encoding.Statement (.all f) := ofA rfl rfl fun _ => decodeA 0x047 f rfl (by decide) (by decide)
theorem Laws.Encoding.maskn (f : FmtA) : Laws.Encoding.Statement (.maskn f) := ofA rfl rfl fun _ => decodeA 0x048 f rfl (by decide) (by decide)
theorem Laws.Encoding.sel (f : FmtA) : Laws.Encoding.Statement (.sel f) := ofA rfl rfl fun _ => decodeA 0x049 f rfl (by decide) (by decide)
theorem Laws.Encoding.add (f : FmtA) : Laws.Encoding.Statement (.add f) := ofA rfl rfl fun _ => decodeA 0x060 f rfl (by decide) (by decide)
theorem Laws.Encoding.sub (f : FmtA) : Laws.Encoding.Statement (.sub f) := ofA rfl rfl fun _ => decodeA 0x061 f rfl (by decide) (by decide)
theorem Laws.Encoding.mul (f : FmtA) : Laws.Encoding.Statement (.mul f) := ofA rfl rfl fun _ => decodeA 0x062 f rfl (by decide) (by decide)
theorem Laws.Encoding.mulh (f : FmtA) : Laws.Encoding.Statement (.mulh f) := ofA rfl rfl fun _ => decodeA 0x063 f rfl (by decide) (by decide)
theorem Laws.Encoding.div (f : FmtA) : Laws.Encoding.Statement (.div f) := ofA rfl rfl fun _ => decodeA 0x064 f rfl (by decide) (by decide)
theorem Laws.Encoding.rem (f : FmtA) : Laws.Encoding.Statement (.rem f) := ofA rfl rfl fun _ => decodeA 0x065 f rfl (by decide) (by decide)
theorem Laws.Encoding.neg (f : FmtA) : Laws.Encoding.Statement (.neg f) := ofA rfl rfl fun _ => decodeA 0x066 f rfl (by decide) (by decide)
theorem Laws.Encoding.abs (f : FmtA) : Laws.Encoding.Statement (.abs f) := ofA rfl rfl fun _ => decodeA 0x067 f rfl (by decide) (by decide)
theorem Laws.Encoding.min (f : FmtA) : Laws.Encoding.Statement (.min f) := ofA rfl rfl fun _ => decodeA 0x068 f rfl (by decide) (by decide)
theorem Laws.Encoding.max (f : FmtA) : Laws.Encoding.Statement (.max f) := ofA rfl rfl fun _ => decodeA 0x069 f rfl (by decide) (by decide)
theorem Laws.Encoding.madd (f : FmtA) : Laws.Encoding.Statement (.madd f) := ofA rfl rfl fun _ => decodeA 0x06A f rfl (by decide) (by decide)
theorem Laws.Encoding.dot4 (f : FmtA) : Laws.Encoding.Statement (.dot4 f) := ofA rfl rfl fun _ => decodeA 0x06B f rfl (by decide) (by decide)
theorem Laws.Encoding.lea (f : FmtA) : Laws.Encoding.Statement (.lea f) := ofA rfl rfl fun _ => decodeA 0x06C f rfl (by decide) (by decide)
theorem Laws.Encoding.and (f : FmtA) : Laws.Encoding.Statement (.and f) := ofA rfl rfl fun _ => decodeA 0x080 f rfl (by decide) (by decide)
theorem Laws.Encoding.or (f : FmtA) : Laws.Encoding.Statement (.or f) := ofA rfl rfl fun _ => decodeA 0x081 f rfl (by decide) (by decide)
theorem Laws.Encoding.xor (f : FmtA) : Laws.Encoding.Statement (.xor f) := ofA rfl rfl fun _ => decodeA 0x082 f rfl (by decide) (by decide)
theorem Laws.Encoding.andn (f : FmtA) : Laws.Encoding.Statement (.andn f) := ofA rfl rfl fun _ => decodeA 0x083 f rfl (by decide) (by decide)
theorem Laws.Encoding.not (f : FmtA) : Laws.Encoding.Statement (.not f) := ofA rfl rfl fun _ => decodeA 0x084 f rfl (by decide) (by decide)
theorem Laws.Encoding.shl (f : FmtA) : Laws.Encoding.Statement (.shl f) := ofA rfl rfl fun _ => decodeA 0x085 f rfl (by decide) (by decide)
theorem Laws.Encoding.shr (f : FmtA) : Laws.Encoding.Statement (.shr f) := ofA rfl rfl fun _ => decodeA 0x086 f rfl (by decide) (by decide)
theorem Laws.Encoding.sar (f : FmtA) : Laws.Encoding.Statement (.sar f) := ofA rfl rfl fun _ => decodeA 0x087 f rfl (by decide) (by decide)
theorem Laws.Encoding.rol (f : FmtA) : Laws.Encoding.Statement (.rol f) := ofA rfl rfl fun _ => decodeA 0x088 f rfl (by decide) (by decide)
theorem Laws.Encoding.clz (f : FmtA) : Laws.Encoding.Statement (.clz f) := ofA rfl rfl fun _ => decodeA 0x089 f rfl (by decide) (by decide)
theorem Laws.Encoding.popc (f : FmtA) : Laws.Encoding.Statement (.popc f) := ofA rfl rfl fun _ => decodeA 0x08A f rfl (by decide) (by decide)
theorem Laws.Encoding.brev (f : FmtA) : Laws.Encoding.Statement (.brev f) := ofA rfl rfl fun _ => decodeA 0x08B f rfl (by decide) (by decide)
theorem Laws.Encoding.bfx (f : FmtA) : Laws.Encoding.Statement (.bfx f) := ofA rfl rfl fun _ => decodeA 0x08C f rfl (by decide) (by decide)
theorem Laws.Encoding.bfi (f : FmtA) : Laws.Encoding.Statement (.bfi f) := ofA rfl rfl fun _ => decodeA 0x08D f rfl (by decide) (by decide)
theorem Laws.Encoding.sext (f : FmtA) : Laws.Encoding.Statement (.sext f) := ofA rfl rfl fun _ => decodeA 0x08E f rfl (by decide) (by decide)
theorem Laws.Encoding.zext (f : FmtA) : Laws.Encoding.Statement (.zext f) := ofA rfl rfl fun _ => decodeA 0x08F f rfl (by decide) (by decide)
theorem Laws.Encoding.fadd (f : FmtA) : Laws.Encoding.Statement (.fadd f) := ofA rfl rfl fun _ => decodeA 0x0A0 f rfl (by decide) (by decide)
theorem Laws.Encoding.fsub (f : FmtA) : Laws.Encoding.Statement (.fsub f) := ofA rfl rfl fun _ => decodeA 0x0A1 f rfl (by decide) (by decide)
theorem Laws.Encoding.fmul (f : FmtA) : Laws.Encoding.Statement (.fmul f) := ofA rfl rfl fun _ => decodeA 0x0A2 f rfl (by decide) (by decide)
theorem Laws.Encoding.fma (f : FmtA) : Laws.Encoding.Statement (.fma f) := ofA rfl rfl fun _ => decodeA 0x0A3 f rfl (by decide) (by decide)
theorem Laws.Encoding.fnma (f : FmtA) : Laws.Encoding.Statement (.fnma f) := ofA rfl rfl fun _ => decodeA 0x0A4 f rfl (by decide) (by decide)
theorem Laws.Encoding.fdiv (f : FmtA) : Laws.Encoding.Statement (.fdiv f) := ofA rfl rfl fun _ => decodeA 0x0A5 f rfl (by decide) (by decide)
theorem Laws.Encoding.fsqrt (f : FmtA) : Laws.Encoding.Statement (.fsqrt f) := ofA rfl rfl fun _ => decodeA 0x0A6 f rfl (by decide) (by decide)
theorem Laws.Encoding.frsqrt (f : FmtA) : Laws.Encoding.Statement (.frsqrt f) := ofA rfl rfl fun _ => decodeA 0x0A7 f rfl (by decide) (by decide)
theorem Laws.Encoding.frcp (f : FmtA) : Laws.Encoding.Statement (.frcp f) := ofA rfl rfl fun _ => decodeA 0x0A8 f rfl (by decide) (by decide)
theorem Laws.Encoding.fmin (f : FmtA) : Laws.Encoding.Statement (.fmin f) := ofA rfl rfl fun _ => decodeA 0x0A9 f rfl (by decide) (by decide)
theorem Laws.Encoding.fmax (f : FmtA) : Laws.Encoding.Statement (.fmax f) := ofA rfl rfl fun _ => decodeA 0x0AA f rfl (by decide) (by decide)
theorem Laws.Encoding.fabs (f : FmtA) : Laws.Encoding.Statement (.fabs f) := ofA rfl rfl fun _ => decodeA 0x0AB f rfl (by decide) (by decide)
theorem Laws.Encoding.fneg (f : FmtA) : Laws.Encoding.Statement (.fneg f) := ofA rfl rfl fun _ => decodeA 0x0AC f rfl (by decide) (by decide)
theorem Laws.Encoding.fcpys (f : FmtA) : Laws.Encoding.Statement (.fcpys f) := ofA rfl rfl fun _ => decodeA 0x0AD f rfl (by decide) (by decide)
theorem Laws.Encoding.fclass (f : FmtA) : Laws.Encoding.Statement (.fclass f) := ofA rfl rfl fun _ => decodeA 0x0AE f rfl (by decide) (by decide)
theorem Laws.Encoding.frint (f : FmtA) : Laws.Encoding.Statement (.frint f) := ofA rfl rfl fun _ => decodeA 0x0AF f rfl (by decide) (by decide)
theorem Laws.Encoding.fscale (f : FmtA) : Laws.Encoding.Statement (.fscale f) := ofA rfl rfl fun _ => decodeA 0x0B0 f rfl (by decide) (by decide)
theorem Laws.Encoding.fexp (f : FmtA) : Laws.Encoding.Statement (.fexp f) := ofA rfl rfl fun _ => decodeA 0x0C0 f rfl (by decide) (by decide)
theorem Laws.Encoding.fexp2 (f : FmtA) : Laws.Encoding.Statement (.fexp2 f) := ofA rfl rfl fun _ => decodeA 0x0C1 f rfl (by decide) (by decide)
theorem Laws.Encoding.flog (f : FmtA) : Laws.Encoding.Statement (.flog f) := ofA rfl rfl fun _ => decodeA 0x0C2 f rfl (by decide) (by decide)
theorem Laws.Encoding.flog2 (f : FmtA) : Laws.Encoding.Statement (.flog2 f) := ofA rfl rfl fun _ => decodeA 0x0C3 f rfl (by decide) (by decide)
theorem Laws.Encoding.fsin (f : FmtA) : Laws.Encoding.Statement (.fsin f) := ofA rfl rfl fun _ => decodeA 0x0C4 f rfl (by decide) (by decide)
theorem Laws.Encoding.fcos (f : FmtA) : Laws.Encoding.Statement (.fcos f) := ofA rfl rfl fun _ => decodeA 0x0C5 f rfl (by decide) (by decide)
theorem Laws.Encoding.ftanh (f : FmtA) : Laws.Encoding.Statement (.ftanh f) := ofA rfl rfl fun _ => decodeA 0x0C6 f rfl (by decide) (by decide)
theorem Laws.Encoding.flgst (f : FmtA) : Laws.Encoding.Statement (.flgst f) := ofA rfl rfl fun _ => decodeA 0x0C7 f rfl (by decide) (by decide)
theorem Laws.Encoding.ferf (f : FmtA) : Laws.Encoding.Statement (.ferf f) := ofA rfl rfl fun _ => decodeA 0x0C8 f rfl (by decide) (by decide)
theorem Laws.Encoding.cvt (f : FmtA) : Laws.Encoding.Statement (.cvt f) := ofA rfl rfl fun _ => decodeA 0x0E0 f rfl (by decide) (by decide)
theorem Laws.Encoding.cvtsr (f : FmtA) : Laws.Encoding.Statement (.cvtsr f) := ofA rfl rfl fun _ => decodeA 0x0E1 f rfl (by decide) (by decide)
theorem Laws.Encoding.rng (f : FmtA) : Laws.Encoding.Statement (.rng f) := ofA rfl rfl fun _ => decodeA 0x0E2 f rfl (by decide) (by decide)
theorem Laws.Encoding.pack4 (f : FmtA) : Laws.Encoding.Statement (.pack4 f) := ofA rfl rfl fun _ => decodeA 0x0E3 f rfl (by decide) (by decide)
theorem Laws.Encoding.unpk4 (f : FmtA) : Laws.Encoding.Statement (.unpk4 f) := ofA rfl rfl fun _ => decodeA 0x0E4 f rfl (by decide) (by decide)
theorem Laws.Encoding.jord (f : FmtA) : Laws.Encoding.Statement (.jord f) :=
  ofA rfl rfl fun hv => decodeA 0x100 f (by
    simp only [varFits, Bool.not_eq_true', decide_eq_true_eq, decide_eq_false_iff_not] at hv
    simp only [formA, hv, if_true, if_false]) (by decide) (by decide)
theorem Laws.Encoding.jordSet (f : FmtA) : Laws.Encoding.Statement (.jordSet f) :=
  ofA rfl rfl fun hv => decodeA 0x100 f (by
    simp only [varFits, Bool.not_eq_true', decide_eq_true_eq, decide_eq_false_iff_not] at hv
    simp only [formA, hv, if_true, if_false]) (by decide) (by decide)
theorem Laws.Encoding.jseed (f : FmtA) : Laws.Encoding.Statement (.jseed f) := ofA rfl rfl fun _ => decodeA 0x101 f rfl (by decide) (by decide)
theorem Laws.Encoding.jcoef (f : FmtA) : Laws.Encoding.Statement (.jcoef f) := ofA rfl rfl fun _ => decodeA 0x102 f rfl (by decide) (by decide)
theorem Laws.Encoding.jsetc (f : FmtA) : Laws.Encoding.Statement (.jsetc f) := ofA rfl rfl fun _ => decodeA 0x103 f rfl (by decide) (by decide)
theorem Laws.Encoding.jdiff (f : FmtA) : Laws.Encoding.Statement (.jdiff f) := ofA rfl rfl fun _ => decodeA 0x104 f rfl (by decide) (by decide)
theorem Laws.Encoding.jintg (f : FmtA) : Laws.Encoding.Statement (.jintg f) := ofA rfl rfl fun _ => decodeA 0x105 f rfl (by decide) (by decide)
theorem Laws.Encoding.jtrunc (f : FmtA) : Laws.Encoding.Statement (.jtrunc f) := ofA rfl rfl fun _ => decodeA 0x106 f rfl (by decide) (by decide)
theorem Laws.Encoding.jeval (f : FmtA) : Laws.Encoding.Statement (.jeval f) := ofA rfl rfl fun _ => decodeA 0x107 f rfl (by decide) (by decide)
theorem Laws.Encoding.jflag (f : FmtA) : Laws.Encoding.Statement (.jflag f) :=
  ofA rfl rfl fun hv => decodeA 0x108 f (by
    simp only [varFits, Bool.not_eq_true', decide_eq_true_eq, decide_eq_false_iff_not] at hv
    simp only [formA, hv, if_true, if_false]) (by decide) (by decide)
theorem Laws.Encoding.jflagClr (f : FmtA) : Laws.Encoding.Statement (.jflagClr f) :=
  ofA rfl rfl fun hv => decodeA 0x108 f (by
    simp only [varFits, Bool.not_eq_true', decide_eq_true_eq, decide_eq_false_iff_not] at hv
    simp only [formA, hv, if_true, if_false]) (by decide) (by decide)
theorem Laws.Encoding.repl (f : FmtA) : Laws.Encoding.Statement (.repl f) := ofA rfl rfl fun _ => decodeA 0x120 f rfl (by decide) (by decide)
theorem Laws.Encoding.lane (f : FmtA) : Laws.Encoding.Statement (.lane f) := ofA rfl rfl fun _ => decodeA 0x121 f rfl (by decide) (by decide)
theorem Laws.Encoding.insl (f : FmtA) : Laws.Encoding.Statement (.insl f) := ofA rfl rfl fun _ => decodeA 0x122 f rfl (by decide) (by decide)
theorem Laws.Encoding.perm (f : FmtA) : Laws.Encoding.Statement (.perm f) := ofA rfl rfl fun _ => decodeA 0x123 f rfl (by decide) (by decide)
theorem Laws.Encoding.shuf (f : FmtA) : Laws.Encoding.Statement (.shuf f) := ofA rfl rfl fun _ => decodeA 0x124 f rfl (by decide) (by decide)
theorem Laws.Encoding.rotl (f : FmtA) : Laws.Encoding.Statement (.rotl f) := ofA rfl rfl fun _ => decodeA 0x125 f rfl (by decide) (by decide)
theorem Laws.Encoding.slide (f : FmtA) : Laws.Encoding.Statement (.slide f) := ofA rfl rfl fun _ => decodeA 0x126 f rfl (by decide) (by decide)
theorem Laws.Encoding.zip (f : FmtA) : Laws.Encoding.Statement (.zip f) := ofA rfl rfl fun _ => decodeA 0x127 f rfl (by decide) (by decide)
theorem Laws.Encoding.unzip (f : FmtA) : Laws.Encoding.Statement (.unzip f) := ofA rfl rfl fun _ => decodeA 0x128 f rfl (by decide) (by decide)
theorem Laws.Encoding.iota (f : FmtA) : Laws.Encoding.Statement (.iota f) := ofA rfl rfl fun _ => decodeA 0x129 f rfl (by decide) (by decide)
theorem Laws.Encoding.red (f : FmtG) : Laws.Encoding.Statement (.red f) := ofG rfl rfl fun _ => decodeG 0x140 f rfl (by decide) (by decide)
theorem Laws.Encoding.scan (f : FmtG) : Laws.Encoding.Statement (.scan f) := ofG rfl rfl fun _ => decodeG 0x141 f rfl (by decide) (by decide)
theorem Laws.Encoding.accum (f : FmtG) : Laws.Encoding.Statement (.accum f) := ofG rfl rfl fun _ => decodeG 0x142 f rfl (by decide) (by decide)
theorem Laws.Encoding.filter (f : FmtG) : Laws.Encoding.Statement (.filter f) := ofG rfl rfl fun _ => decodeG 0x143 f rfl (by decide) (by decide)
theorem Laws.Encoding.compact (f : FmtG) : Laws.Encoding.Statement (.compact f) := ofG rfl rfl fun _ => decodeG 0x144 f rfl (by decide) (by decide)
theorem Laws.Encoding.steer (f : FmtG) : Laws.Encoding.Statement (.steer f) := ofG rfl rfl fun _ => decodeG 0x145 f rfl (by decide) (by decide)
theorem Laws.Encoding.merge (f : FmtG) : Laws.Encoding.Statement (.merge f) := ofG rfl rfl fun _ => decodeG 0x146 f rfl (by decide) (by decide)
theorem Laws.Encoding.mmat (f : FmtX) : Laws.Encoding.Statement (.mmat f) := ofX rfl rfl fun _ => decodeX 0x160 f rfl (by decide) (by decide)
theorem Laws.Encoding.tfetch (f : FmtX) : Laws.Encoding.Statement (.tfetch f) := ofX rfl rfl fun _ => decodeX 0x161 f rfl (by decide) (by decide)
theorem Laws.Encoding.accclr (f : FmtX) : Laws.Encoding.Statement (.accclr f) := ofX rfl rfl fun _ => decodeX 0x162 f rfl (by decide) (by decide)
theorem Laws.Encoding.accarm (f : FmtX) : Laws.Encoding.Statement (.accarm f) := ofX rfl rfl fun _ => decodeX 0x163 f rfl (by decide) (by decide)
theorem Laws.Encoding.accrel (f : FmtX) : Laws.Encoding.Statement (.accrel f) := ofX rfl rfl fun _ => decodeX 0x164 f rfl (by decide) (by decide)
theorem Laws.Encoding.accrd (f : FmtX) : Laws.Encoding.Statement (.accrd f) := ofX rfl rfl fun _ => decodeX 0x165 f rfl (by decide) (by decide)
theorem Laws.Encoding.accchk (f : FmtX) : Laws.Encoding.Statement (.accchk f) := ofX rfl rfl fun _ => decodeX 0x166 f rfl (by decide) (by decide)
theorem Laws.Encoding.mtrans (f : FmtX) : Laws.Encoding.Statement (.mtrans f) := ofX rfl rfl fun _ => decodeX 0x167 f rfl (by decide) (by decide)
theorem Laws.Encoding.ld (f : FmtM) : Laws.Encoding.Statement (.ld f) := ofM rfl rfl fun _ => decodeM 0x180 f rfl (by decide) (by decide)
theorem Laws.Encoding.lds (f : FmtM) : Laws.Encoding.Statement (.lds f) := ofM rfl rfl fun _ => decodeM 0x181 f rfl (by decide) (by decide)
theorem Laws.Encoding.ldg (f : FmtM) : Laws.Encoding.Statement (.ldg f) := ofM rfl rfl fun _ => decodeM 0x182 f rfl (by decide) (by decide)
theorem Laws.Encoding.st (f : FmtM) : Laws.Encoding.Statement (.st f) := ofM rfl rfl fun _ => decodeM 0x183 f rfl (by decide) (by decide)
theorem Laws.Encoding.sts (f : FmtM) : Laws.Encoding.Statement (.sts f) := ofM rfl rfl fun _ => decodeM 0x184 f rfl (by decide) (by decide)
theorem Laws.Encoding.stg (f : FmtM) : Laws.Encoding.Statement (.stg f) := ofM rfl rfl fun _ => decodeM 0x185 f rfl (by decide) (by decide)
theorem Laws.Encoding.ldsp (f : FmtM) : Laws.Encoding.Statement (.ldsp f) := ofM rfl rfl fun _ => decodeM 0x186 f rfl (by decide) (by decide)
theorem Laws.Encoding.stsp (f : FmtM) : Laws.Encoding.Statement (.stsp f) := ofM rfl rfl fun _ => decodeM 0x187 f rfl (by decide) (by decide)
theorem Laws.Encoding.pref (f : FmtM) : Laws.Encoding.Statement (.pref f) := ofM rfl rfl fun _ => decodeM 0x188 f rfl (by decide) (by decide)
theorem Laws.Encoding.nullst (f : FmtM) : Laws.Encoding.Statement (.nullst f) := ofM rfl rfl fun _ => decodeM 0x189 f rfl (by decide) (by decide)
theorem Laws.Encoding.l1inv (f : FmtM) : Laws.Encoding.Statement (.l1inv f) := ofM rfl rfl fun _ => decodeM 0x18A f rfl (by decide) (by decide)
theorem Laws.Encoding.fence (f : FmtM) : Laws.Encoding.Statement (.fence f) := ofM rfl rfl fun _ => decodeM 0x18B f rfl (by decide) (by decide)
theorem Laws.Encoding.ldv (f : FmtM) : Laws.Encoding.Statement (.ldv f) := ofM rfl rfl fun _ => decodeM 0x1A0 f rfl (by decide) (by decide)
theorem Laws.Encoding.stv (f : FmtM) : Laws.Encoding.Statement (.stv f) := ofM rfl rfl fun _ => decodeM 0x1A1 f rfl (by decide) (by decide)
theorem Laws.Encoding.reclaim (f : FmtM) : Laws.Encoding.Statement (.reclaim f) := ofM rfl rfl fun _ => decodeM 0x1A2 f rfl (by decide) (by decide)
theorem Laws.Encoding.atom (f : FmtM) : Laws.Encoding.Statement (.atom f) := ofM rfl rfl fun _ => decodeM 0x1A3 f rfl (by decide) (by decide)
theorem Laws.Encoding.cas (f : FmtM) : Laws.Encoding.Statement (.cas f) := ofM rfl rfl fun _ => decodeM 0x1A4 f rfl (by decide) (by decide)
theorem Laws.Encoding.reinmk (f : FmtM) : Laws.Encoding.Statement (.reinmk f) := ofM rfl rfl fun _ => decodeM 0x1C0 f rfl (by decide) (by decide)
theorem Laws.Encoding.reindup (f : FmtM) : Laws.Encoding.Statement (.reindup f) := ofM rfl rfl fun _ => decodeM 0x1C1 f rfl (by decide) (by decide)
theorem Laws.Encoding.reinspl (f : FmtM) : Laws.Encoding.Statement (.reinspl f) := ofM rfl rfl fun _ => decodeM 0x1C2 f rfl (by decide) (by decide)
theorem Laws.Encoding.reinnar (f : FmtM) : Laws.Encoding.Statement (.reinnar f) := ofM rfl rfl fun _ => decodeM 0x1C3 f rfl (by decide) (by decide)
theorem Laws.Encoding.reindrop (f : FmtM) : Laws.Encoding.Statement (.reindrop f) := ofM rfl rfl fun _ => decodeM 0x1C4 f rfl (by decide) (by decide)
theorem Laws.Encoding.reinq (f : FmtM) : Laws.Encoding.Statement (.reinq f) := ofM rfl rfl fun _ => decodeM 0x1C5 f rfl (by decide) (by decide)
theorem Laws.Encoding.reinsend (f : FmtM) : Laws.Encoding.Statement (.reinsend f) := ofM rfl rfl fun _ => decodeM 0x1C6 f rfl (by decide) (by decide)
theorem Laws.Encoding.copy (f : FmtE) : Laws.Encoding.Statement (.copy f) := ofE rfl rfl fun _ => decodeE 0x1E0 f rfl (by decide) (by decide)
theorem Laws.Encoding.wpwait (f : FmtE) : Laws.Encoding.Statement (.wpwait f) := ofE rfl rfl fun _ => decodeE 0x1E1 f rfl (by decide) (by decide)
theorem Laws.Encoding.wprd (f : FmtE) : Laws.Encoding.Statement (.wprd f) := ofE rfl rfl fun _ => decodeE 0x1E2 f rfl (by decide) (by decide)
theorem Laws.Encoding.gather (f : FmtE) : Laws.Encoding.Statement (.gather f) := ofE rfl rfl fun _ => decodeE 0x1E3 f rfl (by decide) (by decide)
theorem Laws.Encoding.coll (f : FmtE) : Laws.Encoding.Statement (.coll f) := ofE rfl rfl fun _ => decodeE 0x1E4 f rfl (by decide) (by decide)
theorem Laws.Encoding.topk (f : FmtE) : Laws.Encoding.Statement (.topk f) := ofE rfl rfl fun _ => decodeE 0x1E5 f rfl (by decide) (by decide)
theorem Laws.Encoding.cwait (f : FmtE) : Laws.Encoding.Statement (.cwait f) := ofE rfl rfl fun _ => decodeE 0x1E6 f rfl (by decide) (by decide)
theorem Laws.Encoding.cstat (f : FmtE) : Laws.Encoding.Statement (.cstat f) := ofE rfl rfl fun _ => decodeE 0x1E7 f rfl (by decide) (by decide)
theorem Laws.Encoding.ccancel (f : FmtE) : Laws.Encoding.Statement (.ccancel f) := ofE rfl rfl fun _ => decodeE 0x1E8 f rfl (by decide) (by decide)
theorem Laws.Encoding.mirror (f : FmtE) : Laws.Encoding.Statement (.mirror f) := ofE rfl rfl fun _ => decodeE 0x1E9 f rfl (by decide) (by decide)
theorem Laws.Encoding.qpush (f : FmtE) : Laws.Encoding.Statement (.qpush f) := ofE rfl rfl fun _ => decodeE 0x200 f rfl (by decide) (by decide)
theorem Laws.Encoding.qpop (f : FmtE) : Laws.Encoding.Statement (.qpop f) := ofE rfl rfl fun _ => decodeE 0x201 f rfl (by decide) (by decide)
theorem Laws.Encoding.qstat (f : FmtE) : Laws.Encoding.Statement (.qstat f) := ofE rfl rfl fun _ => decodeE 0x202 f rfl (by decide) (by decide)
theorem Laws.Encoding.chgrd (f : FmtE) : Laws.Encoding.Statement (.chgrd f) := ofE rfl rfl fun _ => decodeE 0x203 f rfl (by decide) (by decide)
theorem Laws.Encoding.chgask (f : FmtE) : Laws.Encoding.Statement (.chgask f) := ofE rfl rfl fun _ => decodeE 0x204 f rfl (by decide) (by decide)
theorem Laws.Encoding.tlaunch (f : FmtE) : Laws.Encoding.Statement (.tlaunch f) := ofE rfl rfl fun _ => decodeE 0x205 f rfl (by decide) (by decide)
theorem Laws.Encoding.trap (f : FmtY) : Laws.Encoding.Statement (.trap f) := ofY rfl rfl fun _ => decodeY 0x220 f rfl (by decide) (by decide)
theorem Laws.Encoding.fret (f : FmtY) : Laws.Encoding.Statement (.fret f) := ofY rfl rfl fun _ => decodeY 0x221 f rfl (by decide) (by decide)
theorem Laws.Encoding.csrrd (f : FmtY) : Laws.Encoding.Statement (.csrrd f) := ofY rfl rfl fun _ => decodeY 0x222 f rfl (by decide) (by decide)
theorem Laws.Encoding.csrwr (f : FmtY) : Laws.Encoding.Statement (.csrwr f) := ofY rfl rfl fun _ => decodeY 0x223 f rfl (by decide) (by decide)
theorem Laws.Encoding.bkpt (f : FmtY) : Laws.Encoding.Statement (.bkpt f) := ofY rfl rfl fun _ => decodeY 0x224 f rfl (by decide) (by decide)
theorem Laws.Encoding.tbase (f : FmtY) : Laws.Encoding.Statement (.tbase f) := ofY rfl rfl fun _ => decodeY 0x225 f rfl (by decide) (by decide)
theorem Laws.Encoding.tlbinv (f : FmtY) : Laws.Encoding.Statement (.tlbinv f) := ofY rfl rfl fun _ => decodeY 0x226 f rfl (by decide) (by decide)
theorem Laws.Encoding.codesync (f : FmtY) : Laws.Encoding.Statement (.codesync f) := ofY rfl rfl fun _ => decodeY 0x227 f rfl (by decide) (by decide)
theorem Laws.Encoding.mlog (f : FmtY) : Laws.Encoding.Statement (.mlog f) := ofY rfl rfl fun _ => decodeY 0x228 f rfl (by decide) (by decide)
theorem Laws.Encoding.blockFetch (n) : Laws.Encoding.Statement (.blockFetch n) :=
  ⟨fun h => Bool.noConfusion h, fun _ => rfl⟩
theorem Laws.Encoding.blockMap (n) : Laws.Encoding.Statement (.blockMap n) :=
  ⟨fun h => Bool.noConfusion h, fun _ => rfl⟩
theorem Laws.Encoding.tokenHop (k) : Laws.Encoding.Statement (.tokenHop k) :=
  ⟨fun h => Bool.noConfusion h, fun _ => rfl⟩
theorem Laws.Encoding.tokenArrival (k) : Laws.Encoding.Statement (.tokenArrival k) :=
  ⟨fun h => Bool.noConfusion h, fun _ => rfl⟩
theorem Laws.Encoding.escapeChannelTimeout (k) : Laws.Encoding.Statement (.escapeChannelTimeout k) :=
  ⟨fun h => Bool.noConfusion h, fun _ => rfl⟩
theorem Laws.Encoding.blockCommit (n colour) : Laws.Encoding.Statement (.blockCommit n colour) :=
  ⟨fun h => Bool.noConfusion h, fun _ => rfl⟩
theorem Laws.Encoding.iterationRetire (task colour iter) : Laws.Encoding.Statement (.iterationRetire task colour iter) :=
  ⟨fun h => Bool.noConfusion h, fun _ => rfl⟩
theorem Laws.Encoding.loadValueReturn (n k) : Laws.Encoding.Statement (.loadValueReturn n k) :=
  ⟨fun h => Bool.noConfusion h, fun _ => rfl⟩
theorem Laws.Encoding.deferredWriteArrival (k) : Laws.Encoding.Statement (.deferredWriteArrival k) :=
  ⟨fun h => Bool.noConfusion h, fun _ => rfl⟩
theorem Laws.Encoding.sliceRead (n k) : Laws.Encoding.Statement (.sliceRead n k) :=
  ⟨fun h => Bool.noConfusion h, fun _ => rfl⟩
theorem Laws.Encoding.sliceWritePerform (n) : Laws.Encoding.Statement (.sliceWritePerform n) :=
  ⟨fun h => Bool.noConfusion h, fun _ => rfl⟩
theorem Laws.Encoding.baseDieRequest (k) : Laws.Encoding.Statement (.baseDieRequest k) :=
  ⟨fun h => Bool.noConfusion h, fun _ => rfl⟩
theorem Laws.Encoding.baseDieReply (k) : Laws.Encoding.Statement (.baseDieReply k) :=
  ⟨fun h => Bool.noConfusion h, fun _ => rfl⟩
theorem Laws.Encoding.taskCommit (task) : Laws.Encoding.Statement (.taskCommit task) :=
  ⟨fun h => Bool.noConfusion h, fun _ => rfl⟩
theorem Laws.Encoding.farrierAction (k) : Laws.Encoding.Statement (.farrierAction k) :=
  ⟨fun h => Bool.noConfusion h, fun _ => rfl⟩
theorem Laws.Encoding.pageFaultResolve (k) : Laws.Encoding.Statement (.pageFaultResolve k) :=
  ⟨fun h => Bool.noConfusion h, fun _ => rfl⟩
theorem Laws.Encoding.reLatchToken (k) : Laws.Encoding.Statement (.reLatchToken k) :=
  ⟨fun h => Bool.noConfusion h, fun _ => rfl⟩
theorem Laws.Encoding.drainToken (k) : Laws.Encoding.Statement (.drainToken k) :=
  ⟨fun h => Bool.noConfusion h, fun _ => rfl⟩
theorem Laws.Encoding.waitCycleTimeout (p) : Laws.Encoding.Statement (.waitCycleTimeout p) :=
  ⟨fun h => Bool.noConfusion h, fun _ => rfl⟩
theorem Laws.Encoding.areaBidding (p) : Laws.Encoding.Statement (.areaBidding p) :=
  ⟨fun h => Bool.noConfusion h, fun _ => rfl⟩
theorem Laws.Encoding.sliceExpiry (task) : Laws.Encoding.Statement (.sliceExpiry task) :=
  ⟨fun h => Bool.noConfusion h, fun _ => rfl⟩
theorem Laws.Encoding.duskToken (task) : Laws.Encoding.Statement (.duskToken task) :=
  ⟨fun h => Bool.noConfusion h, fun _ => rfl⟩
theorem Laws.Encoding.cribBudgetEnd (n) : Laws.Encoding.Statement (.cribBudgetEnd n) :=
  ⟨fun h => Bool.noConfusion h, fun _ => rfl⟩
theorem Laws.Encoding.chargeMismatch (n measured fast) : Laws.Encoding.Statement (.chargeMismatch n measured fast) :=
  ⟨fun h => Bool.noConfusion h, fun _ => rfl⟩
theorem Laws.Encoding.periodAutoOpen (p) : Laws.Encoding.Statement (.periodAutoOpen p) :=
  ⟨fun h => Bool.noConfusion h, fun _ => rfl⟩
theorem Laws.Encoding.logSign256 (p) : Laws.Encoding.Statement (.logSign256 p) :=
  ⟨fun h => Bool.noConfusion h, fun _ => rfl⟩
theorem Laws.Encoding.ireFree (asid arena granule) : Laws.Encoding.Statement (.ireFree asid arena granule) :=
  ⟨fun h => Bool.noConfusion h, fun _ => rfl⟩
theorem Laws.Encoding.reinDelivery (k) : Laws.Encoding.Statement (.reinDelivery k) :=
  ⟨fun h => Bool.noConfusion h, fun _ => rfl⟩
theorem Laws.Encoding.copyStep (k) : Laws.Encoding.Statement (.copyStep k) :=
  ⟨fun h => Bool.noConfusion h, fun _ => rfl⟩
theorem Laws.Encoding.gatherStep (k) : Laws.Encoding.Statement (.gatherStep k) :=
  ⟨fun h => Bool.noConfusion h, fun _ => rfl⟩
theorem Laws.Encoding.collStep (k mismatch others) : Laws.Encoding.Statement (.collStep k mismatch others) :=
  ⟨fun h => Bool.noConfusion h, fun _ => rfl⟩
theorem Laws.Encoding.topkStep (k) : Laws.Encoding.Statement (.topkStep k) :=
  ⟨fun h => Bool.noConfusion h, fun _ => rfl⟩
theorem Laws.Encoding.mirrorCopyStep (k) : Laws.Encoding.Statement (.mirrorCopyStep k) :=
  ⟨fun h => Bool.noConfusion h, fun _ => rfl⟩
theorem Laws.Encoding.partnerAck (k) : Laws.Encoding.Statement (.partnerAck k) :=
  ⟨fun h => Bool.noConfusion h, fun _ => rfl⟩
theorem Laws.Encoding.mirrorAckTimeout (p) : Laws.Encoding.Statement (.mirrorAckTimeout p) :=
  ⟨fun h => Bool.noConfusion h, fun _ => rfl⟩
theorem Laws.Encoding.cardResume (k) : Laws.Encoding.Statement (.cardResume k) :=
  ⟨fun h => Bool.noConfusion h, fun _ => rfl⟩
theorem Laws.Encoding.deadlineFallback (k) : Laws.Encoding.Statement (.deadlineFallback k) :=
  ⟨fun h => Bool.noConfusion h, fun _ => rfl⟩
theorem Laws.Encoding.monitorSample (samples) : Laws.Encoding.Statement (.monitorSample samples) :=
  ⟨fun h => Bool.noConfusion h, fun _ => rfl⟩
theorem Laws.Encoding.patrolScrub (line) : Laws.Encoding.Statement (.patrolScrub line) :=
  ⟨fun h => Bool.noConfusion h, fun _ => rfl⟩
theorem Laws.Encoding.frameRetire (k) : Laws.Encoding.Statement (.frameRetire k) :=
  ⟨fun h => Bool.noConfusion h, fun _ => rfl⟩
theorem Laws.Encoding.stableErrorNoon (bad noonFails) : Laws.Encoding.Statement (.stableErrorNoon bad noonFails) :=
  ⟨fun h => Bool.noConfusion h, fun _ => rfl⟩
theorem Laws.Encoding.ownerTagCleared (owner) : Laws.Encoding.Statement (.ownerTagCleared owner) :=
  ⟨fun h => Bool.noConfusion h, fun _ => rfl⟩
theorem Laws.Encoding.unmap (asid va) : Laws.Encoding.Statement (.unmap asid va) :=
  ⟨fun h => Bool.noConfusion h, fun _ => rfl⟩

end Sys2Proof
end

