-- ==== Sys2Proof/Laws/Step.lean ====
section
/-! SUPPORT. Laws of the step: what one step can do, said once. -/

namespace Sys2Proof.Machine

/-- The clock's update of the state. -/
theorem tickClock_canonical {s : State} (h : s.Canonical) : (tickClock s).Canonical := by
  obtain ⟨h1, h2, h3, h4, h5, h6, h7, h8, h9⟩ := h
  exact ⟨h1, h2, h3, h4, h5, h6, h7, h8, h9⟩

/-- A next state of `exec` is one that a program makes of the state before. -/
theorem exec_next {i : Instr} {s t : State} (h : exec i s = .next t) : ∃ p : Prog, t = p.run s := by
  rcases exec_programmed i s with ⟨r, hr⟩ | ⟨p, hp⟩
  · rw [hr] at h
    cases h
  · rw [hp] at h
    cases h
    exact ⟨p, rfl⟩

/-- Setting the firing in hand, the agenda or the power leaves the canonical form. -/
theorem canonical_cur {s : State} (c : Option Site) (h : s.Canonical) : State.Canonical { s with cur := c } := by
  obtain ⟨h1, h2, h3, h4, h5, h6, h7, h8, h9⟩ := h
  exact ⟨h1, h2, h3, h4, h5, h6, h7, h8, h9⟩

theorem canonical_agenda {s : State} (l : List Move) (h : s.Canonical) : State.Canonical { s with agenda := l } := by
  obtain ⟨h1, h2, h3, h4, h5, h6, h7, h8, h9⟩ := h
  exact ⟨h1, h2, h3, h4, h5, h6, h7, h8, h9⟩

/-- Letting a move go clears the firing in hand and notes the mapped blocks and the cycles of waits. -/
theorem letGo_next {o : Host.Outcome State Fault Refusal} {t : State} (h : letGo o = .next t) :
    ∃ u, o = .next u ∧ t = noteMove.run { u with cur := none } := by
  cases o with
  | next u => exact ⟨u, rfl, (Host.Outcome.next.inj h).symm⟩
  | fault f => cases h
  | refused r => cases h

/-- A next state of a programmed outcome is one that a program makes. -/
theorem Programmed.next {o : Host.Outcome State Fault Refusal} {s t : State} (hp : Programmed o s) (h : o = .next t) : ∃ p : Prog, t = p.run s := by
  rcases hp with ⟨r, hr⟩ | ⟨p, hp⟩
  · rw [hr] at h
    cases h
  · rw [hp] at h
    exact ⟨p, (Host.Outcome.next.inj h).symm⟩

theorem programmed_startDone (s : State) : Programmed (startDone s) s := by
  unfold startDone
  split
  · exact programmed_done _ s
  · exact programmed_refused _ s

theorem programmed_unknownMessage (opc kind : Nat) (seq : Word) (s : State) : Programmed (unknownMessage opc kind seq s) s := by
  unfold unknownMessage
  split
  · exact programmed_refused _ s
  · exact programmed_inOrder (programmed_done _ s)

theorem programmed_ostlerWindow (die win : Nat) (w : Win) (s : State) : Programmed (ostlerWindow die win w s) s := by
  unfold ostlerWindow
  dsimp only
  split
  · exact programmed_refused _ s
  · split
    · exact programmed_stay s
    · exact programmed_done _ s

/-- What a move can do by itself: a program, run with a firing's site in hand, with none, or with what was in hand. -/
theorem bareMove_next {mv : Move} {s u : State} (h : bareMove mv s = .next u) : ∃ c p, u = Prog.run p { s with cur := c } := by
  have own : ∀ {o : Host.Outcome State Fault Refusal}, Programmed o s → o = .next u → ∃ c p, u = Prog.run p { s with cur := c } :=
    fun hp ho => ⟨s.cur, hp.next ho⟩
  cases mv with
  | fire st =>
    simp only [bareMove] at h
    split at h
    · exact ⟨_, exec_next h⟩
    · cases h
  | event i => exact ⟨none, exec_next h⟩
  | inject n => exact own (programmed_done _ s) h
  | settle n =>
    simp only [bareMove] at h
    split at h
    · exact own (programmed_done _ s) h
    · cases h
  | doom tid =>
    simp only [bareMove] at h
    split at h
    · exact own (programmed_done _ s) h
    · cases h
  | refill n =>
    simp only [bareMove] at h
    split at h
    · exact own (programmed_done _ s) h
    · cases h
  | mapPage asid page =>
    simp only [bareMove] at h
    split at h
    · exact own (programmed_done _ s) h
    · cases h
  | started => exact own (programmed_startDone s) h
  | unknown opc kind seq => exact own (programmed_unknownMessage opc kind seq s) h
  | window die win w0 w1 w2 w3 => exact own (programmed_ostlerWindow die win _ s) h
  | upset u => exact own (programmed_done _ s) h
  | linkReset => exact own (programmed_done _ s) h

/-- What one move can do: a program, after which no firing is in hand and the mapped blocks and the cycles of waits are noted. -/
theorem makeMove_next {mv : Move} {s t : State} (h : makeMove mv s = .next t) :
    ∃ c p, t = noteMove.run { Prog.run p { s with cur := c } with cur := none } := by
  obtain ⟨u, hu, rfl⟩ := letGo_next h
  obtain ⟨c, p, rfl⟩ := bareMove_next hu
  exact ⟨c, p, rfl⟩

end Sys2Proof.Machine
end

