-- ==== Sys2Proof/Tests/Setup.lean ====
section
/-! SUPPORT. What the tests set up: operands, a node that is about to fire one instruction, and the check that a firing meets the
hypotheses of a statement. -/

open Sys2Proof Sys2Proof.Machine Sys2Proof.Bits

namespace Sys2Proof.Tests

set_option Elab.async false

/-- A header on plane `p` with predicate mode `pm`, without targets. -/
def hdr (p pm : Nat) : Hdr := ⟨BitVec.ofNat 2 p, BitVec.ofNat 2 pm, 0, 0, 0, 0⟩

/-- Format A on plane `p` at type `ty`. -/
def fmtA (p pm ty : Nat) : FmtA := ⟨hdr p pm, 0, 0, 0, BitVec.ofNat 4 ty, 0, 0⟩

/-- Format G on plane `p`. -/
def fmtG (p pm : Nat) : FmtG := ⟨hdr p pm, 4, 0, 0⟩

/-- An operand for a slot of an instruction, of the slot's plane, at order `k`: the scalar `x`, or every lane the low half of `x`. -/
def operand (i : Instr) (slot k : Nat) (x : Word) : Tok :=
  let z := zeroTok i slot k
  { z with data := match z.data with
    | .scalar _ => .scalar x
    | .beats bs m => .beats (bs.map fun _ => Vec.fill (x.setWidth 32)) m }

/-- A node's state before it fires `i` with operands `l`, `r`, `p` at order `k`, the node changed by `f`. -/
def firing (i : Instr) (k : Nat) (l r p : Tok) (f : Node → Node) : State :=
  let e : MEntry := ⟨0, 0, some l, if needsRight i then some r else none, if needsPred i then some p else none⟩
  let m := { oneMapped 0 with snap := { zeroSnap with jord := k } }
  { State.reset with
    power := .running
    cur := some ⟨placeAt, 0, 0⟩
    nodes := [(placeAt, f { oneNode i 0 with cur := some m, entries := [(0, e)], jord := k })]
    tasks := [(1, some (oneTask (nodeX placeAt) (nodeY placeAt)))] }

/-- `i` about to fire with 3 and 5 as its operands and a true predicate. -/
def plain (i : Instr) (k : Nat) : State := firing i k (operand i 1 k 3) (operand i 2 k 5) (operand i 3 k 1) id

/-- `i` about to fire with a null left operand. -/
def nulled (i : Instr) (k : Nat) : State := firing i k { operand i 1 k 3 with null := true } (operand i 2 k 5) (operand i 3 k 1) id

/-- `i` about to fire with a false predicate. -/
def shut (i : Instr) (k : Nat) : State := firing i k (operand i 1 k 3) (operand i 2 k 5) (operand i 3 k 0) id

/-- Whether a firing of `i` is in hand in `s` that nothing stops, its draw covered, and what it sees meets `P`. -/
def meets (i : Instr) (s : State) (d : Nat) (P : Fx → Bool) : Bool :=
  match fireCtx i s with
  | none => false
  | some c => decide (c.badTok = none) && c.marksOk i && decide (c.badBeats i = none) && decide (c.nd.upset = none) &&
      decide (d ≤ (refNode c.s c.n).crib.remaining) && P c

/-- What `meets` says, in the terms of the statements. -/
theorem meets_sound {i : Instr} {s : State} {d : Nat} {P : Fx → Bool} (h : meets i s d P = true) :
    ∃ c, Fires i s c ∧ Covers c d ∧ P c = true := by
  unfold meets at h
  split at h
  · cases h
  · rename_i c hc
    simp only [Bool.and_eq_true, decide_eq_true_eq] at h
    obtain ⟨⟨⟨⟨⟨h1, h2⟩, h3⟩, h4⟩, h5⟩, h6⟩ := h
    exact ⟨c, ⟨hc, h1, h2, h3, h4⟩, h5, h6⟩

/-- The firing goes through with its gate open for every lane, and its TAGOP leaves the tag: with `meets` this is `Goes`. -/
def goesOn (dp : Bool) (c : Fx) : Bool := decide (c.mode dp = .go 0xFFFF) && decide (tagRes c.t c.tag c.h.tagop.toNat = .ok c.tag none)

/-- What `meets` with `goesOn` and `P` says, in the terms of the statements. -/
theorem goes_sound {i : Instr} {s : State} {d : Nat} {dp : Bool} {P : Fx → Bool} (h : meets i s d (fun c => goesOn dp c && P c) = true) :
    ∃ c, Goes i s c d c.tag none ∧ c.mode dp = .go 0xFFFF ∧ P c = true := by
  obtain ⟨c, hf, hc, hp⟩ := meets_sound h
  simp only [goesOn, Bool.and_eq_true, decide_eq_true_eq] at hp
  exact ⟨c, ⟨hf, hc, hp.1.2⟩, hp.1.1, hp.2⟩

/-- Whether a step answers a next state that meets `P`. -/
def nextIs (o : Host.Outcome State Fault Refusal) (P : State → Bool) : Bool :=
  match o with
  | .next t => P t
  | _ => false

/-- What `nextIs` says. -/
theorem nextIs_sound {o : Host.Outcome State Fault Refusal} {P : State → Bool} (h : nextIs o P = true) : ∃ t, o = .next t ∧ P t = true := by
  cases o with
  | next t => exact ⟨t, rfl, h⟩
  | fault r => cases h
  | refused r => cases h

/-- A firing that leaves the tasks as they were ends none. -/
theorem noneEnds_of_tasks {s t : State} (h : t.tasks = s.tasks) : NoneEnds s t := fun k hk => by
  simpa only [State.ending, State.task, h] using hk

/-- `State.Canonical` as a check. -/
def canonical (s : State) : Bool :=
  Memory.wf s.mem && Sparse.wf 0 s.pads && Sparse.wf 0 s.tables && Sparse.wf VerWord.reset s.vers && Sparse.wf none s.l2 && Sparse.wf false s.poison &&
    Sparse.wf Node.reset s.nodes && Sparse.wf none s.tasks && Sparse.wf Part.reset s.parts

/-- What `canonical` says. -/
theorem canonical_sound {s : State} (h : canonical s = true) : s.Canonical := by
  simp only [canonical, Bool.and_eq_true] at h
  obtain ⟨⟨⟨⟨⟨⟨⟨⟨h1, h2⟩, h3⟩, h4⟩, h5⟩, h6⟩, h7⟩, h8⟩, h9⟩ := h
  exact ⟨h1, h2, h3, h4, h5, h6, h7, h8, h9⟩

end Sys2Proof.Tests
end

