-- ==== Sys2Proof/Tests/Flow.lean ====
section
/-! SUPPORT. Witnesses for the statements about streams, flow, loops, system, task, engine and matrix forms. -/

open Sys2Proof Sys2Proof.Machine Sys2Proof.Bits

namespace Sys2Proof.Tests

set_option Elab.async false

/-- `s` with its task changed. -/
def withTask (f : Task → Task) (s : State) : State := { s with tasks := s.tasks.map fun e => (e.1, e.2.map f) }

/-- `s` with its nodes changed. -/
def withNode (f : Node → Node) (s : State) : State := { s with nodes := s.nodes.map fun e => (e.1, f e.2) }

/-- The firing moved under another tag, in a unit of that tag. -/
def under (g : Tag) (s : State) : State :=
  withNode (fun nd => { nd with
    entries := nd.entries.map fun e => (entryIndex 0 g, { e.2 with tag := g })
    ctxs := [(0, ⟨0, g, .ready, none, []⟩)]
    cur := nd.cur.map fun m => { m with units := [CUnit.fresh g] } }) { s with cur := some ⟨placeAt, 0, g⟩ }

/-- Changes the unit of the firing. -/
def withUnit (f : CUnit → CUnit) (s : State) : State := withNode (fun nd => { nd with cur := nd.cur.map fun m => { m with units := m.units.map f } }) s

/-- Instruction `i` with left operand `x` and right operand `y`. -/
def fed (i : Instr) (x y : Word) : State := firing i 0 (operand i 1 0 x) (operand i 2 0 y) (operand i 3 0 1) id

/-- A job card as a wide token: words of `w`. -/
def cardTok (ws : List Nat) : Tok := mkTok 0 (.beats [Vec.mk fun l => BitVec.ofNat 32 (ws.getD (l / 2) 0 / 2 ^ (32 * (l % 2)))] 0xFFFF) false

/-! ## Streams -/

def oneTok : Tok := mkTok 0 (.scalar 1) false
def nullTok : Tok := mkTok 0 (.scalar 0) true

theorem witness_StreamForms_firings :
    (∀ e ∈ ([(fmtG 0 1, 4), (fmtG 1 1, 24), (fmtG 2 1, 48)] : List (FmtG × Nat)), meets (.steer e.1) (plain (.steer e.1) 1) e.2 (fun c => decide (tagRes c.t c.tag c.h.tagop.toNat = .ok c.tag none) &&
      (c.l.map fun t => t.null) == some false && (c.p.map fun t => t.null) == some false) = true) ∧
    (∀ e ∈ ([(fmtG 0 0, 4), (fmtG 1 0, 24)] : List (FmtG × Nat)), ∀ i ∈ ([.accum, .filter, .compact, .merge] : List (FmtG → Instr)),
      meets (i e.1) (plain (i e.1) 0) e.2 (fun c => accepted c && streamRoom c && c.l.isSome && (c.l.map fun t => t.null) == some false) = true) ∧
    (∀ e ∈ ([(fmtG 0 0, 4), (fmtG 1 0, 24)] : List (FmtG × Nat)), meets (.merge e.1) (nulled (.merge e.1) 0) e.2 (fun c => accepted c && streamRoom c && (c.l.map fun t => t.null) == some true) = true) := by
  decide +kernel

/-- STEER with a null token, and with a null predicate. -/
theorem witness_StreamForms_nullOperand : ∀ e ∈ ([(fmtG 0 1, 4), (fmtG 1 1, 24), (fmtG 3 1, 24)] : List (FmtG × Nat)), let i := Instr.steer e.1
    meets i (nulled i 0) e.2 (fun c => decide (tagRes c.t c.tag c.h.tagop.toNat = .ok c.tag none) && (c.l.map fun t => t.null) == some true && c.p.isSome) = true ∧
    meets i (firing i 0 (operand i 1 0 3) (operand i 2 0 5) { operand i 3 0 1 with null := true } id) e.2
      (fun c => decide (tagRes c.t c.tag c.h.tagop.toNat = .ok c.tag none) && c.l.isSome && (c.p.map fun t => t.null) == some true) = true := by decide +kernel

/-- FILTER's planes and predicate modes, and a count that one more term fills or does not. -/
theorem witness_StreamForms_effects : nullTok.null = true ∧ oneTok.null = false ∧ (fmtG 0 0).count = 0 ∧ ¬({ fmtG 0 0 with count := 2 } : FmtG).count = 0 ∧
    (∀ p ∈ [0, 1, 2, 3], (fmtG p 1).h.plane.toNat = p ∧ ¬(fmtG p 1).h.pmode = 0) ∧ (cardTok []).data = .beats [Vec.mk fun _ => 0] 0xFFFF ∧
    (∀ terms ∈ [0, 1], (terms + 1 = ({ fmtG 0 0 with count := 2 } : FmtG).count.toNat) ↔ terms = 1) := by decide +kernel

/-! ## Exits, registers -/

def exitForms : List (FmtB → Instr) := [.br, .bri, .call, .calli, .ret, .halt]
def fmtB : FmtB := ⟨hdr 0 0, 0, 0⟩

theorem witness_ExitsAreTaken :
    (∀ i ∈ exitForms, meets (i fmtB) (plain (i fmtB) 0) 4 (fun c => decide (c.mode false = .go 0xFFFF) && decide (c.u.exit = none) && decide (c.t.freeColour = some 1)) = true) ∧
    (∀ i ∈ exitForms, meets (i fmtB) (withUnit (fun u => { u with exit := some ⟨1, .br fmtB, 0, 0⟩ }) (plain (i fmtB) 0)) 4
      (fun c => decide (c.mode false = .go 0xFFFF) && c.u.exit.isSome) = true) ∧
    meets (.ret fmtB) (under (mkTag 1 0) (plain (.ret fmtB) 0)) 4 (fun c => decide (c.mode false = .go 0xFFFF) && decide (c.u.exit = none) && decide (tagColour (ctagOf c.nd c.m) = 1)) = true ∧
    meets (.halt fmtB) (withNode (fun nd => { nd with cur := nd.cur.map fun m => { m with blk := { m.blk with ctx := 1 } } }) (plain (.halt fmtB) 0)) 4
      (fun c => decide (c.mode false = .go 0xFFFF) && decide (c.u.exit = none) && decide (c.m.blk.ctx = 1)) = true := by decide +kernel

/-- Every colour has a frame. -/
@[irreducible] def allColours : List (Nat × Frame) := (List.range 4096).map fun k => (k, Frame.make .root 0)

theorem no_colour_left (t : Task) (h : t.frames = allColours) : t.freeColour = none := by
  unfold allColours at h
  simp only [Task.freeColour, List.find?_eq_none, List.mem_map, List.mem_range, h]
  rintro c ⟨k, hk, rfl⟩
  simp only [Bool.not_eq_true', Bool.not_eq_false, List.any_map, List.any_eq_true, List.mem_range, Function.comp_apply, beq_iff_eq]
  exact ⟨k + 1, by omega, rfl⟩

/-- `i` about to fire where every colour has a frame. -/
def crowded (i : Instr) : State := withTask (fun t => { t with frames := allColours }) (plain i 0)

theorem witness_ExitsAreTaken_noColour : ∀ i ∈ ([.call fmtB, .calli fmtB, .spawn (fmtG 0 0)] : List Instr),
    ∃ c, Fires i (crowded i) c ∧ Covers c 4 ∧ c.mode false = .go 0xFFFF ∧ c.u.exit = none ∧ c.t.freeColour = none := by
  intro i hi
  simp only [List.mem_cons, List.not_mem_nil, or_false] at hi
  rcases hi with rfl | rfl | rfl <;>
    exact ⟨_, ⟨rfl, rfl, rfl, rfl, rfl⟩, by unfold Covers; decide, rfl, rfl, no_colour_left _ rfl⟩

theorem witness_MovesAndRegisters :
    (∀ i ∈ ([.mov, .const, .null, .getg, .empty, .putg] : List (FmtG → Instr)), ∀ e ∈ ([(0, 0, 4), (1, 64, 24)] : List (Nat × Nat × Nat)),
      let f := { fmtG e.1 0 with imm := BitVec.ofNat 64 e.2.1 }
      meets (i f) (plain (i f) 0) e.2.2 (fun c => goesOn false c && regReady c (f.imm.toNat % 128) && !regBad c.nd (f.imm.toNat % 128) && decide (c.u.acts = [])) = true) ∧
    meets (.null (fmtG 1 1)) (shut (.null (fmtG 1 1)) 0) 24 (fun c => decide (c.mode false = .go 0) && decide (tagRes c.t c.tag c.h.tagop.toNat = .ok c.tag none)) = true ∧
    (∀ i ∈ ([.getg, .empty] : List (FmtG → Instr)), ∀ r ∈ [0, 63, 64, 95],
      let f := { fmtG (if r < 64 then 0 else 1) 0 with imm := BitVec.ofNat 64 r }
      meets (i f) (withNode (fun nd => { nd with s := [(0, ⟨0, false, true⟩), (63, ⟨0, false, true⟩)], v := [(0, ⟨[], false, true⟩), (31, ⟨[], false, true⟩)] }) (plain (i f) 0)) 0
        (fun c => decide (c.mode false = .go 0xFFFF) && !regReady c (f.imm.toNat % 128)) = true) ∧
    meets (.putg (fmtG 0 0)) (withUnit (fun u => { u with acts := [⟨0, 0, .putg 0 (.scalar 1)⟩] }) (plain (.putg (fmtG 0 0)) 0)) 4
      (fun c => decide (c.mode false = .go 0xFFFF) && decide (c.u.acts = [⟨c.q, 0, .putg 0 (.scalar 1)⟩])) = true := by decide +kernel

/-! ## Loops and tag spaces -/

/-- A loop of two iterations in a window of three, one slot free, as colour 2. -/
def loopFrame (free : Nat) : Frame := { Frame.make .loop 0 with win := 3, free := free, live := [0, 1] }
def inLoop (j free : Nat) (i : Instr) : State := under (mkTag 2 j) (withTask (fun t => { t with frames := t.frames ++ [(2, loopFrame free)] }) (plain i 0))

theorem witness_LoopForms_firings :
    (meets (.lenter (fmtG 0 0)) (plain (.lenter (fmtG 0 0)) 0) 4 (fun c => decide (c.mode false = .go 0xFFFF) && decide (passColour c = none) && decide (c.t.freeColour = some 1)) = true) ∧
    (meets (.lenter (fmtG 0 0)) (withUnit (fun u => { u with claims := [.colour 2] }) (withTask (fun t => { t with frames := t.frames ++ [(2, loopFrame 1)] }) (plain (.lenter (fmtG 0 0)) 0))) 4
      (fun c => decide (c.mode false = .go 0xFFFF) && decide (passColour c = some 2)) = true) ∧
    (meets (.inext (fmtG 0 0)) (inLoop 1 1 (.inext (fmtG 0 0))) 4 (fun c => decide (c.mode false = .go 0xFFFF) && decide (tagRes c.t c.tag 1 = .ok (mkTag 2 2) (some (.slot 2 2)))) = true) ∧
    (meets (.inext (fmtG 0 0)) (inLoop 0 1 (.inext (fmtG 0 0))) 4 (fun c => decide (tagRes c.t c.tag 1 = .ok (mkTag 2 1) none)) = true) ∧
    (meets (.iprev (fmtG 0 0)) (inLoop 1 1 (.iprev (fmtG 0 0))) 4 (fun c => decide (c.mode false = .go 0xFFFF) && decide (tagRes c.t c.tag 2 = .ok (mkTag 2 0) none)) = true) ∧
    (meets (.lexit (fmtG 0 0)) (inLoop 1 1 (.lexit (fmtG 0 0))) 4 (fun c => decide (c.mode false = .go 0xFFFF) && decide (tagRes c.t c.tag 4 = .ok 0 none)) = true) ∧
    (meets (.inext (fmtG 0 0)) (plain (.inext (fmtG 0 0)) 0) 4 (fun c => decide (tagRes c.t c.tag 1 = .fault 1)) = true) ∧
    (meets (.iprev (fmtG 0 0)) (inLoop 0 1 (.iprev (fmtG 0 0))) 4 (fun c => decide (tagRes c.t c.tag 2 = .fault 2)) = true) ∧
    (meets (.lexit (fmtG 0 0)) (plain (.lexit (fmtG 0 0)) 0) 4 (fun c => decide (tagRes c.t c.tag 4 = .fault 3)) = true) ∧
    (meets (.talloc (fmtG 0 0)) (plain (.talloc (fmtG 0 0)) 0) 4 (fun c => decide (c.mode false = .go 0xFFFF) && decide (c.t.freeColour = some 1) &&
      decide (c.t.frames.find? (fun e => decide (e.2.kind = .tagSpace)) = none)) = true) ∧
    (let space := { Frame.make .tagSpace 0 with win := 3, free := 1, live := [0, 1], owner := some (nodeM (oneTask 8 0) placeAt, 0, 0, 0), node := 0, given := [0] }
     meets (.talloc (fmtG 0 0)) (withTask (fun t => { t with frames := t.frames ++ [(3, space)] }) (plain (.talloc (fmtG 0 0)) 0)) 4 (fun c => decide (c.mode false = .go 0xFFFF) &&
        decide (c.t.frames.find? (fun e => decide (e.2.kind = .tagSpace) && decide (e.2.owner = some (nodeM c.t c.n, c.m.blk.pc.toNat, c.q, tagColour c.tag))) = some (3, space)) &&
        decide ((List.range space.win).find? (fun j => !(space.live.contains j)) = some 2)) = true ∧
     meets (.tfree (fmtG 0 0)) (under (mkTag 3 1) (withTask (fun t => { t with frames := t.frames ++ [(3, space)] }) (plain (.tfree (fmtG 0 0)) 0))) 4
       (fun c => decide (c.mode false = .go 0xFFFF) && decide (c.t.frame (tagColour c.tag) = some space) && !space.given.contains (tagIter c.tag)) = true ∧
     meets (.tfree (fmtG 0 0)) (under (mkTag 3 0) (withTask (fun t => { t with frames := t.frames ++ [(3, space)] }) (plain (.tfree (fmtG 0 0)) 0))) 4
       (fun c => decide (c.mode false = .go 0xFFFF) && decide (c.t.frame (tagColour c.tag) = some space) && space.given.contains (tagIter c.tag) && !space.freeing.contains (tagIter c.tag)) = true) := by
  decide +kernel

/-- The cases of the tags: no frame, a frame of another kind, a live and a fresh next iteration, no free slot, iteration 255 before iteration 0. -/
theorem witness_LoopForms_tags :
    let t := (oneTask 8 0)
    let u := { t with frames := t.frames ++ [(2, loopFrame 1), (3, loopFrame 0), (4, { Frame.make .call 0 with ret := 64 })] }
    t.frame 5 = none ∧ (t.frame 0).map (fun f => f.kind) = some .root ∧ u.frame 2 = some (loopFrame 1) ∧ u.frame 3 = some (loopFrame 0) ∧
    (∀ i ∈ [0, 1], (tagIter (mkTag 2 i) + 1) % 256 = i + 1) ∧ 1 ∈ (loopFrame 1).live ∧ ¬2 ∈ (loopFrame 1).live ∧ (loopFrame 0).free = 0 ∧
    ¬(tagIter (mkTag 2 0) + 255) % 256 ∈ (loopFrame 1).live ∧ (u.frame 4).map (fun f => f.kind) = some .call := by decide +kernel

theorem witness_SpawnAndJoin :
    (let i := Instr.spawn (fmtG 0 0)
     meets i (withTask (fun t => { t with img := { t.img with bound := [⟨0, 0, 1, 2, 1, 0⟩] } }) (plain i 0)) 4 (fun c => goesOn false c && decide (c.t.freeColour = some 1) && decide (freeCtx c = some 1)) = true ∧
     meets i (plain i 0) 4 (fun c => goesOn false c && decide (freeCtx c = none)) = true) ∧
    (let j := Instr.join (fmtG 0 0)
     meets j (withTask (fun t => { t with frames := t.frames ++ [(3, Frame.make .spawn 0)] }) (fed j 3 0)) 4 (fun c => goesOn false c && decide (joinable c (optScalar c.l) = some 3)) = true ∧
     meets j (fed j 3 0) 4 (fun c => goesOn false c && decide (joinable c (optScalar c.l) = none)) = true) := by decide +kernel

/-! ## System, task and engine forms -/

def fmtY : FmtY := ⟨hdr 0 0, 0x8007, 1⟩

theorem witness_SystemForms :
    (∀ i ∈ ([.trap, .csrrd, .csrwr, .bkpt, .tbase, .tlbinv, .codesync, .mlog] : List (FmtY → Instr)), meets (i fmtY) (plain (i fmtY) 0) 4 (goesOn false) = true) ∧
    (∀ e ∈ ([(0x10004, true), (0x20004, false)] : List (Nat × Bool)), meets (.fret fmtY) (fed (.fret fmtY) (BitVec.ofNat 64 e.1) 0) 4
      (fun c => goesOn false c && decide ((optScalar c.l).toNat / 2 ^ 16 % 4 < 2) == e.2) = true) := by decide +kernel

theorem witness_CsrValues : (7 : Nat) < 8 ∧ (63 : Nat) < 64 ∧ (31 : Nat) < 32 ∧
    ∀ k ∈ [0, 2], k < 3 ∧ ∀ ok : Bool, ({ zeroSnap with mon := [(5, ok), (6, ok), (7, ok)] } : Snap).mon[k]? = some (BitVec.ofNat 16 (5 + k), ok) := by decide

/-- A page at VA 0 of ASID 0 on die `d`: frame 16, with a class and rights. -/
def page (d cls : Nat) (rd wr : Bool) : TlbEnt := ⟨d, 0, 0, 0, BitVec.ofNat 64 (2 ^ 63 + cls * 2 ^ 60 + (if rd then 2 ^ 59 else 0) + (if wr then 2 ^ 58 else 0) + 16 * 2 ^ 16), 16⟩
def paged (cls : Nat) (s : State) : State := { s with tlb := [page (nodeDie placeAt) cls true true] }
def fmtE (p : Nat) : FmtE := ⟨hdr p 0, 0, 0, 0, 0⟩

theorem witness_TaskRequests :
    (∀ i ∈ ([.qpush, .qpop, .tlaunch] : List (FmtE → Instr)), meets (i (fmtE 0)) (paged 0 (fed (i (fmtE 0)) 0xFFC0 0)) 64 (fun c => goesOn false c && decide ((optScalar c.l).toNat % 64 = 0) &&
      (match c.xlate false (optScalar c.l).toNat with
        | .entry w => decide (entryClass w = 0) && entryRd w && entryWr w
        | .fault => false)) = true) ∧
    (∀ i ∈ ([.qpush, .qpop, .tlaunch] : List (FmtE → Instr)), meets (i (fmtE 0)) (fed (i (fmtE 0)) 63 0) 64 (fun c => goesOn false c && decide (¬(optScalar c.l).toNat % 64 = 0)) = true) ∧
    (∀ i ∈ ([.qstat, .chgrd, .chgask] : List (FmtE → Instr)), meets (i (fmtE 0)) (fed (i (fmtE 0)) 3 0) 64 (goesOn false) = true) := by decide +kernel

def carded (i : Instr) (ws : List Nat) : State := firing i 0 (cardTok ws) (operand i 2 0 0) (operand i 3 0 1) id

/-- Cards that keep their limits: COPY of one line, GATHER of one row of 4 bytes, COLL of one line by two members, TOPK of one of one, MIRROR of a page. -/
def goodCards : List ((FmtE → Instr) × Nat × List Nat) :=
  [(.copy, 0, [0, 128, 128]), (.gather, 1, [0, 4, 8, 2 ^ 32 + 4, 4, 4]), (.coll, 2, [0, 128, 128, 0x10030]), (.topk, 3, [0, 64, 128, 2 ^ 32 + 1, 2, 0x71]),
    (.mirror, 4, [0, 1, 1, 2])]

theorem witness_CardsIssue :
    (∀ e ∈ goodCards, meets (e.1 (fmtE 3)) (carded (e.1 (fmtE 3)) e.2.2) 64 (fun c => goesOn false c && c.cardOk e.2.1 (cardWords (optBeat c.l 0))) = true) ∧
    (∀ e ∈ goodCards, meets (e.1 (fmtE 3)) (carded (e.1 (fmtE 3)) []) 64 (fun c => goesOn false c && !(c.cardOk e.2.1 (cardWords (optBeat c.l 0)))) = true) := by decide +kernel

/-- A COPY that ends where its destination begins, and one through a rein for its source that ends beyond it. -/
theorem witness_CardsIssue_apart : ∀ e ∈ ([([0, 128, 128], true), ([128, 0, 128], true), ([0, 128, 256, 0, 0, 0, 0, 16], false)] : List (List Nat × Bool)),
    meets (.copy (fmtE 3)) (carded (.copy (fmtE 3)) e.1) 64 (fun c => let ws := cardWords (optBeat c.l 0)
      wordsOk 0 ws && word7Ok ws && c.cardOk 0 ws == e.2) = true := by decide +kernel

/-- The statement's words of a card are those that `cardWords` gives. -/
theorem cardWords_eq (v : Vec) : cardWords v = (List.range 8).map fun w => Vec.lane v (2 * w + 1) ++ Vec.lane v (2 * w) := rfl

/-- Card 5 of node 4, of task 1. -/
def aCard (cls : Nat) (st : CardSt) : Card where
  node := placeAt
  m := 0
  seq := 5
  cls := cls
  chan := 0
  flags := 0
  words := [0, 128, 256, 0, 0, 0, 0, 0]
  task := 1
  owner := 0
  die := 0
  st := st
  fb := false
  ptr := 128
  reason := 0
  nv := false
  step := 0
  src := 0
  dst := 0
  accepted := 0
  order := 1
  finAt := if st.final then some 0 else none
  t0 := 0
  tag := 0
  wb := none
  told := false
  held := none
  port := false
  entered := true
  q := 0
  ftag := 0
  pc := 0

/-- `i` about to fire on the ticket of `x`. -/
def ticketed (i : Instr) (x : Card) : State :=
  { firing i 0 (mkTok 0 (.beats [x.ticket State.reset 0] 0xFFFF) false) (operand i 2 0 0) (operand i 3 0 1) (fun nd => { nd with cards := 6 }) with cards := [x] }

def ticketForms : List (FmtE → Instr) := [.wpwait, .cwait, .wprd, .cstat, .ccancel]

/-- A running and a finished card; the watched pointer at the card's and one beyond it; a form of another channel. -/
theorem witness_TicketForms :
    (∀ i ∈ ticketForms, ∀ st ∈ [CardSt.running, .finished], ∀ ptr ∈ [128, 129], let f := { fmtE 3 with card := BitVec.ofNat 64 ptr }
      meets (i f) (ticketed (i f) (aCard 0 st)) 64 (fun c => goesOn false c && decide (tkClass (optBeat c.l 0) = f.eng.toNat) && decide (tkChan (optBeat c.l 0) = f.chan.toNat) &&
        decide (tkOwner (optBeat c.l 0) = c.t.owner % 1024) && (match namedCard c (optBeat c.l 0) with
          | .card k x => decide (k = 0) && decide (x = aCard 0 st)
          | _ => false)) = true) ∧
    (∀ i ∈ ticketForms, let f := { fmtE 3 with chan := 1 }
      meets (i f) (ticketed (i f) (aCard 0 .running)) 64 (fun c => goesOn false c && !decide (tkChan (optBeat c.l 0) = f.chan.toNat)) = true) := by decide +kernel

/-- A card with a line that awaits its partner, below its pointer and at it. -/
theorem witness_TicketForms_performed : ∀ below ∈ [0, 128],
    let s : State := { State.reset with mirror := [{ line := 0, part := 0, m := 0, task := 1, card := some 0, below := below, by_ := none, res := none, acq := false, far := false, lost := false, since := 0 }] }
    (∃ w ∈ s.mirror, w.card = some 0) ∧ (aCard 0 .running).done s 0 = below := by decide +kernel

/-! ## Matrix forms -/

def fmtX (p : Nat) : FmtX := ⟨hdr p 0, 0, 0, 0, 0⟩

/-- A tile with one cell that its row's checksum accounts for, and one with a checksum that is wrong in row 0. -/
def goodTile : Tile := { Tile.reset with ty := .int32, cells := [(0, 7)], ck := [(0, 7)] }
def badTile : Tile := { goodTile with ck := [(0, 6)] }

theorem witness_TileForms :
    (∀ i ∈ ([.accclr, .accarm, .accrel, .mtrans, .accrd, .accchk] : List (FmtX → Instr)), meets (i (fmtX 1)) (plain (i (fmtX 1)) 0) 24 (goesOn false) = true) ∧
    (∀ e ∈ ([(goodTile, .idle, false), (goodTile, .armed 1, false), (badTile, .finished, true)] : List (Tile × Arm × Bool)),
      meets (.accrd (fmtX 1)) (withNode (fun nd => { nd with tiles := [(0, { e.1 with arm := e.2.1 })] }) (plain (.accrd (fmtX 1)) 0)) 24
        (fun c => goesOn false c && decide ((c.nd.tile 0).arm = e.2.1) && decide ((c.nd.tile 0).rowBad 0 = e.2.2)) = true) ∧
    (Sparse.wf 0 goodTile.cells = true ∧ Sparse.wf 0 goodTile.ck = true ∧ ∀ r ∈ List.range 32, goodTile.rowBad r = false) ∧ (31 : Nat) < 32 ∧ ¬((31 : Nat) = 0 ∧ (31 : Nat) = 31) := by
  decide +kernel

/-- Rows of INT8 at VA 0, all of one line of the L1; two pins of BF16 rows. -/
def matNode (nd : Node) : Node :=
  let pin := List.replicate 32 (PinRow.mk (List.replicate 64 1) 7 [])
  { nd with
    l1 := [⟨8192, 0, List.replicate 128 1, 0, []⟩]
    cur := nd.cur.map fun m => { m with pins := [(1, pin), (2, pin)] } }

theorem witness_MatrixIssues :
    (∀ e ∈ ([(0, 0, 0), (2 ^ 14 + 2 ^ 13, 7, 7)] : List (Nat × Nat × Nat)), let f := { fmtX 3 with low := BitVec.ofNat 64 e.1 }
      meets (.mmat f) (withNode matNode (paged 0 (carded (.mmat f) []))) 720 (fun c => goesOn false c &&
        (let a := matSrc c 0 1 0 1 (field f.low 14 2) c.l
         let b := matSrc c 0 1 0 1 (field f.low 12 2) c.r
         let es := a.elems ++ b.elems
         decide (es.length = if e.1 = 0 then 64 else 0) && (readGate c 720 (missing c.nd es)).isNone && !halfCross c.s c.nd 4 es &&
           decide (oneTag (srcRows c.s c.nd 4 a) = some (BitVec.ofNat 4 e.2.1)) && decide (oneTag (srcRows c.s c.nd 4 b) = some (BitVec.ofNat 4 e.2.2)) &&
           (pairTy (BitVec.ofNat 4 e.2.1) (BitVec.ofNat 4 e.2.2) false).isSome)) = true) ∧
    (meets (.tfetch (fmtX 3)) (paged 0 (carded (.tfetch (fmtX 3)) [])) 128 (fun c => goesOn false c && (match descOf (optBeat c.l 0) with
      | none => false
      | some d => (match memRows c 0 64 d ((List.range (field (fmtX 3).low 48 14 + 1)).map fun q => (q, 0)) 0 with
        | .mem es => (readGate c (tfetchDraw c.nd es []) (missing c.nd es)).isNone && !halfCross c.s c.nd 64 es && decide (tfetchDraw c.nd es [] = 128)
        | _ => false))) = true) := by decide +kernel

end Sys2Proof.Tests
end

