-- ==== Sys2Proof/Tests/Memory.lean ====
section
/-! SUPPORT. Witnesses for the statements about memory, synchronisation and rein forms, and about what firings and commits leave. -/

open Sys2Proof Sys2Proof.Machine Sys2Proof.Bits

namespace Sys2Proof.Tests

set_option Elab.async false

/-- Format M on plane `p` at type `ty`. -/
def fmtM (p ty : Nat) : FmtM := ⟨hdr p 0, 0, 0, 0, 0, BitVec.ofNat 4 ty, 0, 0, 0⟩

/-- `MemOpen` for all lanes. -/
def openFor (i : Instr) (f : FmtM) (dp : Bool) (c : Fx) : Bool := decide (c.u.lsid f.lsid.toNat ≠ .nulled) && decide (c.mode dp = .go 0xFFFF) && !heldByOrder i c f.lsid.toNat

/-- What `meets` with `openFor` says, in the terms of the statements. -/
theorem open_sound {i : Instr} {f : FmtM} {dp : Bool} {c : Fx} (h : openFor i f dp c = true) : MemOpen i f c dp 0xFFFF := by
  simp only [openFor, Bool.and_eq_true, decide_eq_true_eq, Bool.not_eq_true'] at h
  exact ⟨h.1.1, h.1.2, h.2⟩

def checked (x : Checked) : Bool := match x with
  | .ok _ => true
  | _ => false

/-- A line of VA 0's page in the L1. -/
def lined (s : State) : State := withNode (fun nd => { nd with l1 := [⟨8192, 0, List.replicate 128 1, 15, []⟩] }) s

/-- A store that waits to be performed. -/
def busyNode (s : State) : State := withNode (fun nd => { nd with wq := [.out 0 oneTok (Issued.plain 0 0 0 0)] }) s

/-- A load of LSID 0 in the block that has not returned. -/
def behindLoad (s : State) : State := withNode (fun nd => { nd with cur := nd.cur.map fun m => { m with
  blk := { m.blk with ins := [0, (encode (.ld (fmtM 0 3))).getD 0] } } }) s

/-- Without and with the line in the L1, with ORD 11 free to go, behind a read of its unit, and behind a waiting store, and with a gate that leaves no lane. -/
theorem witness_LoadsIssue : ∀ i ∈ ([.ld, .lds, .ldg] : List (FmtM → Instr)), ∀ p ∈ [0, 1],
    let f := fmtM p 3
    let P := fun (f : FmtM) c => openFor (i f) f false c && checked (checkLocs c (loadNeed (tyBytes f.ty)) (f.hv = 1) (isStream (i f) f) (c.rein f.lsid.toNat f.hreg.toNat) (tyBytes f.ty) (formLocs (i f) f c 0xFFFF))
    (p = 0 → i f = .ld f → meets (i f) (lined (paged 0 (fed (i f) 8 8))) 12 (P f) = true) ∧
    (p = 1 → meets (i f) (paged 0 (fed (i f) 8 8)) 128 (P f) = true ∧ meets (i f) (lined (paged 0 (fed (i f) 8 8))) 32 (P f) = true ∧
      meets (i { f with ord := 3 }) (busyNode (paged 0 (fed (i f) 8 8))) 0 (fun c => P { f with ord := 3 } c && !c.nd.quiet) = true ∧
      (∀ scope ∈ [0, 5], let h := { f with ord := 3, scope := scope }
        meets (i h) (paged 0 (fed (i h) 8 8)) 128 (fun c => P h c && c.nd.quiet && earlierPerformed c && lowerReads c 0 && !mirrorPending c.s c.n) = true) ∧
      (let h := { f with ord := 3, lsid := 1 }
       meets (i h) (behindLoad (paged 0 (fed (i h) 8 8))) 0 (fun c => openFor (i h) h false c && c.nd.quiet && !lowerReads c 1) = true) ∧
      (let g := { f with h := hdr 1 1 }
       meets (i g) (shut (i g) 0) 32 (fun c => decide (c.u.lsid 0 ≠ .nulled) && decide (c.mode false = .go 0) && !heldByOrder (i g) c 0 && decide (activeLanes (i g) c 0 = 0)) = true)) := by
  decide +kernel

theorem witness_StoresPend : ∀ i ∈ ([.st, .sts, .stg] : List (FmtM → Instr)), ∀ p ∈ [0, 1],
    let f : FmtM := { fmtM p 3 with h := hdr p (if i (fmtM 1 3) = .stg (fmtM 1 3) then 1 else 0) }
    (p = 1 ∨ i f = .st f) → meets (i f) (paged 0 (fed (i f) 8 8)) (if p = 0 then 48 else 128) (fun c => openFor (i f) f (decide (i f = .stg f)) c && decide (tagRes c.t c.tag c.h.tagop.toNat = .ok c.tag none) &&
      checked (checkLocs c (storeNeed (tyBytes f.ty)) (f.hv = 1) (isStream (i f) f) (c.rein f.lsid.toNat f.hreg.toNat) (tyBytes f.ty) (formLocs (i f) f c 0xFFFF))) = true := by
  decide +kernel

/-- Address 2 is misaligned, 2^57 and -4 are too high or negative, and nothing maps 2^57 - 4. -/
theorem witness_AddressChecks_elements : ∀ i ∈ ([.ld, .st] : List (FmtM → Instr)), ∀ a ∈ [2, 2 ^ 57, 2 ^ 64 - 4, 2 ^ 57 - 4],
    let f := fmtM 0 3
    meets (i f) (fed (i f) (BitVec.ofNat 64 a) 8) 48 (fun c => openFor (i f) f false c &&
      (let va := ((optScalar c.l) + f.off.signExtend 64).toInt
       decide (¬va % 4 = 0) == decide (a = 2) && decide (va % 4 = 0 ∧ (va < 0 ∨ 2 ^ 57 ≤ va)) == decide (a = 2 ^ 57 ∨ a = 2 ^ 64 - 4) &&
       (decide (va < 0 ∨ 2 ^ 57 ≤ va) || (match c.xlate false va.toNat with
          | .fault => true
          | .entry _ => false)))) = true := by decide +kernel

/-- An arena of 16 granules at VA 2^16, generation 1; the rein in H1: its second granule with rights `rights`. -/
def anArena : Arena := ⟨true, 1, 2 ^ 16, 2 ^ 16, 0, [], [], []⟩
def aRein (rights : Nat) : Quad := mkRein 5 1 rights 4096 4096
def reined (rights : Nat) (s : State) : State :=
  let s := withNode (fun nd => { nd with cur := nd.cur.map fun m => { m with h := [(1, aRein rights)] } }) s
  { s with hub := { s.hub with arenas := [((0, 5), anArena)] } }
def fmtR (low : Nat) : FmtM := { fmtM 3 0 with hv := 1, hreg := 1, low := BitVec.ofNat 31 low }

/-- The reason of each refusal of a rein form, at the first value that is refused. -/
theorem witness_AddressChecks_reins :
    (∀ e ∈ ([(2 ^ 40, 5), (1, 1023), (1, 6), (1, 2 ^ 40 + 5)] : List (Nat × Nat)), meets (.reinmk (fmtR 0)) (reined 15 (fed (.reinmk (fmtR 0)) (BitVec.ofNat 64 e.1) (BitVec.ofNat 64 e.2))) 64
      (fun c => openFor (.reinmk (fmtR 0)) (fmtR 0) false c && (decide (2 ^ 40 ≤ (optScalar c.l).toNat) || decide (2 ^ 40 ≤ (optScalar c.r).toNat) || decide ((optScalar c.r).toNat % 1024 = 1023) ||
        decide (c.s.arena c.t.asid ((optScalar c.r).toNat % 1024) = none))) = true) ∧
    (∀ i ∈ ([.reindup, .reinspl] : List (FmtM → Instr)), meets (i (fmtR 0)) (reined 14 (fed (i (fmtR 0)) 1 0)) 64 (fun c => openFor (i (fmtR 0)) (fmtR 0) false c && !(c.rein 0 1).getLsbD 98) = true) ∧
    (∀ x ∈ [4097, 2 ^ 40], meets (.reinspl (fmtR 0)) (reined 15 (fed (.reinspl (fmtR 0)) (BitVec.ofNat 64 x) 0)) 64 (fun c => openFor (.reinspl (fmtR 0)) (fmtR 0) false c &&
      (decide (rLen (c.rein 0 1) < (optScalar c.l).toNat))) = true) ∧
    (∀ e ∈ ([(0, 4097, 15, 0), (2, 1, 15, 0), (0, 1, 14, 2 ^ 22)] : List (Nat × Nat × Nat × Nat)), let f := fmtR e.2.2.2
      meets (.reinnar f) (reined e.2.2.1 (fed (.reinnar f) (BitVec.ofNat 64 e.1) (BitVec.ofNat 64 e.2.1))) 64 (fun c => openFor (.reinnar f) f false c && decide (rLen (c.rein 0 1) < (optScalar c.r).toNat ∨
        (optScalar c.r).toNat < (optScalar c.l).toNat ∨ ¬field f.low 22 4 &&& (15 - rRights (c.rein 0 1)) = 0)) = true) ∧
    (∀ e ∈ ([(13, 0), (15, 2 ^ 35)] : List (Nat × Nat)), meets (.reinsend (fmtR 0)) (reined e.1 (fed (.reinsend (fmtR 0)) 0 (BitVec.ofNat 64 e.2))) 64 (fun c => openFor (.reinsend (fmtR 0)) (fmtR 0) false c &&
      (!(c.rein 0 1).getLsbD 99 || decide (2 ^ 35 ≤ (optScalar c.r).toNat))) = true) := by decide +kernel

/-- The last word of the scratchpad, the first address beyond it, a negative one and a misaligned one. -/
theorem witness_ScratchpadForms : ∀ i ∈ ([.ldsp, .stsp] : List (FmtM → Instr)), ∀ a ∈ [0xBFFFC, 0xC0000, 2 ^ 64 - 4, 2],
    let f := fmtM 0 3
    meets (i f) (fed (i f) (BitVec.ofNat 64 a) 5) 12 (fun c => openFor (i f) f false c && decide (tagRes c.t c.tag c.h.tagop.toNat = .ok c.tag none) &&
      (formLocs (i f) f c 0xFFFF).all fun l => decide (l.rel % 4 = 0 ∧ 0 ≤ l.rel ∧ l.rel + 4 ≤ 0xC0000) == decide (a = 0xBFFFC)) = true := by decide +kernel

theorem witness_SyncForms :
    (∀ e ∈ ([(.ldv, ⟨8, true, false, true, true⟩, 8), (.stv, ⟨8, false, true, true, true⟩, 8), (.reclaim, ⟨8, false, true, true, true⟩, 8)] : List ((FmtM → Instr) × Need × Nat)),
      let f := fmtM 0 4
      (∀ scope ∈ [0, 5], let g := { f with ord := 2, scope := scope }
        meets (.ldv g) (paged 2 (fed (.ldv g) 8 8)) 64 (fun c => openFor (.ldv g) g false c && c.nd.quiet && earlierPerformed c && lowerReads c 0 && !mirrorPending c.s c.n) = true) ∧
      meets (e.1 f) (paged 2 (fed (e.1 f) 8 8)) 64 (fun c => openFor (e.1 f) f false c && decide (c.nd.quiet = true) &&
        (match checkLocs c e.2.1 (f.hv = 1) false (c.rein f.lsid.toNat f.hreg.toNat) e.2.2 [⟨0, 0, relOf c f⟩] with
          | .ok es => decide (es.length = 1)
          | _ => false)) = true) ∧
    (∀ i ∈ ([.atom, .cas] : List (FmtM → Instr)), ∀ ty ∈ [3, 4], let f : FmtM := { fmtM 0 ty with h := hdr 0 (if i (fmtM 0 4) = .cas (fmtM 0 4) then 1 else 0) }
      meets (i f) (paged 0 (fed (i f) 8 8)) 64 (fun c => openFor (i f) f (decide (i f = .cas f)) c &&
        (match checkLocs c ⟨tyBytes f.ty, false, true, false, true⟩ (f.hv = 1) false (c.rein f.lsid.toNat f.hreg.toNat) (tyBytes f.ty) [⟨0, 0, relOf c f⟩] with
          | .ok es => decide (es.length = 1)
          | _ => false)) = true) ∧
    (2 ^ 32 - 1 : Nat) < 2 ^ 32 := by decide +kernel

/-- PREF of an address with bit 63 set; L1INV with the page mapped and not; a FENCE that waits. -/
theorem witness_MemoryCares :
    (∀ i ∈ ([.pref, .l1inv, .fence, .nullst] : List (FmtM → Instr)), let f := fmtM 0 0
      meets (i f) (paged 0 (fed (i f) 8 8)) 48 (fun c => openFor (i f) f false c && lowerDone f c && c.nd.quiet &&
        (match translate c.s (nodeDie c.n) c.t.asid ((optScalar c.l) + f.off.signExtend 64).toNat with
          | .entry _ => true
          | .fault => false)) = true) ∧
    meets (.l1inv (fmtM 0 0)) (lined (fed (.l1inv (fmtM 0 0)) 8 8)) 4 (fun c => openFor (.l1inv (fmtM 0 0)) (fmtM 0 0) false c &&
      (match translate c.s (nodeDie c.n) c.t.asid 8 with
        | .entry _ => false
        | .fault => true)) = true ∧
    (∀ i ∈ ([.pref, .l1inv] : List (FmtM → Instr)), meets (i (fmtM 0 0)) (fed (i (fmtM 0 0)) (2 ^ 63) 8) 48 (fun c => openFor (i (fmtM 0 0)) (fmtM 0 0) false c &&
      decide (2 ^ 57 ≤ (optScalar c.l).toNat)) = true) ∧
    meets (.fence (fmtM 0 0)) (busyNode (fed (.fence (fmtM 0 0)) 8 8)) 0 (fun c => openFor (.fence (fmtM 0 0)) (fmtM 0 0) false c && !c.nd.quiet) = true := by decide +kernel

/-- A FENCE of LSID 0 in the block that holds later ones back. -/
def fenceWord : Quad := (encode (.fence { fmtM 0 0 with ord := 3 })).getD 0
def behindFence (s : State) : State := withNode (fun nd => { nd with cur := nd.cur.map fun m => { m with blk := { m.blk with ins := [0, fenceWord] } } }) s

theorem witness_HoldersWithoutAccess : ∀ i ∈ ([.ld, .st, .atom, .fence] : List (FmtM → Instr)), let f : FmtM := { fmtM 0 4 with lsid := 1 }
    isForm (i f) = true ∧ (i f).body = .m f ∧ ¬(i f).opc = 0x189 ∧
    meets (i f) (nulled (i f) 0) 4 (fun c => decide (c.mode false = .null) && decide (tagRes c.t c.tag c.h.tagop.toNat = .ok c.tag none)) = true ∧
    meets (i f) (withUnit (fun u => u.setLsid 1 .nulled) (plain (i f) 0)) 4 (fun c => decide (c.u.lsid 1 = .nulled) && decide (tagRes c.t c.tag c.h.tagop.toNat = .ok c.tag none)) = true ∧
    meets (i { f with h := hdr 0 1 }) (shut (i { f with h := hdr 0 1 }) 0) 4 (fun c => decide (c.u.lsid 1 ≠ .nulled) && decide (c.mode false = .closed)) = true ∧
    meets (i f) (behindFence (plain (i f) 0)) 0 (fun c => decide (c.u.lsid 1 ≠ .nulled) && decide (c.mode false = .go 0xFFFF) && heldByOrder (i f) c 1) = true := by decide +kernel

theorem witness_ReinsAreMade :
    (∀ e ∈ ([(0, 5), (2 ^ 16 + 1, 5), (1, 5), (2 ^ 16, 5)] : List (Nat × Nat)), meets (.reinmk (fmtR 0)) (reined 15 (fed (.reinmk (fmtR 0)) (BitVec.ofNat 64 e.1) (BitVec.ofNat 64 e.2))) 64
      (fun c => openFor (.reinmk (fmtR 0)) (fmtR 0) false c && decide (tagRes c.t c.tag c.h.tagop.toNat = .ok c.tag none) && decide ((optScalar c.r).toNat % 1024 < 1023) &&
        decide (c.s.arena c.t.asid ((optScalar c.r).toNat % 1024) = some anArena) && decide ((optScalar c.l).toNat < 2 ^ 40) &&
        decide (freeRun anArena (((optScalar c.l).toNat + 4095) / 4096) = some 0) == decide (e.1 ≤ 2 ^ 16)) = true) ∧
    (∀ i ∈ ([.reindup, .reinspl, .reinnar, .reindrop] : List (FmtM → Instr)), ∀ x ∈ [0, 1, 4096], meets (i (fmtR 0)) (reined 15 (fed (i (fmtR 0)) (BitVec.ofNat 64 x) 4096)) 64
      (fun c => openFor (i (fmtR 0)) (fmtR 0) false c && decide (tagRes c.t c.tag c.h.tagop.toNat = .ok c.tag none) && (c.rein 0 1).getLsbD 98 &&
        (decide (i (fmtR 0) = .reindup (fmtR 0) ∨ i (fmtR 0) = .reindrop (fmtR 0)) || decide ((optScalar c.l).toNat ≤ rLen (c.rein 0 1))) &&
        (!decide (i (fmtR 0) = .reinnar (fmtR 0)) || (decide ((optScalar c.l).toNat ≤ (optScalar c.r).toNat) && decide ((optScalar c.r).toNat ≤ rLen (c.rein 0 1)) &&
          decide (field (fmtR 0).low 22 4 &&& (15 - rRights (c.rein 0 1)) = 0)))) = true) := by decide +kernel

theorem witness_ReinsAreMade_toldAndSent :
    (meets (.reinq (fmtR 0)) (reined 15 (fed (.reinq (fmtR 0)) 0 0)) 64 (fun c => openFor (.reinq (fmtR 0)) (fmtR 0) false c && decide (tagRes c.t c.tag c.h.tagop.toNat = .ok c.tag none)) = true) ∧
    (let f : FmtM := { fmtR 0 with h := { hdr 3 0 with t0 := 0x500 } }
     meets (.reinsend f) (reined 15 (fed (.reinsend f) 0 0)) 64 (fun c => openFor (.reinsend f) f false c && decide (¬c.h.t0 = 0) && decide (tagRes c.t c.tag c.h.tagop.toNat = .ok c.tag none)) = true) ∧
    (meets (.reinsend (fmtR 0)) (reined 15 (fed (.reinsend (fmtR 0)) 0 (2 ^ 35 - 1))) 64 (fun c => openFor (.reinsend (fmtR 0)) (fmtR 0) false c && decide (c.h.t0 = 0) && (c.rein 0 1).getLsbD 99 &&
      decide ((optScalar c.r).toNat < 2 ^ 35)) = true) := by decide +kernel

/-! ## What firings and commits leave -/

/-- The statements about frames: a firing that changes the node and ends no task, of a form that computes and one that stores. -/
theorem witness_FiringsStoreNothing : ∀ i ∈ ([.add (fmtA 0 0 4), .st (fmtM 0 3), .copy (fmtE 3)] : List Instr), isForm i = true ∧
    nextIs (exec i (paged 0 (fed i 8 8))) (fun t => decide (t.tasks = (paged 0 (fed i 8 8)).tasks) && !decide (t.nodes = (paged 0 (fed i 8 8)).nodes)) = true := by decide +kernel

theorem witness_FiringsWriteNoRegister : ∃ t, exec (.csrwr fmtY) (plain (.csrwr fmtY) 0) = .next t ∧ NoneEnds (plain (.csrwr fmtY) 0) t := by
  obtain ⟨t, ht, h⟩ := nextIs_sound (o := exec (.csrwr fmtY) (plain (.csrwr fmtY) 0)) (P := fun t => decide (t.tasks = (plain (.csrwr fmtY) 0).tasks)) (by decide +kernel)
  exact ⟨t, ht, noneEnds_of_tasks (of_decide_eq_true h)⟩

/-- A node in a plain block in which two faults stand, without and with a fault recorded, whose context 0 goes on after a return. -/
theorem witness_FaultsAreTaken : ∀ x ∈ [0, 2 ^ 63],
    let fs : List FaultRec := [⟨0x30, 7, 0, 0, 0, 1⟩, ⟨0x13, 2, 0, 0, 0, 2⟩]
    let s := withNode (fun nd => { nd with
      fs := { nd.fs with code := BitVec.ofNat 64 x }
      cur := nd.cur.map fun m => { m with faults := fs } }) (plain (.add (fmtA 0 0 4)) 0)
    let nd := s.node placeAt
    canonical s = true ∧ placeAt < 2048 ∧ (nd.cur.map fun m => orderFaults m.faults) = some [⟨0x13, 2, 0, 0, 0, 2⟩, ⟨0x30, 7, 0, 0, 0, 1⟩] ∧
    decide (bit nd.fs.code 63 = true) = decide (x = 2 ^ 63) ∧
    Sparse.wf Ctx.reset nd.ctxs = true ∧ (((discardBlock placeAt).run s).node placeAt).nextCtx = some 0 ∧ nd.task = some 1 ∧ (s.task 1).isSome = true := by decide +kernel

/-- What a commit of a plain block knows, with the actions `acts`. -/
def commitOf (acts : List PAct) : Commit :=
  ⟨placeAt, 1, oneTask 8 0, oneMapped 0, CUnit.fresh 0, acts, [], [], [], ⟨[], [], 0, 0, [], []⟩, 1, 0, ⟨0, .br fmtB, 0, 0⟩, false⟩

/-- The highest S register written last, left alone, emptied; each control register written. -/
theorem witness_CommitsWriteRegisters :
    let set := [⟨0, 0, .regWrite 63 (.scalar 7) false⟩]
    Sparse.wf SReg.reset (oneNode (.br fmtB) 0).s = true ∧ (63 : Nat) < 64 ∧
    (∀ acts ∈ ([[], set, [⟨0, 0, .empty 63⟩], [⟨0, 0, .csrwr 0x12 4⟩], [⟨0, 0, .csrwr 0x13 5⟩], [⟨0, 0, .csrwr 0x14 9⟩], [⟨0, 0, .csrwr 0x10 1⟩], [⟨0, 0, .csrwr 0x8004 9⟩],
      [⟨0, 0, .jordSet 5⟩]] : List (List PAct)), deferred (commitOf acts).m 0 (commitOf acts).acts = []) ∧
    (commitOf set).m.loop = false ∧ ¬63 ∈ (commitOf set).m.takes ∧ defers (commitOf set).m 63 = false := by decide +kernel

/-- The highest V register written by PUTG, a jet group written in the block, a predicate register, and two rein forms that write H3. -/
theorem witness_CommitsWriteRegisters_others :
    let one := TokData.beats [Vec.mk fun _ => 1] 0xFFFF
    let wide := TokData.beats [Vec.mk fun _ => 1, Vec.mk fun _ => 2] 0xFFFF
    let nd := oneNode (.br fmtB) 0
    let h : Commit := { commitOf [] with u := { CUnit.fresh 0 with hNew := [(1, 3, aRein 15), (0, 3, aRein 1)] } }
    Sparse.wf VReg.reset nd.v = true ∧ Sparse.wf 0 nd.p = true ∧ Sparse.wf 0 nd.h = true ∧ (∀ x ∈ (commitOf []).m.takes, x < 64) ∧
    (∀ acts ∈ ([[], [⟨0, 0, .putg 95 one⟩], [⟨0, 0, .regWrite 64 wide false⟩], [⟨0, 0, .putg 96 (.scalar 1)⟩], [⟨0, 0, .putg 127 one⟩]] : List (List PAct)),
      deferred (commitOf acts).m 0 (commitOf acts).acts = [] ∧ defers (commitOf acts).m 95 = false ∧ defers (commitOf acts).m 64 = false) ∧
    (∀ j ∈ [0, 1], 64 - 64 ≤ j ∧ j < 64 - 64 + 2) ∧ (95 : Nat) < 96 ∧
    (1, 3, aRein 15) ∈ h.u.hNew ∧ (∀ e ∈ h.u.hNew, e.2.1 = 3 → e ≠ (1, 3, aRein 15) → e.1 < 1) ∧ ∀ e ∈ h.u.hNew, e.2.1 ≠ 4 := by decide +kernel

/-- A line of the L2, dirty or clean, of data 3. -/
def aLine (data : Byte) : L2Line := ⟨List.replicate 128 data, 15, [], false, none, 0, 0, none, [], false⟩

/-- A committed store of the last two bytes of line 8192, which the L2 holds, ready to be performed. -/
def storing : State :=
  let e : Elem := ⟨126, 8192 * 128 + 126, 2, 0, 0⟩
  { withNode (fun nd => { nd with wq := [.store (.bytes [(e, [1, 2])] 0) 0 0 (Issued.plain 0 0 0 0)] }) (plain (.add (fmtA 0 0 4)) 0) with l2 := [(8192, some (aLine 3))] }

theorem witness_StoresArePerformed :
    let e : Elem := ⟨126, 8192 * 128 + 126, 2, 0, 0⟩
    let op := StoreOp.bytes [(e, [1, 2])] 0
    let t := oneTask 8 0
    canonical storing = true ∧ placeAt < 2048 ∧ (storing.node placeAt).task = some 1 ∧ storing.task 1 = some t ∧ (storing.node placeAt).wq = [.store op 0 0 (Issued.plain 0 0 0 0)] ∧
    lineOf e.pa = 8192 ∧ e.pa % 128 + 2 ≤ 128 ∧ storing.l2Line 8192 = some (aLine 3) ∧ (aLine 3).data.length = 128 ∧
    mayPerform storing 1 t (nodeM t placeAt) op 0 0 (Issued.plain 0 0 0 0) = true ∧ sliceTurn storing (.store placeAt) 8192 = .go ∧ (performTrouble storing ⟨some 1, placeAt, ⟨0x73, 0, 0, 0, 0, 0⟩⟩ op).isNone = true ∧ awaits storing 8192 = false := by decide +kernel

/-- A line whose copy a partner holds: a write to it awaits an acknowledgement. -/
theorem witness_StoresArePerformed_acknowledged : awaits { storing with hub := { storing.hub with mirrored := [(8192, 1, 2)] } } 8192 = true ∧ awaits storing 8192 = false := by decide +kernel

end Sys2Proof.Tests
end

