-- ==== Sys2Proof/Tests/Hub.lean ====
section
/-! SUPPORT. Witnesses for the statements about commands and starts. -/

open Sys2Proof Sys2Proof.Machine Sys2Proof.Bits

namespace Sys2Proof.Tests

set_option Elab.async false

/-- Partition 1: ASIDs 0 to 7, the quad at (8, 0), DEBUG, room in its log; frames 16 (normal) and 17 (covered) of ASID 0. -/
def aPart : Part := { Part.reset with
  w0 := BitVec.ofNat 64 (2 ^ 63 + 2 ^ 61 + 8 * 2 ^ 53 + 8 * 2 ^ 30 + 2 * 2 ^ 14)
  logCap := 100
  frames := [⟨0, ⟨16, 0, 0, true, true, true⟩, false⟩, ⟨0, ⟨17, 1, 1, true, true, false⟩, false⟩] }

/-- A running machine with partition 1, the tables of ASID 0, and nothing queued. -/
def hubbed : State :=
  let link := fun (t u : Nat) => (t * 512, BitVec.ofNat 64 (2 ^ 63 + u * 2 ^ 8))
  { State.reset with
    power := .running
    parts := [(1, aPart)]
    tables := [link 1 2, link 2 3, link 3 4, link 4 5, (5 * 512, leafWord ⟨16, 0, 0, true, true, true⟩), (5 * 512 + 1, leafWord ⟨17, 1, 1, true, true, false⟩)]
    hub := { Hub.reset with roots := [(0, 1)] } }

/-- The same with task 1 of partition 1 running at node 4. -/
def tasked : State := { hubbed with
  nodes := [(placeAt, oneNode (.br fmtB) 0)]
  tasks := [(1, some { oneTask 8 0 with part := 1 })] }

def cmd : Cmd := ⟨1, false⟩

/-- What `InOrder` needs. -/
theorem hubbed_inOrder : InOrder cmd hubbed ∧ InOrder cmd tasked := ⟨⟨rfl, rfl, rfl⟩, ⟨rfl, rfl, rfl⟩⟩

/-- The safe state and a start in progress; SEQs that are ahead, behind and known, behind and forgotten; a nonzero field. -/
theorem witness_CommandsAreAnswered :
    let safe := { hubbed with power := .safe }
    let starting := { hubbed with power := .starting }
    let later := { hubbed with hub := { hubbed.hub with lastCmd := 64, stored := [(1, ⟨0x82, 1, 0, 1, 1, []⟩)] } }
    safe.power = .safe ∧ starting.power = .starting ∧ ¬(0x60 : Nat) = 0x80 ∧ ¬(0x60 : Nat) = 0x82 ∧ hubbed.power = .running ∧ ¬(5 : Word) = hubbed.hub.lastCmd + 1 ∧ hubbed.hub.stored.find? (fun e => e.1 == 5) = none ∧
    (later.hub.stored.find? (fun e => e.1 == 1)).isSome = true ∧ ¬(1 : Word) = later.hub.lastCmd + 1 ∧ (1 : Word).toNat ≤ later.hub.lastCmd.toNat ∧
    later.hub.lastCmd.toNat - (1 : Word).toNat < 64 ∧ (1 : Word) = hubbed.hub.lastCmd + 1 ∧ (⟨1, true⟩ : Cmd).dash = true := by decide +kernel

/-- Partition 2 beside partition 1: ASIDs 8 and 9, the quad at (12, 0). -/
def w0of2 : Word := BitVec.ofNat 64 (2 ^ 63 + 8 * 2 ^ 53 + 8 * 2 ^ 42 + 2 * 2 ^ 30 + 3 * 2 ^ 14)

theorem witness_PartitionCommands_part : let x : Part := { hubbed.part 2 with w0 := w0of2, w1 := 0, w2 := 0 }
    field w0of2 18 12 = 0 ∧ ¬field w0of2 53 8 = 0 ∧ (hubbed.part 2).en = false ∧ x.en = true ∧ rectOk hubbed 2 x = true ∧ asidsOk hubbed 2 x = true ∧ minimaOk hubbed 2 x = true := by
  decide +kernel

theorem witness_PartitionCommands_key_rings : (List.replicate 72 (0 : Byte)).length = 72 ∧ partBusy tasked 1 = true ∧ partBusy hubbed 1 = false ∧ (List.replicate 16 (0 : Word)).length = 16 ∧
    (255 : Nat) < 256 ∧ (8 : Nat) ≤ 8 ∧ (hubbed.part 1).log.length ≤ 8 ∧
    (Config.unwrapKey (List.replicate 72 0) = none ∨ ∃ k, Config.unwrapKey (List.replicate 72 0) = some k) := by
  refine ⟨by decide, by decide +kernel, by decide +kernel, by decide, by decide, by decide, by decide, ?_⟩
  cases Config.unwrapKey (List.replicate 72 0) with
  | none => exact .inl rfl
  | some k => exact .inr ⟨k, rfl⟩

theorem witness_PartitionCommands_frames_quota : let f : FrameReq := ⟨18, 2 ^ 41 - 1, 0, true, true, false⟩
    (7 : Nat) < 2048 ∧ asidIn hubbed 1 7 = true ∧ f.page < 2 ^ 41 ∧ frameOk hubbed 1 f = true ∧ inArena hubbed 7 f.page = false ∧ frameLeaving hubbed f = false ∧ periodWhole hubbed 1 = true := by
  decide +kernel

/-- An arena over the covered page at VA 2^16, and one that is there to be destroyed. -/
theorem witness_PartitionCommands_arenas : let there := { hubbed with hub := { hubbed.hub with arenas := [((0, 1023), { anArena with base := 2 ^ 20 })] } }
    asidIn hubbed 1 0 = true ∧ asidBusy tasked 0 = true ∧ asidBusy hubbed 0 = false ∧ hubbed.arena 0 1 = none ∧ coveredBy hubbed 1 0 (2 ^ 16) (2 ^ 16) = true ∧
    (∀ a ∈ there.hub.arenas, a.1.1 = 0 → a.2.live = true → a.2.base + a.2.size ≤ 2 ^ 16 ∨ 2 ^ 16 + 2 ^ 16 ≤ a.2.base) ∧
    there.arena 0 1023 = some { anArena with base := 2 ^ 20 } ∧ anArena.count = [] ∧ anArena.pending = [] ∧ ¬({ anArena with count := [(0, 1)] } : Arena).count = [] ∧
    rangePass hubbed 0 0 4 (fun _ => true) = true ∧ rangeOwned hubbed 0 0 4 = false := by decide +kernel

/-- Window 15 of die 3, FP16 over one line, and an inactive one; a window over a frame of a partition with a task. -/
theorem witness_PartitionCommands_fwin : let base := 3 * dieBytes
    let w : Win := ⟨BitVec.ofNat 64 base, BitVec.ofNat 64 (base + 127), BitVec.ofNat 64 (8 * 2 ^ 52), BitVec.ofNat 64 (2 ^ 63)⟩
    ownDie hubbed 3 = 3 ∧ field w.w0 52 12 = 0 ∧ field w.w1 52 12 = 0 ∧ field w.w2 56 8 = 0 ∧ field w.w3 32 31 = 0 ∧ w.on = true ∧
    winBusy hubbed ((winNow hubbed 3 15).ranges ++ w.ranges) = false ∧ winsOk hubbed 3 15 w = true ∧ winsOk hubbed 0 0 ⟨0, 0, 0, 0⟩ = true ∧
    winBusy tasked [(16 * 2 ^ 16, 128)] = true := by decide +kernel

/-- A record of partition 1, ASID 0, queued at VA 64. -/
def aRecord : List Word := [0, 0, BitVec.ofNat 64 (1 * 2 ^ 26), 0, 0, 0, 0, 0]
def queued : State := { hubbed with parts := [(1, { aPart with queues := [(0, ⟨[⟨aRecord, 64, 0, 1, 0⟩], [], 0, 0⟩)] })] }

theorem witness_HubCommands : (aRecord.length = 8 ∧ (15 : Nat) < 16 ∧ recField aRecord 2 26 6 = 1 ∧ asidIn hubbed 1 (recAsid aRecord) = true ∧ queueRoom hubbed 1 15 = true ∧
      dueFrame hubbed 0 (64 / 2 ^ 16) = none ∧ (match walk hubbed 0 64 with
        | .entry w => entryWr w
        | .fault => false) = true) ∧
    (queuedAt queued 1 64).isSome = true ∧ logRoom queued 1 = true ∧ (256 : Nat) ≤ 256 ∧ 0 ≤ (hubbed.part 1).nrec ∧ hubbed.hub.leaf < 2 ^ 20 ∧ (127 : Nat) + 1 ≤ 128 ∧
    debugOk tasked 1 placeAt = true ∧ ¬hubbed.power = .off ∧ cmd.seq = hubbed.hub.lastCmd + 1 ∧ cmd.dash = false ∧ (⟨0, false⟩ : Cmd).seq = 0 := by decide +kernel

/-- A part that is off, one that runs with and without a task, and a start in progress: a dawn by power-on and a noon that a command asked for. -/
theorem witness_StartsBeginAnew : canonical State.reset = true ∧ State.reset.power = .off ∧ canonical tasked = true ∧ anyTask tasked = true ∧ anyTask hubbed = false ∧
    tasked.power = .running ∧ tasked.l2 = [] ∧
    ∀ st ∈ ([⟨true, 0, [], none⟩, ⟨false, 2, [], some (0xF0, 1)⟩] : List Start),
      let s := { tasked with power := .starting, hub := { tasked.hub with starting := some st } }
      canonical s = true ∧ s.power = .starting ∧ s.hub.starting = some st := by decide +kernel

/-- Reset is in canonical form, the memory above all. -/
theorem reset_canonical : State.reset.Canonical := canonical_sound (by decide)

/-- A step keeps it, for example the first one. -/
theorem witness_StepKeepsCanonical : State.reset.Canonical ∧ ∃ t, step State.reset = .next t :=
  ⟨reset_canonical, let ⟨t, h, _⟩ := nextIs_sound (P := fun _ => true) (show nextIs (step State.reset) (fun _ => true) = true by decide +kernel); ⟨t, h⟩⟩

end Sys2Proof.Tests
end

