-- ==== Sys2Proof/Tests/Events.lean ====
section
/-! SUPPORT. Witnesses for the statements about events: the mesh, blocks, slices, tasks, the Farrier, engines, meter and monitors. -/

open Sys2Proof Sys2Proof.Machine Sys2Proof.Bits

namespace Sys2Proof.Tests

set_option Elab.async false

/-! ## The mesh -/

/-- A token of task 1 at (x, 0) on its way to node 4 at (8, 0). -/
def flit (x : Nat) : Flit := ⟨1, 0, oneTok, x, 0, 8, 0, 0, 1⟩
def meshed (x : Nat) : State := { tasked with flits := [flit x] }

/-- The same where a dusk token has taken node 4 of the task. -/
def sweptOver : State := withTask (fun t => { t with dusk := some ⟨1, none⟩ }) { meshed 8 with nodes := [] }

theorem witness_MeshEvents_tokens :
    let e : MEntry := ⟨0, 0, some oneTok, none, none⟩
    let f := flit 8
    purged (meshed 8) 1 oneTok = false ∧ purged sweptOver 1 oneTok = false ∧ firstOnEdge sweptOver 0 f = true ∧ (sweptOver.task 1).any Task.sweeping = true ∧
    ¬(sweptOver.node placeAt).task = some 1 ∧
    (∀ x ∈ [8, 9, 32], (meshed x).flits[0]? = some (flit x) ∧ ((meshed x).task (flit x).task).isSome = true ∧ (flit x).tok.par = .good ∧ firstOnEdge (meshed x) 0 (flit x) = true ∧
      (decide (x = 8) ↔ (flit x).x = (flit x).dstX ∧ (flit x).y = (flit x).dstY)) ∧
    crossesDie 32 0 (nextHop 32 0 8 0) = true ∧ (∀ t, (meshed 8).task 1 = some t → t.img.edges = []) ∧ (tasked.node placeAt).task = some 1 ∧
    { tasked.node placeAt with entries := [] }.isDup 0 1 0 = false ∧ (tasked.node placeAt).spillBytes + tokBytes oneTok ≤ 61440 ∧
    ({ tasked.node placeAt with entries := [(0, e)] } : Node).waiting f.q f.slot f.tok.tag = some oneTok ∧ { tasked.node placeAt with entries := [(0, e)] }.isDup f.q f.slot f.tok.tag = true ∧
    ¬Node.reset.task = some 1 ∧ total (Node.reset.spill.map fun x => tokBytes x.tok) + Node.reset.parkBytes + tokBytes oneTok ≤ 65536 := by
  decide +kernel

/-- A result for register 3 under number 7, which the node waits for. -/
def aResult : DefRes := ⟨⟨1, 0, 3, 7⟩, .scalar 9⟩

/-- Colours whose time has come: a loop with a live iteration, a tag space with a freed one and one that TALLOC did not give, a loop that has been left, a call that
has ended, an empty tag space whose owner is gone. -/
def endings (s : State) : State := withTask (fun t => { t with frames := t.frames ++ [(2, loopFrame 1), (3, { Frame.make .tagSpace 0 with live := [1, 2], given := [1], freeing := [1] }),
  (4, { Frame.make .loop 0 with lexit := true }), (5, { Frame.make .call 0 with ended := true }),
  (6, Frame.make .tagSpace 0)] }) s

theorem witness_MeshEvents_rest :
    ([aResult] : List DefRes)[0]? = some aResult ∧ (tasked.task aResult.dst.task).isSome = true ∧
    (let s := endings tasked
     (s.task 1).isSome = true ∧ ∀ t ∈ (s.task 1).toList,
      (∀ f ∈ (t.frame 2).toList, f.kind = .loop ∧ 1 ∈ f.live ∧ tagInUse s 1 t (fun g => g == mkTag 2 1) = false) ∧
      (∀ f ∈ (t.frame 3).toList, f.kind = .tagSpace ∧ 1 ∈ f.freeing ∧ tagInUse s 1 t (fun g => g == mkTag 3 1) = false ∧
        2 ∈ f.live ∧ ¬2 ∈ f.given ∧ tagInUse s 1 t (fun g => g == mkTag 3 2) = false) ∧
      (∀ f ∈ (t.frame 4).toList, f.kind = .loop ∧ f.lexit = true ∧ f.live = [] ∧ tagInUse s 1 t (fun g => tagColour g == 4) = false) ∧
      (∀ f ∈ (t.frame 5).toList, f.kind = .call ∧ f.ended = true ∧ colourRuns s 1 t 5 = false ∧ tagInUse s 1 t (fun g => tagColour g == 5) = false) ∧
      (∀ f ∈ (t.frame 6).toList, f.kind = .tagSpace ∧ f.live = [] ∧ f.freeing = [] ∧ f.owner = none ∧ tagInUse s 1 t (fun g => tagColour g == 6) = false) ∧
      [2, 3, 4, 5, 6].all (fun c => (t.frame c).isSome) = true) := by decide +kernel

/-! ## Blocks -/

/-- A block of one BR at VA 0 in memory, NEXIT 1. -/
def coded : State := withTask (fun t => { t with img := { t.img with codeLen := 128 } })
  (withNode (fun nd => { nd with cur := none, entries := [] }) { tasked with mem := [(2 ^ 20 + 12, 0x40), (2 ^ 20 + 15, 0xB1)] })

def theBlock : Fetched := ⟨0, 0, quadsOf 4 (fetchBytes coded placeAt (oneTask 8 0) 0 64), []⟩

theorem witness_BlockEvents_fetch :
    mayRun coded placeAt = true ∧ (coded.node placeAt).cur = none ∧ (coded.node placeAt).fetched = none ∧ (coded.node placeAt).prefetched = none ∧ (coded.node placeAt).nextCtx = some 0 ∧
    ((coded.node placeAt).ctx 0).wide = none ∧
    (∀ t ∈ (coded.task 1).toList, fetchStop coded placeAt 1 t 0 0 64 |>.isNone) ∧ (coded.task 1).isSome = true ∧ hKind theBlock = 0xB1 ∧
    (∀ t ∈ (coded.task 1).toList, inExtent t theBlock = true ∧ (fetchStop coded placeAt 1 t 0 0 (blockBytes theBlock)).isNone) ∧
    (let far := withNode (fun nd => { nd with ctxs := [(0, ⟨0, 0, .ready, some (2 ^ 57), []⟩)] }) coded
     (far.node placeAt).nextCtx = some 0 ∧ ((far.node placeAt).ctx 0).wide.isSome = true) := by decide +kernel

/-- The fetched block is good; a block whose KIND is none is not. -/
theorem witness_BlockEvents_map : ∀ e ∈ ([(quadsOf 4 (fetchBytes coded placeAt (oneTask 8 0) 0 64), true), ([0, 0, 0, 0], false)] : List (List Quad × Bool)),
    let b : Fetched := ⟨0, 0, e.1, [0]⟩
    let s := withNode (fun nd => { nd with fetched := some b }) coded
    canonical s = true ∧ mapJob s placeAt = some b ∧ 16 + 2 * hNins b ≤ (s.node placeAt).crib.remaining ∧ hReads b = [] ∧
    (∀ t ∈ (s.task 1).toList, (mapFailure t placeAt (s.node placeAt).jord b).isNone = e.2) := by decide +kernel

/-- A block whose BR has fired commits; with a tile that it arms twice it does not. -/
def mappedCode (u : CUnit → CUnit) : State :=
  withNode (fun nd => { nd with cur := some { oneMapped 0 with blk := ⟨0, 0, quadsOf 4 (fetchBytes coded placeAt (oneTask 8 0) 0 64), [0]⟩, units := [u (CUnit.fresh 0)] } }) coded

def isOk (j : Judge) : Bool := match j with
  | .ok c => c.acts.all fun a => match a.act with
    | .out _ _ => false
    | _ => true
  | _ => false
def isFault (j : Judge) : Bool := match j with
  | .fault _ => true
  | _ => false

def brFired (u : CUnit) : CUnit := { u with fired := [⟨0, 0, []⟩], exit := some ⟨0, .br fmtB, 64, 0⟩ }

/-- What the commit of `s` meets in the records that it reads. -/
def meetsError (s : State) : Bool := match judge s placeAt 0 with
  | .ok c => (hubTrouble s c).isSome
  | _ => false

/-- A block whose QPUSH reads a record of line 8192, whose line is as `bad` has it. -/
def pushing (bad : List Nat) : State := { mappedCode (fun u => { brFired u with acts := [⟨0, 0, .hub (.qpush 0 0 0 (2 ^ 20)) none⟩] }) with
  l2 := [(8192, some { aLine 3 with ue := bad })] }

theorem witness_BlockEvents_commit : isOk (judge (mappedCode brFired) placeAt 0) = true ∧ meetsError (mappedCode brFired) = false ∧ meetsError (pushing []) = false ∧ meetsError (pushing [0]) = true ∧
    isFault (judge (mappedCode fun u => { brFired u with acts := [⟨0, 0, .accArm 0 1⟩, ⟨0, 0, .accArm 0 1⟩] }) placeAt 0) = true ∧
    readyFirst (mappedCode brFired) placeAt 0 = true ∧
    readyFirst (withNode (fun nd => { nd with cur := nd.cur.map fun m => { m with
      blk := { m.blk with hdr := [BitVec.ofNat 128 (0xB2 * 2 ^ 120), 0, 0, 0] }, ready := [mkTag 1 0] } }) (mappedCode brFired)) placeAt 0 = false := by decide +kernel

/-- A load that has its line. -/
def aLoad (wait : List Nat) (got : List (Nat × List Byte)) : PLoad := ⟨0, 0, 0, 0, .ld (fmtM 0 3), [⟨8, 2 ^ 20 + 8, 4, 0, 0⟩], wait, got, none, none, 0⟩
def loading (wait : List Nat) (got : List (Nat × List Byte)) : State := withNode (fun nd => { nd with loads := [aLoad wait got] }) (plain (.add (fmtA 0 0 4)) 0)

theorem witness_BlockEvents_load : let s := loading [] [(8192, List.replicate 128 3)]
    ∀ t ∈ (s.task 1).toList, (s.node placeAt).loads[0]? = some (aLoad [] [(8192, List.replicate 128 3)]) ∧ (s.node placeAt).cur.isSome = true ∧ bit (s.node placeAt).fs.code 63 = false ∧
      tagRes t 0 (aLoad [] []).instr.hdr.tagop.toNat = .ok 0 none ∧ (s.node placeAt).cur.all (fun m => !decide ((m.unit 0).lsid 0 = .nulled)) = true := by decide +kernel

/-! ## Slices -/

/-- A load of line 8192: owned by another task, newly and with the load in its queue, in the L2, and nowhere. -/
theorem witness_SliceEvents_reads :
    (let s := { loading [8192] [] with l2 := [(8192, some { aLine 3 with owner := some 1 })] }
     sliceTurn s (.load placeAt 0) 8192 = .enter ∧ sliceTurn { s with waiters := [⟨8192, .load placeAt 0⟩] } (.load placeAt 0) 8192 = .wait) ∧
    (let s := { loading [8192] [] with l2 := [(8192, some (aLine 3))] }
     sliceTurn s (.load placeAt 0) 8192 = .go ∧ (lineTrouble s (loadWho s placeAt 1 (aLoad [8192] [])) 8192).isNone = true ∧ s.l2Line 8192 = some (aLine 3) ∧ (aLoad [8192] []).want = none ∧
      (wqOverlay (s.node placeAt) 8192 (aLine 3).data).isSome = true) ∧
    (let s := loading [8192] []
     sliceTurn s (.load placeAt 0) 8192 = .go ∧ (lineTrouble s (loadWho s placeAt 1 (aLoad [8192] [])) 8192).isNone = true ∧ s.l2Line 8192 = none ∧ s.breqs = []) ∧
    (performJob storing placeAt).isSome = true := by decide +kernel

/-- Requests of one port: the first with tag 0, the second without one; a write; a line whose codeword is broken. -/
def asking (w : Option (BitVec 128)) (bad : List Nat) : State :=
  { hubbed with breqs := [⟨0, 1, 2, 8192, w, some 0, placeAt, none, []⟩, ⟨0, 1, 2, 8193, none, none, placeAt, none, []⟩], hub := { hubbed.hub with memUe := bad } }

theorem witness_SliceEvents_requests : ∀ wr : Bool, ∀ bad ∈ [[], [16384]],
    let s := asking (if wr then some 1 else none) bad
    (∀ a ∈ s.breqs.take 1, a.tag.isSome = true) ∧ (∀ a ∈ s.breqs, ¬a.tag = some 1) ∧ (∃ a ∈ s.breqs, a.tag = some 0) ∧ (s.breqs[0]?.bind fun b => b.tag).isSome = true ∧ s.breqs.take 0 = [] ∧
    (brokenWords s 8192).head? = (if bad = [] then none else some 16384) := by decide +kernel

/-! ## Tasks -/

/-- Task 1 with its node halted. -/
def halted : State := withNode (fun nd => { nd with halted := true, ctxs := [(0, ⟨0, 0, .halted, none, []⟩)], cur := none, entries := [] }) tasked

theorem witness_TaskEvents_end : canonical halted = true ∧ (∀ t ∈ (halted.task 1).toList, taskDone halted 1 t = true) ∧ (halted.task 1).isSome = true ∧
    slotJob (withTask (fun t => { t with st := .ending }) halted) 0 = some 1 := by decide +kernel

/-- A record whose address is misaligned is rejected; a swept task is taken back where its partition has room. -/
def badRecord : State := { hubbed with parts := [(1, { aPart with queues := [(0, ⟨[⟨[1, 0, BitVec.ofNat 64 (1 * 2 ^ 26)], 64, 0, 1, 0⟩], [], 0, 0⟩)] })] }
def swept : State := withTask (fun t => { t with st := .swept }) { tasked with nodes := [] }

theorem witness_TaskEvents_bids :
    (∀ b ∈ (bids badRecord 1).head?.toList, (match verdict badRecord 1 (placement badRecord 1) b, b.who with
      | .reject k, .new _ _ => k = 2
      | _, _ => false) = true) ∧ (bids badRecord 1).length = 1 ∧ logRoom badRecord 1 = true ∧
    (∀ b ∈ (bids swept 1).head?.toList, verdict swept 1 (placement swept 1) b = .admitted (8, 0) none) ∧ (bids swept 1).length = 1 ∧ admissionStopped swept 1 = false ∧
    (reservingBid swept 1).isNone = true := by decide +kernel

/-- An image at VA 0 for one node of one quad, with one block of code, in a machine that maps a context area at VA 2 MiB. -/
def imaged (s : State) : State :=
  let large := fun (k : Nat) => (4 * 512 + k, BitVec.ofNat 64 (3 * 2 ^ 62 + 3 * 2 ^ 58 + 32 * k * 2 ^ 16))
  let link := fun (t u : Nat) => (t * 512, BitVec.ofNat 64 (2 ^ 63 + u * 2 ^ 8))
  { s with
    mem := [(0, 0x42), (1, 0x52), (2, 0x49), (3, 0x58), (4, 0x49), (5, 0x4D), (6, 0x47), (7, 0x31), (8, 4), (10, 2), (12, 1), (24, 128), (32, 128), (41, 1), (82, 1), (83, 1)].map
      fun e => (2 ^ 20 + e.1, e.2)
    tables := [link 1 2, link 2 3, link 3 4, link 4 5, large 1, large 2, large 3, (5 * 512, leafWord ⟨16, 0, 0, true, true, true⟩)] }

/-- Its record: ALLOT 1, context area at 2 MiB, priority 1. -/
def goodRecord : List Word := [0, 1, BitVec.ofNat 64 (1 * 2 ^ 26 + 2 ^ 21), 0, 2 ^ 21, 0, 0, 0]
def bidding (tasks : List (Nat × Option Task)) (rs : List (List Word)) (others : List (Nat × Part)) : State :=
  imaged { tasked with
    nodes := []
    tasks := tasks
    parts := (1, { aPart with quota := 100, queues := [(0, ⟨rs.zipIdx.map fun r => ⟨r.1, 64, 0, 1 + r.2, 0⟩, [], 0, 0⟩)] }) :: others }

/-- Its rectangle taken; its rectangle free and its die without a slot, which a swept task holds. -/
def crowdedOut : State := bidding [(1, some { oneTask 8 0 with part := 1, asid := 7 })] [goodRecord, [1, 0, BitVec.ofNat 64 (1 * 2 ^ 26)]] []
def slotless : State := bidding [(1, some { oneTask 8 0 with part := 1, asid := 7, st := .swept, enq := 9 })] [goodRecord]
  [(2, { Part.reset with w0 := w0of2, w1 := BitVec.ofNat 64 (255 * 2 ^ 32) })]

def passed (s : State) (r : List Word) : Bool := match checkRecord s 1 r with
  | .pass c => c.img.width = 4 && c.img.height = 2
  | _ => false

/-- A good record waits above a bad one, and above a swept task that has a place. -/
theorem witness_TaskEvents_waiting :
    passed crowdedOut goodRecord = true ∧ placement crowdedOut 1 4 2 = none ∧ passed slotless goodRecord = true ∧ placement slotless 1 4 2 = some (8, 0) ∧
    freeSlot slotless (dieAt 8 0) 1 = none ∧
    ((bids crowdedOut 1).map fun b => verdict crowdedOut 1 (placement crowdedOut 1) b) = [.wait true, .reject 2] ∧ logRoom crowdedOut 1 = true ∧
    ((bids slotless 1).map fun b => verdict slotless 1 (placement slotless 1) b) = [.wait true, .admitted (8, 0) none] ∧ admissionStopped slotless 1 = false ∧
    (reservingBid slotless 1).isNone = true ∧ (reservingBid crowdedOut 1).isNone = true := by decide +kernel

/-- A record that declares an arena waits while its ASID has a task; an image of which a codeword is broken. -/
theorem witness_TaskEvents_stopped :
    (let s := crowdedOut
     let t := bidding [(1, some { oneTask 8 0 with part := 1 })] [goodRecord] []
     let u := { t with mem := (2 ^ 20 + 16, 1) :: t.mem |> fun l => sortLe (fun a b => decide (a.1 < b.1)) ((2 ^ 20 + 114, 1) :: l) }
     checkRecord u 1 goodRecord = .wait (some (4, 2)) ∧ placement u 1 4 2 = none ∧
     (imageTrouble { s with hub := { s.hub with memUe := [2 * 8192] } } 0 0).isSome = true ∧ (imageTrouble s 0 0).isNone = true) := by decide +kernel

/-- A slice of 1 microsecond that has run out, with and without a task to take the place. -/
def sliced (others : List (Nat × Option Task)) : State :=
  { tasked with
    tbase := 1000
    parts := [(1, { aPart with w1 := BitVec.ofNat 64 (1 * 2 ^ 40) })]
    tasks := (1, some { oneTask 8 0 with part := 1 }) :: others }

theorem witness_TaskEvents_slices :
    (let t := { oneTask 8 0 with part := 1 }
     let two := sliced [(2, some { t with st := .swept, owner := 1, enq := 1 })]
     (sliced []).task 1 = some t ∧ t.st = .running ∧ t.dusk = none ∧ field ((sliced []).part 1).w1 40 24 = 1 ∧ 1 * 1000 ≤ (sliced []).tbase.toNat - t.sliceFrom.toNat ∧
     (incomingBid (sliced []) t).isNone = true ∧ (incomingBid two t).isSome = true) ∧
    (∀ pos ∈ [0, 8], let t := { oneTask 8 0 with part := 1, dusk := some ⟨pos, some 2⟩ }
     let s := { tasked with tasks := [(1, some t)] }
     s.task 1 = some t ∧ (decide (pos < t.img.width * t.img.height) = decide (pos = 0)) ∧ s.flits = [] ∧ ∀ e ∈ s.tasks, e.1 = 1) := by decide +kernel

/-- A granule that nothing covers, and a rein on its way to register H3 of node 0 of task 1. -/
theorem witness_TaskEvents_reins :
    (let s := { hubbed with hub := { hubbed.hub with arenas := [((0, 5), { anArena with taken := [2], pending := [(2, [])] })] } }
     ∀ a ∈ (s.arena 0 5).toList, (2, []) ∈ a.pending ∧ Sparse.get 0 a.count 2 = 0 ∧ granuleInFlight s 0 a.base 2 = false) ∧
    (let s := { withTask (fun t => { t with img := { t.img with reinIns := [(0, 0, 3)] } }) coded with reins := [(1, 0, aRein 15, 2)] }
     s.reins[0]? = some (1, 0, aRein 15, 2) ∧ ∀ t ∈ (s.task 1).toList, reinInput t 0 = some (0, 3) ∧ (refNode s (homeRef s 1 t 0)).cur = none ∧
      (refNode s (homeRef s 1 t 0)).hreg 3 = 0) := by decide +kernel

/-! ## The Farrier -/

def aReport (task : Option Nat) : Report := ⟨placeAt, task, 1, ⟨0x31, 0, 0, 0, 0, 0⟩, 0, 0⟩

/-- A report of a live task and of none; the page that is asked for: VA page 9, for which frame 19 is assigned, and page 10, for which none is. -/
theorem witness_FarrierEvents_reports :
    taskLive tasked 1 = true ∧ taskLive (withTask (fun t => { t with st := .ending }) tasked) 1 = false ∧ (aReport none).task = none ∧
    (let s := { tasked with parts := [(1, { aPart with frames := ⟨0, ⟨19, 9, 0, true, true, false⟩, false⟩ :: aPart.frames })] }
     (groomFinds s 0 ⟨aReport (some 1), 9, false, false⟩).isSome = true ∧ (groomFinds s 0 ⟨aReport (some 1), 10, false, false⟩).isNone = true) := by decide +kernel

/-- A leaf that may be unmapped; tokens behind which nothing stands. -/
theorem witness_FarrierEvents_unmaps :
    leafKey hubbed 0 0 = some 2560 ∧ bit (Sparse.get 0 hubbed.tables 2560) 63 = true ∧ inArena hubbed 0 0 = false ∧
    (∀ page ∈ [none, some 9], let s := { coded with relatch := [⟨1, 0, 5, 1, page⟩], drains := [⟨1, 0, 5, 1⟩], unmaps := [⟨1, 0, 0, some 16⟩] }
     unmapFrame s 1 = some 16 ∧ ∀ t ∈ (s.task 1).toList, (refNode s (homeRef s 1 t 0)).older 5 = false ∧ (refNode s (homeRef s 1 t 0)).olderStores 5 = false ∧
       (refNode s (homeRef s 1 t 0)).pends 16 = false ∧ (refNode s (homeRef s 1 t 0)).loads = []) := by decide +kernel

/-- Two tasks, each of whose stores waits for a line of the other. -/
def crossed : State :=
  let waits := fun (line : Nat) => [WItem.store (.bytes [(⟨0, line * 128, 1, 0, 0⟩, [1])] 0) 0 0 (Issued.plain 0 0 0 0)]
  { tasked with
    nodes := [(placeAt, { oneNode (.br fmtB) 0 with wq := waits 8192, cur := none, entries := [], halted := true }),
      (placeAt + 1, { oneNode (.br fmtB) 0 with task := some 2, wq := waits 8193, cur := none, entries := [], halted := true })]
    tasks := [(1, some { oneTask 8 0 with part := 1 }), (2, some { oneTask 10 0 with part := 1, owner := 1, enq := 1 })]
    l2 := [(8192, some { aLine 3 with owner := some 1 }), (8193, some { aLine 3 with owner := some 0 })] }

theorem witness_FarrierEvents_cycle : waitCycles crossed 1 = [[1, 2]] ∧ crossed.hub.cycle = [] ∧
    (let s := { crossed with tbase := 1000000, hub := { crossed.hub with cycle := [(1, [1, 2], 0)] } }
     waitCycles s 1 = [[1, 2]] ∧ s.hub.cycle.find? (fun c => decide (1000000 ≤ s.tbase.toNat - c.2.2.toNat)) = some (1, [1, 2], 0) ∧ cycleVictim s [1, 2] = some 2) := by
  decide +kernel

theorem witness_FarrierEvents_cribs :
    (let s := withNode (fun nd => { nd with crib := { nd.crib with sealed := false } }) tasked
     (s.node placeAt).task.isSome = true ∧ (s.node placeAt).crib.unfed = 0 ∧ (s.node placeAt).crib.sealed = false) ∧
    (tasked.node placeAt).task = some 1 ∧ (tasked.node placeAt).crib.charge - 1 < (tasked.node placeAt).crib.charge := by decide +kernel

/-! ## Engines -/

/-- Task 1 with one open card of a class, VA 0 mapped on its die. -/
def working (cls : Nat) (ws : List Nat) (f : Card → Card) : State :=
  { tasked with
    tlb := [page (nodeDie placeAt) 0 true true]
    cards := [f { aCard cls .running with words := ws.map (BitVec.ofNat 64), ptr := 0 }] }

/-- The work of a card as its class has it. -/
def workOf (cls : Nat) (s : State) (c : Card) (t : Task) : Option EStep :=
  if cls = 0 then copyWork s c t else if cls = 1 then gatherWork s c t else if cls = 2 then collWork s c t false [] else topkWork s c t

theorem witness_EngineEvents_steps : (∀ e ∈ ([(0, [0, 128, 128]), (1, [0, 256, 512, 2 ^ 32 + 4, 4, 4]), (2, [0, 128, 128, 0x10030, 0, 256]), (3, [0, 256, 384, 2 ^ 32 + 1, 2, 0x71])] : List (Nat × List Nat)),
      let s := working e.1 e.2 id
      ∀ x ∈ (openCard s 0 e.1).toList, x.1.fb = false ∧ ((workOf e.1 s x.1 x.2).all fun w => (stepEnters s x.1 x.2 w).isNone) = true ∧
        ((workOf e.1 s x.1 x.2).bind fun w => engineStep s 0 x.1 x.2 w).isSome = true) ∧
    (∀ e ∈ ([(0, [0, 128, 128]), (1, [0, 256, 512, 2 ^ 32 + 4, 4, 4]), (2, [0, 128, 128, 0x10030, 0, 256]), (3, [0, 256, 384, 2 ^ 32 + 1, 2, 0x71])] : List (Nat × List Nat)),
      (openCard (working e.1 e.2 id) 0 e.1).isSome = true ∧ ((working e.1 e.2 id).cards.length = 1)) ∧
    (let s := working 0 [0, 128, 128] fun c => { c with fb := true }
     ∀ x ∈ (openCard s 0 0).toList, x.1.fb = true ∧ kernelRuns s x.1 x.2 = true ∧ ((copyWork s x.1 x.2).all fun w => (stepEnters s x.1 x.2 w).isNone) = true ∧
       ((copyWork s x.1 x.2).bind fun w => engineStep s 0 x.1 x.2 w).isSome = true) ∧
    (let s := working 2 [0, 128, 128, 0x10030, 0, 256] fun c => { c with ptr := 128 }
     ∀ c ∈ s.cards, c.cls = 2 ∧ cardOpen s c = true ∧ c.workDone = true ∧ cardAwaits s 0 = false) := by decide +kernel

/-- A write of partition 1 to line 8192 that awaits the partner. -/
def sent : MirWait := ⟨8192, 1, 0, 1, none, 0, none, none, false, false, false, 0⟩

/-- A MIRROR card of the page at VA 0 for partner 2. -/
def mirroring : State := { working 4 [0, 1, 1, 2] id with parts := [(1, { aPart with partner := 2, mirBase := 2 ^ 20, mirLen := 2 ^ 16 })] }

theorem witness_EngineEvents_mirror :
    (openCard mirroring 0 4).isSome = true ∧
    (∀ x ∈ (openCard mirroring 0 4).toList, bit (cw x.1.words 2) 0 = true ∧ (mirroring.part x.2.part).partner = cf x.1.words 3 0 8 ∧
      engineAccess mirroring x.2 x.1 true (((cw x.1.words 0).toNat + x.1.dst + x.1.ptr) / 128) = .ok 8192 ∧ paired mirroring x.2.part 2 8192 = true ∧
      sliceTurn mirroring (.card x.1.order) 8192 = .go ∧ canHave mirroring 8192 = true ∧ (lineTrouble mirroring (engWho x.1) 8192).isNone = true) ∧
    (let s := { mirroring with parts := [(1, { aPart with partner := 3 })] }
     ∀ x ∈ (openCard s 0 4).toList, ¬(s.part x.2.part).partner = cf x.1.words 3 0 8) ∧
    (let s := { hubbed with tbase := 100000000, mirror := [sent] }
     s.mirror[0]? = some sent ∧ sent ∈ s.mirror ∧ sent.far = false ∧ sent.lost = false ∧ sent.card = none ∧ sent.acq = false ∧ s.task sent.task = none ∧ 100000000 ≤ s.tbase.toNat - (0 : Word).toNat) := by decide +kernel

/-- A parked card with the charge and, on a halted node, without it; a late card of a deadline partition. -/
theorem witness_EngineEvents_parked :
    (let s := working 0 [0, 128, 128] fun c => { c with st := .parked }
     ∀ c ∈ s.cards, ∀ t ∈ (s.task c.task).toList, c.st = .parked ∧ nextDraw s c t ≤ (refNode s (homeRef s c.task t c.m)).crib.remaining) ∧
    (let s := withNode (fun nd => { nd with halted := true, crib := Crib.reset }) (working 0 [0, 128, 128] fun c => { c with st := .parked })
     ∀ c ∈ s.cards, ∀ t ∈ (s.task c.task).toList, (refNode s (homeRef s c.task t c.m)).crib.remaining < nextDraw s c t ∧ (refNode s (homeRef s c.task t c.m)).halted = true) ∧
    (let s := { withTask (fun t => { t with img := { t.img with bound := [⟨0, 0, 1, 2, 1, 0⟩] } })
        (working 0 [0, 128, 128, 0, 0, 0, 0, 2 ^ 32] fun c => { c with st := .queued, flags := 2 }) with
        tbase := 2
        parts := [(1, { aPart with w0 := aPart.w0 ||| 0x4000_0000_0000_0000 })] }
     (fallbackJob s 0).isSome = true) := by decide +kernel

/-! ## Meter and monitors -/

theorem witness_MeterAndMonitorEvents :
    (let s := { hubbed with tbase := BitVec.ofNat 64 (1000 * 2 ^ 40) }
     (s.part 1).en = true ∧ 2 ^ 40 ≤ (s.tbase.toNat - (s.part 1).opened.toNat) / 1000 ∧ periodWhole s 1 = true) ∧
    (let s := { hubbed with parts := [(1, { aPart with toSign := [(256, [])] })] }
     s.hub.leaf < 2 ^ 20 ∧ (s.part 1).toSign = (256, []) :: []) ∧
    (¬hubbed.power = .off ∧ hubbed.hub.thermal = false ∧ (⟨127, 1680, 0, 0⟩ : MonSample).temp.toInt ≤ 1680 ∧ (127 : Nat) < 128) ∧
    (∀ l ∈ [aLine 3, { aLine 3 with tagUe := true }, { aLine 3 with ue := [0] }], ({ hubbed with l2 := [(8192, some l)] } : State).l2Line 8192 = some l) ∧
    (let s := { hubbed with hub := { hubbed.hub with retires := [⟨8192, some 1, none, none⟩, ⟨2 ^ 20, none, none, none⟩] } }
     let broken := { s with l2 := [(8192, some { aLine 3 with ue := [0] })] }
     s.hub.retires[0]? = some ⟨8192, some 1, none, none⟩ ∧ frameOwner s 16 = some 1 ∧ retireReady s 16 = true ∧ s.hub.retires[1]? = some ⟨2 ^ 20, none, none, none⟩ ∧
     frameOwner s (2 ^ 20 * 128 / 2 ^ 16) = none ∧ (∀ frame ∈ [16, 2 ^ 20 * 128 / 2 ^ 16], (frameTrouble s frame).isNone = true ∧
       frameDying s frame (s.hub.retires.filter fun x => x.line * 128 / 2 ^ 16 == frame) = false) ∧ (frameTrouble broken 16).isSome = true) ∧
    (let l := { aLine 3 with owner := some 0, ue := [0] }
     let s := { tasked with l2 := [(8192, some l)] }
     canonical s = true ∧ s.l2Line 8192 = some l ∧ l.owner = some 0 ∧ ownerTask s 0 = some 1 ∧ taskLive s 1 = true ∧ (s.task 1).isSome = true) ∧
    (∀ nrec ∈ [254, 255], decide ((nrec + 1) % 256 = 0) = decide (nrec = 255)) := by
  decide +kernel

end Sys2Proof.Tests
end

