-- ==== Sys2Proof/Tests/Examples.lean ====
section
/-! SUPPORT. The manual's worked examples: one firing each, its delivered value, its flags and its draw as the example's text gives
them. -/

open Sys2Proof Sys2Proof.Machine Sys2Proof.Bits

namespace Sys2Proof.Tests

set_option Elab.async false

/-- What a firing leaves: the data that waits at the left slot of instruction 1, the flags its unit holds, and what it drew. -/
def leaves (i : Instr) (k : Nat) (l r p : Tok) : Option (TokData × BitVec 5 × Word × Nat) :=
  match exec i (firing i k l r p id) with
  | .next t => match (t.node placeAt).waiting 1 1 0 with
    | some x => (t.node placeAt).cur.bind fun m => m.units.head?.map fun u => (x.data, u.fpFlags, u.jFlags, (t.node placeAt).crib.drawn)
    | none => none
  | _ => none

def sc (x : Nat) : Tok := mkTok 0 (.scalar (BitVec.ofNat 64 x)) false
/-- A vector of the given first lanes, the others zero. -/
def lanes (xs : List Nat) (mask : Nat) : TokData := .beats [Vec.mk fun k => BitVec.ofNat 32 (xs.getD k 0)] (BitVec.ofNat 16 mask)
def vec (xs : List Nat) (mask : Nat) : Tok := mkTok 0 (lanes xs mask) false
/-- A jet with the same coefficients in every lane. -/
def coeffs (xs : List Nat) : TokData := .beats (xs.map fun x => Vec.fill (BitVec.ofNat 32 x)) 0xFFFF
def jet (xs : List Nat) : Tok := mkTok 0 (coeffs xs) false

/-- A plane's header with its one target at the left slot of instruction 1. -/
def at1 (p pm : Nat) : Hdr := { hdr p pm with t0 := 0x401 }
/-- Format A with RM, TY, SAT and VAR. -/
def fa (p pm rm ty sat var : Nat) : FmtA := ⟨at1 p pm, 0, 0, BitVec.ofNat 3 rm, BitVec.ofNat 4 ty, BitVec.ofNat 1 sat, BitVec.ofNat 3 var⟩

/-- A scalar firing delivers `y` with the flags `fl`. -/
def scalarIs (i : Instr) (a b c : Nat) (y : Nat) (fl : Nat) : Bool :=
  match leaves i 0 (sc a) (sc b) (sc c) with
  | some x => decide (x.1 = .scalar (BitVec.ofNat 64 y)) && decide (x.2.1 = BitVec.ofNat 5 fl)
  | none => false

/-- 09, the integer examples: ADD.S.INT8 and its `.SAT`, DIV.S.INT32 and its `.SAT`; the unsigned maximum of R185 in a lane. -/
theorem test_integer_examples :
    scalarIs (.add (fa 0 0 0 0 0 0)) 100 100 0 0xFFFFFFFFFFFFFFC8 0 = true ∧ scalarIs (.add (fa 0 0 0 0 1 0)) 100 100 0 0x7F 0 = true ∧
    scalarIs (.div (fa 0 0 0 3 0 0)) 0x80000000 0xFFFFFFFF 0 0xFFFFFFFF80000000 0 = true ∧ scalarIs (.div (fa 0 0 0 3 1 0)) 0x80000000 0xFFFFFFFF 0 0x7FFFFFFF 0 = true ∧
    (leaves (.max (fa 1 0 0 0 0 1)) 0 (vec [0xC8, 0x64] 3) (vec [0x64, 0xC8] 3) (sc 1)).map (fun x => x.1) = some (lanes [0xFFFFFFC8, 0xFFFFFFC8] 3) := by decide +kernel

/-- 09 after R192: one rounding of FMA against two of FMUL and FADD. -/
theorem test_fused_example :
    scalarIs (.fma (fa 0 1 0 8 0 0)) 0x3C01 0xBC02 0x3C01 0x0010 0 = true ∧ scalarIs (.fmul (fa 0 0 0 8 0 0)) 0x3C01 0x3C01 0 0x3C02 16 = true ∧
    scalarIs (.fadd (fa 0 0 0 8 0 0)) 0x3C02 0xBC02 0 0 0 = true := by decide +kernel

/-- 09 R199 and its examples; 02, the worked encodings of E4M3, E5M2, E2M1 and E3M5. -/
theorem test_conversion_examples :
    scalarIs (.cvt (fa 0 0 0 5 0 6)) 0x43FA0000 0 0 0x7F 20 = true ∧ scalarIs (.cvt (fa 0 0 0 5 1 6)) 0x43FA0000 0 0 0x7E 20 = true ∧
    scalarIs (.cvt (fa 0 0 0 0 0 6)) 0x43488000 0 0 0xFFFFFFFFFFFFFF80 1 = true ∧ scalarIs (.cvt (fa 0 0 0 0 1 6)) 0x43488000 0 0 0x7F 1 = true ∧
    scalarIs (.cvt (fa 0 0 1 0 0 6)) 0xC0FCCCCD 0 0 0xFFFFFFFFFFFFFFF9 16 = true ∧
    scalarIs (.cvt (fa 0 0 0 5 0 6)) 0xC0300000 0 0 0xC3 0 = true ∧ scalarIs (.cvt (fa 0 0 0 6 0 6)) 0xC0300000 0 0 0xC2 16 = true ∧
    scalarIs (.cvt (fa 0 0 0 11 0 6)) 0xC0300000 0 0 0xD 16 = true := by decide +kernel

def pack4In : List Nat := [0x40100000, 0xBECCCCCD, 0x40A00000, 0, 0x3F400000, 0xC0400000, 0x3F99999A, 0x40900000]
def unpk4Out : List Nat := [0x40100000, 0xBEC00000, 0x40900000, 0, 0x3F400000, 0xC0400000, 0x3F900000, 0x40900000]

/-- 09 R202, R203: the lanes packed and unpacked again. -/
theorem test_pack4_example :
    leaves (.pack4 (fa 1 0 0 11 0 0)) 0 (vec pack4In 0xFFFF) (vec [0x50, 0x50] 0xFFFF) (sc 1) = some (lanes [0x73E20795, 0, 0x5050] 7, 0x18, 0, 40) ∧
    leaves (.unpk4 (fa 1 0 0 11 0 0)) 0 (vec [0x73E20795, 0, 0x5050] 7) (sc 0) (sc 1) = some (lanes unpk4Out 0xFFFF, 0, 0, 40) := by decide +kernel

/-- 11 R223: the pairwise tree of RED.ADD. -/
theorem test_red_example :
    (leaves (.red ⟨at1 1 0, 0, 0, 0x90⟩) 0 (vec ([0x4B800000, 0x4B800000] ++ List.replicate 14 0x3F800000) 0xFFFF) (sc 0) (sc 1)).map (fun x => (x.1, x.2.1)) =
      some (.beats [Vec.fill 0x4C000003] 0xFFFF, 16) := by decide +kernel

/-- A jet firing at order 2 delivers `y` with the flags `jf` in JFLAGS. -/
def jetIs (i : Instr) (l r : Tok) (y : TokData) (jf : Nat) : Bool :=
  match leaves i 2 l r (sc 1) with
  | some x => decide (x.1 = y) && decide (x.2.2.1 = BitVec.ofNat 64 jf)
  | none => false

/-- 02 R59: the product of two FP16 jets. -/
theorem test_jet_product_example :
    jetIs (.fmul (fa 2 0 0 8 0 0)) (jet [0x5CB0, 0x5640, 0x4200]) (jet [0x5CB0, 0x4000, 0x3C00]) (coeffs [0x7C00, 0x7778, 0x6578]) 0x1014 = true := by decide +kernel

/-- 10, the order-2 examples: FEXP, FSIN, FCOS. -/
theorem test_order2_FEXP_FSIN_FCOS :
    jetIs (.fexp (fa 2 0 0 9 0 0)) (jet [0, 0x3F800000, 0x3F800000]) (sc 0) (coeffs [0x3F800000, 0x3F800000, 0x3FC00000]) 0 = true ∧
    jetIs (.fsin (fa 2 0 0 9 0 0)) (jet [0, 0x40000000, 0]) (sc 0) (coeffs [0, 0x40000000, 0]) 0 = true ∧
    jetIs (.fcos (fa 2 0 0 9 0 0)) (jet [0, 0x40000000, 0]) (sc 0) (coeffs [0x3F800000, 0x80000000, 0xC0000000]) 0 = true := by decide +kernel

/-- 10, the order-2 examples: FEXP2 and FLOG2, whose coefficients are rounded. -/
theorem test_order2_FEXP2_FLOG2 :
    jetIs (.fexp2 (fa 2 0 0 9 0 0)) (jet [0x3F800000, 0x3F800000, 0]) (sc 0) (coeffs [0x40000000, 0x3FB17218, 0x3EF5FDF0]) 0x101000 = true ∧
    jetIs (.flog2 (fa 2 0 0 9 0 0)) (jet [0x40800000, 0x40800000, 0]) (sc 0) (coeffs [0x40000000, 0x3FB8AA3B, 0xBF38AA3B]) 0x101000 = true := by decide +kernel

/-- 10, the order-2 examples: FLOG. -/
theorem test_order2_FLOG :
    jetIs (.flog (fa 2 0 0 9 0 0)) (jet [0x40000000, 0x40000000, 0x3F800000]) (sc 0) (coeffs [0x3F317218, 0x3F800000, 0]) 0x10 = true := by decide +kernel

/-- 10, the order-2 examples: FTANH with its draw, FLGST and FERF. -/
theorem test_order2_FTANH_FLGST_FERF :
    leaves (.ftanh (fa 2 0 0 9 0 0)) 2 (jet [0, 0x3F800000, 0x3F800000]) (sc 0) (sc 1) = some (coeffs [0, 0x3F800000, 0x3F800000], 0, 0, 576) ∧
    jetIs (.flgst (fa 2 0 0 9 0 0)) (jet [0, 0x40000000, 0]) (sc 0) (coeffs [0x3F000000, 0x3F000000, 0]) 0 = true ∧
    jetIs (.ferf (fa 2 0 0 9 0 0)) (jet [0, 0x3F800000, 0]) (sc 0) (coeffs [0, 0x3F906EBB, 0]) 0x1000 = true := by decide +kernel

def oneTwoThree : Tok := jet [0x3F800000, 0x40000000, 0x40400000]

/-- 10, "a jet taken apart", with JEVAL's draw. -/
theorem test_jet_taken_apart :
    jetIs (.jdiff (fa 2 0 0 9 0 0)) oneTwoThree (sc 0) (coeffs [0x40000000, 0x40C00000, 0]) 0 = true ∧
    jetIs (.jintg { fa 2 0 0 9 0 0 with imm := 0x40A00000, immr := 1 }) oneTwoThree (sc 0) (coeffs [0x40A00000, 0x3F800000, 0x3F800000]) 0 = true ∧
    leaves (.jeval { fa 2 0 0 9 0 0 with imm := 0x3F000000, immr := 1 }) 2 oneTwoThree (sc 0) (sc 1) = some (coeffs [0x40300000], 0, 0, 120) ∧
    jetIs (.jcoef { fa 2 0 0 9 0 1 with imm := 2 }) oneTwoThree (sc 0) (coeffs [0x40C00000]) 0 = true ∧
    jetIs (.jsetc { fa 2 0 0 9 0 0 with imm := 1 }) oneTwoThree (jet [0xBF800000]) (coeffs [0x3F800000, 0xBF800000, 0x40400000]) 0 = true ∧
    jetIs (.jtrunc { fa 2 0 0 9 0 0 with imm := 1 }) oneTwoThree (sc 0) (coeffs [0x3F800000, 0x40000000, 0]) 0 = true := by decide +kernel

/-- A row of BF16 elements that begins with the given bytes. -/
def bfRow (bs : List Byte) : PinRow := ⟨bs ++ List.replicate (128 - bs.length) 0, 7, []⟩

/-- 12, "a worked reduction": the tile after unit 1, cell (0, 0) and its flags after the two steps, and the token of the finished tile. -/
theorem test_reduction_example :
    (match matActs Node.reset [⟨0, 0, .accClr 0⟩, ⟨1, 0, .deposit 0 0 1 (vec [0x4B800000] 1)⟩, ⟨2, 0, .accArm 0 1⟩] with
     | .error _ => false
     | .ok r =>
       let t := Sparse.get Tile.reset r.tiles 0
       let x := cellSteps .fp32 2 7 7 (bfRow [0x80, 0x3F, 0x80, 0x3F, 0x80, 0x3F, 0x00, 0x3F]) (bfRow [0x80, 0x3F, 0x80, 0x3F, 0x80, 0x3F, 0x80, 0x3F]) (t.cell 0 0)
       let u := countEmit r 0 0 (at1 3 0) 0
       decide (t.cells = [(0, 0x4B800000)]) && decide (t.ty = .unset) && decide (t.arm = .armed 1) && decide (x = (0x4B800002, 16)) &&
         decide ((t.setCell 0 0 x.1).ck = [(0, 0x4B800002)]) && decide ((Sparse.get Tile.reset u.tiles 0).arm = .finished) &&
         decide (u.emits.map (fun e => e.2.2.2) = [lanes [1, 0] 0xFFFF])) = true := by decide +kernel

/-- 02, the block scale 0x50 under the band scale 0x3FC0: codes 3.0 and -4.0 decode as 3.375 and -4.5. -/
theorem test_scale_example :
    Num.foldedScale 0x50 0x3FC0 = 0x3F90 ∧
    ((stepVals 12 ⟨[0xE5, 0, 0, 0], 12, [0x3F90]⟩ 0).take 2).map (fun x => (Num.deliver Num.fp32 0 false (x, false)).1) = [0x40580000, 0xC0900000] := by decide +kernel

/-- 10 after R216: block C clears the masked flags and then records its own. -/
theorem test_jflag_clear_example :
    leaves (.jflagClr ⟨at1 0 0, 0x1F1F, 1, 0, 0, 0, 1⟩) 0 (sc 1) (sc 0) (sc 1) = some (.scalar 0, 0, 0, 4) ∧
    (commitCsrs ⟨placeAt, 1, oneTask 8 0, oneMapped 0, CUnit.fresh 0, [⟨0, 0, .jflagClr 0x1F1F⟩], [], [], [], ⟨[], [], 0, 0, [], []⟩, 0, 0x1000,
      ⟨0, .br ⟨at1 0 0, 0, 0⟩, 0, 0⟩, false⟩ { Node.reset with jflags := 0x11 }).jflags = 0x1000 := by decide +kernel

/-- 11 R225, "an accumulation out of order": the four terms folded in iteration order at FP32. -/
theorem test_accum_example :
    (([0x4B800000, 0x3F800000, 0x3F800000, 0xCB800000] : List Nat).foldl (fun (acc : TokData × BitVec 5) x =>
      let r := accAdd ⟨at1 0 0, 0, 4, 0x90⟩ 0 acc.1 (sc x)
      (r.1, acc.2 ||| orFlags (r.2.map fun e => e.2.2))) (accIdent ⟨at1 0 0, 0, 4, 0x90⟩ 0 0, 0)) = (.scalar 0, 16) := by decide +kernel

end Sys2Proof.Tests
end

