-- ==== Sys2Proof/Tests/Firings.lean ====
section
/-! SUPPORT. For each statement about firings, states and operands that meet its hypotheses. `meets_sound` and `goes_sound` say what
`meets` means. -/

open Sys2Proof Sys2Proof.Machine Sys2Proof.Bits

namespace Sys2Proof.Tests

set_option Elab.async false

/-- `i` goes on in `s` at the draw `d`. -/
def runs (i : Instr) (s : State) (d : Nat) : Bool := meets i s d (goesOn (thirdData i))

/-! ## What every firing does before and beside its own effect -/

/-- A change of the node's entry. -/
def onEntry (f : MEntry → MEntry) (nd : Node) : Node := { nd with entries := nd.entries.map fun e => (e.1, f e.2) }

def addS : Instr := .add (fmtA 0 0 4)

theorem witness_UnfitFirings_notReady : isForm addS = true ∧ fireCtx addS State.reset = none := by decide

theorem witness_UnfitFirings_parity : (fireCtx addS (firing addS 0 { operand addS 1 0 3 with par := .data } (operand addS 2 0 5) (operand addS 3 0 1) id)).map
    (fun c => c.badTok.isSome) = some true := by decide

theorem witness_UnfitFirings_marks : (fireCtx addS (firing addS 0 { operand addS 1 0 3 with rein := true } (operand addS 2 0 5) (operand addS 3 0 1) id)).map
    (fun c => decide (c.badTok = none) && !c.marksOk addS && decide (formDraw addS c.k ≤ (refNode c.s c.n).crib.remaining)) = some true := by decide

def faddJ : Instr := .fadd (fmtA 2 0 7)

theorem witness_UnfitFirings_beats : (fireCtx faddJ (firing faddJ 1 (operand faddJ 1 0 3) (operand faddJ 2 1 5) (operand faddJ 3 1 1) id)).map
    (fun c => decide (c.badTok = none) && c.marksOk faddJ && decide (c.badBeats faddJ = some 1) && decide (formDraw faddJ c.k ≤ (refNode c.s c.n).crib.remaining)) =
      some true := by decide

theorem witness_UnfitFirings_double : ∀ again : Bool, (fireCtx addS (firing addS 0 (operand addS 1 0 3) (operand addS 2 0 5) (operand addS 3 0 1)
    fun nd => { nd with upset := some again })).map
      (fun c => decide (c.badTok = none) && c.marksOk addS && decide (c.badBeats addS = none) && decide (c.nd.upset = some again)) = some true := by decide

/-- A charge one unit short of the draw. -/
theorem witness_ShortfallEndsTheTask : ∀ i ∈ ([addS, .and (fmtA 0 0 4), .fadd (fmtA 0 0 9), .fexp (fmtA 1 0 9), .cvt (fmtA 0 0 9), .jseed (fmtA 2 0 7), .perm (fmtA 1 0 9),
    .cmp (fmtA 0 0 4)] : List Instr), planeOk i = true ∧ meets i (firing i 0 (operand i 1 0 3) (operand i 2 0 5) (operand i 3 0 1) fun nd =>
      { nd with crib := { Crib.reset with charge := formDraw i 0 - 1 } }) 0 (fun c => goesOn (thirdData i) c && !decide (formDraw i c.k ≤ (refNode c.s c.n).crib.remaining) &&
        decide (refTask c.s c.n = some c.tid) && (c.s.task c.tid).any fun t => !decide (t.st = .ending)) = true := by
  decide

theorem witness_NullOperandsPassOn : ∀ i ∈ ([addS, .fma (fmtA 1 1 9), .red (fmtG 1 0), .scan (fmtG 2 0), .mov (fmtG 0 0), .const (fmtG 1 0), .null (fmtG 2 0), .getg (fmtG 0 0),
    .putg (fmtG 0 0), .empty (fmtG 0 0), .sel (fmtA 0 1 4), .accclr ⟨hdr 1 0, 0, 0, 0, 0⟩, .copy ⟨hdr 3 0, 0, 0, 0, 0⟩, .csrrd ⟨hdr 0 0, 0, 0⟩, .csrwr ⟨hdr 0 0, 0, 0⟩,
    .tbase ⟨hdr 0 0, 0, 0⟩] : List Instr),
    meets i (nulled i 0) (formDraw i 0) (fun c => decide (c.mode (thirdData i || i.opc = 0x49) = .null) && decide (tagRes c.t c.tag c.h.tagop.toNat = .ok c.tag none)) = true := by
  decide

theorem witness_ClosedGateOnlyDraws : ∀ i ∈ ([.add (fmtA 0 1 4), .mov (fmtG 3 1), .br ⟨hdr 0 1, 0, 0⟩, .cmp (fmtA 0 2 4), .jord (fmtA 0 1 0), .copy ⟨hdr 3 1, 0, 0, 0, 0⟩,
    .qstat ⟨hdr 0 1, 0, 0, 0, 0⟩, .trap ⟨hdr 0 1, 0, 0⟩] : List Instr),
    meets i (firing i 0 (operand i 1 0 3) (operand i 2 0 5) (operand i 3 0 (if i.hdr.pmode = 1 then 0 else 1)) id) (formDraw i 0)
      (fun c => decide (c.mode (thirdData i) = .closed)) = true := by
  decide

/-! ## Computing forms -/

def intForms : List (FmtA → Instr) := [.add, .sub, .mul, .mulh, .div, .rem, .neg, .abs, .min, .max, .madd, .dot4, .lea]

/-- The predicate mode that brings a token to a slot 11 that is data. -/
def pmOf (i : FmtA → Instr) : Nat := if thirdData (i (fmtA 0 1 0)) then 1 else 0

theorem witness_IntResults : ∀ i ∈ intForms, runs (i (fmtA 0 (pmOf i) 4)) (plain (i (fmtA 0 (pmOf i) 4)) 0) 4 = true ∧
    runs (i (fmtA 1 (pmOf i) 3)) (plain (i (fmtA 1 (pmOf i) 3)) 0) 24 = true := by decide

/-- MADD.SUB under SAT, whose operands are read without sign. -/
theorem witness_IntResults_madd : let f := { fmtA 0 1 3 with var := 1, sat := 1 }
    f.var = 1 ∧ f.sat = 1 ∧ runs (.madd f) (plain (.madd f) 0) 4 = true := by decide

theorem witness_IntDelivery : (∀ e ∈ ([(64, 4), (32, 3), (64, 0)] : List (Nat × Nat)), e.2 ≤ 4 ∧ (e.1 = 64 ∨ (e.1 = 32 ∧ e.2 ≤ 3)) ∧
    Num.intLo e.2 ≤ Num.intHi e.2 ∧ Num.intLo e.2 - 1 < Num.intLo e.2 ∧ Num.intHi e.2 < Num.intHi e.2 + 1) := by decide

def bitForms : List (FmtA → Instr) := [.and, .or, .xor, .andn, .not, .shl, .shr, .sar, .rol, .clz, .popc, .brev, .bfx, .bfi, .sext, .zext]

/-- A field of 5 bits at bit 3, up to the top of a byte. -/
def bitFmt (p : Nat) : FmtA := { fmtA p 0 0 with imm := 0x503 }

theorem witness_BitResults : (∀ i ∈ bitForms, runs (i (bitFmt 0)) (plain (i (bitFmt 0)) 0) 4 = true ∧ runs (i (bitFmt 1)) (plain (i (bitFmt 1)) 0) 24 = true) ∧
    (let p := field (bitFmt 0).imm 0 6
     let n := field (bitFmt 0).imm 8 6
     1 ≤ n ∧ p + n = Num.width (bitFmt 0).ty.toNat ∧ 1 ≤ p) := by decide

def predForms : List (FmtA → Instr) := [.cmp, .fcmp, .pand, .por, .pxor, .pnot]

theorem witness_PredicateResults : (∀ i ∈ predForms, runs (i (fmtA 0 0 4)) (plain (i (fmtA 0 0 4)) 0) 4 = true ∧ runs (i (fmtA 1 0 3)) (plain (i (fmtA 1 0 3)) 0) 24 = true) ∧
    (∀ i ∈ ([.pand, .por, .pxor, .pnot] : List (FmtA → Instr)), runs (i (fmtA 2 0 0)) (plain (i (fmtA 2 0 0)) 1) 48 = true) ∧ ¬(fmtA 0 0 4).h.xm = 1 := by decide

/-- A NaN, a signalling NaN and no NaN, at FP32; the conditions at the ends of the range of the ordered ones. -/
theorem witness_ComparisonConditions : (Num.decode (Num.fmtOf 9) 0x7FC0_0000).isNan = true ∧ (Num.decode (Num.fmtOf 9) 0x7F80_0001).isSnan = true ∧
    (Num.decode (Num.fmtOf 9) 0x7F80_0000).isNan = false ∧ 2 ≤ (2 : BitVec 3).toNat ∧ (5 : BitVec 3).toNat ≤ 5 ∧
    Num.decode (Num.fmtOf 9) 0x3F80_0000 = .fin false (2 ^ 23) (-23) ∧ Num.decode (Num.fmtOf 9) 0x8000_0001 = .fin true 1 (-149) ∧
    (∀ e ∈ ([-23, -149] : List Int), 0 ≤ e + (149 : Nat)) ∧ Num.decode (Num.fmtOf 9) 0x7F80_0000 = .inf false := by decide

theorem witness_MaskAndSelectResults : (∀ i ∈ ([.any, .all, .maskn] : List (FmtA → Instr)), ∀ p ∈ [1], runs (i (fmtA p 0 9)) (plain (i (fmtA p 0 9)) 0) (formDraw (i (fmtA p 0 9)) 0) = true) ∧
    (∀ pm ∈ [1, 2], meets (.sel (fmtA 0 pm 4)) (plain (.sel (fmtA 0 pm 4)) 0) 4 (goesOn true) = true ∧ meets (.sel (fmtA 1 pm 9)) (plain (.sel (fmtA 1 pm 9)) 0) 24 (goesOn true) = true ∧
      meets (.sel (fmtA 2 pm 9)) (plain (.sel (fmtA 2 pm 9)) 1) 48 (goesOn true) = true) := by decide

def floatForms : List (FmtA → Instr) := [.fadd, .fsub, .fmul, .fma, .fnma, .fdiv, .frcp, .fsqrt, .frsqrt, .fmin, .fmax, .fabs, .fneg, .fcpys, .fclass, .frint, .fscale]

theorem witness_FloatResults : ∀ i ∈ floatForms, runs (i (fmtA 0 (pmOf i) 10)) (plain (i (fmtA 0 (pmOf i) 10)) 0) 8 = true ∧
    runs (i (fmtA 1 (pmOf i) 9)) (plain (i (fmtA 1 (pmOf i) 9)) 0) 40 = true := by decide

/-- Each premise of the table, at FP32: a NaN, a signalling NaN, infinities of both signs, zeros of both signs, a negative number. -/
theorem witness_FloatSpecialValues :
    let d := Num.decode Num.fp32
    (d 0x7FC0_0000).isNan = true ∧ (d 0x7F80_0001).isSnan = true ∧ d 0x7F80_0000 = .inf false ∧ d 0xFF80_0000 = .inf true ∧
    (∃ m e, d 0x3F80_0000 = .fin false m e ∧ ¬m = 0) ∧ (∃ e, d 0 = .fin false 0 e) ∧ (∃ e, d 0x8000_0000 = .fin true 0 e) ∧
    (∃ m e, d 0xC000_0000 = .fin true m e ∧ ¬m = 0) ∧ (∃ m e, d 0xBF80_0000 = .fin (false ^^ !false) m e ∧ d 0x3F80_0000 = .fin false m e) := by
  refine ⟨by decide, by decide, by decide, by decide, ⟨_, _, rfl, by decide⟩, ⟨_, rfl⟩, ⟨_, rfl⟩, ⟨_, _, rfl, by decide⟩, ⟨_, _, rfl, rfl⟩⟩

/-- A product that the addend cancels, and one of a zero with an addend of zero; the bounds of FSCALE's powers. -/
theorem witness_FloatSpecialValues_products :
    let d := Num.decode Num.fp32
    d 1 = .fin false 1 (-149) ∧ d 0x4B00_0000 = .fin false (2 ^ 23) 0 ∧ d 0x8080_0000 = .fin true (2 ^ 23) (-149) ∧ 2 ^ 23 = 1 * 2 ^ 23 ∧ (-149 : Int) = -149 + 0 ∧
    d 0 = .fin false 0 (-149) ∧ (d 0).isZero = true ∧ 0 * 2 ^ 23 = 0 ∧ (∀ k ∈ ([-4200, 4200] : List Int), -4200 ≤ k ∧ k ≤ 4200) := by decide

/-- Ties and inexact values under every rounding mode: 3 and 5 to a multiple of 2. -/
theorem witness_RoundingDirections : ∀ rm ∈ [0, 1, 2, 3, 4], ∀ neg : Bool, rm ≤ 4 ∧ (0 : Int) ≤ 0 + (0 : Nat) ∧ (0 : Int) ≤ 1 + (0 : Nat) ∧
    (Num.roundAt rm neg 3 0 1 false).2 = true ∧ (rm = 0 → (Num.roundAt rm neg 3 0 1 false).1 = 2 ∧ (Num.roundAt rm neg 5 0 1 false).1 = 2) ∧
    (rm = 4 → (Num.roundAt rm neg 5 0 1 false).1 = 3) := by decide

def specialForms : List (FmtA → Instr) := [.fexp, .fexp2, .flog, .flog2, .fsin, .fcos, .ftanh, .flgst, .ferf]

theorem witness_SpecialAndConversionResults : (∀ i ∈ specialForms, runs (i (fmtA 0 0 9)) (plain (i (fmtA 0 0 9)) 0) 24 = true ∧ runs (i (fmtA 1 0 9)) (plain (i (fmtA 1 0 9)) 0) 96 = true) ∧
    (∀ i ∈ ([.cvt, .cvtsr] : List (FmtA → Instr)), runs (i (fmtA 0 0 9)) (plain (i (fmtA 0 0 9)) 0) 8 = true ∧ runs (i (fmtA 1 0 9)) (plain (i (fmtA 1 0 9)) 0) 40 = true) ∧
    runs (.rng (fmtA 1 0 0)) (plain (.rng (fmtA 1 0 0)) 0) 24 = true ∧ runs (.pack4 (fmtA 1 0 9)) (plain (.pack4 (fmtA 1 0 9)) 0) 40 = true ∧
    runs (.unpk4 (fmtA 1 0 9)) (plain (.unpk4 (fmtA 1 0 9)) 0) 40 = true := by decide

/-- Operands of the values of the special functions and conversions: an integer, a power of two, a number below zero, one that BF16 holds and one that
it does not; the lowest and the highest scale. -/
theorem witness_SpecialAndConversionResults_values :
    let d := Num.decode Num.fp32
    d 0x4B80_0000 = .fin false (2 ^ 23) 1 ∧ d 0xBF80_0000 = .fin true (2 ^ 23) (-23) ∧ (d 0x7FC0_0000).isNan = true ∧ (∀ n : Bool, d (if n then 0xFF80_0000 else 0x7F80_0000) = .inf n) ∧
    d 0 = .fin false 0 (-149) ∧ d 0x3F80_0001 = .fin false (2 ^ 23 + 1) (-23) ∧ (2 ^ 23 : Nat) % 2 ^ 16 = 0 ∧ ¬(2 ^ 23 + 1 : Nat) % 2 ^ 16 = 0 ∧ (-23 : Int) < 0 - Num.bf16.mb ∧
    (∀ scale ∈ [1, 254], 0 < scale ∧ scale < 255) ∧ (15 : Nat) < 16 ∧ (∀ t ∈ [0, 4, 5, 10], t ≤ 10) := by decide

/-- Operands of a logarithm and of a sine that have no value, and of one that has. -/
theorem witness_JetResults_values : ¬([0xBF80_0000, 0] : List Nat) = [] ∧ Num.belowZero (Num.decode Num.fp32 0xBF80_0000) = true ∧ Num.belowZero (Num.decode Num.fp32 0x3F80_0000) = false ∧
    Num.decode Num.fp32 0x7F80_0000 = .inf false ∧ (0 : Nat) < 1 ∧ (1 : Nat) < 2 ∧
    (let fa : List Num.FV := [Num.fvInt 0, Num.fvInt 1]
     let q := (List.range 2).map fun m => Num.fvNeg (Num.sum48 (Num.terms 0 m fun i => Num.fvMul (Num.coef fa i) (Num.coef fa (m - i))))
     ([Num.special48 .exp (Num.coef q 0).1, Num.fvDiv48 (Num.sum48 (Num.terms 1 1 fun i => Num.fvMul (Num.fvMul (Num.fvInt i) (Num.coef (Num.quiet q) i))
       (Num.coef (Num.quiet [Num.special48 .exp (Num.coef q 0).1]) (1 - i)))) (Num.fvInt 1)] : List Num.FV).length = 1 + 1) := by decide

/-- At order 1, and at the top order 5. -/
theorem witness_JetResults : (∀ i ∈ ([.fadd, .fsub, .fscale, .fmin, .fmax, .fabs, .fneg, .fcpys] : List (FmtA → Instr)), ∀ k ∈ [1, 5],
      runs (i (fmtA 2 0 9)) (plain (i (fmtA 2 0 9)) k) (40 * (k + 1)) = true) ∧
    (∀ i ∈ ([.fmul, .fma, .fnma, .fdiv, .frcp, .fsqrt, .frsqrt] : List (FmtA → Instr)), ∀ k ∈ [1, 5],
      runs (i (fmtA 2 (pmOf i) 9)) (plain (i (fmtA 2 (pmOf i) 9)) k) (40 * ((k + 1) * (k + 2) / 2)) = true) ∧
    (∀ i ∈ specialForms, ∀ k ∈ [1, 5], runs (i (fmtA 2 0 9)) (plain (i (fmtA 2 0 9)) k) (96 * ((k + 1) * (k + 2) / 2)) = true) := by decide

theorem witness_JetGroupResults : (∀ i ∈ ([.jord, .jordSet, .jflag, .jflagClr] : List (FmtA → Instr)), meets (i (fmtA 0 0 0)) (plain (i (fmtA 0 0 0)) 0) 4 (goesOn false) = true) ∧
    (∀ i ∈ ([.jseed, .jsetc, .jtrunc, .jcoef] : List (FmtA → Instr)), ∀ k ∈ [0, 5], meets (i (fmtA 2 0 9)) (plain (i (fmtA 2 0 9)) k) (24 * (k + 1)) (goesOn false) = true) ∧
    (∀ i ∈ ([.jdiff, .jintg, .jeval, fun f => .jcoef { f with var := 1 }] : List (FmtA → Instr)), ∀ k ∈ [0, 5],
      meets (i (fmtA 2 0 9)) (plain (i (fmtA 2 0 9)) k) (40 * (k + 1)) (goesOn false) = true) := by decide

/-! ## Lane and stream forms -/

theorem witness_LaneResults : (∀ i ∈ ([.lane, .insl, .perm, .shuf, .rotl, .slide, .zip, .unzip] : List (FmtA → Instr)),
      runs (i (fmtA 1 0 9)) (plain (i (fmtA 1 0 9)) 0) 24 = true ∧ runs (i (fmtA 2 0 9)) (plain (i (fmtA 2 0 9)) 1) 48 = true) ∧
    (∀ i ∈ ([.iota, .repl] : List (FmtA → Instr)), runs (i (fmtA 1 0 9)) (plain (i (fmtA 1 0 9)) 0) 24 = true) ∧
    (∀ pm ∈ [1, 2], meets (.repl (fmtA 1 pm 9)) (shut (.repl (fmtA 1 pm 9)) 0) 24 (fun c => decide (c.mode false = .go (if pm = 1 then 0 else 0xFFFF))) = true) ∧
    ({ fmtA 1 0 9 with imm := 16 } : FmtA).imm.toNat % 32 ≤ 16 := by decide

/-- OP integer addition and floating addition, the two classes of draws. -/
theorem witness_ReductionResults : (∀ op ∈ [0, 7], ∀ i ∈ ([.red, .scan] : List (FmtG → Instr)), ∀ p ∈ [1, 2],
    let f : FmtG := { fmtG p 0 with imm := BitVec.ofNat 64 (op * 16 + 9) }
    let float := decide (7 ≤ (f.imm.extractLsb' 4 4).toNat)
    runs (i f) (plain (i f) 1) ((if float then 40 else 24) * (if p = 2 then 2 else 1)) = true) ∧ (14 : Nat) < 15 := by decide

end Sys2Proof.Tests
end

