-- ==== Sys2Proof/Tests/Slice0.lean ====
section
/-! SUPPORT. Tests of the syntax: every opcode, one word of every group written field by field, what well-formedness refuses, and the
witnesses of the statements about decoding and about a step. Expected values are read from 07 R127–R144. -/

open Sys2Proof Sys2Proof.Machine Sys2Proof.Bits

namespace Sys2Proof.Tests

set_option Elab.async false

/-! ## Every opcode of R144, in a word whose other bits are zero -/

def h0 : Hdr := ⟨0, 0, 0, 0, 0, 0⟩

/-- The word with OPC `opc` and every other bit zero (R127). -/
def bare (opc : BitVec 10) : Quad := opc ++ (0 : BitVec 118)

/-- That each word decodes to the form beside it, and that the form encodes to the word. -/
def opcodes (l : List (BitVec 10 × Instr)) : Bool := l.all fun e => decide (decode (bare e.1) = .ok e.2) && decide (encode e.2 = some (bare e.1))

theorem test_opcodes_EXIT : opcodes [
    (0x000, .br ⟨h0, 0, 0⟩), (0x001, .bri ⟨h0, 0, 0⟩), (0x002, .call ⟨h0, 0, 0⟩), (0x003, .calli ⟨h0, 0, 0⟩), (0x004, .ret ⟨h0, 0, 0⟩),
    (0x005, .halt ⟨h0, 0, 0⟩)] = true := by decide +kernel

theorem test_opcodes_GRAPH : opcodes [
    (0x020, .mov ⟨h0, 0, 0, 0⟩), (0x021, .const ⟨h0, 0, 0, 0⟩), (0x022, .lenter ⟨h0, 0, 0, 0⟩), (0x023, .inext ⟨h0, 0, 0, 0⟩),
    (0x024, .iprev ⟨h0, 0, 0, 0⟩), (0x025, .lexit ⟨h0, 0, 0, 0⟩), (0x026, .talloc ⟨h0, 0, 0, 0⟩), (0x027, .tfree ⟨h0, 0, 0, 0⟩),
    (0x028, .spawn ⟨h0, 0, 0, 0⟩), (0x029, .join ⟨h0, 0, 0, 0⟩), (0x02A, .getg ⟨h0, 0, 0, 0⟩), (0x02B, .putg ⟨h0, 0, 0, 0⟩),
    (0x02C, .empty ⟨h0, 0, 0, 0⟩), (0x02D, .null ⟨h0, 0, 0, 0⟩)] = true := by decide +kernel

theorem test_opcodes_PRED : opcodes [
    (0x040, .cmp ⟨h0, 0, 0, 0, 0, 0, 0⟩), (0x041, .fcmp ⟨h0, 0, 0, 0, 0, 0, 0⟩), (0x042, .pand ⟨h0, 0, 0, 0, 0, 0, 0⟩),
    (0x043, .por ⟨h0, 0, 0, 0, 0, 0, 0⟩), (0x044, .pxor ⟨h0, 0, 0, 0, 0, 0, 0⟩), (0x045, .pnot ⟨h0, 0, 0, 0, 0, 0, 0⟩),
    (0x046, .any ⟨h0, 0, 0, 0, 0, 0, 0⟩), (0x047, .all ⟨h0, 0, 0, 0, 0, 0, 0⟩), (0x048, .maskn ⟨h0, 0, 0, 0, 0, 0, 0⟩),
    (0x049, .sel ⟨h0, 0, 0, 0, 0, 0, 0⟩)] = true := by decide +kernel

theorem test_opcodes_INT : opcodes [
    (0x060, .add ⟨h0, 0, 0, 0, 0, 0, 0⟩), (0x061, .sub ⟨h0, 0, 0, 0, 0, 0, 0⟩), (0x062, .mul ⟨h0, 0, 0, 0, 0, 0, 0⟩),
    (0x063, .mulh ⟨h0, 0, 0, 0, 0, 0, 0⟩), (0x064, .div ⟨h0, 0, 0, 0, 0, 0, 0⟩), (0x065, .rem ⟨h0, 0, 0, 0, 0, 0, 0⟩),
    (0x066, .neg ⟨h0, 0, 0, 0, 0, 0, 0⟩), (0x067, .abs ⟨h0, 0, 0, 0, 0, 0, 0⟩), (0x068, .min ⟨h0, 0, 0, 0, 0, 0, 0⟩),
    (0x069, .max ⟨h0, 0, 0, 0, 0, 0, 0⟩), (0x06A, .madd ⟨h0, 0, 0, 0, 0, 0, 0⟩), (0x06B, .dot4 ⟨h0, 0, 0, 0, 0, 0, 0⟩),
    (0x06C, .lea ⟨h0, 0, 0, 0, 0, 0, 0⟩)] = true := by decide +kernel

theorem test_opcodes_BIT : opcodes [
    (0x080, .and ⟨h0, 0, 0, 0, 0, 0, 0⟩), (0x081, .or ⟨h0, 0, 0, 0, 0, 0, 0⟩), (0x082, .xor ⟨h0, 0, 0, 0, 0, 0, 0⟩),
    (0x083, .andn ⟨h0, 0, 0, 0, 0, 0, 0⟩), (0x084, .not ⟨h0, 0, 0, 0, 0, 0, 0⟩), (0x085, .shl ⟨h0, 0, 0, 0, 0, 0, 0⟩),
    (0x086, .shr ⟨h0, 0, 0, 0, 0, 0, 0⟩), (0x087, .sar ⟨h0, 0, 0, 0, 0, 0, 0⟩), (0x088, .rol ⟨h0, 0, 0, 0, 0, 0, 0⟩),
    (0x089, .clz ⟨h0, 0, 0, 0, 0, 0, 0⟩), (0x08A, .popc ⟨h0, 0, 0, 0, 0, 0, 0⟩), (0x08B, .brev ⟨h0, 0, 0, 0, 0, 0, 0⟩),
    (0x08C, .bfx ⟨h0, 0, 0, 0, 0, 0, 0⟩), (0x08D, .bfi ⟨h0, 0, 0, 0, 0, 0, 0⟩), (0x08E, .sext ⟨h0, 0, 0, 0, 0, 0, 0⟩),
    (0x08F, .zext ⟨h0, 0, 0, 0, 0, 0, 0⟩)] = true := by decide +kernel

theorem test_opcodes_FARITH : opcodes [
    (0x0A0, .fadd ⟨h0, 0, 0, 0, 0, 0, 0⟩), (0x0A1, .fsub ⟨h0, 0, 0, 0, 0, 0, 0⟩), (0x0A2, .fmul ⟨h0, 0, 0, 0, 0, 0, 0⟩),
    (0x0A3, .fma ⟨h0, 0, 0, 0, 0, 0, 0⟩), (0x0A4, .fnma ⟨h0, 0, 0, 0, 0, 0, 0⟩), (0x0A5, .fdiv ⟨h0, 0, 0, 0, 0, 0, 0⟩),
    (0x0A6, .fsqrt ⟨h0, 0, 0, 0, 0, 0, 0⟩), (0x0A7, .frsqrt ⟨h0, 0, 0, 0, 0, 0, 0⟩), (0x0A8, .frcp ⟨h0, 0, 0, 0, 0, 0, 0⟩),
    (0x0A9, .fmin ⟨h0, 0, 0, 0, 0, 0, 0⟩), (0x0AA, .fmax ⟨h0, 0, 0, 0, 0, 0, 0⟩), (0x0AB, .fabs ⟨h0, 0, 0, 0, 0, 0, 0⟩),
    (0x0AC, .fneg ⟨h0, 0, 0, 0, 0, 0, 0⟩), (0x0AD, .fcpys ⟨h0, 0, 0, 0, 0, 0, 0⟩), (0x0AE, .fclass ⟨h0, 0, 0, 0, 0, 0, 0⟩),
    (0x0AF, .frint ⟨h0, 0, 0, 0, 0, 0, 0⟩), (0x0B0, .fscale ⟨h0, 0, 0, 0, 0, 0, 0⟩)] = true := by decide +kernel

theorem test_opcodes_FSPEC : opcodes [
    (0x0C0, .fexp ⟨h0, 0, 0, 0, 0, 0, 0⟩), (0x0C1, .fexp2 ⟨h0, 0, 0, 0, 0, 0, 0⟩), (0x0C2, .flog ⟨h0, 0, 0, 0, 0, 0, 0⟩),
    (0x0C3, .flog2 ⟨h0, 0, 0, 0, 0, 0, 0⟩), (0x0C4, .fsin ⟨h0, 0, 0, 0, 0, 0, 0⟩), (0x0C5, .fcos ⟨h0, 0, 0, 0, 0, 0, 0⟩),
    (0x0C6, .ftanh ⟨h0, 0, 0, 0, 0, 0, 0⟩), (0x0C7, .flgst ⟨h0, 0, 0, 0, 0, 0, 0⟩), (0x0C8, .ferf ⟨h0, 0, 0, 0, 0, 0, 0⟩)] = true := by decide +kernel

theorem test_opcodes_CONV : opcodes [
    (0x0E0, .cvt ⟨h0, 0, 0, 0, 0, 0, 0⟩), (0x0E1, .cvtsr ⟨h0, 0, 0, 0, 0, 0, 0⟩), (0x0E2, .rng ⟨h0, 0, 0, 0, 0, 0, 0⟩),
    (0x0E3, .pack4 ⟨h0, 0, 0, 0, 0, 0, 0⟩), (0x0E4, .unpk4 ⟨h0, 0, 0, 0, 0, 0, 0⟩)] = true := by decide +kernel

theorem test_opcodes_JET : opcodes [
    (0x100, .jord ⟨h0, 0, 0, 0, 0, 0, 0⟩), (0x101, .jseed ⟨h0, 0, 0, 0, 0, 0, 0⟩), (0x102, .jcoef ⟨h0, 0, 0, 0, 0, 0, 0⟩),
    (0x103, .jsetc ⟨h0, 0, 0, 0, 0, 0, 0⟩), (0x104, .jdiff ⟨h0, 0, 0, 0, 0, 0, 0⟩), (0x105, .jintg ⟨h0, 0, 0, 0, 0, 0, 0⟩),
    (0x106, .jtrunc ⟨h0, 0, 0, 0, 0, 0, 0⟩), (0x107, .jeval ⟨h0, 0, 0, 0, 0, 0, 0⟩), (0x108, .jflag ⟨h0, 0, 0, 0, 0, 0, 0⟩)] = true := by decide +kernel

theorem test_opcodes_LANE : opcodes [
    (0x120, .repl ⟨h0, 0, 0, 0, 0, 0, 0⟩), (0x121, .lane ⟨h0, 0, 0, 0, 0, 0, 0⟩), (0x122, .insl ⟨h0, 0, 0, 0, 0, 0, 0⟩),
    (0x123, .perm ⟨h0, 0, 0, 0, 0, 0, 0⟩), (0x124, .shuf ⟨h0, 0, 0, 0, 0, 0, 0⟩), (0x125, .rotl ⟨h0, 0, 0, 0, 0, 0, 0⟩),
    (0x126, .slide ⟨h0, 0, 0, 0, 0, 0, 0⟩), (0x127, .zip ⟨h0, 0, 0, 0, 0, 0, 0⟩), (0x128, .unzip ⟨h0, 0, 0, 0, 0, 0, 0⟩),
    (0x129, .iota ⟨h0, 0, 0, 0, 0, 0, 0⟩)] = true := by decide +kernel

theorem test_opcodes_STREAM : opcodes [
    (0x140, .red ⟨h0, 0, 0, 0⟩), (0x141, .scan ⟨h0, 0, 0, 0⟩), (0x142, .accum ⟨h0, 0, 0, 0⟩), (0x143, .filter ⟨h0, 0, 0, 0⟩),
    (0x144, .compact ⟨h0, 0, 0, 0⟩), (0x145, .steer ⟨h0, 0, 0, 0⟩), (0x146, .merge ⟨h0, 0, 0, 0⟩)] = true := by decide +kernel

theorem test_opcodes_MATRIX : opcodes [
    (0x160, .mmat ⟨h0, 0, 0, 0, 0⟩), (0x161, .tfetch ⟨h0, 0, 0, 0, 0⟩), (0x162, .accclr ⟨h0, 0, 0, 0, 0⟩), (0x163, .accarm ⟨h0, 0, 0, 0, 0⟩),
    (0x164, .accrel ⟨h0, 0, 0, 0, 0⟩), (0x165, .accrd ⟨h0, 0, 0, 0, 0⟩), (0x166, .accchk ⟨h0, 0, 0, 0, 0⟩),
    (0x167, .mtrans ⟨h0, 0, 0, 0, 0⟩)] = true := by decide +kernel

theorem test_opcodes_MEM : opcodes [
    (0x180, .ld ⟨h0, 0, 0, 0, 0, 0, 0, 0, 0⟩), (0x181, .lds ⟨h0, 0, 0, 0, 0, 0, 0, 0, 0⟩), (0x182, .ldg ⟨h0, 0, 0, 0, 0, 0, 0, 0, 0⟩),
    (0x183, .st ⟨h0, 0, 0, 0, 0, 0, 0, 0, 0⟩), (0x184, .sts ⟨h0, 0, 0, 0, 0, 0, 0, 0, 0⟩), (0x185, .stg ⟨h0, 0, 0, 0, 0, 0, 0, 0, 0⟩),
    (0x186, .ldsp ⟨h0, 0, 0, 0, 0, 0, 0, 0, 0⟩), (0x187, .stsp ⟨h0, 0, 0, 0, 0, 0, 0, 0, 0⟩), (0x188, .pref ⟨h0, 0, 0, 0, 0, 0, 0, 0, 0⟩),
    (0x189, .nullst ⟨h0, 0, 0, 0, 0, 0, 0, 0, 0⟩), (0x18A, .l1inv ⟨h0, 0, 0, 0, 0, 0, 0, 0, 0⟩),
    (0x18B, .fence ⟨h0, 0, 0, 0, 0, 0, 0, 0, 0⟩)] = true := by decide +kernel

theorem test_opcodes_SYNC : opcodes [
    (0x1A0, .ldv ⟨h0, 0, 0, 0, 0, 0, 0, 0, 0⟩), (0x1A1, .stv ⟨h0, 0, 0, 0, 0, 0, 0, 0, 0⟩), (0x1A2, .reclaim ⟨h0, 0, 0, 0, 0, 0, 0, 0, 0⟩),
    (0x1A3, .atom ⟨h0, 0, 0, 0, 0, 0, 0, 0, 0⟩), (0x1A4, .cas ⟨h0, 0, 0, 0, 0, 0, 0, 0, 0⟩)] = true := by decide +kernel

theorem test_opcodes_REIN : opcodes [
    (0x1C0, .reinmk ⟨h0, 0, 0, 0, 0, 0, 0, 0, 0⟩), (0x1C1, .reindup ⟨h0, 0, 0, 0, 0, 0, 0, 0, 0⟩),
    (0x1C2, .reinspl ⟨h0, 0, 0, 0, 0, 0, 0, 0, 0⟩), (0x1C3, .reinnar ⟨h0, 0, 0, 0, 0, 0, 0, 0, 0⟩),
    (0x1C4, .reindrop ⟨h0, 0, 0, 0, 0, 0, 0, 0, 0⟩), (0x1C5, .reinq ⟨h0, 0, 0, 0, 0, 0, 0, 0, 0⟩),
    (0x1C6, .reinsend ⟨h0, 0, 0, 0, 0, 0, 0, 0, 0⟩)] = true := by decide +kernel

theorem test_opcodes_ENGINE : opcodes [
    (0x1E0, .copy ⟨h0, 0, 0, 0, 0⟩), (0x1E1, .wpwait ⟨h0, 0, 0, 0, 0⟩), (0x1E2, .wprd ⟨h0, 0, 0, 0, 0⟩), (0x1E3, .gather ⟨h0, 0, 0, 0, 0⟩),
    (0x1E4, .coll ⟨h0, 0, 0, 0, 0⟩), (0x1E5, .topk ⟨h0, 0, 0, 0, 0⟩), (0x1E6, .cwait ⟨h0, 0, 0, 0, 0⟩), (0x1E7, .cstat ⟨h0, 0, 0, 0, 0⟩),
    (0x1E8, .ccancel ⟨h0, 0, 0, 0, 0⟩), (0x1E9, .mirror ⟨h0, 0, 0, 0, 0⟩)] = true := by decide +kernel

theorem test_opcodes_TASK : opcodes [
    (0x200, .qpush ⟨h0, 0, 0, 0, 0⟩), (0x201, .qpop ⟨h0, 0, 0, 0, 0⟩), (0x202, .qstat ⟨h0, 0, 0, 0, 0⟩), (0x203, .chgrd ⟨h0, 0, 0, 0, 0⟩),
    (0x204, .chgask ⟨h0, 0, 0, 0, 0⟩), (0x205, .tlaunch ⟨h0, 0, 0, 0, 0⟩)] = true := by decide +kernel

theorem test_opcodes_SYSTEM : opcodes [
    (0x220, .trap ⟨h0, 0, 0⟩), (0x221, .fret ⟨h0, 0, 0⟩), (0x222, .csrrd ⟨h0, 0, 0⟩), (0x223, .csrwr ⟨h0, 0, 0⟩), (0x224, .bkpt ⟨h0, 0, 0⟩),
    (0x225, .tbase ⟨h0, 0, 0⟩), (0x226, .tlbinv ⟨h0, 0, 0⟩), (0x227, .codesync ⟨h0, 0, 0⟩), (0x228, .mlog ⟨h0, 0, 0⟩)] = true := by decide +kernel

/-- 10 R212: VAR 001 makes JORD into JORD.SET and JFLAG into JFLAG.CLR. -/
theorem test_opcodes_var :
    decode (0x100#10 ++ 0#107 ++ 1#3 ++ 0#8) = .ok (.jordSet ⟨h0, 0, 0, 0, 0, 0, 1⟩) ∧
    decode (0x108#10 ++ 0#107 ++ 1#3 ++ 0#8) = .ok (.jflagClr ⟨h0, 0, 0, 0, 0, 0, 1⟩) := by decide +kernel

/-- The first code beyond each group's list, and the first unassigned group. -/
theorem test_unassigned :
    ([0x006, 0x02E, 0x04A, 0x06D, 0x090, 0x0B1, 0x0C9, 0x0E5, 0x109, 0x12A, 0x147, 0x168, 0x18C, 0x1A5, 0x1C7, 0x1EA, 0x206, 0x229, 0x240, 0x3FF] : List (BitVec 10)).all
      (fun opc => decide (decode (bare opc) = .error .unassignedOpc)) = true := by decide +kernel

/-- R131, R133: the low bits of formats A and B must be zero. -/
theorem test_mustBeZero : decode (0x060#10 ++ 0#110 ++ 1#8) = .error .mustBeZero ∧ decode (0x060#10 ++ 0#110 ++ 0x80#8) = .error .mustBeZero ∧
    decode (0x000#10 ++ 0#97 ++ 0x10_0000#21) = .error .mustBeZero ∧ decodeBytes (List.replicate 15 0) = .error .short := by decide +kernel

/-! ## One word of every group, field by field (R127, R131–R137) -/

/-- The upper 44 bits: group, minor code, PLANE, PMODE, TAGOP, XM, then SLOT, SPACE and INDEX of each target. -/
def top (g m : BitVec 5) (plane pmode : BitVec 2) (tagop : BitVec 4) (xm : BitVec 2) (s0 : BitVec 2) (p0 : BitVec 3) (i0 : BitVec 7)
    (s1 : BitVec 2) (p1 : BitVec 3) (i1 : BitVec 7) : BitVec 44 := g ++ m ++ plane ++ pmode ++ tagop ++ xm ++ s0 ++ p0 ++ i0 ++ s1 ++ p1 ++ i1

/-- Format A: IMM64, IMMR, RM, TY, SAT, VAR, zeros. -/
def bodyA (imm : BitVec 64) (immr : BitVec 1) (rm : BitVec 3) (ty : BitVec 4) (sat : BitVec 1) (var : BitVec 3) : BitVec 84 :=
  imm ++ immr ++ rm ++ ty ++ sat ++ var ++ 0#8

/-- That a word decodes to a form and the form encodes to the word. -/
def reads (w : Quad) (i : Instr) : Bool := decide (decode w = .ok i) && decide (encode i = some w)

theorem test_words_BGA :
    reads (top 0 2 0 2 0 0 0 0 0 0 0 0 ++ 0xFFFFFFFFFFFFFFE#60 ++ 5#3 ++ 0#21) (.call ⟨⟨0, 2, 0, 0, 0, 0⟩, 0xFFFFFFFFFFFFFFE, 5⟩) = true ∧
    reads (top 1 2 3 1 5 1 1 2 7 3 0 9 ++ 0xA5#8 ++ 0#12 ++ 0#64) (.lenter ⟨⟨3, 1, 5, 1, 0x507, 0xC09⟩, 0xA5, 0, 0⟩) = true ∧
    reads (top 2 1 2 0 6 0 2 0 3 0 0 0 ++ bodyA 0x3F800000 1 0 9 0 6) (.fcmp ⟨⟨2, 0, 6, 0, 0x803, 0⟩, 0x3F80_0000, 1, 0, 9, 0, 6⟩) = true ∧
    reads (top 3 10 1 1 0 0 1 0 2 0 0 0 ++ bodyA 0 0 0 2 1 1) (.madd ⟨⟨1, 1, 0, 0, 0x402, 0⟩, 0, 0, 0, 2, 1, 1⟩) = true ∧
    reads (top 4 12 0 0 2 0 1 1 63 0 0 0 ++ bodyA 0x0803 0 0 1 0 1) (.bfx ⟨⟨0, 0, 2, 0, 0x4BF, 0⟩, 0x0803, 0, 0, 1, 0, 1⟩) = true ∧
    reads (top 5 5 0 2 0 1 1 0 127 2 0 126 ++ bodyA 0 0 6 8 1 0) (.fdiv ⟨⟨0, 2, 0, 1, 0x47F, 0x87E⟩, 0, 0, 6, 8, 1, 0⟩) = true ∧
    reads (top 6 8 2 0 0 0 1 1 64 0 0 0 ++ bodyA 0 0 4 7 0 0) (.ferf ⟨⟨2, 0, 0, 0, 0x4C0, 0⟩, 0, 0, 4, 7, 0, 0⟩) = true ∧
    reads (top 7 1 1 0 0 0 1 0 4 0 0 0 ++ bodyA 0 0 5 11 1 6) (.cvtsr ⟨⟨1, 0, 0, 0, 0x404, 0⟩, 0, 0, 5, 11, 1, 6⟩) = true ∧
    reads (top 8 2 2 1 0 0 1 0 1 0 0 0 ++ bodyA 3 0 2 9 0 1) (.jcoef ⟨⟨2, 1, 0, 0, 0x401, 0⟩, 3, 0, 2, 9, 0, 1⟩) = true ∧
    reads (top 9 9 1 0 0 0 1 0 1 0 0 0 ++ bodyA 0xFFFF0001 0 0 3 0 0) (.iota ⟨⟨1, 0, 0, 0, 0x401, 0⟩, 0xFFFF_0001, 0, 0, 3, 0, 0⟩) = true := by decide +kernel

theorem test_words_GXMEY :
    reads (top 10 2 1 1 4 0 1 0 9 0 0 0 ++ 0#8 ++ 0xFFF#12 ++ 0x892#64) (.accum ⟨⟨1, 1, 4, 0, 0x409, 0⟩, 0, 0xFFF, 0x892⟩) = true ∧
    reads (top 11 0 3 0 0 0 1 0 1 0 0 0 ++ 2#2 ++ 15#4 ++ 0x2001#14 ++ 0xB000#64) (.mmat ⟨⟨3, 0, 0, 0, 0x401, 0⟩, 2, 15, 0x2001, 0xB000⟩) = true ∧
    reads (top 12 4 1 0 0 0 1 0 1 0 0 0 ++ 0xFFFFFFF0#32 ++ 0x2A#6 ++ 2#2 ++ 4#3 ++ 9#4 ++ 1#1 ++ 0x11#5 ++ (1#2 ++ 0xFFC0#16 ++ 0#13))
      (.sts ⟨⟨1, 0, 0, 0, 0x401, 0⟩, 0xFFFF_FFF0, 0x2A, 2, 4, 9, 1, 0x11, 0x3FF8_0000⟩) = true ∧
    reads (top 13 3 0 0 0 0 1 1 7 0 0 0 ++ 8#32 ++ 3#6 ++ 3#2 ++ 5#3 ++ 4#4 ++ 0#1 ++ 0#5 ++ (5#4 ++ 0#27))
      (.atom ⟨⟨0, 0, 0, 0, 0x487, 0⟩, 8, 3, 3, 5, 4, 0, 0, 0x2800_0000⟩) = true ∧
    reads (top 14 3 3 0 0 0 1 0 1 0 0 0 ++ 0#32 ++ 0#6 ++ 0#2 ++ 0#3 ++ 0#4 ++ 1#1 ++ 31#5 ++ (0#5 ++ 9#4 ++ 0#22))
      (.reinnar ⟨⟨3, 0, 0, 0, 0x401, 0⟩, 0, 0, 0, 0, 0, 1, 31, 0x0240_0000⟩) = true ∧
    reads (top 15 5 3 0 0 0 1 0 1 1 2 3 ++ 3#6 ++ 2#6 ++ 3#8 ++ 0#64) (.topk ⟨⟨3, 0, 0, 0, 0x401, 0x503⟩, 3, 2, 3, 0⟩) = true ∧
    reads (top 16 4 0 0 0 0 1 0 1 0 0 0 ++ 6#6 ++ 0#6 ++ 0#8 ++ 0x1000#64) (.chgask ⟨⟨0, 0, 0, 0, 0x401, 0⟩, 6, 0, 0, 0x1000⟩) = true ∧
    reads (top 17 3 0 1 0 0 1 0 1 0 0 0 ++ 0x12#16 ++ (1#1 ++ 0#3 ++ 0xDEADBEEF#64)) (.csrwr ⟨⟨0, 1, 0, 0, 0x401, 0⟩, 0x12, 0x8_0000_0000_DEAD_BEEF⟩) = true := by decide +kernel

/-- 00 R4: memory holds the word with its low byte first. -/
theorem test_bytes : decodeBytes ([0x00, 0x30, 0x58, 0, 0, 0, 0, 0, 0, 0, 0x30, 0x50, 0x09, 0x04, 0, 0x18] ++ [0xFF]) =
    .ok (.add ⟨⟨0, 0, 0, 0, 0x409, 0x503⟩, 5, 1, 0, 3, 0, 0⟩, [0xFF]) ∧
    decodeTableWord 128 (0x18 * 2 ^ 120) = some (.add ⟨h0, 0, 0, 0, 0, 0, 0⟩) := by decide +kernel

/-! ## What well-formedness refuses: one ill-formed term for each check, beside a well-formed one -/

def toLeft : Hdr := ⟨0, 0, 0, 0, 0x401, 0⟩

/-- That the first term of each pair is well-formed at JORDX 2 outside Stable code, and the second is not. -/
def refuses (l : List (Instr × Instr)) : Bool := l.all fun e => e.1.wf 2 false && !(e.2.wf 2 false)

/-- R127–R129: plane, predicate mode, TAGOP, XM and the targets. -/
theorem test_wf_header :
    let a (h : Hdr) : Instr := .add ⟨h, 0, 0, 0, 3, 0, 0⟩
    refuses [
      (a toLeft, a { toLeft with plane := 2 }), (a { toLeft with pmode := 2 }, a { toLeft with pmode := 3 }),
      (a { toLeft with tagop := 6 }, a { toLeft with tagop := 5 }), (a { toLeft with xm := 1 }, a { toLeft with xm := 2 }),
      (a { toLeft with t0 := 0x480 }, a { toLeft with t0 := 0x880 }), (a { toLeft with t1 := 0x801 }, a { toLeft with t1 := 0x401 }),
      (a { toLeft with t0 := 0 }, a { toLeft with t0 := 1 }), (a { toLeft with t0 := 0x48F }, a { toLeft with t0 := 0x4C0 }),
      (a { toLeft with t0 := 0x50F }, a { toLeft with t0 := 0x510 }), (a { toLeft with t0 := 0x500 }, a { toLeft with t0 := 0x580 }),
      (a { toLeft with t0 := 0x500 }, a { toLeft with t0 := 0x600 }), (a { toLeft with t0 := 0x400 }, a { toLeft with t0 := 0x680 }),
      (.steer ⟨{ toLeft with pmode := 1, t1 := 0x402 }, 0, 0, 0⟩, .steer ⟨{ toLeft with pmode := 1 }, 0, 0, 0⟩),
      (.tfree ⟨h0, 0, 0, 0⟩, .tfree ⟨toLeft, 0, 0, 0⟩), (.cvt ⟨toLeft, 0, 0, 0, 3, 0, 6⟩, .nonRodPacket)] = true := by decide +kernel

/-- R130, R131, R138: TY, VAR, RM, SAT, IMMR and IMM64 of format A. -/
theorem test_wf_format_A :
    let v : Hdr := { toLeft with plane := 1 }
    let j : Hdr := { toLeft with plane := 2 }
    refuses [
      (.add ⟨toLeft, 0, 0, 0, 4, 1, 0⟩, .add ⟨v, 0, 0, 0, 4, 1, 0⟩), (.lea ⟨toLeft, 0, 0, 0, 3, 0, 7⟩, .lea ⟨toLeft, 0, 0, 0, 2, 0, 7⟩),
      (.fadd ⟨toLeft, 0, 0, 0, 10, 0, 0⟩, .fadd ⟨v, 0, 0, 0, 10, 0, 0⟩), (.fexp ⟨j, 0, 0, 0, 9, 0, 0⟩, .fexp ⟨j, 0, 0, 0, 10, 0, 0⟩),
      (.dot4 ⟨v, 0, 0, 0, 0, 0, 1⟩, .dot4 ⟨v, 0, 0, 0, 1, 0, 1⟩), (.rng ⟨v, 0, 0, 0, 3, 0, 0⟩, .rng ⟨v, 0, 0, 0, 2, 0, 0⟩),
      (.pack4 ⟨v, 0, 0, 0, 11, 0, 0⟩, .pack4 ⟨v, 0, 0, 0, 9, 0, 0⟩), (.fcmp ⟨j, 0, 0, 0, 9, 0, 6⟩, .fcmp ⟨j, 0, 0, 0, 9, 0, 7⟩),
      (.zip ⟨v, 0, 0, 0, 0, 0, 1⟩, .zip ⟨v, 0, 0, 0, 0, 0, 2⟩), (.pand ⟨toLeft, 0, 0, 0, 0, 0, 0⟩, .pand ⟨toLeft, 0, 0, 0, 0, 0, 1⟩),
      (.jordSet ⟨toLeft, 0, 0, 0, 0, 0, 1⟩, .jordSet ⟨toLeft, 0, 0, 0, 0, 0, 0⟩), (.jord ⟨toLeft, 0, 0, 0, 0, 0, 0⟩, .jord ⟨toLeft, 0, 0, 0, 0, 0, 1⟩),
      (.fmul ⟨toLeft, 0, 0, 6, 9, 0, 0⟩, .fmul ⟨toLeft, 0, 0, 5, 9, 0, 0⟩), (.fmin ⟨toLeft, 0, 0, 0, 9, 0, 0⟩, .fmin ⟨toLeft, 0, 0, 1, 9, 0, 0⟩),
      (.cvtsr ⟨toLeft, 0, 0, 5, 8, 0, 6⟩, .cvtsr ⟨toLeft, 0, 0, 0, 8, 0, 6⟩), (.sub ⟨toLeft, 0, 0, 0, 3, 1, 0⟩, .mulh ⟨toLeft, 0, 0, 0, 3, 1, 0⟩),
      (.add ⟨toLeft, 7, 1, 0, 3, 0, 0⟩, .add ⟨toLeft, 7, 0, 0, 3, 0, 0⟩), (.not ⟨toLeft, 0, 0, 0, 3, 0, 0⟩, .not ⟨toLeft, 0, 1, 0, 3, 0, 0⟩),
      (.bfx ⟨toLeft, 0x0800, 0, 0, 1, 0, 0⟩, .bfx ⟨toLeft, 0x0801, 0, 0, 1, 0, 0⟩), (.bfi ⟨toLeft, 0x0105, 0, 0, 1, 0, 0⟩, .bfi ⟨toLeft, 0x0005, 0, 0, 1, 0, 0⟩),
      (.sext ⟨toLeft, 16, 0, 0, 2, 0, 0⟩, .sext ⟨toLeft, 17, 0, 0, 2, 0, 0⟩), (.jcoef ⟨j, 2, 0, 0, 9, 0, 1⟩, .jcoef ⟨j, 3, 0, 0, 9, 0, 1⟩),
      (.insl ⟨v, 15, 0, 0, 0, 0, 0⟩, .insl ⟨v, 16, 0, 0, 0, 0, 0⟩), (.slide ⟨v, 16, 0, 0, 0, 0, 0⟩, .slide ⟨v, 17, 0, 0, 0, 0, 0⟩),
      (.iota ⟨v, 0xFFFFFFFF, 0, 0, 3, 0, 0⟩, .iota ⟨v, 0x100000000, 0, 0, 3, 0, 0⟩),
      (.jordSet ⟨toLeft, 7, 1, 0, 0, 0, 1⟩, .jordSet ⟨toLeft, 8, 1, 0, 0, 0, 1⟩),
      (.jflagClr ⟨toLeft, 0x1F, 1, 0, 0, 0, 1⟩, .jflagClr ⟨toLeft, 0x20, 1, 0, 0, 0, 1⟩)] = true := by decide +kernel

/-- R132, R133, R159: formats G and B. -/
theorem test_wf_formats_G_and_B :
    let v : Hdr := { toLeft with plane := 1 }
    let p0 : Hdr := { toLeft with pmode := 0 }
    refuses [
      (.lenter ⟨{ toLeft with tagop := 5 }, 1, 0, 0⟩, .lenter ⟨{ toLeft with tagop := 5 }, 0, 0, 0⟩), (.mov ⟨toLeft, 0, 0, 0⟩, .mov ⟨toLeft, 1, 0, 0⟩),
      (.mov ⟨toLeft, 0, 0, 0⟩, .mov ⟨toLeft, 0, 1, 0⟩), (.const ⟨toLeft, 0, 0, 9⟩, .mov ⟨toLeft, 0, 0, 9⟩),
      (.spawn ⟨toLeft, 0, 0, 0xFFFFFFFFFFFFFFF⟩, .spawn ⟨toLeft, 0, 0, 0x1000000000000000⟩),
      (.getg ⟨toLeft, 0, 0, 63⟩, .getg ⟨v, 0, 0, 63⟩), (.putg ⟨v, 0, 0, 95⟩, .putg ⟨toLeft, 0, 0, 95⟩), (.getg ⟨v, 0, 0, 111⟩, .getg ⟨v, 0, 0, 112⟩),
      (.getg ⟨toLeft, 0, 0, 0⟩, .empty ⟨v, 0, 0, 96⟩), (.accum ⟨p0, 0, 4095, 0x90⟩, .red ⟨v, 0, 1, 0x90⟩),
      (.red ⟨v, 0, 0, 0x36⟩, .red ⟨v, 0, 0, 0x96⟩), (.accum ⟨p0, 0, 0, 0x93⟩, .accum ⟨p0, 0, 0, 0x94⟩), (.scan ⟨v, 0, 0, 0x36⟩, .scan ⟨v, 0, 0, 0x37⟩),
      (.red ⟨v, 0, 0, 0x690⟩, .red ⟨v, 0, 0, 0x130⟩), (.red ⟨v, 0, 0, 0x833⟩, .red ⟨v, 0, 0, 0x831⟩), (.compact ⟨p0, 0, 0, 0x30⟩, .compact ⟨p0, 0, 0, 0x31⟩),
      (.br ⟨h0, 1, 0⟩, .ret ⟨h0, 1, 0⟩), (.halt ⟨h0, 0, 0⟩, .halt ⟨toLeft, 0, 0⟩)] = true := by decide +kernel

/-- R134, R249, R258, R264: format M. -/
theorem test_wf_format_M :
    let v : Hdr := { toLeft with plane := 1 }
    let w : Hdr := { toLeft with plane := 3 }
    let r : Hdr := { toLeft with t0 := 0x481 }
    refuses [
      (.ld ⟨toLeft, 0, 0, 1, 5, 4, 1, 3, 0⟩, .ld ⟨toLeft, 0, 0, 2, 5, 4, 1, 3, 0⟩), (.st ⟨toLeft, 0, 0, 2, 0, 4, 0, 0, 0⟩, .st ⟨toLeft, 0, 0, 1, 0, 4, 0, 0, 0⟩),
      (.ld ⟨toLeft, 0, 0, 1, 5, 4, 0, 0, 0⟩, .ld ⟨toLeft, 0, 0, 1, 6, 4, 0, 0, 0⟩), (.ld ⟨toLeft, 0, 0, 1, 1, 4, 0, 0, 0⟩, .ld ⟨toLeft, 0, 0, 0, 1, 4, 0, 0, 0⟩),
      (.ld ⟨toLeft, 0, 0, 0, 0, 4, 1, 1, 0⟩, .ld ⟨toLeft, 0, 0, 0, 0, 4, 0, 1, 0⟩), (.ld ⟨toLeft, 0, 0, 0, 0, 10, 0, 0, 0⟩, .ld ⟨toLeft, 0, 0, 0, 0, 11, 0, 0, 0⟩),
      (.ld ⟨toLeft, 0, 0, 0, 0, 4, 0, 0, 0x40000000⟩, .ld ⟨toLeft, 0, 0, 0, 0, 4, 0, 0, 0x60000000⟩), (.lds ⟨v, 0, 0, 0, 0, 9, 0, 0, 0x1FFFE000⟩, .lds ⟨v, 0, 0, 0, 0, 9, 0, 0, 0x1000⟩),
      (.pref ⟨h0, 0, 0, 0, 0, 0, 0, 0, 0x3FE00000⟩, .pref ⟨h0, 0, 0, 0, 0, 0, 0, 0, 0x40000000⟩), (.pref ⟨h0, 0, 0, 0, 0, 0, 0, 0, 0⟩, .pref ⟨h0, 0, 0, 0, 0, 0, 1, 1, 0⟩),
      (.stv ⟨r, 0, 0, 3, 0, 4, 0, 0, 0x8000⟩, .stv ⟨r, 0, 0, 3, 0, 4, 0, 0, 0⟩), (.atom ⟨r, 0, 0, 0, 0, 9, 0, 0, 0x48000000⟩, .atom ⟨r, 0, 0, 0, 0, 9, 0, 0, 0⟩),
      (.atom ⟨r, 0, 0, 0, 0, 4, 0, 0, 0x40000000⟩, .atom ⟨r, 0, 0, 0, 0, 4, 0, 0, 0x50000000⟩), (.fence ⟨h0, 0, 0, 3, 5, 0, 0, 0, 0⟩, .fence ⟨h0, 8, 0, 3, 5, 0, 0, 0, 0⟩),
      (.nullst ⟨h0, 0, 5, 0, 0, 0, 0, 0, 0⟩, .nullst ⟨h0, 0, 5, 1, 0, 0, 0, 0, 0⟩), (.ldv ⟨toLeft, 0, 0, 0, 0, 4, 0, 0, 0⟩, .ldv ⟨toLeft, 0, 0, 0, 0, 3, 0, 0, 0⟩),
      (.reindup ⟨w, 0, 0, 0, 0, 0, 1, 3, 0x10000000⟩, .reindup ⟨w, 0, 0, 0, 0, 0, 1, 3, 0x0C000000⟩), (.reindup ⟨w, 0, 0, 0, 0, 0, 1, 3, 0⟩, .reindup ⟨w, 0, 0, 0, 0, 0, 0, 0, 0x04000000⟩),
      (.reinnar ⟨w, 0, 0, 0, 0, 0, 1, 3, 0x03C00000⟩, .reinnar ⟨w, 0, 0, 0, 0, 0, 1, 3, 0x04000000⟩), (.reinmk ⟨w, 0, 0, 0, 0, 0, 0, 7, 0⟩, .reinmk ⟨w, 8, 0, 0, 0, 0, 0, 7, 0⟩)] = true := by decide +kernel

/-- R135–R137: formats X, E and Y. -/
theorem test_wf_formats_XEY :
    let w : Hdr := { toLeft with plane := 3 }
    let q : Hdr := { toLeft with t0 := 0x481 }
    let o : Hdr := { w with t0 := 0x501 }
    refuses [
      (.mmat ⟨w, 1, 15, 4, 0xF000⟩, .mmat ⟨w, 2, 15, 4, 0xF000⟩), (.mmat ⟨w, 3, 0, 0, 0⟩, .mmat ⟨w, 3, 0, 0, 1⟩), (.accclr ⟨w, 3, 0, 0, 0⟩, .accclr ⟨w, 3, 1, 0, 0⟩),
      (.tfetch ⟨w, 0, 0, 0, 0x40FF000000000000⟩, .tfetch ⟨w, 0, 0, 0, 0x00FF000000000000⟩), (.tfetch ⟨w, 0, 0, 0, 0x4000000000000000⟩, .tfetch ⟨w, 0, 0, 0, 0x4100000000000000⟩),
      (.accarm ⟨w, 0, 0, 0, 1⟩, .accarm ⟨w, 0, 0, 0, 0⟩), (.accrd ⟨w, 0, 0, 0, 0xFE74000000000000⟩, .accrd ⟨w, 0, 0, 0, 0xFD34000000000000⟩),
      (.copy ⟨o, 0, 15, 3, 0⟩, .copy ⟨o, 1, 15, 3, 0⟩), (.gather ⟨o, 1, 3, 3, 0⟩, .gather ⟨o, 1, 4, 3, 0⟩), (.coll ⟨o, 2, 15, 1, 0⟩, .coll ⟨o, 2, 15, 2, 0⟩), (.copy ⟨o, 0, 0, 1, 0⟩, .copy ⟨w, 0, 0, 1, 0⟩),
      (.wpwait ⟨w, 0, 3, 0, 0xFFFFFFFFFF⟩, .wpwait ⟨w, 0, 3, 0, 0x10000000000⟩), (.cstat ⟨w, 3, 2, 0, 0⟩, .cstat ⟨w, 3, 3, 0, 0⟩), (.cwait ⟨w, 4, 0, 0, 0⟩, .cwait ⟨w, 5, 0, 0, 0⟩),
      (.qpush ⟨q, 5, 15, 0, 0⟩, .qpush ⟨q, 5, 15, 1, 0⟩), (.chgask ⟨q, 6, 0, 0, 0xFFFFFFFF⟩, .chgask ⟨q, 6, 0, 0, 0x100000000⟩),
      (.trap ⟨h0, 0, 0xFFFF⟩, .trap ⟨h0, 0, 0x10000⟩), (.trap ⟨h0, 0, 0⟩, .trap ⟨h0, 1, 0⟩), (.csrrd ⟨toLeft, 0x201, 0⟩, .csrrd ⟨toLeft, 0x203, 0⟩),
      (.csrwr ⟨toLeft, 0x10, 0⟩, .csrwr ⟨toLeft, 0x201, 0⟩), (.csrwr ⟨toLeft, 0x12, 0x80000000000000005⟩, .csrwr ⟨toLeft, 0x12, 5⟩),
      (.csrrd ⟨toLeft, 0x31F, 0⟩, .csrrd ⟨toLeft, 0x8000, 0⟩), (.tlbinv ⟨h0, 0, 0x40000000000000000⟩, .tlbinv ⟨h0, 0, 0x80000000000000000⟩),
      (.tbase ⟨toLeft, 0, 0⟩, .fret ⟨h0, 0, 0⟩)] = true ∧
    (Instr.fret ⟨h0, 0, 0⟩).wf 0 true = true ∧ (Instr.csrrd ⟨toLeft, 0x8000, 0⟩).wf 0 true = true := by decide +kernel

/-- 15 R293, R295; 21 R351; 03 R68; 04 R81: the numbers of a command. -/
theorem test_wf_commands :
    let c : Cmd := ⟨1, false⟩
    ([(.part c 47 0 0 0, .part c 48 0 0 0), (.part c 1 0 0 0, .part c 0 0 0 0), (.fwin c 3 15 0 0 0 0, .fwin c 4 15 0 0 0 0), (.fwin c 3 15 0 0 0 0, .fwin c 3 16 0 0 0 0),
      (.enqueue c 0 15 (List.replicate 8 0) 0, .enqueue c 0 16 (List.replicate 8 0) 0), (.enqueue c 0 0 (List.replicate 8 0) 0, .enqueue c 0 0 [] 0),
      (.frames c 0 2047 [], .frames c 0 2048 []), (.frames c 0 0 [⟨2 ^ 36 - 1, 0, 0, false, false, false⟩], .frames c 0 0 [⟨2 ^ 36, 0, 0, false, false, false⟩]),
      (.rings c 0 (List.replicate 16 0) (List.replicate 16 0) 0 0 0 0, .rings c 0 [] [] 0 0 0 0), (.debugResume c 1 2047, .debugResume c 1 2048),
      (.debugSuspend c 47 0, .debugSuspend c 48 0), (.arenaCreate c 1 1 1023 0 0 3, .arenaCreate c 1 1 1024 0 0 3), (.arenaCreate c 1 1 1 0 0 0, .arenaCreate c 1 1 0 0 0 0)] :
      List (Instr × Instr)).all (fun e => cmdInRange e.1 && !(cmdInRange e.2)) = true := by decide +kernel

/-! ## Witnesses of the statements about decoding and about a step -/

/-- The words of the unassigned groups, at both ends of the range (premise of `DecodeReadsSpecWords`). -/
theorem witness_DecodeReadsSpecWords : 0x12 ≤ opcOf (bare 0x240) / 32 ∧ 0x12 ≤ opcOf (bare 0x3FF) / 32 := by decide +kernel

/-- `DecodeInvertsEncode`: forms of every format, and both values of VAR where it chooses the form. -/
theorem witness_DecodeInvertsEncode :
    ([.add ⟨h0, 0, 0, 0, 0, 0, 0⟩, .jord ⟨h0, 0, 0, 0, 0, 0, 0⟩, .jordSet ⟨h0, 0, 0, 0, 0, 0, 1⟩, .jflag ⟨h0, 0, 0, 0, 0, 0, 7⟩, .jflagClr ⟨h0, 0, 0, 0, 0, 0, 1⟩,
      .br ⟨h0, 0, 0⟩, .mov ⟨h0, 0, 0, 0⟩, .ld ⟨h0, 0, 0, 0, 0, 0, 0, 0, 0⟩, .mmat ⟨h0, 0, 0, 0, 0⟩, .copy ⟨h0, 0, 0, 0, 0⟩, .trap ⟨h0, 0, 0⟩] : List Instr).all
      (fun i => isForm i && varFits i) = true := by decide +kernel

theorem witness_EncodeInvertsDecode : decode (bare 0x060) = .ok (.add ⟨h0, 0, 0, 0, 0, 0, 0⟩) := by decide +kernel

/-- The word of `ADD.S.INT32` with targets none, and the state in which it is the next to fire. -/
def addWord : Nat := (bare 0x060 ++ 0#0).toNat + 3 * 2 ^ 12
def aboutToAdd : State := State.reset.withFetchWord 128 addWord

theorem witness_StepFiresDecodedInstruction :
    (match aboutToAdd.agenda with
     | .fire st :: ms => (match (aboutToAdd.node st.node).cur with
        | some m => (match m.blk.ins[st.q]? with
          | some w => (match decode w with
            | .ok i => nextIs (exec i { tickClock aboutToAdd with agenda := ms, cur := some st }) (fun _ => true)
            | .error _ => false)
          | none => false)
        | none => false)
     | _ => false) = true ∧
    (let s := { State.reset with agenda := [.event .nonRodPacket] }
     s.agenda = .event .nonRodPacket :: [] ∧ nextIs (exec .nonRodPacket { tickClock s with agenda := [], cur := none }) (fun t => decide (t.hub.nonRod = 1)) = true) := by decide +kernel

end Sys2Proof.Tests
end

section
/-! PROOFS. What the updates of a firing leave as it was (01 R17, R19; 05 R91), and that no task that stands ceases to: facts about the shared
operations, one for each, from which those about the instruction forms follow. -/

namespace Sys2Proof

theorem Sparse.get_put_same {α : Type} [DecidableEq α] {d : α} {k : Nat} {v : α} (hv : v ≠ d) :
    ∀ m : List (Nat × α), Sparse.get d (Sparse.put d m k v) k = v
  | [] => by simp [Sparse.put, hv, Sparse.get]
  | (a, w) :: m => by
    rcases Nat.lt_trichotomy k a with h | rfl | h
    · simp [Sparse.put_lt v h, hv, Sparse.get_eq]
    · simp [Sparse.put_eq, hv, Sparse.get_eq]
    · rw [Sparse.put_gt v h, Sparse.get_ne (by omega), Sparse.get_put_same hv m]

end Sys2Proof

namespace Sys2Proof.Machine

/-! ## Tasks, registers and memory through an update -/

/-- The registers, the matrix state and the control registers of a node, as one value. -/
def Node.regs (nd : Node) :=
  (nd.s, nd.v, nd.p, nd.h, nd.tiles, nd.pins, nd.fpstat, nd.jflags, nd.rmode, nd.jord, nd.rngkey)

theorem Node.sameRegs_of_regs {a b : Node} (h : a.regs = b.regs) : a.SameRegs b := by
  simp only [Node.regs, Prod.mk.injEq] at h
  obtain ⟨h1, h2, h3, h4, h5, h6, h7, h8, h9, h10, h11⟩ := h
  exact ⟨h1, h2, h3, h4, h5, h6, h7, h8, h9, h10, h11⟩

/-- An update that leaves every task that stands a task, and one that is ending so. -/
def Upd.KeepsTasks : Upd → Prop
  | .task _ f => ∀ t, ∃ t', f (some t) = some t' ∧ (t.st = .ending → t'.st = .ending)
  | _ => True

/-- An update of a firing that ends no task: no scratchpad, no clock, no register; and nothing of memory, unless the firing reads lines. -/
def Upd.Calm (reads : Bool) : Upd → Prop
  | .pad _ _ | .tick _ | .power _ => False
  | .mem _ _ | .table _ _ | .ver _ _ | .l2 _ _ | .poison _ _ | .held _ => reads = true
  | .node _ f => ∀ nd, (f nd).regs = nd.regs
  | .task k f => (Upd.task k f).KeepsTasks
  | _ => True

/-- Every task of `s` is one of `u`, and ending there where it was. -/
def TasksStay (s u : State) : Prop := ∀ k t, s.task k = some t → ∃ t', u.task k = some t' ∧ (t.st = .ending → t'.st = .ending)

/-- What a firing leaves alone that ends no task: scratchpads, time and power; registers; and unless it reads lines, memory. -/
structure Undisturbed (reads : Bool) (s u : State) : Prop where
  pads : u.pads = s.pads
  tbase : u.tbase = s.tbase
  power : u.power = s.power
  memory : reads = false → u.tables = s.tables ∧ u.vers = s.vers ∧ u.mem = s.mem ∧ u.l2 = s.l2 ∧ u.poison = s.poison ∧ u.held = s.held
  canonical : s.Canonical → u.Canonical
  regs : s.Canonical → ∀ n, (u.node n).regs = (s.node n).regs

theorem State.ending_iff {s : State} {k : Nat} : s.ending k ↔ ∃ t, s.task k = some t ∧ t.st = .ending := by
  simp [State.ending]

theorem TasksStay.refl (s : State) : TasksStay s s := fun _ t h => ⟨t, h, id⟩

theorem TasksStay.trans {a b c : State} (hab : TasksStay a b) (hbc : TasksStay b c) : TasksStay a c := by
  intro k t ht
  obtain ⟨t', ht', h1⟩ := hab k t ht
  obtain ⟨t'', ht'', h2⟩ := hbc k t' ht'
  exact ⟨t'', ht'', h2 ∘ h1⟩

theorem TasksStay.ending {s u : State} (h : TasksStay s u) {k : Nat} (hk : s.ending k) : u.ending k := by
  obtain ⟨t, ht, he⟩ := State.ending_iff.1 hk
  obtain ⟨t', ht', h'⟩ := h k t ht
  exact State.ending_iff.2 ⟨t', ht', h' he⟩

theorem Undisturbed.refl (r : Bool) (s : State) : Undisturbed r s s := ⟨rfl, rfl, rfl, fun _ => ⟨rfl, rfl, rfl, rfl, rfl, rfl⟩, id, fun _ _ => rfl⟩

theorem Undisturbed.trans {r : Bool} {a b c : State} (hab : Undisturbed r a b) (hbc : Undisturbed r b c) : Undisturbed r a c where
  pads := hbc.pads.trans hab.pads
  tbase := hbc.tbase.trans hab.tbase
  power := hbc.power.trans hab.power
  memory hr := by
    obtain ⟨h1, h2, h3, h4, h5, h6⟩ := hab.memory hr
    obtain ⟨g1, g2, g3, g4, g5, g6⟩ := hbc.memory hr
    exact ⟨g1.trans h1, g2.trans h2, g3.trans h3, g4.trans h4, g5.trans h5, g6.trans h6⟩
  canonical h := hbc.canonical (hab.canonical h)
  regs h n := (hbc.regs (hab.canonical h) n).trans (hab.regs h n)

theorem Undisturbed.mono {s u : State} (h : Undisturbed false s u) (r : Bool) : Undisturbed r s u :=
  ⟨h.pads, h.tbase, h.power, fun _ => h.memory rfl, h.canonical, h.regs⟩

/-- A change of a task that keeps it, made in a list of any order. -/
theorem Upd.tasksStay {u : Upd} (h : u.KeepsTasks) (s : State) : TasksStay s (u.apply s) := by
  cases u with
  | task j f =>
    intro k t ht
    by_cases hk : k = j
    · subst hk
      obtain ⟨t', ht', he⟩ := h t
      have hf : f (Sparse.get none s.tasks k) = some t' := (congrArg f ht).trans ht'
      refine ⟨t', ?_, he⟩
      show Sparse.get none (Sparse.put none s.tasks k (f (Sparse.get none s.tasks k))) k = some t'
      rw [hf, Sparse.get_put_same (by simp)]
    · exact ⟨t, (Sparse.get_put_ne _ hk).trans ht, id⟩
  | _ => exact fun k t ht => ⟨t, ht, id⟩

theorem Upd.Calm.keepsTasks {r : Bool} {u : Upd} (h : u.Calm r) : u.KeepsTasks := by
  cases u with
  | task => exact h
  | _ => trivial

/-- A calm update disturbs nothing. -/
theorem Upd.Calm.undisturbed {r : Bool} {u : Upd} (h : u.Calm r) (s : State) : Undisturbed r s (u.apply s) := by
  have hc : s.Canonical → (u.apply s).Canonical := u.canonical
  cases u with
  | pad | tick | power => exact h.elim
  | node n f =>
    refine ⟨rfl, rfl, rfl, fun _ => ⟨rfl, rfl, rfl, rfl, rfl, rfl⟩, hc, fun hs m => ?_⟩
    show (Sparse.get Node.reset (Sparse.put Node.reset s.nodes n (f (s.node n))) m).regs = (Sparse.get Node.reset s.nodes m).regs
    rw [Sparse.get_put _ _ _ hs.nodes]
    split
    · next hm => subst hm; exact h _
    · rfl
  | mem | table | ver | l2 | poison | held => exact ⟨rfl, rfl, rfl, fun hr => (by cases hr.symm.trans h), hc, fun _ _ => rfl⟩
  | _ => exact ⟨rfl, rfl, rfl, fun _ => ⟨rfl, rfl, rfl, rfl, rfl, rfl⟩, hc, fun _ _ => rfl⟩

/-! ## Programs that end a task or disturb nothing -/

/-- What a firing does to a state: every task stays a task, and one has come to its end or what a firing leaves alone is as it was. -/
def Gentle (r : Bool) (s u : State) : Prop := TasksStay s u ∧ ((∃ k, u.ending k ∧ ¬s.ending k) ∨ Undisturbed r s u)

theorem Gentle.trans {r : Bool} {a b c : State} (hab : Gentle r a b) (hbc : Gentle r b c) : Gentle r a c := by
  obtain ⟨h1, h2⟩ := hab
  obtain ⟨g1, g2⟩ := hbc
  refine ⟨h1.trans g1, ?_⟩
  rcases h2 with ⟨k, hk, hn⟩ | h2
  · exact .inl ⟨k, g1.ending hk, hn⟩
  · rcases g2 with ⟨k, hk, hn⟩ | g2
    · exact .inl ⟨k, hk, fun h => hn (h1.ending h)⟩
    · exact .inr (h2.trans g2)

/-- Where no task has come to its end, nothing is disturbed. -/
theorem Gentle.undisturbed {r : Bool} {s u : State} (h : Gentle r s u) (hn : NoneEnds s u) : Undisturbed r s u :=
  h.2.resolve_left fun ⟨k, hk, hs⟩ => hs (hn k hk)

/-- A program that from every state does what a firing does. -/
def Keeps (r : Bool) (p : Prog) : Prop := ∀ s, Gentle r s (p.run s)

theorem Keeps.skip {r : Bool} : Keeps r .skip := fun s => ⟨.refl s, .inr (.refl r s)⟩

theorem Keeps.seq {r : Bool} {p q : Prog} (hp : Keeps r p) (hq : Keeps r q) : Keeps r (.seq p q) := fun s => (hp s).trans (hq _)

theorem Keeps.ask {r : Bool} {k : State → Prog} (h : ∀ s, Keeps r (k s)) : Keeps r (.ask k) := fun s => h s s

theorem Keeps.of_only {r : Bool} {p : Prog} (h : p.Only (Upd.Calm r)) : Keeps r p := by
  induction p with
  | skip => exact .skip
  | upd u => exact fun s => ⟨Upd.tasksStay h.keepsTasks s, .inr (h.undisturbed s)⟩
  | seq p q ihp ihq => exact (ihp h.1).seq (ihq h.2)
  | ask k ih => exact .ask fun s => ih s (h s)

theorem Keeps.all_nil {r : Bool} : Keeps r (.all []) := .skip

theorem Keeps.all_cons {r : Bool} {p : Prog} {ps : List Prog} (hp : Keeps r p) (hps : Keeps r (.all ps)) : Keeps r (.all (p :: ps)) := hp.seq hps

theorem Keeps.each {r : Bool} {α : Type} {l : List α} {f : α → Prog} (h : ∀ x ∈ l, Keeps r (f x)) : Keeps r (.each l f) := by
  induction l with
  | nil => exact .skip
  | cons x l ih => exact (h x (List.mem_cons_self ..)).seq (ih fun y hy => h y (List.mem_cons_of_mem _ hy))

theorem Keeps.when {r c : Bool} {p : Prog} (h : Keeps r p) : Keeps r (.when c p) := by
  cases c
  · exact .skip
  · exact h

theorem Keeps.mono {p : Prog} (h : Keeps false p) (r : Bool) : Keeps r p :=
  fun s => ⟨(h s).1, (h s).2.imp id fun h => h.mono r⟩

/-- A program of updates that keep tasks leaves every task a task. -/
theorem tasksStay_of_only {p : Prog} (h : p.Only Upd.KeepsTasks) (s : State) : TasksStay s (p.run s) :=
  Prog.run_rel TasksStay.refl (fun _ _ _ => TasksStay.trans) (fun _ hu s => Upd.tasksStay hu s) p h s

theorem keepsTasks_of_calm {r : Bool} {p : Prog} (h : p.Only (Upd.Calm r)) : p.Only Upd.KeepsTasks := h.mono fun _ => Upd.Calm.keepsTasks

end Sys2Proof.Machine
end

section
/-! PROOFS. The shared operations of a firing are calm: registers, scratchpads, time, power and memory stay as they were (01 R17, R19). -/

namespace Sys2Proof.Machine

/-! ## The matching store and the spill area hold no register -/

theorem Node.regs_setEntry (nd : Node) (e : Nat) (m : Option MEntry) : (nd.setEntry e m).regs = nd.regs := by
  cases m <;> rfl

theorem Node.regs_place (nd : Node) (q slot : Nat) (t : Tok) (edge : Option Nat) : (nd.place q slot t edge).regs = nd.regs := by
  unfold Node.place
  dsimp only
  split
  · exact nd.regs_setEntry _ _
  · split
    · exact nd.regs_setEntry _ _
    · rfl

/-- A fold of changes that keep the registers keeps them. -/
theorem Node.regs_foldl {α : Type} {f : Node → α → Node} (hf : ∀ nd x, (f nd x).regs = nd.regs) (l : List α) (nd : Node) :
    (l.foldl f nd).regs = nd.regs :=
  List.foldlRecOn l f (motive := fun m => m.regs = nd.regs) rfl fun m hm x _ => (hf m x).trans hm

theorem Node.regs_moveIn (nd : Node) (o : Spilled) : (nd.moveIn o).regs = nd.regs := by
  unfold Node.moveIn
  refine (Node.regs_foldl (fun _ _ => ?_) _ _).trans rfl
  exact Node.regs_place ..

theorem Node.regs_unspill (nd : Node) (e : Nat) : (nd.unspill e).regs = nd.regs := by
  unfold Node.unspill
  split
  · rfl
  · split
    · rfl
    · split
      · rfl
      · exact nd.regs_moveIn _

theorem Node.regs_takeOut (nd : Node) (q : Nat) (t : Tag) : (nd.takeOut q t).regs = nd.regs := by
  unfold Node.takeOut
  refine (Node.regs_unspill _ _).trans ?_
  split
  · split <;> rfl
  · rfl

theorem Node.regs_giveBack (nd : Node) (us : List CUnit) : (nd.giveBack us).regs = nd.regs := by
  unfold Node.giveBack
  refine ((Node.regs_foldl (fun _ _ => ?_) _ _).trans (Node.regs_foldl (fun _ _ => ?_) _ _)).trans rfl
  · exact Node.regs_unspill ..
  · exact Node.regs_place ..

theorem Node.regs_record (nd : Node) (f : FaultRec) : (nd.record f).regs = nd.regs := by
  unfold Node.record
  split <;> rfl

theorem Node.regs_addRefused (draw : Nat) (nd : Node) : (nd.addRefused draw).regs = nd.regs := by
  unfold Node.addRefused
  split <;> simp only [Node.regs]

theorem Node.regs_onCur (nd : Node) (f : Mapped → Mapped) : (nd.onCur f).regs = nd.regs := rfl
theorem Node.regs_l1Put (nd : Node) (l : L1Line) (seed : Nat) : (nd.l1Put l seed).regs = nd.regs := rfl
theorem Node.regs_l1Clear (nd : Node) : nd.l1Clear.regs = nd.regs := rfl
theorem Node.regs_purge (nd : Node) (c : Nat) : (nd.purge c).regs = nd.regs := rfl
theorem Node.regs_unmapped (nd : Node) : ({ nd with cur := none, fetched := none, loads := [], held := [] } : Node).regs = nd.regs := rfl

theorem Node.regs_checkHalt (nd : Node) : nd.checkHalt.regs = nd.regs := by
  unfold Node.checkHalt
  by_cases h : (nd.ctx 0).st = .halted && ((List.range 8).filter fun k => 1 ≤ k).all fun k => decide ((nd.ctx k).st = .none)
  · rw [if_pos h]
    rfl
  · rw [if_neg h]

/-- Freeing a colour leaves the task's state. -/
theorem Task.st_dropColour : ∀ (k c : Nat) (t : Task), (Task.dropColour k c t).st = t.st
  | 0, _, _ => rfl
  | k + 1, _, t => by
    unfold Task.dropColour
    refine List.foldlRecOn _ _ (motive := fun u => u.st = t.st) ?_ fun u hu x _ => (Task.st_dropColour k x u).trans hu
    rfl

theorem Task.st_release (c : Nat) (t : Task) : (t.release c).st = t.st := Task.st_dropColour ..

section
variable {r : Bool}

/-! ## Updates of one component -/

theorem calm_node {n : Nat} {f : Node → Node} (h : ∀ nd, (f nd).regs = nd.regs := by intro; simp only [Node.regs]) : (Prog.upd (.node n f)).Only (Upd.Calm r) := h

/-- A change of a task that does not bring it back from its end. -/
theorem calm_task {k : Nat} {g : Task → Task} (h : ∀ t, t.st = .ending → (g t).st = .ending := by exact fun _ h => h) :
    (Prog.upd (.task k fun o => o.map g)).Only (Upd.Calm r) := fun t => ⟨g t, rfl, h t⟩

theorem calm_onRef {n : Nat} {f : Node → Node} (h : ∀ nd, (f nd).regs = nd.regs := by intro; simp only [Node.regs]) : (onRef n f).Only (Upd.Calm r) := by
  unfold onRef
  split
  · exact h
  · exact calm_task

theorem calm_onUnit {n : Nat} {ut : Tag} {f : CUnit → CUnit} : (onUnit n ut f).Only (Upd.Calm r) :=
  calm_node fun nd => nd.regs_onCur _
theorem calm_addAct {n : Nat} {ut : Tag} {q : Nat} {tag : Tag} {a : Act} : (addAct n ut q tag a).Only (Upd.Calm r) := calm_onUnit
theorem calm_onArena {asid id : Nat} {f : Arena → Arena} : (onArena asid id f).Only (Upd.Calm r) := trivial
theorem calm_onCard {k : Nat} {f : Card → Card} : (onCard k f).Only (Upd.Calm r) := trivial
theorem calm_markBad {n : Nat} : (markBad n).Only (Upd.Calm r) := trivial
theorem calm_alert {opc : Nat} {body : List Word} : (alert opc body).Only (Upd.Calm r) := trivial
theorem calm_pushMsg {p : Nat} {e : List Word} : (pushMsg p e).Only (Upd.Calm r) := trivial
theorem calm_deviceEntry {p tid code : Nat} {v : Word} : (deviceEntry p tid code v).Only (Upd.Calm r) := fun _ => trivial
theorem calm_farrierRecord {x : Report} {a : Nat} : (farrierRecord x a).Only (Upd.Calm r) := fun _ => ⟨trivial, trivial⟩

theorem calm_report {n : Nat} {f : FaultRec} {a : Option Nat} : (report n f a).Only (Upd.Calm r) := by
  intro s
  cases a
  · exact trivial
  · exact calm_farrierRecord

/-! ## Discarding a block, taking a fault, drawing (01 R19; 22 R361, R371; 06 R113) -/

theorem calm_refundPass {n : Nat} : (refundPass n).Only (Upd.Calm r) := by
  intro s
  dsimp only
  split
  · exact trivial
  · exact Prog.only_each fun _ _ => calm_node

theorem calm_releaseClaims {tid asid : Nat} {us : List CUnit} : (releaseClaims tid asid us).Only (Upd.Calm r) := by
  refine Prog.only_each fun cl _ => ?_
  cases cl with
  | colour c => exact calm_task fun t h => (t.st_release c).trans h
  | slot | freeTag => exact calm_task
  | run => exact calm_onArena

theorem calm_discardBlock {n : Nat} : (discardBlock n).Only (Upd.Calm r) := by
  refine ⟨calm_refundPass, fun s => ?_⟩
  dsimp only
  split
  · exact calm_node
  · refine ⟨?_, calm_node fun nd => (Node.regs_unmapped _).trans (nd.regs_giveBack _)⟩
    split
    · exact calm_releaseClaims
    · exact trivial

theorem calm_takeFault {n : Nat} {f : FaultRec} : (takeFault n f).Only (Upd.Calm r) := by
  intro s
  dsimp only
  split
  · exact calm_node
  · exact ⟨calm_node fun nd => nd.regs_record f, calm_report, calm_discardBlock, trivial⟩

theorem calm_shortfall {n draw place : Nat} {pc : BitVec 58} {tag : Tag} : (shortfall n draw place pc tag).Only (Upd.Calm r) := by
  refine fun s => ⟨calm_onRef fun nd => (Node.regs_record ..).trans (nd.regs_addRefused draw), calm_report, ?_, trivial⟩
  split
  · exact calm_task fun t h => by rw [if_pos h]; exact h
  · exact trivial

theorem calm_drawOr {n draw place : Nat} {pc : BitVec 58} {tag : Tag} {k : Prog} (h : k.Only (Upd.Calm r)) :
    (drawOr n draw place pc tag k).Only (Upd.Calm r) := by
  intro s
  dsimp only
  split
  · exact ⟨calm_onRef, h⟩
  · exact calm_shortfall

theorem keeps_drawOr {n draw place : Nat} {pc : BitVec 58} {tag : Tag} {k : Prog} (h : Keeps r k) : Keeps r (drawOr n draw place pc tag k) := by
  refine .ask fun s => ?_
  split
  · exact .seq (.of_only (calm_onRef)) h
  · exact .of_only (calm_shortfall)


/-! ## Colours (22 R367; 24 R398; 08 R154) -/

theorem calm_purgeColour {tid c : Nat} : (purgeColour tid c).Only (Upd.Calm r) :=
  fun _ => ⟨Prog.only_each fun _ _ => calm_node, Prog.only_each fun _ _ => calm_node fun nd => nd.regs_purge c, calm_task, trivial, trivial⟩

theorem calm_colourFault {n tid code q slot : Nat} {t : Tag} : (colourFault n tid code q slot t).Only (Upd.Calm r) :=
  fun _ => ⟨calm_purgeColour, calm_onRef fun nd => nd.regs_record _, calm_report, trivial⟩

theorem calm_forgetDraws {tid c : Nat} : (forgetDraws tid c).Only (Upd.Calm r) :=
  fun _ => ⟨Prog.only_each fun _ _ => calm_node, calm_task⟩

theorem calm_claimColour {c : Fx} {col : Nat} {fr : Frame} : (claimColour c col fr).Only (Upd.Calm r) :=
  ⟨calm_forgetDraws, calm_task, calm_onUnit, trivial⟩

theorem calm_takeClaim {tid n : Nat} {ut : Tag} {cl : Option Claim} : (takeClaim tid n ut cl).Only (Upd.Calm r) := by
  cases cl with
  | none => exact trivial
  | some cl =>
    refine ⟨calm_onUnit, ?_⟩
    cases cl with
    | slot => exact calm_task
    | _ => exact trivial

theorem calm_replaceTask {tid : Nat} : (replaceTask tid).Only (Upd.Calm r) := by
  intro s
  dsimp only
  split
  · split
    · exact calm_task
    · exact trivial
  · exact trivial

/-! ## Held pages, translations, loads (23 R376; 03 R64, R69, R70; 13 R250) -/

theorem calm_holdPage {n va : Nat} {write fetch exec : Bool} {place : Nat} {tag : Tag} :
    (holdPage n va write fetch exec place tag).Only (Upd.Calm r) := by
  intro s
  dsimp only
  split
  · exact trivial
  · split
    · exact trivial
    · exact ⟨calm_node, trivial⟩

theorem calm_holdPages {n : Nat} {vas : List Nat} {write : Bool} {place : Nat} {tag : Tag} :
    (holdPages n vas write place tag).Only (Upd.Calm r) := Prog.only_each fun _ _ => calm_holdPage

theorem calm_touchTlb {die asid va : Nat} : (touchTlb die asid va).Only (Upd.Calm r) := by
  intro s
  dsimp only
  split
  · exact trivial
  · split <;> exact trivial

theorem calm_noteXlate {c : Fx} {stream : Bool} {es : List Elem} : (noteXlate c stream es).Only (Upd.Calm r) := by
  refine ⟨Prog.only_each fun _ _ => calm_touchTlb, ?_⟩
  split
  · exact fun _ => calm_node fun nd => nd.regs_onCur _
  · exact trivial

theorem calm_issueLoad {i : Instr} {c : Fx} {f : FmtM} {stream : Bool} {es : List Elem} {want : Option Nat} {useL1 : Bool} :
    (issueLoad i c f stream es want useL1).Only (Upd.Calm r) := ⟨calm_noteXlate, calm_onUnit, calm_node, trivial, trivial⟩

theorem calm_l1Inv {c : Fx} {va : Nat} : (l1Inv c va).Only (Upd.Calm r) := calm_node

theorem calm_l1Fill {n line vline : Nat} : (l1Fill n line vline).Only (Upd.Calm r) := by
  refine ⟨fun s => ?_, trivial⟩
  dsimp only
  split
  · exact calm_node fun nd => nd.regs_l1Put ..
  · exact trivial

/-! ## Taking the operands, noting flags (01 R25; 02 R55) -/

theorem calm_consume {c : Fx} : c.consume.Only (Upd.Calm r) := calm_node fun nd => (Node.regs_onCur ..).trans (nd.regs_takeOut c.q c.tag)

theorem calm_noteFlags {c : Fx} {x : Raised} : (noteFlags c x).Only (Upd.Calm r) := Prog.only_when calm_onUnit

/-! ## Tokens that leave by a port, completion tokens, stock kernels (01 R12; 14 R273; 15 R310) -/

theorem calm_sendOut {n port : Nat} {tok : Tok} : (sendOut n port tok).Only (Upd.Calm r) := by
  intro s
  dsimp only
  split <;> exact trivial

theorem calm_drawFor {n draw : Nat} {by_ : Issued} {k : Prog} (h : k.Only (Upd.Calm r)) : (drawFor n draw by_ k).Only (Upd.Calm r) := by
  refine calm_drawOr ?_
  split
  · exact ⟨calm_onRef, h⟩
  · exact h

theorem calm_leaveBy {n port : Nat} {tok : Tok} {by_ : Issued} : (leaveBy n port tok by_).Only (Upd.Calm r) := by
  intro s
  dsimp only
  split
  · exact calm_sendOut
  · exact calm_drawFor calm_sendOut

theorem calm_tellOne {k : Nat} {c : Card} : (tellOne k c).Only (Upd.Calm r) := by
  refine ⟨trivial, ?_⟩
  split
  · exact fun _ => trivial
  · intro s
    dsimp only
    split
    · exact trivial
    · split
      · exact calm_leaveBy
      · exact calm_onRef
  · exact trivial

theorem calm_tellPort {tid m p : Nat} : ∀ {k : Nat}, (tellPort tid m p k).Only (Upd.Calm r)
  | 0 => trivial
  | k + 1 => by
    intro s
    dsimp only
    split
    · split
      · exact ⟨calm_tellOne, calm_tellPort⟩
      · exact trivial
    · exact trivial

theorem calm_tellCard {k : Nat} : (tellCard k).Only (Upd.Calm r) := by
  intro s
  dsimp only
  split
  · exact trivial
  · split
    · exact calm_tellPort
    · exact Prog.only_when calm_tellOne

theorem calm_endKernel {k : Nat} : (endKernel k).Only (Upd.Calm r) := by
  intro s
  dsimp only
  split
  · exact trivial
  · split
    · exact trivial
    · exact ⟨calm_onRef fun nd => (Node.regs_checkHalt _).trans rfl, calm_task fun t h => (t.st_release _).trans h⟩

end
end Sys2Proof.Machine
end

section
/-! PROOFS. An abort ends its task, or does nothing where the task is ending already (06 R118, R119): every operation on the way keeps the task. -/

namespace Sys2Proof.Machine

/-! ## What an abort does on its way -/

theorem keepsTasks_task {k : Nat} {g : Task → Task} (h : ∀ t, t.st = .ending → (g t).st = .ending := by exact fun _ h => h) :
    (Prog.upd (.task k fun o => o.map g)).Only Upd.KeepsTasks := fun t => ⟨g t, rfl, h t⟩

theorem keepsTasks_settleFaults {n : Nat} : (settleFaults n).Only Upd.KeepsTasks := by
  intro s
  dsimp only
  split
  · exact ⟨trivial, Prog.only_each fun _ _ => keepsTasks_of_calm (r := false) calm_report, keepsTasks_of_calm (r := false) calm_discardBlock, trivial⟩
  · exact trivial

theorem keepsTasks_endBlock {n : Nat} : (endBlock n).Only Upd.KeepsTasks := by
  intro s
  dsimp only
  split
  · split
    · exact keepsTasks_of_calm (r := false) calm_discardBlock
    · exact keepsTasks_settleFaults
  · exact keepsTasks_of_calm (r := false) calm_discardBlock

theorem keepsTasks_memWrite {pa : Nat} {bs : List Byte} : (memWrite pa bs).Only Upd.KeepsTasks := Prog.only_each fun _ _ => trivial

theorem keepsTasks_clearPoison {pa len : Nat} : (clearPoison pa len).Only Upd.KeepsTasks :=
  Prog.only_each fun _ _ => Prog.only_when ⟨trivial, trivial⟩

theorem keepsTasks_devWrite {pa : Nat} {bs : List Byte} : (devWrite pa bs).Only Upd.KeepsTasks := by
  refine ⟨⟨keepsTasks_memWrite, keepsTasks_clearPoison⟩, fun s => ⟨Prog.only_each fun _ _ => ?_, Prog.only_each fun _ _ => keepsTasks_task⟩⟩
  split <;> exact trivial

theorem keepsTasks_sendCopy {line partner : Nat} : (sendCopy line partner).Only Upd.KeepsTasks := fun _ => keepsTasks_devWrite

theorem keepsTasks_undoMemory {tid : Nat} {t : Task} : (undoMemory tid t).Only Upd.KeepsTasks :=
  fun _ => ⟨fun _ => Prog.only_each fun _ _ => trivial, Prog.only_each fun _ _ => ⟨keepsTasks_memWrite, trivial⟩, Prog.only_each fun _ _ => trivial,
    Prog.only_each fun _ _ => keepsTasks_sendCopy, trivial, Prog.only_each fun _ _ _ => trivial, keepsTasks_task, trivial⟩

theorem keepsTasks_undoCover {asid tid : Nat} {c : Cover} : (undoCover asid tid c).Only Upd.KeepsTasks := by
  cases c with
  | mk a f n =>
    intro s
    dsimp only
    split
    · exact trivial
    · refine ⟨Prog.only_each fun _ _ s => ?_, trivial⟩
      dsimp only
      split
      · exact keepsTasks_devWrite
      · exact trivial
  | inc | dec => exact trivial

theorem keepsTasks_dropRein {asid tid : Nat} {x : Quad} : (dropRein asid tid x).Only Upd.KeepsTasks := by
  unfold dropRein
  split <;> exact trivial

theorem keepsTasks_putLeafFrom {e : Word} : ∀ {is : List Nat} {tbl : Nat}, (putLeafFrom e tbl is).Only Upd.KeepsTasks
  | [], _ => trivial
  | [_], _ => trivial
  | _ :: j :: is, _ => by
    intro s
    dsimp only
    split
    · exact keepsTasks_putLeafFrom
    · exact fun _ => ⟨trivial, trivial, keepsTasks_putLeafFrom⟩

theorem keepsTasks_putLeaf {asid va : Nat} {e : Word} : (putLeaf asid va e).Only Upd.KeepsTasks := by
  intro s
  dsimp only
  split
  · exact keepsTasks_putLeafFrom
  · exact fun _ => ⟨trivial, trivial, keepsTasks_putLeafFrom⟩

theorem keepsTasks_groomNow {asid va : Nat} : (groomNow asid va).Only Upd.KeepsTasks := by
  intro s
  dsimp only
  split
  · exact ⟨fun _ => Prog.only_each fun _ _ => trivial, keepsTasks_putLeaf⟩
  · exact trivial

theorem keepsTasks_beforeStamp {p : Nat} : (beforeStamp p).Only Upd.KeepsTasks :=
  fun _ => Prog.only_when fun _ => ⟨trivial, fun _ => ⟨fun _ => trivial, trivial, fun _ => trivial, trivial⟩⟩

theorem keepsTasks_writeStatus {asid va status tid : Nat} : (writeStatus asid va status tid).Only Upd.KeepsTasks := by
  refine ⟨keepsTasks_groomNow, fun s => ?_⟩
  dsimp only
  split
  · split
    · exact keepsTasks_devWrite
    · exact trivial
  · exact trivial

theorem keepsTasks_writeDone {asid va status : Nat} : (writeDone asid va status).Only Upd.KeepsTasks := by
  refine ⟨keepsTasks_groomNow, fun s => ?_⟩
  dsimp only
  split
  · exact trivial
  · split
    · split
      · exact ⟨keepsTasks_devWrite, fun _ => trivial⟩
      · exact trivial
    · exact trivial

theorem keepsTasks_settle {tid outcome : Nat} : (settle tid outcome).Only Upd.KeepsTasks := by
  intro s
  dsimp only
  split
  · exact trivial
  · exact ⟨keepsTasks_beforeStamp, trivial, fun _ => trivial, keepsTasks_writeStatus, keepsTasks_writeDone, trivial⟩

theorem keepsTasks_settleAbort {tid outcome : Nat} : (settleAbort tid outcome).Only Upd.KeepsTasks := by
  intro s
  dsimp only
  split
  · exact keepsTasks_task
  · exact keepsTasks_settle

theorem keepsTasks_returnFrame {frame : Nat} : (returnFrame frame).Only Upd.KeepsTasks :=
  fun _ => Prog.only_when ⟨fun _ => ⟨Prog.only_each fun _ _ => trivial, trivial, Prog.only_each fun _ _ => keepsTasks_task, trivial⟩,
    fun _ => ⟨Prog.only_each fun _ _ => trivial, Prog.only_each fun _ _ => trivial, trivial, Prog.only_each fun _ _ => trivial, trivial⟩⟩

theorem keepsTasks_freeNodes {tid : Nat} : (freeNodes tid).Only Upd.KeepsTasks :=
  fun _ => ⟨Prog.only_each fun _ _ => trivial, trivial, trivial, trivial, trivial,
    fun _ => ⟨trivial, Prog.only_each fun _ _ => keepsTasks_returnFrame⟩, trivial, trivial⟩

/-! ## The abort -/

/-- An abort leaves a task that is ending already, or no task, as it is (06 R119). -/
theorem abortTask_run_skip {s : State} {tid : Nat} (o : Nat) (h : ∀ t, s.task tid = some t → t.st = .ending) : (abortTask tid o).run s = s := by
  unfold abortTask
  cases ht : s.task tid with
  | none => simp only [Prog.run_ask, ht, Prog.run_skip]
  | some t => simp only [Prog.run_ask, ht, h t ht, if_true, Prog.run_skip]

theorem keepsTasks_abortTask {tid o : Nat} : (abortTask tid o).Only Upd.KeepsTasks := by
  intro s
  dsimp only
  split
  · exact trivial
  · split
    · exact trivial
    · exact ⟨Prog.only_each fun _ _ => keepsTasks_of_calm (r := false) calm_deviceEntry, trivial, trivial, Prog.only_each fun _ _ => keepsTasks_endBlock,
        Prog.only_when (Prog.only_each fun _ _ => trivial), keepsTasks_undoMemory, Prog.only_each fun _ _ => keepsTasks_undoCover,
        Prog.only_each fun _ _ => keepsTasks_dropRein, Prog.only_each fun _ _ => keepsTasks_dropRein, trivial, trivial, keepsTasks_settleAbort,
        Prog.only_each fun _ _ => trivial, keepsTasks_freeNodes, trivial, keepsTasks_task fun _ _ => rfl, trivial⟩

/-- The last of several programs that keep tasks decides a task that stood before them. -/
theorem task_of_last {l : List Prog} {tid : Nat} {g : Task → Task} (h : (Prog.all l).Only Upd.KeepsTasks)
    (hl : l.getLast? = some (.upd (.task tid fun o => o.map g))) :
    ∀ {s : State} {t : Task}, s.task tid = some t → ∃ t', ((Prog.all l).run s).task tid = some (g t') := by
  induction l with
  | nil => cases hl
  | cons p l ih =>
    intro s t ht
    cases l with
    | nil =>
      obtain rfl : p = .upd (.task tid fun o => o.map g) := Option.some.inj hl
      have ht' : Sparse.get none s.tasks tid = some t := ht
      refine ⟨t, ?_⟩
      show Sparse.get none (Sparse.put none s.tasks tid ((Sparse.get none s.tasks tid).map g)) tid = some (g t)
      rw [ht', Option.map_some, Sparse.get_put_same (by simp)]
    | cons q l =>
      obtain ⟨t', ht', -⟩ := tasksStay_of_only h.1 s tid t ht
      exact ih h.2 hl ht'

/-- An abort of a task that is not ending brings it to its end. -/
theorem abortTask_ends {s : State} {tid o : Nat} {t : Task} (ht : s.task tid = some t) (h : ¬t.st = .ending) :
    ((abortTask tid o).run s).ending tid := by
  have hk := keepsTasks_abortTask (tid := tid) (o := o) s
  unfold abortTask
  simp only [ht, h, if_false, Prog.run_ask] at hk ⊢
  obtain ⟨t', ht'⟩ := task_of_last hk rfl ht
  exact State.ending_iff.2 ⟨_, ht', rfl⟩

theorem keeps_abortTask {r : Bool} {tid o : Nat} : Keeps r (abortTask tid o) := by
  refine fun s => ⟨tasksStay_of_only keepsTasks_abortTask s, ?_⟩
  by_cases h : ∃ t, s.task tid = some t ∧ ¬t.st = .ending
  · obtain ⟨t, ht, hn⟩ := h
    refine .inl ⟨tid, abortTask_ends ht hn, fun he => ?_⟩
    obtain ⟨t', ht', he'⟩ := State.ending_iff.1 he
    cases ht.symm.trans ht'
    exact hn he'
  · have hs : ∀ t, s.task tid = some t → t.st = .ending := fun t ht => by_contra fun hn => h ⟨t, ht, hn⟩
    rw [abortTask_run_skip o hs]
    exact .inr (.refl r s)

end Sys2Proof.Machine
end

section
/-! PROOFS. The operations that may end a task (24 R395; 26 R419, R420), the emission of tokens (01 R25; 07 R129), and the reading of lines (03 R74,
R80; 13 R254; 12 R240). -/

namespace Sys2Proof.Machine

section
variable {r : Bool}

/-! ## Silicon errors of tokens (24 R394, R395, R398) -/

theorem keeps_killTask {tid : Nat} : Keeps r (killTask tid) := keeps_abortTask

theorem keeps_reportKill {n tid : Nat} {f : FaultRec} {a : Option Nat} : Keeps r (.seq (report n f a) (killTask tid)) :=
  .seq (.of_only calm_report) keeps_killTask

theorem keeps_reissue {n tid c : Nat} {f : FaultRec} : Keeps r (reissue n tid c f) := by
  refine .ask fun s => ?_
  split
  · exact .skip
  · split
    · refine .of_only ⟨calm_report, calm_purgeColour, ?_, Prog.only_each fun _ _ => calm_onRef, calm_forgetDraws, calm_task, calm_onRef, trivial⟩
      split
      · split
        · exact calm_discardBlock
        · exact trivial
      · exact trivial
    · exact keeps_reportKill

theorem keeps_tokenError {n marked tid c : Nat} {f : FaultRec} : Keeps r (tokenError n marked tid c f) := by
  refine .ask fun s => ?_
  split
  · exact .skip
  · refine .all_cons (.of_only calm_markBad) (.all_cons ?_ (.all_cons (.of_only calm_replaceTask) .all_nil))
    split
    · exact keeps_reissue
    · exact keeps_reportKill

theorem keeps_nodeParity {n place : Nat} {t : Tok} : Keeps r (nodeParity n place t) := by
  refine .ask fun s => ?_
  dsimp only
  split
  · exact .skip
  · exact keeps_tokenError

/-! ## Emission (01 R24; 07 R129) -/

theorem keeps_arrive {n q slot : Nat} {tok : Tok} {edge : Option Nat} : Keeps r (arrive n q slot tok edge) := by
  refine .ask fun s => ?_
  dsimp only
  split
  · exact .skip
  · split
    · exact keeps_nodeParity
    · split
      · split
        · split
          · exact .of_only calm_colourFault
          · exact keeps_nodeParity
        · exact .of_only calm_colourFault
      · split
        · exact .of_only calm_colourFault
        · exact .of_only (calm_node fun nd => nd.regs_place ..)

theorem keeps_emitTo {n : Nat} {ut : Tag} {q : Nat} {ftag : Tag} {tgt : BitVec 12} {tok : Tok} : Keeps r (emitTo n ut q ftag tgt tok) := by
  unfold emitTo
  dsimp only
  split
  · exact .skip
  · split
    · exact keeps_arrive
    all_goals exact .of_only calm_addAct

theorem keeps_emit {c : Fx} {tag : Tag} {d : TokData} {null : Bool} : Keeps r (c.emit tag d null) := keeps_emitTo.seq keeps_emitTo

end

/-! ## Lines that an access reads (03 R74, R80; 24 R406–R409; 26 R419) -/

theorem calm_wantRetire {r : Bool} {line : Nat} {p : Option Nat} : (wantRetire line p).Only (Upd.Calm r) := trivial

theorem calm_meetWord {r : Bool} {cw : Nat} {lost : Prog} (h : lost.Only (Upd.Calm r)) : (meetWord cw lost).Only (Upd.Calm r) := by
  refine fun s => ⟨trivial, ?_⟩
  split
  · exact trivial
  · exact h

theorem calm_memoryUe {cw : Nat} : (memoryUe cw).Only (Upd.Calm true) := calm_meetWord ⟨rfl, calm_wantRetire⟩

theorem calm_recordFor {r : Bool} {tid : Nat} {w : Who} {addr info : Word} : (recordFor tid w addr info).Only (Upd.Calm r) := fun _ => calm_farrierRecord

theorem calm_errorAlert {r : Bool} {p cause code : Nat} {info pa : Word} {vas : List Word} :
    (errorAlert p cause code info pa vas).Only (Upd.Calm r) := fun _ => calm_alert

theorem calm_poisonLine {line : Nat} : (poisonLine line).Only (Upd.Calm true) := ⟨rfl, rfl⟩

theorem calm_doomOwner {r : Bool} {t line : Nat} {l : L2Line} : (doomOwner t line l).Only (Upd.Calm r) := by
  refine fun s => ⟨trivial, calm_task fun t h => ?_⟩
  split <;> exact h

theorem calm_l2DataUe {w : Who} {line : Nat} {l : L2Line} : (l2DataUe w line l).Only (Upd.Calm true) := by
  intro s
  dsimp only
  split
  · split
    · exact trivial
    · exact ⟨calm_recordFor, calm_doomOwner⟩
  · split
    · exact ⟨Prog.only_each fun _ _ => calm_meetWord ⟨rfl, calm_wantRetire⟩, rfl⟩
    · exact ⟨calm_poisonLine, rfl, calm_errorAlert, calm_wantRetire, trivial, trivial⟩

theorem keeps_poisonKill {r : Bool} {w : Who} {line : Nat} : Keeps r (poisonKill w line) := by
  refine .ask fun s => ?_
  split
  · exact .skip
  · exact .when (.seq (.of_only calm_recordFor) keeps_killTask)

theorem keeps_l2TagUe {line : Nat} {l : L2Line} : Keeps true (l2TagUe line l) := by
  refine .ask fun s => .all_cons (.of_only rfl) (.all_cons (.each fun p _ => .seq (.each fun t _ => .seq (.of_only calm_recordFor) keeps_killTask)
    (.of_only calm_errorAlert)) (.of_only ⟨trivial, Prog.only_when trivial, trivial⟩))

theorem keeps_tagTrouble {s : State} {line : Nat} {p : Prog} (h : tagTrouble s line = some p) : Keeps true p := by
  obtain ⟨e, -, rfl⟩ := Option.map_eq_some_iff.1 h
  exact keeps_l2TagUe

theorem keeps_lineTrouble {s : State} {w : Who} {line : Nat} {p : Prog} (h : lineTrouble s w line = some p) : Keeps true p := by
  unfold lineTrouble at h
  split at h
  · next ht =>
    cases h
    exact keeps_tagTrouble ht
  · split at h
    · split at h
      · split at h
        · cases h
          exact keeps_poisonKill
        · cases h
      · cases h
        exact .of_only calm_l2DataUe
    · split at h
      · cases h
        exact .of_only calm_memoryUe
      · split at h
        · cases h
          exact keeps_poisonKill
        · cases h

theorem calm_holdLine {line owner : Nat} : (holdLine line owner).Only (Upd.Calm true) := by
  intro s
  dsimp only
  split
  · exact trivial
  · split
    · exact trivial
    · refine ⟨Prog.only_each fun _ _ => calm_meetWord ⟨fun s => ?_, calm_wantRetire⟩, calm_task, rfl, trivial⟩
      dsimp only
      split
      · exact trivial
      · exact calm_task

theorem calm_baseWrite {line off : Nat} {bs : List Byte} : (baseWrite line off bs).Only (Upd.Calm true) :=
  ⟨Prog.only_each fun _ _ => rfl, trivial, fun _ => trivial, trivial⟩

theorem calm_evictPlain {line : Nat} : (evictPlain line).Only (Upd.Calm true) := by
  intro s
  dsimp only
  split
  · exact trivial
  · refine ⟨?_, rfl, trivial⟩
    split
    · exact ⟨calm_holdLine, calm_baseWrite⟩
    · split
      · split
        · exact calm_baseWrite
        · exact calm_poisonLine
      · exact trivial

theorem calm_evictLine {line : Nat} : (evictLine line).Only (Upd.Calm true) := by
  intro s
  dsimp only
  split
  · exact trivial
  · split
    · exact calm_evictPlain
    · exact ⟨calm_l2DataUe, rfl⟩

theorem calm_takeWay {line : Nat} {put : State → Nat → L2Line} {no : Prog} (h : no.Only (Upd.Calm true)) :
    (takeWay line put no).Only (Upd.Calm true) := by
  intro s
  dsimp only
  split
  · exact h
  · refine ⟨?_, trivial, fun _ => rfl, trivial⟩
    split
    · exact calm_evictLine
    · exact trivial

theorem calm_fillLine {line part : Nat} : (fillLine line part).Only (Upd.Calm true) := by
  intro s
  dsimp only
  split
  · exact trivial
  · refine ⟨calm_takeWay trivial, fun s => ?_⟩
    dsimp only
    split
    · split
      · exact calm_takeWay rfl
      · exact trivial
    · exact trivial

/-! ## PREF, MMAT and TFETCH (13 R254; 12 R239, R240, R242) -/

theorem keeps_prefLine {c : Fx} {toL1 : Bool} {va : Nat} : Keeps true (prefLine c toL1 va) := by
  refine .ask fun s => ?_
  dsimp only
  split
  · exact .skip
  · split
    · exact .skip
    · split
      · exact .skip
      · split
        · next ht =>
          split at ht
          · cases ht
          · exact keeps_lineTrouble ht
        · split
          · split
            · exact .of_only calm_l1Fill
            · exact .skip
          · split
            · split
              · exact .of_only trivial
              · exact .skip
            · exact .of_only fun _ => trivial

theorem keeps_readLines {c : Fx} {es : List Elem} {k : Prog} (hk : Keeps true k) : Keeps true (readLines c es k) := by
  refine List.foldrRecOn _ _ (motive := Keeps true) hk fun k hk line _ => ?_
  have go : Keeps true (.all [leaveWait (.firing c.n c.q c.tag) line, l1Fill c.n line (vlineOf es line), k]) :=
    .all_cons (.of_only trivial) (.all_cons (.of_only calm_l1Fill) (.all_cons hk .all_nil))
  refine .ask fun s => ?_
  split
  · exact go
  · exact keeps_drawOr (.seq (.of_only calm_fillLine) go)

theorem keeps_sliceStop {s : State} {who : Party} {lines : List Nat} {p : Prog} (h : sliceStop s who lines = some p) : Keeps true p := by
  unfold sliceStop at h
  split at h
  · cases h
  · cases h
    split
    · exact .of_only ⟨trivial, fun _ => trivial⟩
    · exact .skip

end Sys2Proof.Machine
end

section
/-! PROOFS. The plans of the instruction forms: what each leaves as it was, what it draws, and that behind a closed gate it draws alone
(01 R17, R25; 06 R111). One lemma for each plan and for each frame of forms, and one that gathers them for every instruction form. -/

namespace Sys2Proof.Machine

variable {r : Bool}

/-! ## Tame plans -/

/-- The programs of a plan do what a firing does. -/
inductive Plan.Tame (r : Bool) : Plan → Prop
  | wait : Tame r .wait
  | hold {p : Prog} (h : Keeps r p) : Tame r (.hold p)
  | fault {d code : Nat} {addr info : Word} : Tame r (.fault d code addr info)
  | act {d : Nat} {p : Prog} (h : Keeps r p) : Tame r (.act d p)

/-- A tame plan that runs does what a firing does. -/
theorem Plan.Tame.run {pl : Plan} (h : pl.Tame r) (c : Fx) : ∃ p : Prog, Keeps r p ∧ c.run pl = .next (p.run c.s) := by
  cases h with
  | wait => exact ⟨.skip, .skip, rfl⟩
  | hold h => exact ⟨_, h, rfl⟩
  | fault => exact ⟨_, keeps_drawOr (.of_only calm_takeFault), rfl⟩
  | act h => exact ⟨_, keeps_drawOr (.seq (.of_only calm_consume) h), rfl⟩

theorem tame_pass {d : Nat} : (Plan.act d .skip).Tame r := .act .skip

theorem tame_ite {b : Prop} [Decidable b] {x y : Plan} (hx : x.Tame r) (hy : y.Tame r) : (if b then x else y).Tame r := by
  split
  · exact hx
  · exact hy

theorem tame_emitPlan {c : Fx} {d : Nat} {x : TokData} {null : Bool} {b : Prog} (hb : Keeps r b) : (c.emitPlan d x null b).Tame r := by
  unfold Fx.emitPlan
  split
  · exact .wait
  · exact .fault
  · exact .act (.all_cons hb (.all_cons (.of_only calm_takeClaim) (.all_cons keeps_emit .all_nil)))

theorem tame_nullPlan {c : Fx} {d : Nat} : (c.nullPlan d).Tame r := tame_emitPlan .skip

theorem tame_finish {c : Fx} {d : Nat} {x : Raised} {t : TokData} : (c.finish d x t).Tame r := by
  unfold Fx.finish
  split
  · exact .fault
  · exact tame_emitPlan (.of_only calm_noteFlags)

theorem tame_lanesOut {c : Fx} {d : Nat} {gate : Bool} {g m k : BitVec 16} {nb : Nat} {lane : Nat → LaneOut} :
    (lanesOut c d gate g m k nb lane).Tame r := by
  unfold lanesOut
  dsimp only
  generalize (if gate = true then _ else _ : Option TokData) = o
  cases o with
  | none => exact tame_pass
  | some t => exact tame_finish

theorem tame_addAct {c : Fx} {d : Nat} {a : Act} : (Plan.act d (addAct c.n c.ut c.q c.tag a)).Tame r := .act (.of_only calm_addAct)

theorem tame_onUnit {c : Fx} {d : Nat} {f : CUnit → CUnit} : (Plan.act d (onUnit c.n c.ut f)).Tame r := .act (.of_only calm_onUnit)

theorem tame_holdPages {c : Fx} {vas : List Nat} {w : Bool} : (Plan.hold (holdPages c.n vas w c.q c.tag)).Tame r := .hold (.of_only calm_holdPages)

/-- Emission where a gate lets something pass. -/
theorem tame_emitGated {c : Fx} {d e : Nat} {o : Option TokData} {b : Prog} (hb : Keeps r b) :
    (match o with
      | none => Plan.act e .skip
      | some x => c.emitPlan d x false b).Tame r := by
  cases o with
  | none => exact tame_pass
  | some x => exact tame_emitPlan hb

/-! ## What a plan draws where its TAGOP gives a tag -/

theorem draw_emitPlan {c : Fx} {d : Nat} {x : TokData} {null : Bool} {b : Prog} {tg : Tag} {cl : Option Claim} (h : Tags c tg cl) :
    (c.emitPlan d x null b).draw = d := by rw [Fx.emitPlan_tags h]; rfl

theorem draw_finish {c : Fx} {d : Nat} {x : Raised} {t : TokData} {tg : Tag} {cl : Option Claim} (h : Tags c tg cl) : (c.finish d x t).draw = d := by
  unfold Fx.finish
  split
  · rfl
  · exact draw_emitPlan h

theorem draw_lanesOut {c : Fx} {d : Nat} {gate : Bool} {g m k : BitVec 16} {nb : Nat} {lane : Nat → LaneOut} {tg : Tag} {cl : Option Claim}
    (h : Tags c tg cl) : (lanesOut c d gate g m k nb lane).draw = d := by
  unfold lanesOut
  dsimp only
  generalize (if gate = true then _ else _ : Option TokData) = o
  cases o with
  | none => rfl
  | some t => exact draw_finish h

/-- A plan that draws `d` and whose program does what a firing does, whatever it emits. -/
structure Plan.Steady (c : Fx) (d : Nat) (pl : Plan) : Prop where
  tame : pl.Tame false
  draw : ∀ tg cl, Tags c tg cl → pl.draw = d

theorem steady_pass {c : Fx} {d : Nat} : (Plan.act d .skip).Steady c d := ⟨tame_pass, fun _ _ _ => rfl⟩

theorem steady_emitPlan {c : Fx} {d : Nat} {x : TokData} {null : Bool} {b : Prog} (hb : Keeps false b) : (c.emitPlan d x null b).Steady c d :=
  ⟨tame_emitPlan hb, fun _ _ => draw_emitPlan⟩

theorem steady_nullPlan {c : Fx} {d : Nat} : (c.nullPlan d).Steady c d := steady_emitPlan .skip

theorem steady_finish {c : Fx} {d : Nat} {x : Raised} {t : TokData} : (c.finish d x t).Steady c d := ⟨tame_finish, fun _ _ => draw_finish⟩

theorem steady_lanesOut {c : Fx} {d : Nat} {gate : Bool} {g m k : BitVec 16} {nb : Nat} {lane : Nat → LaneOut} :
    (lanesOut c d gate g m k nb lane).Steady c d := ⟨tame_lanesOut, fun _ _ => draw_lanesOut⟩

/-- A plan that emits what its lane gate lets pass. -/
theorem steady_gated {c : Fx} {d : Nat} {o : Option TokData} {pl : TokData → Plan} (h : ∀ x, (pl x).Steady c d) :
    (match o with
      | none => Plan.act d .skip
      | some x => pl x).Steady c d := by
  cases o with
  | none => exact steady_pass
  | some x => exact h x

/-- A plan that besides moves on the count of free values. -/
theorem Plan.Steady.fresh {c : Fx} {d : Nat} {pl : Plan} (h : pl.Steady c d) :
    (match pl with
      | .act d p => Plan.act d (.seq p (.upd .fresh))
      | pl => pl).Steady c d := by
  obtain ⟨ht, hd⟩ := h
  cases ht with
  | act h => exact ⟨.act (.seq h (.of_only trivial)), hd⟩
  | wait => exact ⟨.wait, hd⟩
  | hold h => exact ⟨.hold h, hd⟩
  | fault => exact ⟨.fault, hd⟩

/-! ## Firings by a lawful plan -/

/-- Whether an instruction computes: the groups PRED to LANE, whose draw hangs on form and order alone. -/
def computes (i : Instr) : Bool := [2, 3, 4, 5, 6, 7, 8, 9].contains (groupOf i)

/-- Whether a closed gate leaves an instruction nothing but its draw (01 R25). -/
def gates (i : Instr) : Bool := !(12 ≤ groupOf i && groupOf i ≤ 14) && !Instr.isOpc i [0x49, 0x142, 0x143, 0x144, 0x145, 0x146, 0x165]

/-- Whether an instruction reads lines from memory at its firing. -/
def readsLines : Instr → Bool
  | .pref _ | .mmat _ | .tfetch _ => true
  | _ => false

/-- What the plan of an instruction form keeps to. -/
structure Lawful (r : Bool) (i : Instr) (plan : Fx → Plan) : Prop where
  tame : ∀ c, (plan c).Tame r
  closed : gates i = true → ∀ c, c.h = i.hdr → c.mode (thirdData i) = .closed → plan c = .act (formDraw i c.k) .skip
  draws : computes i = true → planeOk i = true → ∀ c tg cl, c.h = i.hdr → Tags c tg cl → (plan c).draw = formDraw i c.k

/-- A meaning is the firing of an instruction by a lawful plan. -/
def FiresBy (r : Bool) (i : Instr) (m : State → Host.Outcome State Fault Refusal) : Prop :=
  ∃ plan, (∀ s, m s = fire i plan s) ∧ Lawful r i plan

/-- A form of a group that does not compute. -/
theorem firesBy_of_closed {i : Instr} {plan : Fx → Plan} (hc : computes i = false) (ht : ∀ c, (plan c).Tame r)
    (hg : ∀ c, c.h = i.hdr → c.mode (thirdData i) = .closed → plan c = .act (formDraw i c.k) .skip) : FiresBy r i (fire i plan) :=
  ⟨plan, fun _ => rfl, ht, fun _ => hg, fun h => nomatch hc.symm.trans h⟩

/-- A form that neither computes nor is done with behind a closed gate. -/
theorem firesBy_of_tame {i : Instr} {plan : Fx → Plan} (hc : computes i = false) (hg : gates i = false) (ht : ∀ c, (plan c).Tame r) :
    FiresBy r i (fire i plan) :=
  ⟨plan, fun _ => rfl, ht, fun h => (nomatch hg.symm.trans h), fun h => nomatch hc.symm.trans h⟩

theorem gateForm_firesBy {i : Instr} {plan : Fx → BitVec 16 → Plan} (ht : ∀ c g, (plan c g).Tame false)
    (hd : planeOk i = true → ∀ c g tg cl, c.h = i.hdr → Tags c tg cl → (plan c g).draw = formDraw i c.k) : FiresBy false i (gateForm i plan) := by
  refine ⟨_, fun _ => rfl, fun c => ?_, fun _ c _ hm => ?_, fun _ hp c tg cl hh hT => ?_⟩
  · split
    · exact tame_nullPlan
    · exact tame_pass
    · exact ht ..
  · simp only [hm]
  · split
    · exact draw_emitPlan hT
    · rfl
    · exact hd hp c _ tg cl hh hT

theorem gateForm_steady {i : Instr} {plan : Fx → BitVec 16 → Plan} (h : ∀ c g, (plan c g).Steady c (formDraw i c.k)) : FiresBy false i (gateForm i plan) :=
  gateForm_firesBy (fun c g => (h c g).tame) fun _ c g tg cl _ => (h c g).draw tg cl

theorem elemForm_firesBy {i : Instr} {f : FmtA} {el : Fx → Nat → Nat → Nat → Nat → LaneOut} : FiresBy false i (elemForm i f el) :=
  gateForm_steady fun c g => by
    dsimp only
    split
    · exact steady_finish
    · exact steady_lanesOut

theorem jetForm_firesBy {i : Instr} {f : FmtA} {el : Fx → Nat → Nat → Nat → Nat → LaneOut} {jet : Fx → List Nat → List Nat → List Nat → LaneOut} :
    FiresBy false i (jetForm i f el jet) := by
  unfold jetForm
  split
  · exact gateForm_steady fun c g => steady_lanesOut
  · exact elemForm_firesBy

theorem predForm_firesBy {i : Instr} {f : FmtA} {el : Nat → Nat → Bool × Num.Flags} : FiresBy false i (predForm i f el) :=
  gateForm_steady fun c g => by
    dsimp only
    split
    · exact steady_finish
    · exact steady_lanesOut.fresh

theorem steady_vecOut {i : Instr} {c : Fx} {g : BitVec 16} {bs : List Vec} {m : BitVec 16} : (vecOut i c g bs m).Steady c (formDraw i c.k) :=
  steady_gated fun _ => steady_emitPlan .skip

theorem jetGroup_firesBy {i : Instr} {f : FmtA} {one : Bool} {lane : Fx → Nat → LaneOut} : FiresBy false i (jetGroup i f one lane) :=
  gateForm_steady fun _ _ => steady_lanesOut

theorem laneForm_firesBy {i : Instr} {f : FmtA} {pat : Fx → Nat → Pick} {mask : Fx → BitVec 16} : FiresBy false i (laneForm i f pat mask) :=
  gateForm_steady fun _ _ => steady_gated fun _ => steady_emitPlan .skip

theorem redForm_firesBy {i : Instr} {mask : BitVec 16 → BitVec 16} {beat : Fx → Vec → BitVec 16 → Vec × List (Nat × Num.Flags)}
    (hc : computes i = false) (hd : thirdData i = false) : FiresBy false i (redForm i mask beat) := by
  refine firesBy_of_closed hc (fun c => ?_) fun c _ hm => ?_
  · dsimp only
    split
    · exact tame_nullPlan
    · exact tame_pass
    · exact (steady_gated fun _ => steady_finish).tame
  · simp only [hd ▸ hm]

/-- A form of the JET group that is of the S plane draws 4. -/
theorem jetScalar_firesBy {i : Instr} {plan : Fx → BitVec 16 → Plan} (hg : groupOf i = 8) (hp : planeOk i = true → planeOf i = 0)
    (h : ∀ c g, (plan c g).Steady c 4) : FiresBy false i (gateForm i plan) :=
  gateForm_firesBy (fun c g => (h c g).tame) fun hok c g tg cl _ hT => by
    have h4 : formDraw i c.k = 4 := by simp only [formDraw, hg, hp hok, if_true]
    exact ((h c g).draw tg cl hT).trans h4.symm

end Sys2Proof.Machine
end

section
/-! PROOFS. The lawful plans of the EXIT, GRAPH and STREAM groups (08 R152–R172; 11 R221–R228), and of the SYSTEM, TASK and ENGINE groups (14 R270–R290). -/

namespace Sys2Proof.Machine

variable {r : Bool}

/-! ## Exits (08 R156–R158) -/

theorem tame_takeExit {i : Instr} {c : Fx} {dest colour : Nat} {b : Prog} (hb : Keeps r b) : (takeExit i c dest colour b).Tame r :=
  .act (hb.seq (.of_only calm_onUnit))

theorem tame_callPlan {i : Instr} {c : Fx} {dest : Nat} : (callPlan i c dest).Tame r := by
  unfold callPlan
  split
  · exact .wait
  · exact tame_takeExit (.of_only calm_claimColour)

theorem exitForm_firesBy {i : Instr} {taken : Fx → Plan} (hg : groupOf i = 0) (hd : thirdData i = false) (ht : ∀ c, (taken c).Tame r) :
    FiresBy r i (exitForm i taken) := by
  refine firesBy_of_closed (by simp [computes, hg]) (fun c => ?_) fun c _ hm => ?_
  · split
    · exact tame_pass
    · exact tame_pass
    · split
      · exact .fault
      · exact ht c
  · simp only [hd ▸ hm, formDraw, hg]

theorem execBr_firesBy {f : FmtB} : FiresBy r (.br f) (execBr f) := exitForm_firesBy (by simp) rfl fun _ => tame_takeExit .skip
theorem execBri_firesBy {f : FmtB} : FiresBy r (.bri f) (execBri f) := exitForm_firesBy (by simp) rfl fun _ => tame_takeExit .skip
theorem execCall_firesBy {f : FmtB} : FiresBy r (.call f) (execCall f) := exitForm_firesBy (by simp) rfl fun _ => tame_callPlan
theorem execCalli_firesBy {f : FmtB} : FiresBy r (.calli f) (execCalli f) := exitForm_firesBy (by simp) rfl fun _ => tame_callPlan

theorem execRet_firesBy {f : FmtB} : FiresBy r (.ret f) (execRet f) :=
  exitForm_firesBy (by simp) rfl fun c => by
    split
    · exact .fault
    · exact tame_takeExit .skip

theorem execHalt_firesBy {f : FmtB} : FiresBy r (.halt f) (execHalt f) :=
  exitForm_firesBy (by simp) rfl fun c => by
    split
    · exact tame_takeExit .skip
    · exact .fault

/-! ## Moves, loops, tag spaces, spawns, registers (08 R159–R172) -/

theorem formDraw_graph {i : Instr} {c : Fx} (hh : c.h = i.hdr) (hg : groupOf i = 1) : graphDraw c = formDraw i c.k := by
  have hp : c.h.plane.toNat = planeOf i := by rw [hh]; rfl
  have h2 : c.h.plane = 2 ↔ planeOf i = 2 := by rw [← hp, BitVec.toNat_eq]; rfl
  have h0 : c.h.plane = 0 ↔ planeOf i = 0 := by rw [← hp, BitVec.toNat_eq]; rfl
  simp only [graphDraw, formDraw, hg, linJ, h0, h2]
  split
  · next h => simp [h]
  · rfl

/-- A GRAPH form is lawful that draws alone behind a closed gate. -/
theorem graph_firesBy {i : Instr} {plan : Fx → Plan} (hg : groupOf i = 1) (hd : thirdData i = false) (ht : ∀ c, (plan c).Tame r)
    (hc : ∀ c, c.mode false = .closed → plan c = .act (graphDraw c) .skip) : FiresBy r i (fire i plan) :=
  firesBy_of_closed (by simp [computes, hg]) ht fun c hh hm => by rw [hc c (hd ▸ hm), formDraw_graph hh hg]

theorem moveForm_firesBy {i : Instr} {d : Fx → TokData} (hg : groupOf i = 1) (hd : thirdData i = false) : FiresBy r i (moveForm i d) := by
  refine graph_firesBy hg hd (fun c => ?_) fun c hm => ?_
  · split
    · exact tame_nullPlan
    · exact tame_pass
    · exact tame_emitGated .skip
  · simp only [hm]

theorem execNull_firesBy {f : FmtG} : FiresBy r (.null f) (execNull f) := by
  refine graph_firesBy (by simp) rfl (fun c => ?_) fun c hm => ?_
  · split
    · exact tame_nullPlan
    · exact tame_pass
    · split
      · exact tame_pass
      · exact tame_nullPlan
  · simp only [hm]

theorem tame_emitUnder {c : Fx} {tag : Tag} {d : TokData} {null : Bool} {b : Prog} (hb : Keeps r b) : (emitUnder c tag d null b).Tame r :=
  .act (hb.seq keeps_emit)

theorem tame_tagPlan {c : Fx} {x : TagRes} {d : TokData} {null : Bool} {b : Prog} (hb : Keeps r b) : (tagPlan c x d null b).Tame r := by
  cases x with
  | wait => exact .wait
  | fault => exact .fault
  | ok t cl => exact tame_emitUnder (hb.seq (.of_only calm_takeClaim))

theorem tagForm_firesBy {i : Instr} {plan : Fx → TokData → Bool → Plan} (hg : groupOf i = 1) (hd : thirdData i = false)
    (ht : ∀ c d null, (plan c d null).Tame r) : FiresBy r i (tagForm i plan) := by
  refine graph_firesBy hg hd (fun c => ?_) fun c hm => ?_
  · split
    · exact ht ..
    · exact tame_pass
    · split
      · exact tame_pass
      · exact ht ..
  · simp only [hm]

theorem tame_lenterPlan {f : FmtG} {c : Fx} {d : TokData} {null : Bool} : (lenterPlan f c d null).Tame r := by
  unfold lenterPlan
  split
  · exact tame_emitUnder .skip
  · split
    · exact .wait
    · exact tame_emitUnder (.of_only calm_claimColour)

theorem calm_giveTag {c : Fx} {x j : Nat} : (giveTag c x j).Only (Upd.Calm r) := ⟨calm_takeClaim, calm_task⟩

theorem tame_tallocPlan {f : FmtG} {c : Fx} {d : TokData} {null : Bool} : (tallocPlan f c d null).Tame r := by
  unfold tallocPlan
  split
  · split
    · exact .wait
    · exact tame_emitUnder (.of_only calm_giveTag)
  · split
    · exact .wait
    · exact tame_emitUnder (.seq (.of_only calm_claimColour) (.of_only calm_giveTag))

theorem execTfree_firesBy {f : FmtG} : FiresBy r (.tfree f) (execTfree f) := by
  refine graph_firesBy (by simp) rfl (fun c => ?_) fun c hm => ?_
  · split
    · exact tame_pass
    · exact tame_pass
    · split
      · exact .fault
      · split
        · exact .act (.of_only ⟨calm_task, calm_onUnit⟩)
        · exact .fault
  · simp only [hm]

theorem execSpawn_firesBy {f : FmtG} : FiresBy r (.spawn f) (execSpawn f) := by
  refine graph_firesBy (by simp) rfl (fun c => ?_) fun c hm => ?_
  · split
    · exact tame_emitPlan .skip
    · exact tame_pass
    · split
      · exact tame_emitUnder (.of_only ⟨calm_claimColour, calm_addAct⟩)
      · exact .wait
  · simp only [hm]

theorem execJoin_firesBy {f : FmtG} : FiresBy r (.join f) (execJoin f) := by
  refine graph_firesBy (by simp) rfl (fun c => ?_) fun c hm => ?_
  · split
    · exact tame_pass
    · exact tame_pass
    · split
      · exact tame_addAct
      · exact .fault
  · simp only [hm]

theorem getPlan_firesBy {i : Instr} {f : FmtG} {empties : Bool} (hg : groupOf i = 1) (hd : thirdData i = false) : FiresBy r i (fire i (getPlan f empties)) := by
  refine graph_firesBy hg hd (fun c => ?_) fun c hm => ?_
  · unfold getPlan
    dsimp only
    split
    · exact tame_nullPlan
    · exact tame_pass
    · split
      · exact .wait
      · split
        · exact .hold keeps_tokenError
        · exact tame_emitGated (.when (.of_only calm_addAct))
  · simp only [getPlan, hm]

theorem execPutg_firesBy {f : FmtG} : FiresBy r (.putg f) (execPutg f) := by
  refine graph_firesBy (by simp) rfl (fun c => ?_) fun c hm => ?_
  · split
    · exact tame_nullPlan
    · exact tame_pass
    · split
      · exact .fault
      · split
        · exact tame_pass
        · exact tame_emitPlan (.of_only calm_addAct)
  · simp only [hm]

/-! ## Streams (11 R221–R228) -/

/-- Two targets fed one after the other. -/
theorem keeps_emitTo_emitTo {n m : Nat} {ut vt : Tag} {q p : Nat} {ft gt : Tag} {a b : BitVec 12} {x y : Tok} :
    Keeps r (.all [emitTo n ut q ft a x, emitTo m vt p gt b y]) := .all_cons keeps_emitTo (.all_cons keeps_emitTo .all_nil)

theorem execSteer_firesBy {f : FmtG} : FiresBy r (.steer f) (execSteer f) := by
  refine firesBy_of_tame (by simp [computes]) (by simp [gates, Instr.isOpc]) fun c => ?_
  split
  · exact tame_nullPlan
  · dsimp only
    split
    · exact .wait
    · exact .fault
    · exact .act (.all_cons (.of_only calm_takeClaim) keeps_emitTo_emitTo)

theorem orderedForm_firesBy {i : Instr} {take : Fx → Option (Tok × Option Tok)} (hc : computes i = false) (hg : gates i = false) :
    FiresBy r i (orderedForm i take) :=
  firesBy_of_tame hc hg fun c => by
    split
    · exact .wait
    · split
      · exact .fault
      · exact tame_addAct

/-! ## SYSTEM and TASK (14 R287–R290) -/

/-- A form is lawful that draws `d` alone behind a closed gate. -/
theorem flat_firesBy {i : Instr} {plan : Fx → Plan} {d : Nat} (hc : computes i = false) (hd : thirdData i = false) (hf : ∀ k, formDraw i k = d)
    (ht : ∀ c, (plan c).Tame r) (hp : ∀ c, c.mode false = .closed → plan c = .act d .skip) : FiresBy r i (fire i plan) :=
  firesBy_of_closed hc ht fun c _ hm => by rw [hp c (hd ▸ hm), hf]

theorem formDraw_system {i : Instr} (hg : groupOf i = 17) (k : Nat) : formDraw i k = 4 := by simp only [formDraw, hg]

theorem formDraw_hub {i : Instr} (hg : groupOf i = 15 ∨ groupOf i = 16) (k : Nat) : formDraw i k = 64 := by
  rcases hg with hg | hg <;> simp only [formDraw, hg]

/-- A SYSTEM form that passes a scalar on. -/
theorem system_firesBy {i : Instr} {plan : Fx → Plan} (hg : groupOf i = 17) (hd : thirdData i = false) (ht : ∀ c, (plan c).Tame r)
    (hp : ∀ c, c.mode false = .closed → plan c = .act 4 .skip) : FiresBy r i (fire i plan) :=
  flat_firesBy (by simp [computes, hg]) hd (formDraw_system hg) ht hp

theorem sysForm_firesBy {i : Instr} {act : Fx → Option Act} (hg : groupOf i = 17) (hd : thirdData i = false) : FiresBy r i (sysForm i act) := by
  refine system_firesBy hg hd (fun c => ?_) fun c hm => ?_
  · split
    · exact tame_pass
    · exact tame_pass
    · refine .act ?_
      split
      · exact .of_only calm_addAct
      · exact .skip
  · simp only [hm]

theorem execTrap_firesBy {f : FmtY} : FiresBy r (.trap f) (execTrap f) := by
  refine system_firesBy (by simp) rfl (fun c => ?_) fun c hm => ?_
  · split
    · exact tame_pass
    · exact tame_pass
    · exact .fault
  · simp only [hm]

/-- A form that emits what it reads. -/
theorem emitForm_firesBy {i : Instr} {d : Nat} {x : Fx → TokData} {b : Fx → Prog} (hc : computes i = false) (hd : thirdData i = false)
    (hf : ∀ k, formDraw i k = d) (hb : ∀ c, Keeps r (b c)) :
    FiresBy r i (fire i fun c => match c.mode false with
      | .null => c.nullPlan d
      | .closed => .act d .skip
      | .go _ => c.emitPlan d (x c) false (b c)) := by
  refine flat_firesBy hc hd hf (fun c => ?_) fun c hm => ?_
  · split
    · exact tame_nullPlan
    · exact tame_pass
    · exact tame_emitPlan (hb c)
  · simp only [hm]

theorem execCsrrd_firesBy {f : FmtY} : FiresBy r (.csrrd f) (execCsrrd f) :=
  emitForm_firesBy (by simp [computes]) rfl (formDraw_system (by simp)) fun _ => .skip
theorem execCsrwr_firesBy {f : FmtY} : FiresBy r (.csrwr f) (execCsrwr f) :=
  emitForm_firesBy (by simp [computes]) rfl (formDraw_system (by simp)) fun _ => .of_only calm_addAct
theorem execTbase_firesBy {f : FmtY} : FiresBy r (.tbase f) (execTbase f) :=
  emitForm_firesBy (by simp [computes]) rfl (formDraw_system (by simp)) fun _ => .skip

theorem hubForm_firesBy {i : Instr} {f : FmtE} {req : Fx → Except Plan HubReq} (hg : groupOf i = 16) (hd : thirdData i = false)
    (hr : ∀ c p, req c = .error p → p.Tame r) : FiresBy r i (hubForm i f req) := by
  refine flat_firesBy (by simp [computes, hg]) hd (formDraw_hub (.inr hg)) (fun c => ?_) fun c hm => ?_
  · split
    · exact tame_emitPlan .skip
    · exact tame_pass
    · split
      · next h => exact hr c _ h
      · exact tame_addAct
  · simp only [hm]

theorem tame_recordAddr {c : Fx} {w : Bool} {p : Plan} (h : recordAddr c w = .error p) : p.Tame r := by
  unfold recordAddr at h
  dsimp only at h
  split at h
  · cases h; exact .fault
  · split at h
    · cases h; exact .fault
    · split at h
      · cases h; exact .hold (.of_only calm_holdPage)
      · split at h
        · cases h; exact .fault
        · generalize (if w = true then _ else _ : Bool) = bad at h
          cases bad <;> cases h
          exact .fault

/-- A request that names a record fails as the record's address does. -/
theorem tame_recordReq {c : Fx} {w : Bool} {g : Nat × Nat → HubReq} {p : Plan} (h : (recordAddr c w).map g = .error p) : p.Tame r := by
  cases hx : recordAddr c w with
  | error x => rw [hx] at h; cases h; exact tame_recordAddr hx
  | ok x => rw [hx] at h; cases h

/-! ## ENGINE (14 R270–R286) -/

theorem issueForm_firesBy {i : Instr} {f : FmtE} {cls : Nat} (hg : groupOf i = 15) (hd : thirdData i = false) : FiresBy r i (issueForm i f cls) := by
  refine flat_firesBy (by simp [computes, hg]) hd (formDraw_hub (.inl hg)) (fun c => ?_) fun c hm => ?_
  · split
    · exact tame_nullPlan
    · exact tame_pass
    · dsimp only
      split
      · exact .fault
      · split
        · exact .wait
        · exact .fault
        · exact .act (.all_cons (.of_only calm_takeClaim) (.all_cons (.of_only calm_node) (.all_cons (.of_only calm_addAct)
            (.all_cons (.when keeps_emitTo) (.all_cons keeps_emitTo .all_nil)))))
  · simp only [hm]

theorem ticketForm_firesBy {i : Instr} {f : FmtE} {plan : Fx → Vec → Named → Plan} (hg : groupOf i = 15) (hd : thirdData i = false)
    (ht : ∀ c v nm, (plan c v nm).Tame r) : FiresBy r i (ticketForm i f plan) := by
  refine flat_firesBy (by simp [computes, hg]) hd (formDraw_hub (.inl hg)) (fun c => ?_) fun c hm => ?_
  · split
    · exact tame_nullPlan
    · exact tame_pass
    · dsimp only
      split
      · exact .fault
      · exact ht ..
  · simp only [hm]

theorem tame_emitTicket {c : Fx} {v : Vec} {acquire : Bool} {b : Prog} (hb : Keeps r b) : (emitTicket c v acquire b).Tame r :=
  tame_emitPlan (.all_cons hb (.all_cons (.of_only trivial) (.all_cons (.when (.of_only (calm_node fun nd => nd.regs_l1Clear))) .all_nil)))

theorem execWpwait_firesBy {f : FmtE} : FiresBy r (.wpwait f) (execWpwait f) :=
  ticketForm_firesBy (by simp) rfl fun c v nm => by
    cases nm with
    | unknown => exact tame_emitTicket .skip
    | _ =>
      dsimp only
      split
      · exact tame_emitTicket .skip
      · exact .wait

theorem execCwait_firesBy {f : FmtE} : FiresBy r (.cwait f) (execCwait f) :=
  ticketForm_firesBy (by simp) rfl fun c v nm => by
    cases nm with
    | unknown => exact tame_emitTicket .skip
    | _ =>
      dsimp only
      split
      · exact tame_emitTicket .skip
      · exact .wait

theorem execWprd_firesBy {f : FmtE} : FiresBy r (.wprd f) (execWprd f) := ticketForm_firesBy (by simp) rfl fun _ _ _ => tame_emitTicket .skip
theorem execCstat_firesBy {f : FmtE} : FiresBy r (.cstat f) (execCstat f) := ticketForm_firesBy (by simp) rfl fun _ _ _ => tame_emitTicket .skip

theorem execCcancel_firesBy {f : FmtE} : FiresBy r (.ccancel f) (execCcancel f) :=
  ticketForm_firesBy (by simp) rfl fun c v nm => by
    split
    · exact tame_emitTicket .skip
    · cases nm with
      | card k x =>
        dsimp only
        split
        · exact tame_emitTicket .skip
        · exact tame_emitTicket (.of_only ⟨calm_onCard, calm_tellCard, calm_endKernel, trivial⟩)
      | pending => exact tame_emitTicket (.of_only calm_addAct)
      | unknown => exact tame_emitTicket .skip

end Sys2Proof.Machine
end

section
/-! PROOFS. The lawful plans of the MEM, SYNC, REIN and MATRIX groups (12 R229–R242; 13 R243–R268; 04 R83–R90), and those of all forms. -/

namespace Sys2Proof.Machine

variable {r : Bool}

/-! ## MEM and SYNC (13 R249–R263) -/

theorem tame_nullHolder {c : Fx} {f : FmtM} {d : Nat} {emits : Bool} : (nullHolder c f d emits).Tame r := by
  cases emits
  · exact tame_onUnit
  · exact tame_emitPlan (.of_only calm_onUnit)

theorem memForm_firesBy {i : Instr} {f : FmtM} {dp : Bool} {plan : Fx → BitVec 16 → Plan} (hc : computes i = false) (hg : gates i = false)
    (ht : ∀ c g, (plan c g).Tame r) : FiresBy r i (memForm i f dp plan) :=
  firesBy_of_tame hc hg fun c => by
    split
    · exact tame_nullHolder
    · split
      · exact tame_nullHolder
      · exact tame_nullHolder
      · split
        · exact .wait
        · exact ht ..

/-- A form whose elements are checked: held on its pages, stopped by a fault, or with its elements. -/
theorem tame_checked {c : Fx} {x : Checked} {w : Bool} {d : Nat} {k : List Elem → Plan} (hk : ∀ es, (k es).Tame r) :
    (match x with
      | .held vas => Plan.hold (holdPages c.n vas w c.q c.tag)
      | .fault code reason addr => .fault d code addr (BitVec.ofNat 64 reason)
      | .ok es => k es).Tame r := by
  cases x with
  | held => exact tame_holdPages
  | fault => exact .fault
  | ok es => exact hk es

theorem tame_loadPlan {i : Instr} {f : FmtM} {c : Fx} {g : BitVec 16} : (loadPlan i f c g).Tame r := by
  unfold loadPlan
  dsimp only
  split
  · exact .wait
  · split
    · exact tame_onUnit
    · exact tame_checked fun _ => .act (.of_only calm_issueLoad)

theorem tame_ldspPlan {i : Instr} {f : FmtM} {c : Fx} {g : BitVec 16} : (ldspPlan i f c g).Tame r := by
  unfold ldspPlan
  dsimp only
  split
  · exact tame_onUnit
  · split
    · exact .fault
    · exact tame_emitPlan (.of_only calm_onUnit)

theorem tame_storePlan {i : Instr} {f : FmtM} {c : Fx} {g : BitVec 16} : (storePlan i f c g).Tame r :=
  tame_checked fun _ => tame_emitPlan (.of_only ⟨calm_noteXlate, calm_onUnit, trivial⟩)

theorem tame_stspPlan {i : Instr} {f : FmtM} {c : Fx} {g : BitVec 16} : (stspPlan i f c g).Tame r := by
  unfold stspPlan
  dsimp only
  split
  · exact .fault
  · exact tame_emitPlan (.of_only calm_onUnit)

theorem tame_prefPlan {f : FmtM} {c : Fx} : (prefPlan f c).Tame true :=
  .act (.seq (.of_only calm_onUnit) (.each fun _ _ => .when keeps_prefLine))

theorem tame_nullstPlan {f : FmtM} {c : Fx} : (nullstPlan f c).Tame r := by
  unfold nullstPlan
  split
  · exact tame_pass
  · exact tame_pass
  · exact tame_onUnit

theorem tame_l1invPlan {f : FmtM} {c : Fx} : (l1invPlan f c).Tame r := by
  unfold l1invPlan
  dsimp only
  split
  · exact .fault
  · split
    · exact .fault
    · exact .act (.of_only ⟨calm_onUnit, calm_l1Inv⟩)

theorem tame_fencePlan {f : FmtM} {c : Fx} : (fencePlan f c).Tame r := by
  unfold fencePlan
  split
  · exact .wait
  · exact .act (.seq (.of_only calm_onUnit) (.when (.of_only (calm_node fun nd => nd.regs_l1Clear))))

theorem tame_ldvPlan {i : Instr} {f : FmtM} {c : Fx} : (ldvPlan i f c).Tame r := by
  unfold ldvPlan
  dsimp only
  split
  · exact .wait
  · exact tame_checked fun _ => .act (.of_only calm_issueLoad)

theorem tame_syncStore {f : FmtM} {c : Fx} {nd : Need} {w : Nat} {op : Elem → StoreOp} {emits : Bool} : (syncStore f c nd w op emits).Tame r := by
  unfold syncStore
  dsimp only
  split
  · exact tame_holdPages
  · exact .fault
  · exact .wait
  · split
    · exact tame_emitPlan (.of_only ⟨calm_noteXlate, calm_onUnit, trivial⟩)
    · exact .act (.of_only ⟨calm_noteXlate, calm_onUnit, trivial⟩)

/-! ## REIN (13 R264–R267) -/

theorem calm_putRein {c : Fx} {f : FmtM} {reg : Nat} {q : Quad} {own : Bool} : (putRein c f reg q own).Only (Upd.Calm r) :=
  ⟨Prog.only_when calm_addAct, calm_onUnit⟩

theorem calm_noteCover {c : Fx} {cv : Cover} : (noteCover c cv).Only (Upd.Calm r) := calm_addAct

theorem calm_reinDone {c : Fx} {f : FmtM} : (reinDone c f).Only (Upd.Calm r) := calm_onUnit

theorem tame_reinWiden {c : Fx} : (reinWiden c).Tame r := .fault

theorem tame_emitLen {c : Fx} {q : Quad} {b : Prog} (hb : b.Only (Upd.Calm r)) : (emitLen c q b).Tame r := tame_emitPlan (.of_only hb)

theorem tame_reinmkPlan {f : FmtM} {c : Fx} : (reinmkPlan f c).Tame r := by
  unfold reinmkPlan
  dsimp only
  split
  · exact tame_reinWiden
  · split
    · exact tame_reinWiden
    · split
      · exact tame_emitLen ⟨calm_reinDone, calm_putRein⟩
      · exact tame_emitLen ⟨calm_reinDone, calm_putRein, calm_noteCover, calm_onUnit, calm_onArena, trivial⟩

theorem tame_reindupPlan {f : FmtM} {c : Fx} : (reindupPlan f c).Tame r := by
  unfold reindupPlan
  dsimp only
  split
  · exact tame_reinWiden
  · exact tame_emitLen ⟨calm_reinDone, calm_putRein, calm_noteCover, trivial⟩

theorem tame_reinsplPlan {f : FmtM} {c : Fx} : (reinsplPlan f c).Tame r := by
  unfold reinsplPlan
  dsimp only
  split
  · exact tame_reinWiden
  · exact tame_emitLen ⟨calm_reinDone, calm_putRein, calm_putRein, Prog.only_when calm_noteCover, trivial⟩

theorem tame_reinnarPlan {f : FmtM} {c : Fx} : (reinnarPlan f c).Tame r := by
  unfold reinnarPlan
  dsimp only
  split
  · exact tame_reinWiden
  · exact tame_emitLen ⟨calm_reinDone, calm_putRein, Prog.only_when (Prog.only_each fun _ _ => calm_noteCover), trivial⟩

theorem tame_reindropPlan {f : FmtM} {c : Fx} : (reindropPlan f c).Tame r :=
  tame_emitPlan (.of_only ⟨calm_reinDone, Prog.only_when calm_putRein, Prog.only_when calm_noteCover, trivial⟩)

theorem tame_reinqPlan {f : FmtM} {c : Fx} : (reinqPlan f c).Tame r := by
  unfold reinqPlan
  dsimp only
  split
  · exact .wait
  · exact .fault
  · exact .act (.all_cons (.of_only calm_takeClaim) (.all_cons (.of_only calm_reinDone) (.all_cons (.when (.of_only calm_putRein)) keeps_emitTo_emitTo)))

theorem tame_reinsendPlan {f : FmtM} {c : Fx} : (reinsendPlan f c).Tame r := by
  unfold reinsendPlan
  dsimp only
  split
  · split
    · exact tame_reinWiden
    · exact .act (.of_only ⟨calm_reinDone, Prog.only_when calm_putRein, calm_addAct, trivial⟩)
  · split
    · exact .wait
    · exact .fault
    · exact .act (.all_cons (.of_only calm_takeClaim) (.all_cons (.of_only calm_reinDone) (.all_cons (.when (.of_only calm_putRein))
        (.all_cons keeps_emitTo .all_nil))))

/-! ## MATRIX (12 R229–R242) -/

theorem formDraw_tile {i : Instr} (hg : groupOf i = 11) (hb : ∃ f, i.body = .x f) (hn : ¬i.opc = 0x160 ∧ ¬i.opc = 0x161) (k : Nat) : formDraw i k = 24 := by
  obtain ⟨f, hb⟩ := hb
  obtain ⟨hm, ht⟩ := hn
  simp only [formDraw, hg, hb, hm, ht, if_false]

theorem tileForm_firesBy {i : Instr} {a : Act} (hc : computes i = false) (hd : thirdData i = false) (hf : ∀ k, formDraw i k = 24) :
    FiresBy r i (tileForm i a) := emitForm_firesBy hc hd hf fun _ => .of_only calm_addAct

theorem execAccchk_firesBy {f : FmtX} : FiresBy r (.accchk f) (execAccchk f) :=
  emitForm_firesBy (by simp [computes]) rfl (formDraw_tile (by simp) ⟨f, rfl⟩ (by simp)) fun _ => .when (.of_only calm_report)

theorem execAccrd_firesBy {f : FmtX} : FiresBy r (.accrd f) (execAccrd f) := by
  refine firesBy_of_tame (by simp [computes]) (by simp [gates, Instr.isOpc]) fun c => ?_
  unfold accrdPlan
  dsimp only
  split
  · exact tame_nullPlan
  · exact tame_ite .wait tame_pass
  · exact tame_ite .wait (tame_ite (.act keeps_reportKill) tame_finish)

theorem tame_readGate {c : Fx} {d : Nat} {lines : List Nat} {p : Plan} (h : readGate c d lines = some p) : p.Tame true := by
  unfold readGate at h
  split at h
  · cases h; exact .wait
  · split at h
    · next hs => cases h; exact .hold (keeps_sliceStop hs)
    · split at h
      · cases h; exact .wait
      · split at h
        · cases h
        · next l hl =>
          obtain ⟨q, hq⟩ := Option.isSome_iff_exists.1 (List.find?_some (p := fun l => (lineTrouble c.s (fxWho c) l).isSome) hl)
          have hk : Keeps true ((lineTrouble c.s (fxWho c) l).getD .skip) := by rw [hq]; exact keeps_lineTrouble hq
          cases h
          exact tame_ite (.hold (keeps_drawOr hk)) (.hold hk)

theorem tame_mmatGo {f : FmtX} {c : Fx} {d np : Nat} {jet : Bool} {a b : MatSrc} : (mmatGo f c d np jet a b).Tame true := by
  unfold mmatGo
  dsimp only
  split
  · next h => exact tame_readGate h
  · refine .act (.seq (.of_only calm_noteXlate) (keeps_readLines ?_))
    split
    · exact .of_only calm_takeFault
    · split
      · split
        · exact .of_only calm_takeFault
        · exact .of_only calm_addAct
      · exact .of_only calm_takeFault

theorem execMmat_firesBy {f : FmtX} : FiresBy true (.mmat f) (execMmat f) := by
  refine firesBy_of_closed (by simp [computes]) (fun c => ?_) fun c _ hm => ?_
  · unfold mmatPlan
    dsimp only
    split
    · exact tame_nullPlan
    · exact tame_pass
    · split
      · exact .fault
      · exact .fault
      · exact tame_holdPages
      · exact tame_holdPages
      · exact tame_holdPages
      · exact tame_mmatGo
  · have hm : c.mode false = .closed := hm
    simp only [mmatPlan, hm]

/-- A plan that reads lines before it acts. -/
theorem tame_readFirst {c : Fx} {es : List Elem} {stop : Bool} {q : Prog} {pl : Plan} (hq : Keeps true q) (hp : pl.Tame true) :
    (match pl with
      | .act d p => Plan.act d (readLines c es (if stop then q else p))
      | pl => pl).Tame true := by
  cases hp with
  | act h =>
    refine .act (keeps_readLines ?_)
    split
    · exact hq
    · exact h
  | wait => exact .wait
  | hold h => exact .hold h
  | fault => exact .fault

theorem execTfetch_firesBy {f : FmtX} : FiresBy true (.tfetch f) (execTfetch f) := by
  refine firesBy_of_closed (by simp [computes]) (fun c => ?_) fun c _ hm => ?_
  · unfold tfetchPlan
    dsimp only
    split
    · exact tame_nullPlan
    · exact tame_pass
    · split
      · exact .fault
      · split
        · exact .fault
        · exact tame_holdPages
        · split
          · next h => exact tame_readGate h
          · exact tame_readFirst (.of_only calm_takeFault) (tame_emitPlan (.of_only ⟨calm_noteXlate, calm_addAct, trivial⟩))
  · have hm : c.mode false = .closed := hm
    simp [tfetchPlan, hm, formDraw, Instr.body]

end Sys2Proof.Machine
end

section
/-! PROOFS. Every instruction form fires by a lawful plan: the computing forms that no shared frame covers, and all of them gathered. -/

namespace Sys2Proof.Machine

theorem execRng_firesBy {f : FmtA} : FiresBy false (.rng f) (execRng f) := gateForm_steady fun _ _ => steady_lanesOut

theorem execPack4_firesBy {f : FmtA} : FiresBy false (.pack4 f) (execPack4 f) := gateForm_steady fun _ _ => steady_gated fun _ => steady_finish

theorem execUnpk4_firesBy {f : FmtA} : FiresBy false (.unpk4 f) (execUnpk4 f) :=
  gateForm_steady fun _ _ => steady_gated fun _ => steady_emitPlan .skip

theorem execIota_firesBy {f : FmtA} : FiresBy false (.iota f) (execIota f) :=
  gateForm_steady fun _ _ => steady_gated fun _ => steady_emitPlan .skip

theorem execRepl_firesBy {f : FmtA} : FiresBy false (.repl f) (execRepl f) :=
  gateForm_steady fun c g => by
    dsimp only
    split
    · exact steady_emitPlan .skip
    · split
      · exact steady_pass
      · exact steady_emitPlan (.of_only trivial)

theorem steady_selPlan {f : FmtA} {c : Fx} : (selPlan f c).Steady c (formDraw (.sel f) c.k) := by
  unfold selPlan
  dsimp only
  split
  · exact steady_emitPlan .skip
  · exact steady_emitPlan .skip

theorem execSel_firesBy {f : FmtA} : FiresBy false (.sel f) (execSel f) := by
  have hs : ∀ c : Fx, (match c.mode true with
      | .null => c.nullPlan (formDraw (.sel f) c.k)
      | _ => selPlan f c).Steady c (formDraw (.sel f) c.k) := fun c => by
    split
    · exact steady_nullPlan
    · exact steady_selPlan
  have hg : gates (.sel f) = false := by simp [gates, Instr.isOpc]
  exact ⟨_, fun _ => rfl, fun c => (hs c).tame, fun h => (nomatch hg.symm.trans h), fun _ _ c tg cl _ => (hs c).draw tg cl⟩

/-- JORD, JORD.SET, JFLAG and JFLAG.CLR emit a scalar of the block's snapshot. -/
theorem jetScalar_emit_firesBy {i : Instr} {x : Fx → TokData} {b : Fx → Prog} (hg : groupOf i = 8) (hp : planeOk i = true → planeOf i = 0)
    (hb : ∀ c, Keeps false (b c)) : FiresBy false i (gateForm i fun c _ => c.emitPlan 4 (x c) false (b c)) :=
  jetScalar_firesBy hg hp fun c _ => steady_emitPlan (hb c)

theorem planeOf_jetScalar {i : Instr} (hg : groupOf i = 8) (ho : Instr.isOpc i [0x100, 0x108] = true) (h : planeOk i = true) : planeOf i = 0 := by
  simpa [planeOk, hg, ho] using h

theorem intForm_firesBy {i : Instr} {f : FmtA} {op : Int → Int → Int} : FiresBy false i (intForm i f op) := by
  unfold intForm
  exact elemForm_firesBy

theorem intFormU_firesBy {i : Instr} {f : FmtA} {op : Int → Int → Int} : FiresBy false i (intFormU i f op) := by
  unfold intFormU
  exact elemForm_firesBy

theorem bitForm_firesBy {i : Instr} {f : FmtA} {op : Nat → Nat → Nat → Nat} : FiresBy false i (bitForm i f op) := by
  unfold bitForm
  exact elemForm_firesBy

theorem specForm_firesBy {i : Instr} {f : FmtA} {fn : Num.Fn} : FiresBy false i (specForm i f fn) := by
  unfold specForm
  exact jetForm_firesBy

/-- Every instruction form fires by a lawful plan. -/
theorem exec_firesBy {i : Instr} (h : isForm i = true) : FiresBy (readsLines i) i (exec i) := by
  cases i with
  | br => exact execBr_firesBy
  | bri => exact execBri_firesBy
  | call => exact execCall_firesBy
  | calli => exact execCalli_firesBy
  | ret => exact execRet_firesBy
  | halt => exact execHalt_firesBy
  | mov | const =>
    delta exec execMov execConst
    exact moveForm_firesBy (by simp) rfl
  | lenter =>
    delta exec execLenter
    exact tagForm_firesBy (by simp) rfl fun _ _ _ => tame_lenterPlan
  | inext | iprev =>
    delta exec execInext execIprev
    exact tagForm_firesBy (by simp) rfl fun _ _ _ => tame_tagPlan .skip
  | lexit =>
    delta exec execLexit
    exact tagForm_firesBy (by simp) rfl fun _ _ _ => tame_tagPlan (.of_only calm_addAct)
  | talloc =>
    delta exec execTalloc
    exact tagForm_firesBy (by simp) rfl fun _ _ _ => tame_tallocPlan
  | tfree => exact execTfree_firesBy
  | spawn => exact execSpawn_firesBy
  | join => exact execJoin_firesBy
  | getg | empty => exact getPlan_firesBy (by simp) rfl
  | putg => exact execPutg_firesBy
  | null => exact execNull_firesBy
  | cmp | fcmp | pand | por | pxor | pnot =>
    delta exec execCmp execFcmp execPand execPor execPxor execPnot
    exact predForm_firesBy
  | any | all | maskn =>
    delta exec execAny execAll execMaskn
    exact gateForm_steady fun _ _ => steady_vecOut
  | sel => exact execSel_firesBy
  | add | sub | mul | neg | abs =>
    delta exec execAdd execSub execMul execNeg execAbs
    exact intForm_firesBy
  | mulh | div | rem | min | max =>
    delta exec execMulh execDiv execRem execMin execMax
    exact intFormU_firesBy
  | madd | dot4 | lea =>
    delta exec execMadd execDot4 execLea
    exact elemForm_firesBy
  | and | or | xor | andn | not | shl | shr | sar | rol | clz | popc | brev | bfx | bfi | sext | zext =>
    delta exec execAnd execOr execXor execAndn execNot execShl execShr execSar execRol execClz execPopc execBrev execBfx execBfi execSext execZext
    exact bitForm_firesBy
  | fadd | fsub | fmul | fma | fnma | fdiv | fsqrt | frsqrt | frcp | fmin | fmax | fabs | fneg | fcpys | fscale =>
    delta exec execFadd execFsub execFmul execFma execFnma execFdiv execFsqrt execFrsqrt execFrcp execFmin execFmax execFabs execFneg execFcpys execFscale
    exact jetForm_firesBy
  | fclass | frint | cvt | cvtsr =>
    delta exec execFclass execFrint execCvt execCvtsr
    exact elemForm_firesBy
  | fexp | fexp2 | flog | flog2 | fsin | fcos | ftanh | flgst | ferf =>
    delta exec execFexp execFexp2 execFlog execFlog2 execFsin execFcos execFtanh execFlgst execFerf
    exact specForm_firesBy
  | rng => exact execRng_firesBy
  | pack4 => exact execPack4_firesBy
  | unpk4 => exact execUnpk4_firesBy
  | jord | jflag =>
    delta exec execJord execJflag
    exact jetScalar_emit_firesBy (by simp) (planeOf_jetScalar (by simp) rfl) fun _ => .skip
  | jordSet | jflagClr =>
    delta exec execJordSet execJflagClr
    exact jetScalar_emit_firesBy (by simp) (planeOf_jetScalar (by simp) rfl) fun _ => .of_only calm_addAct
  | jseed | jcoef | jsetc | jdiff | jintg | jtrunc | jeval =>
    delta exec execJseed execJcoef execJsetc execJdiff execJintg execJtrunc execJeval
    exact jetGroup_firesBy
  | repl => exact execRepl_firesBy
  | lane | insl | perm | shuf | rotl | slide | zip | unzip =>
    delta exec execLane execInsl execPerm execShuf execRotl execSlide execZip execUnzip
    exact laneForm_firesBy
  | iota => exact execIota_firesBy
  | red | scan =>
    delta exec execRed execScan
    exact redForm_firesBy (by simp [computes]) rfl
  | accum | filter | compact | merge =>
    delta exec execAccum execFilter execCompact execMerge
    exact orderedForm_firesBy (by simp [computes]) (by simp [gates, Instr.isOpc])
  | steer => exact execSteer_firesBy
  | mmat => exact execMmat_firesBy
  | tfetch => exact execTfetch_firesBy
  | accclr f | accarm f | accrel f | mtrans f => exact tileForm_firesBy (by simp [computes]) rfl (formDraw_tile (by simp) ⟨f, rfl⟩ (by simp))
  | accrd => exact execAccrd_firesBy
  | accchk => exact execAccchk_firesBy
  | ld | lds | ldg => exact memForm_firesBy (by simp [computes]) (by simp [gates]) fun _ _ => tame_loadPlan
  | st | sts | stg => exact memForm_firesBy (by simp [computes]) (by simp [gates]) fun _ _ => tame_storePlan
  | ldsp => exact memForm_firesBy (by simp [computes]) (by simp [gates]) fun _ _ => tame_ldspPlan
  | stsp => exact memForm_firesBy (by simp [computes]) (by simp [gates]) fun _ _ => tame_stspPlan
  | pref => exact memForm_firesBy (by simp [computes]) (by simp [gates]) fun _ _ => tame_prefPlan
  | nullst => exact firesBy_of_tame (by simp [computes]) (by simp [gates]) fun _ => tame_nullstPlan
  | l1inv => exact memForm_firesBy (by simp [computes]) (by simp [gates]) fun _ _ => tame_l1invPlan
  | fence => exact memForm_firesBy (by simp [computes]) (by simp [gates]) fun _ _ => tame_fencePlan
  | ldv => exact memForm_firesBy (by simp [computes]) (by simp [gates]) fun _ _ => tame_ldvPlan
  | stv | reclaim | atom | cas => exact memForm_firesBy (by simp [computes]) (by simp [gates]) fun _ _ => tame_syncStore
  | reinmk => exact memForm_firesBy (by simp [computes]) (by simp [gates]) fun _ _ => tame_reinmkPlan
  | reindup => exact memForm_firesBy (by simp [computes]) (by simp [gates]) fun _ _ => tame_reindupPlan
  | reinspl => exact memForm_firesBy (by simp [computes]) (by simp [gates]) fun _ _ => tame_reinsplPlan
  | reinnar => exact memForm_firesBy (by simp [computes]) (by simp [gates]) fun _ _ => tame_reinnarPlan
  | reindrop => exact memForm_firesBy (by simp [computes]) (by simp [gates]) fun _ _ => tame_reindropPlan
  | reinq => exact memForm_firesBy (by simp [computes]) (by simp [gates]) fun _ _ => tame_reinqPlan
  | reinsend => exact memForm_firesBy (by simp [computes]) (by simp [gates]) fun _ _ => tame_reinsendPlan
  | copy | gather | coll | topk | mirror => exact issueForm_firesBy (by simp) rfl
  | wpwait => exact execWpwait_firesBy
  | wprd => exact execWprd_firesBy
  | cwait => exact execCwait_firesBy
  | cstat => exact execCstat_firesBy
  | ccancel => exact execCcancel_firesBy
  | qpush | qpop | tlaunch =>
    delta exec execQpush execQpop execTlaunch
    exact hubForm_firesBy (by simp) rfl fun _ _ => tame_recordReq
  | qstat | chgrd | chgask =>
    delta exec execQstat execChgrd execChgask
    exact hubForm_firesBy (by simp) rfl fun _ _ h => by cases h
  | trap => exact execTrap_firesBy
  | fret | bkpt | tlbinv | codesync | mlog =>
    delta exec execFret execBkpt execTlbinv execCodesync execMlog
    exact sysForm_firesBy (by simp) rfl
  | csrrd => exact execCsrrd_firesBy
  | csrwr => exact execCsrwr_firesBy
  | tbase => exact execTbase_firesBy
  | _ => exact nomatch h

end Sys2Proof.Machine
end

section
/-! PROOFS. What a firing comes to that finds something amiss with its operands (01 R25; 24 R394, R402; 04 R84; 10 R213), that a closed gate leaves the
draw alone (01 R25), and what every firing leaves as it was (01 R17, R19; 05 R91). -/

namespace Sys2Proof.Machine

/-! ## A firing with something amiss -/

theorem fire_badTok {i : Instr} {plan : Fx → Plan} {s : State} {c : Fx} {t : Tok} (hc : fireCtx i s = some c) (hb : c.badTok = some t) :
    fire i plan s = .next ((nodeParity c.n (c.nd.parityPlace t) t).run s) := by
  simp only [fire, hc, hb, Prog.done_eq]

theorem fire_badMarks {i : Instr} {plan : Fx → Plan} {s : State} {c : Fx} (hc : fireCtx i s = some c) (hb : c.badTok = none)
    (hm : c.marksOk i = false) (hd : Covers c (formDraw i c.k)) :
    fire i plan s = .next (c.faulted (formDraw i c.k) 0x32 0 (BitVec.ofNat 64 c.q)) := by
  simp only [fire, hc, hb, hm, Bool.not_false, if_true, Fx.run_fault hd]

theorem fire_badBeats {i : Instr} {plan : Fx → Plan} {s : State} {c : Fx} {b : Nat} (hc : fireCtx i s = some c) (hb : c.badTok = none)
    (hm : c.marksOk i = true) (hn : c.badBeats i = some b) (hd : Covers c (formDraw i c.k)) :
    fire i plan s = .next (c.faulted (formDraw i c.k) 0x13 0 (BitVec.ofNat 64 (c.q + (b - 1) % 8 * 256 + c.k * 2 ^ 12))) := by
  simp only [fire, hc, hb, hm, hn, Bool.not_true, Bool.false_eq_true, if_false, Fx.run_fault hd]

/-- The record of a firing whose two computations differ (24 R402). -/
def Fx.upsetFault (c : Fx) (again : Bool) : FaultRec :=
  mkFault c.nd 0x71 c.q c.tag 0 (BitVec.ofNat 64 (c.q + if again then 256 else 0))

/-- The mark of a first difference goes. -/
def Fx.clearUpset (c : Fx) : Prog := .upd (.node c.n fun nd => { nd with upset := none })

theorem fire_upsetOnce {i : Instr} {plan : Fx → Plan} {s : State} {c : Fx} (hc : fireCtx i s = some c) (hb : c.badTok = none)
    (hm : c.marksOk i = true) (hn : c.badBeats i = none) (hu : c.nd.upset = some false) :
    fire i plan s = .next ((report c.n (c.upsetFault false) (some 0)).run (c.clearUpset.run s)) := by
  simp only [fire, hc, hb, hm, hn, hu, Bool.not_true, Bool.false_eq_true, if_false, Prog.done_eq, Prog.run_seq, Fx.upsetFault, Fx.clearUpset]

theorem fire_upsetTwice {i : Instr} {plan : Fx → Plan} {s : State} {c : Fx} (hc : fireCtx i s = some c) (hb : c.badTok = none)
    (hm : c.marksOk i = true) (hn : c.badBeats i = none) (hu : c.nd.upset = some true) :
    fire i plan s = .next ((drawOr c.n (plan c).draw c.q c.m.blk.pc c.tag
      (.seq c.clearUpset (tokenError c.n c.n c.tid (tagColour c.tag) (c.upsetFault true)))).run s) := by
  simp only [fire, hc, hb, hm, hn, hu, Bool.not_true, Bool.false_eq_true, if_false, if_true, Prog.done_eq, Fx.upsetFault, Fx.clearUpset]

/-- A draw with what follows it, or the shortfall. -/
theorem run_drawOr {n draw place : Nat} {pc : BitVec 58} {tag : Tag} {k : Prog} {s : State} :
    (drawOr n draw place pc tag k).run s = if draw ≤ (refNode s n).crib.remaining then
      k.run ((onRef n fun nd => { nd with crib := nd.crib.draw draw (tagColour tag) }).run s) else (shortfall n draw place pc tag).run s := by
  simp only [drawOr, Prog.run_ask]
  split
  · rfl
  · rfl

/-! ## A firing in a state -/

/-- A firing by a lawful plan is refused, or does what a firing does. -/
theorem fire_keeps {r : Bool} {i : Instr} {plan : Fx → Plan} (h : ∀ c, (plan c).Tame r) (s : State) :
    fire i plan s = .refused .notReady ∨ ∃ p : Prog, Keeps r p ∧ fire i plan s = .next (p.run s) := by
  cases hc : fireCtx i s with
  | none => exact .inl (fire_notReady hc)
  | some c =>
    have hs := fireCtx_state hc
    have key : ∀ pl : Plan, pl.Tame r → ∃ p : Prog, Keeps r p ∧ c.run pl = .next (p.run s) := fun pl hpl => hs ▸ hpl.run c
    refine .inr ?_
    cases hb : c.badTok with
    | some t => exact ⟨_, keeps_nodeParity, fire_badTok hc hb⟩
    | none =>
      cases hm : c.marksOk i with
      | false =>
        simp only [fire, hc, hb, hm, Bool.not_false, if_true]
        exact key _ .fault
      | true =>
        cases hn : c.badBeats i with
        | some b =>
          simp only [fire, hc, hb, hm, hn, Bool.not_true, Bool.false_eq_true, if_false]
          exact key _ .fault
        | none =>
          cases hu : c.nd.upset with
          | none => exact fire_fires ⟨hc, hb, hm, hn, hu⟩ ▸ key _ (h c)
          | some again =>
            have hclear : Keeps r c.clearUpset := .of_only calm_node
            cases again with
            | false => exact ⟨.seq c.clearUpset (report c.n (c.upsetFault false) (some 0)), hclear.seq (.of_only calm_report), fire_upsetOnce hc hb hm hn hu⟩
            | true => exact ⟨_, keeps_drawOr (hclear.seq keeps_tokenError), fire_upsetTwice hc hb hm hn hu⟩

/-- A firing that answers a state does to it what a firing does. -/
theorem exec_gentle {i : Instr} {s t : State} (hf : isForm i = true) (h : exec i s = .next t) : Gentle (readsLines i) s t := by
  obtain ⟨plan, he, hl⟩ := exec_firesBy hf
  have hfire : fire i plan s = .next t := (he s).symm.trans h
  rcases fire_keeps hl.tame s with hr | ⟨p, hp, hr⟩
  · cases hfire.symm.trans hr
  · cases hfire.symm.trans hr
    exact hp s

/-- Where a firing ends no task, it disturbs nothing. -/
theorem exec_undisturbed {i : Instr} {s t : State} (hf : isForm i = true) (h : exec i s = .next t) (hn : NoneEnds s t) :
    Undisturbed (readsLines i) s t := (exec_gentle hf h).undisturbed hn

theorem State.byteNow_congr {s t : State} (hm : t.mem = s.mem) (hl : t.l2 = s.l2) (a : Nat) : t.byteNow a = s.byteNow a := by
  simp only [State.byteNow, State.l2Line, State.memByte, hm, hl]

end Sys2Proof.Machine

open Sys2Proof Sys2Proof.Machine

/-- Settles O10: every form fires by a lawful plan, and such a plan behind a closed gate draws alone. -/
theorem closedGateOnlyDraws : Obligations.ClosedGateOnlyDraws := by
  intro i s c hf hg ho hm hc hd
  obtain ⟨plan, he, hl⟩ := exec_firesBy hf
  have hgates : gates i = true := by simp only [gates, hg, ho, Bool.not_false, Bool.and_self]
  rw [he, fire_fires hc, hl.closed hgates c hc.hdr hm, Fx.run_act hd]
  rfl

/-- Settles O7: every form fires by a lawful plan, and what is amiss decides before the plan does. -/
theorem unfitFirings : Obligations.UnfitFirings := by
  refine ⟨⟨fun i s hf hc => ?_, fun i s c t hf hc hb => ?_⟩, ⟨fun i s c hf hc hb hm hd => ?_, fun i s c b hf hc hb hm hn hd => ?_⟩,
    fun i s c again hf hc hb hm hn hu => ⟨fun ha => ?_, fun ha => ?_⟩⟩
  all_goals obtain ⟨plan, he, hl⟩ := exec_firesBy hf
  · exact (he s).trans (fire_notReady hc)
  · exact (he s).trans (fire_badTok hc hb)
  · exact (he s).trans (fire_badMarks hc hb hm hd)
  · exact (he s).trans (fire_badBeats hc hb hm hn hd)
  · subst ha
    exact (he s).trans (fire_upsetOnce hc hb hm hn hu)
  · subst ha
    refine ⟨(plan c).draw, ?_, fun tg cl hg hp hT => hl.draws hg hp c tg cl (fireCtx_hdr hc) hT⟩
    rw [he, fire_upsetTwice hc hb hm hn hu, run_drawOr]
    rfl

/-- Settles O45: a firing that ends no task disturbs neither scratchpads nor, unless it reads lines, memory. -/
theorem firingsStoreNothing : Obligations.FiringsStoreNothing := by
  intro i s t hf h hn
  have hu := exec_undisturbed hf h hn
  refine ⟨hu.pads, hu.tbase, hu.power, fun hp hm ht => ?_⟩
  have hr : readsLines i = false := by
    cases i with
    | pref f => exact absurd rfl (hp f)
    | mmat f => exact absurd rfl (hm f)
    | tfetch f => exact absurd rfl (ht f)
    | _ => rfl
  obtain ⟨h1, h2, h3, h4, h5, h6⟩ := hu.memory hr
  exact ⟨h1, h2, h3, h4, h5, h6, State.byteNow_congr h3 h4⟩

end

section
/-! PROOFS. No firing writes a register of a node in a state whose map of nodes is canonical (01 R17, R19); where the map holds a key twice, an update
that gives the default uncovers the entry below. -/

namespace Sys2Proof.Machine

/-- In a canonical state no firing that ends no task writes a register of any node (01 R17, R19). -/
theorem firingsWriteNoRegister_of_canonical {i : Instr} {s t : State} (hs : s.Canonical) (hf : isForm i = true) (h : exec i s = .next t)
    (hn : NoneEnds s t) (n : Nat) : (t.node n).SameRegs (s.node n) :=
  Node.sameRegs_of_regs ((exec_undisturbed hf h hn).regs hs n)

/-- A MOV of the S plane whose target is the left slot of instruction 1 of its block. -/
def collidingMov : Instr := .mov ⟨⟨0, 0, 0, 0, 0x401, 0⟩, 0, 0, 0⟩

/-- The MOV about to fire at a node in which its target slot holds a token already. The map of nodes holds node 5 twice: as one after reset, and under
that as one of the task with a flag in FPSTAT. -/
def doubledNode : State :=
  let waiting : MEntry := ⟨1, 0, some (mkTok 0 (.scalar 7) false), none, none⟩
  { State.reset with
    power := .running
    cur := some ⟨placeAt, 0, 0⟩
    nodes := [(placeAt, { oneNode collidingMov 0 with entries := [(0, zeroEntry collidingMov), (entryIndex 1 0, waiting)] }),
      (5, Node.reset), (5, { Node.reset with task := some 1, fpstat := 1 })]
    tasks := [(1, some (oneTask (nodeX placeAt) (nodeY placeAt)))] }

/-- The state that an outcome answers. -/
def stateOf : Host.Outcome State Fault Refusal → Option State
  | .next t => some t
  | _ => none

theorem eq_next_of_stateOf {o : Host.Outcome State Fault Refusal} {t : State} (h : stateOf o = some t) : o = .next t := by
  cases o with
  | next u => cases h; rfl
  | fault => cases h
  | refused => cases h

/-- The collision purges its colour on every node of the task, among them node 5, whose FPSTAT is another afterwards. -/
theorem doubledNode_uncovers : (doubledNode.node 5).fpstat = 0 ∧
    (stateOf (exec collidingMov doubledNode)).map (fun t => (t.tasks, (t.node 5).fpstat)) = some (doubledNode.tasks, 1) := by
  decide +kernel

end Sys2Proof.Machine

open Sys2Proof Sys2Proof.Machine

/-- Refutes O46: in a state whose map of nodes is not canonical, the colour fault of the MOV at `doubledNode` changes FPSTAT of node 5. -/
theorem not_firingsWriteNoRegister : ¬ Obligations.FiringsWriteNoRegister := by
  intro h
  obtain ⟨hbefore, hnext⟩ := doubledNode_uncovers
  obtain ⟨t, ht, heq⟩ := Option.map_eq_some_iff.1 hnext
  obtain ⟨htasks, hafter⟩ := Prod.mk.inj heq
  have hends : NoneEnds doubledNode t := fun k hk => by simpa only [State.ending, State.task, htasks] using hk
  have hsame := (h collidingMov doubledNode t rfl (eq_next_of_stateOf ht) hends 5).fpstat
  rw [hbefore, hafter] at hsame
  cases hsame

end

section
/-! PROOFS. Tokens on the mesh, deferred results and retiring iterations (01 R12, R24, R27, R31; 15 R294, R306; 22 R367, R369; 08 R165). -/

namespace Sys2Proof.Machine

/-! ## Hops (01 R12) -/

/-- A hop of a token that is not at its destination moves it one position, and one nearer. -/
theorem nextHop_nearer {x y dx dy : Nat} (h : ¬(x = dx ∧ y = dy)) :
    hops (nextHop x y dx dy).1 (nextHop x y dx dy).2 dx dy + 1 = hops x y dx dy ∧ hops x y (nextHop x y dx dy).1 (nextHop x y dx dy).2 = 1 := by
  unfold nextHop hops
  split_ifs <;> constructor <;> dsimp only <;> omega

theorem hopJob_moving {s : State} {k : Nat} {f : Flit} (hf : s.flits[k]? = some f) (h : ¬(f.x = f.dstX ∧ f.y = f.dstY)) : hopJob s k = some f := by
  simp [hopJob, hf, h]

/-- A good token's hop: forwarded by the router that it enters, or dropped there and counted (15 R294). -/
theorem hopFlit_good {s : State} {k : Nat} {f : Flit} {t : Task} (ht : s.task f.task = some t) (hp : f.tok.par = .good) :
    (hopFlit k f).run s =
      if forwards s (nextHop f.x f.y f.dstX f.dstY).1 (nextHop f.x f.y f.dstX f.dstY).2 (edgeStart t f.edge) (f.dstX, f.dstY) = true then
        { s with flits := s.flits.modify k fun g =>
            { g with x := (nextHop f.x f.y f.dstX f.dstY).1, y := (nextHop f.x f.y f.dstX f.dstY).2 } }
      else { s with flits := s.flits.eraseIdx k, hub := { s.hub with dropped := s.hub.dropped + 1 } } := by
  simp only [hopFlit, Prog.run_ask, hp, ht, decide_true, Bool.not_true, Bool.false_eq_true, if_false]
  split <;> rfl

/-! ## Landing at the destination (01 R24; 15 R306) -/

theorem landing_node {s : State} {f : Flit} (h : (s.node (nodeAt f.dstX f.dstY)).task = some f.task) :
    landing s f = .node (nodeAt f.dstX f.dstY) := by
  simp [landing, h]

theorem landing_park {s : State} {f : Flit} {t : Task} (ht : s.task f.task = some t) (hs : t.sweeping = true)
    (h : ¬(s.node (nodeAt f.dstX f.dstY)).task = some f.task) : landing s f = .park (nodeAt f.dstX f.dstY) := by
  simp [landing, h, ht, hs]

/-- TOKEN_ARRIVAL takes in a flit at its destination that is the first on its edge and has a landing. -/
theorem execTokenArrival_lands {s : State} {k : Nat} {f : Flit} (hf : s.flits[k]? = some f) (hd : f.x = f.dstX ∧ f.y = f.dstY)
    (h1 : firstOnEdge s k f = true) (hw : landing s f ≠ .wait) :
    exec (.tokenArrival k) s = .next ((landFlit k f (fun n => arrive n f.q f.slot f.tok (some f.edge)) (landing s f)).run s) := by
  have hj : arrivalJob s k = some (f, landing s f) := by simp [arrivalJob, hf, hd, h1, hw]
  show execTokenArrival k s = _
  simp only [execTokenArrival, hj, Prog.done_eq]

/-- ESCAPE_CHANNEL_TIMEOUT takes a flit that waits at a die link, is the first on its edge and has a landing. -/
theorem execEscapeChannelTimeout_lands {s : State} {k : Nat} {f : Flit} (hf : s.flits[k]? = some f) (hd : ¬(f.x = f.dstX ∧ f.y = f.dstY))
    (hc : crossesDie f.x f.y (nextHop f.x f.y f.dstX f.dstY) = true) (h1 : firstOnEdge s k f = true) (hw : landing s f ≠ .wait) :
    exec (.escapeChannelTimeout k) s =
      .next ((landFlit k f (fun n => spillArrive n f.q f.slot f.tok (some f.edge)) (landing s f)).run s) := by
  have hj : escapeJob s k = some (f, landing s f) := by simp [escapeJob, hopJob_moving hf hd, hc, h1, hw]
  show execEscapeChannelTimeout k s = _
  simp only [execEscapeChannelTimeout, hj, Prog.done_eq]

/-- Over an edge of the mesh that is no memory edge a token reaches its node. -/
theorem overEdge_mesh {s : State} {n tid edge q : Nat} {tok : Tok} {t : Task} {k : Prog} (ht : s.task tid = some t)
    (hm : ∀ e, t.img.edges[edge]? = some e → e.mem = false) : (overEdge n tid edge q tok k).run s = k.run s := by
  simp only [overEdge, Prog.run_ask, ht, Option.bind_some]
  cases he : t.img.edges[edge]? with
  | none => rfl
  | some e => simp [hm e he]

/-- A flit whose colour is not purged leaves the mesh for the node that it has reached. -/
theorem landFlit_node {s : State} {k n : Nat} {f : Flit} {t : Task} {inNode : Nat → Prog} (ht : s.task f.task = some t)
    (hp : purged s f.task f.tok = false) (hm : ∀ e, t.img.edges[f.edge]? = some e → e.mem = false) :
    (landFlit k f inNode (.node n)).run s = (inNode n).run { s with flits := s.flits.eraseIdx k } := by
  simp only [landFlit, Prog.run_ask, hp, Bool.false_eq_true, if_false, Prog.run_seq]
  exact overEdge_mesh (s := { s with flits := s.flits.eraseIdx k }) ht hm

/-- A parked token takes its place in the park buffer, where the spill area and the buffer hold it (15 R306, 22 R368). -/
theorem landFlit_park {s : State} {k n : Nat} {f : Flit} {inNode : Nat → Prog} (hp : purged s f.task f.tok = false)
    (hr : Bits.total ((s.node n).spill.map fun x => tokBytes x.tok) + (s.node n).parkBytes + tokBytes f.tok ≤ 65536) :
    (landFlit k f inNode (.park n)).run s = { s with flits := s.flits.eraseIdx k, nodes := Sparse.upd Node.reset s.nodes n fun nd =>
      { nd with park := nd.park ++ [⟨f.q, f.slot, f.tok, some f.edge⟩] } } := by
  simp only [landFlit, Prog.run_ask, hp, Bool.false_eq_true, if_false, Prog.run_seq, parkTok]
  exact congrArg (fun p => Prog.run p { s with flits := s.flits.eraseIdx k }) (if_neg (Nat.not_lt.2 hr))

/-- A good token that finds its slot free and room takes its place (01 R24). -/
theorem arrive_place {s : State} {n q slot tid : Nat} {tok : Tok} {edge : Option Nat} (ht : (s.node n).task = some tid) (hp : tok.par = .good)
    (hd : (s.node n).isDup q slot tok.tag = false) (hr : (s.node n).spillBytes + tokBytes tok ≤ 61440) :
    (arrive n q slot tok edge).run s = { s with nodes := Sparse.upd Node.reset s.nodes n fun nd => nd.place q slot tok edge } := by
  have hr' : ¬61440 < (s.node n).spillBytes + tokBytes tok := by omega
  simp [arrive, ht, hp, hd, hr', Upd.apply]

/-- A good token that finds a good one of its tag in its slot is a duplicate (22 R367). -/
theorem arrive_duplicate {s : State} {n q slot tid : Nat} {tok w : Tok} {edge : Option Nat} (ht : (s.node n).task = some tid)
    (hp : tok.par = .good) (hd : (s.node n).isDup q slot tok.tag = true) (hw : (s.node n).waiting q slot tok.tag = some w) (hg : w.par = .good) :
    (arrive n q slot tok edge).run s = (colourFault n tid 0x11 q slot tok.tag).run s := by
  simp [arrive, ht, hp, hd, hw, hg]

/-- The escape channel writes a good token that finds its slot free and room into the spill area (22 R369). -/
theorem spillArrive_spills {s : State} {n q slot tid : Nat} {tok : Tok} {edge : Option Nat} (ht : (s.node n).task = some tid)
    (hp : tok.par = .good) (hd : (s.node n).isDup q slot tok.tag = false) (hr : (s.node n).spillBytes + tokBytes tok ≤ 61440) :
    (spillArrive n q slot tok edge).run s = { s with nodes := Sparse.upd Node.reset s.nodes n fun nd =>
      { nd with spill := nd.spill ++ [⟨q, slot, tok, edge⟩] } } := by
  have hr' : ¬61440 < (s.node n).spillBytes + tokBytes tok := by omega
  simp [spillArrive, ht, hp, hd, hr', Upd.apply]

/-! ## Deferred results (01 R31) -/

/-- The one deferred write of a register is completed by its result. -/
theorem Node.deliver_only {nd : Node} {d : DefRes} (h : nd.defs = [⟨d.dst.reg, d.dst.id, none⟩]) :
    nd.deliver d = ({ nd with defs := [] } : Node).writeReg d.dst.reg d.val := by
  simp [Node.deliver, h, Node.complete]

/-! ## Iterations and colours (01 R27; 08 R158, R163, R165) -/

theorem Task.frame_eq_none {t : Task} {c : Nat} : t.frame c = none ↔ ∀ e ∈ t.frames, e.1 ≠ c := by
  simp [Task.frame]

/-- Freeing a colour brings no colour back. -/
theorem Task.dropColour_frame_none {c : Nat} : ∀ (k x : Nat) (t : Task), t.frame c = none → (Task.dropColour k x t).frame c = none := by
  intro k
  induction k with
  | zero => exact fun _ _ h => h
  | succ k ih =>
    intro x t h
    refine List.foldlRecOn _ _ (motive := fun t => t.frame c = none) ?_ fun t ht y _ => ih y t ht
    rw [Task.frame_eq_none] at h ⊢
    simp only [List.mem_map, List.mem_filter]
    rintro _ ⟨e, ⟨he, -⟩, rfl⟩
    split <;> exact h e he

/-- A freed colour has no frame. -/
theorem Task.release_frame (c : Nat) (t : Task) : (t.release c).frame c = none := by
  unfold Task.release Task.dropColour
  refine List.foldlRecOn _ _ (motive := fun t => t.frame c = none) ?_ fun t ht y _ => Task.dropColour_frame_none _ y t ht
  rw [Task.frame_eq_none]
  simp only [List.mem_map, List.mem_filter]
  rintro _ ⟨e, ⟨-, he⟩, rfl⟩
  split <;> simpa using he

/-- An iteration retires, or a freed slot returns: it is due, and nothing carries its tag (01 R27; 08 R163, R165). -/
theorem execIterationRetire_slot {s : State} {tid c i : Nat} {t : Task} {f : Frame} (ht : s.task tid = some t) (hf : t.frame c = some f)
    (hd : f.kind = .loop ∧ i ∈ f.live ∨ f.kind = .tagSpace ∧ (i ∈ f.freeing ∨ (i ∈ f.live ∧ ¬i ∈ f.given)))
    (hu : tagInUse s tid t (fun g => g == mkTag c i) = false) :
    exec (.iterationRetire tid c i) s = .next ((Prog.seq (returnSlot tid c i) (forgetReads tid (mkTag c i))).run s) := by
  have hj : retireJob s tid c i = some .iter ∨ retireJob s tid c i = some .slot := by
    rcases hd with ⟨hk, hl⟩ | ⟨hk, hl | ⟨hl, hg⟩⟩
    · left
      simp [retireJob, ht, hf, hk, hl, hu]
    · right
      simp [retireJob, ht, hf, hk, hl, hu]
    · by_cases hfr : i ∈ f.freeing
      · right
        simp [retireJob, ht, hf, hk, hfr, hu]
      · left
        simp [retireJob, ht, hf, hk, hl, hg, hfr, hu]
  show execIterationRetire tid c i s = _
  rcases hj with hj | hj <;> simp only [execIterationRetire, hj, Prog.done_eq]

/-- A colour that has ended goes: nothing carries it any more (08 R158, R164, R165). -/
theorem execIterationRetire_colour {s : State} {tid c i : Nat} {t : Task} {f : Frame} (ht : s.task tid = some t) (hf : t.frame c = some f)
    (hu : tagInUse s tid t (fun g => tagColour g == c) = false)
    (hd : (f.kind = .loop ∧ f.lexit = true ∧ f.live = []) ∨ (f.kind = .call ∧ f.ended = true ∧ colourRuns s tid t c = false) ∨
      (f.kind = .tagSpace ∧ f.live = [] ∧ f.freeing = [] ∧ f.owner = none)) :
    exec (.iterationRetire tid c i) s = .next { s with tasks := Sparse.upd none s.tasks tid fun o => o.map (Task.release c) } := by
  have hj : retireJob s tid c i = some .colour := by
    rcases hd with ⟨hk, hl, hv⟩ | ⟨hk, he, hr⟩ | ⟨hk, hv, hr, ho⟩
    · simp [retireJob, ht, hf, hk, hl, hv, hu]
    · simp [retireJob, ht, hf, hk, he, hr, hu]
    · simp [retireJob, ht, hf, hk, hv, hr, ho, hu]
  show execIterationRetire tid c i s = _
  simp only [execIterationRetire, hj, Prog.done_eq, Prog.run_upd, Upd.apply]

end Sys2Proof.Machine

open Sys2Proof Sys2Proof.Machine Sys2Proof.Bits

/-- Settles O54: each event is enabled where the statement says, and does there what its one case says. -/
theorem meshEvents : Obligations.MeshEvents := by
  refine ⟨?_, ?_, fun nd d h => Node.deliver_only h, ?_⟩
  · intro s k f t hf ht hp
    refine ⟨fun hd => ?_, fun h1 hpu hm => ⟨fun hn hdup hroom => ⟨fun hd => ?_, fun hd hc => ?_⟩, fun hn w hw hg hdup hd => ?_,
      fun hn hsw hd hroom => ?_⟩⟩
    · obtain ⟨hnear, hone⟩ := nextHop_nearer hd
      refine ⟨hnear, hone, ?_⟩
      show execTokenHop k s = _
      simp only [execTokenHop, hopJob_moving hf hd, Prog.done_eq, hopFlit_good ht hp]
    · rw [execTokenArrival_lands hf hd h1 (by simp [landing_node hn]), landing_node hn, landFlit_node ht hpu hm]
      exact congrArg _ (arrive_place (s := { s with flits := s.flits.eraseIdx k }) hn hp hdup hroom)
    · rw [execEscapeChannelTimeout_lands hf hd hc h1 (by simp [landing_node hn]), landing_node hn, landFlit_node ht hpu hm]
      exact congrArg _ (spillArrive_spills (s := { s with flits := s.flits.eraseIdx k }) hn hp hdup hroom)
    · rw [execTokenArrival_lands hf hd h1 (by simp [landing_node hn]), landing_node hn, landFlit_node ht hpu hm]
      exact congrArg _ (arrive_duplicate (s := { s with flits := s.flits.eraseIdx k }) hn hp hdup hw hg)
    · rw [execTokenArrival_lands hf hd h1 (by simp [landing_park ht hsw hn]), landing_park ht hsw hn, landFlit_park hpu hroom]
  · intro s k d t hd ht
    show execDeferredWriteArrival k s = _
    simp only [execDeferredWriteArrival, hd, ht, Prog.done_eq, Prog.run_seq, Prog.run_upd, Upd.apply]
  · intro s tid c i t f ht hf
    exact ⟨fun hd hu => execIterationRetire_slot ht hf hd hu, fun hu hd => ⟨execIterationRetire_colour ht hf hu hd, Task.release_frame c t⟩⟩

end

section
/-! PROOFS. SPAWN and JOIN (08 R166, R167; 01 R16). -/

namespace Sys2Proof.Machine
open Sys2Proof.Bits

/-- The draw of a GRAPH form on the S plane (08 R172). -/
theorem graphDraw_scalar {c : Fx} (h : c.h.plane = 0) : graphDraw c = 4 := by
  simp [graphDraw, h]

/-- A number has a bit set from its 57th on just when it is 2^57 or more. -/
theorem field_top_eq_zero (d : Word) : field d 57 7 = 0 ↔ d.toNat < 2 ^ 57 := by
  have hd := d.isLt
  rw [field_eq]
  omega

/-- The destination of a SPAWN in the code space of its block, with the whole address where it leaves the 57-bit space (01 R16, 07 R133). -/
theorem splitDest_relDest (pc : BitVec 58) (boff : BitVec 60) :
    splitDest pc (relDest pc boff) =
      ((if bit pc 57 then 1#1 else 0#1) ++ (BitVec.ofInt 64 ((pc.toNat % 2 ^ 57 : Nat) + 64 * boff.toInt)).extractLsb' 0 57,
        if (BitVec.ofInt 64 ((pc.toNat % 2 ^ 57 : Nat) + 64 * boff.toInt)).toNat < 2 ^ 57 then none
        else some (BitVec.ofInt 64 ((pc.toNat % 2 ^ 57 : Nat) + 64 * boff.toInt))) := by
  have hd : BitVec.ofNat 64 (relDest pc boff) = BitVec.ofInt 64 ((pc.toNat % 2 ^ 57 : Nat) + 64 * boff.toInt) := by
    apply BitVec.eq_of_toNat_eq
    have hf : field pc 0 57 = pc.toNat % 2 ^ 57 := by simp [field_eq]
    rw [BitVec.toNat_ofNat, BitVec.toNat_ofInt, relDest, hf, Nat.mod_eq_of_lt]
    · rfl
    · omega
  simp only [splitDest, hd, field_top_eq_zero]

/-- SPAWN where a colour and a context are free (08 R166). -/
theorem execSpawn_spawns {f : FmtG} {s : State} {c : Fx} {g : BitVec 16} {x k : Nat} (hm : c.mode false = .go g) (hp : f.h.plane = 0)
    (hc : Covers c 4) (hx : c.t.freeColour = some x) (hk : freeCtx c = some k) (h : Fires (.spawn f) s c) :
    exec (.spawn f) s = .next (c.acted 4 (.seq
      (.seq (claimColour c x { Frame.make .spawn c.tag with
          node := nodeM c.t c.n
          ctx := k
          entry := (splitDest c.m.blk.pc (relDest c.m.blk.pc (f.imm.extractLsb' 0 60))).1
          wide := (splitDest c.m.blk.pc (relDest c.m.blk.pc (f.imm.extractLsb' 0 60))).2 })
        (addAct c.n c.ut c.q c.tag (.spawn k x (splitDest c.m.blk.pc (relDest c.m.blk.pc (f.imm.extractLsb' 0 60))).1
          (splitDest c.m.blk.pc (relDest c.m.blk.pc (f.imm.extractLsb' 0 60))).2)))
      (c.emit (if f.h.tagop = 5 then mkTag x (tagIter c.tag) else c.tag) (.scalar (BitVec.ofNat 64 x)) false))) := by
  have hd : graphDraw c = 4 := graphDraw_scalar (h.hdr.symm ▸ hp)
  show execSpawn f s = _
  rw [execSpawn, fire_fires h]
  simp only [hm, hx, hk, emitUnder, hd]
  exact Fx.run_act hc

/-- SPAWN waits while no colour or no context is free (08 R166). -/
theorem execSpawn_waits {f : FmtG} {s : State} {c : Fx} {g : BitVec 16} (hm : c.mode false = .go g)
    (hw : c.t.freeColour = none ∨ freeCtx c = none) (h : Fires (.spawn f) s c) : exec (.spawn f) s = .next s := by
  show execSpawn f s = _
  rw [execSpawn, fire_fires h]
  rcases hw with hx | hk
  · simp only [hm, hx, Fx.run_wait, h.state]
  · cases c.t.freeColour <;> simp only [hm, hk, Fx.run_wait, h.state]

/-- JOIN of a handle that it may join acts at commit (08 R167). -/
theorem execJoin_joins {f : FmtG} {s : State} {c : Fx} {g : BitVec 16} {x : Nat} (hm : c.mode false = .go g) (hc : Covers c 4)
    (hx : joinable c (optScalar c.l) = some x) (h : Fires (.join f) s c) :
    exec (.join f) s = .next (c.acted 4 (addAct c.n c.ut c.q c.tag (.join x))) := by
  show execJoin f s = _
  rw [execJoin, fire_fires h]
  simp only [hm, hx]
  exact Fx.run_act hc

/-- JOIN of any other handle is FLOW_FAULT 0x07 (08 R167). -/
theorem execJoin_faults {f : FmtG} {s : State} {c : Fx} {g : BitVec 16} (hm : c.mode false = .go g) (hc : Covers c 4)
    (hx : joinable c (optScalar c.l) = none) (h : Fires (.join f) s c) : exec (.join f) s = .next (c.faulted 4 0x10 0 7) := by
  show execJoin f s = _
  rw [execJoin, fire_fires h]
  simp only [hm, hx]
  exact Fx.run_fault hc

end Sys2Proof.Machine

/-- Settles O29: SPAWN and JOIN case by case; the entry of a SPAWN is the split of its relative destination. -/
theorem spawnAndJoin : Obligations.SpawnAndJoin := by
  intro f s c g hm hp hc
  refine ⟨fun x k hx hk h => ?_, fun hw h => Sys2Proof.Machine.execSpawn_waits hm hw h, fun h =>
    ⟨fun x hx => Sys2Proof.Machine.execJoin_joins hm hc hx h, fun hx => Sys2Proof.Machine.execJoin_faults hm hc hx h⟩⟩
  rw [Sys2Proof.Machine.execSpawn_spawns hm hp hc hx hk h, Sys2Proof.Machine.splitDest_relDest]

end

section
/-! PROOFS. Rounding to a multiple takes the multiple that the mode says (02 R48). -/

namespace Sys2Proof.Num

/-- The multiple `r.1` of `u` is the one that rounding mode `rm` takes for the magnitude `x` of sign `neg`, and `r.2` says whether it differs. -/
def RoundsTo (rm : Nat) (neg : Bool) (r : Nat × Bool) (x u : Nat) : Prop :=
  (r.2 = true ↔ ¬r.1 * u = x) ∧
  ((rm = 1 ∨ (rm = 2 ∧ neg = false) ∨ (rm = 3 ∧ neg = true)) → r.1 * u ≤ x ∧ x < (r.1 + 1) * u) ∧
  (((rm = 2 ∧ neg = true) ∨ (rm = 3 ∧ neg = false)) → x ≤ r.1 * u ∧ r.1 * u < x + u) ∧
  ((rm = 0 ∨ rm = 4) → 2 * (r.1 * u) ≤ 2 * x + u ∧ 2 * x ≤ 2 * (r.1 * u) + u ∧
    (2 * (r.1 * u) = 2 * x + u ∨ 2 * x = 2 * (r.1 * u) + u → if rm = 0 then r.1 % 2 = 0 else x < r.1 * u))

/-- Which multiple is taken does not depend on the unit in which magnitude and step are counted. -/
theorem roundsTo_mul_right {rm : Nat} {neg : Bool} {r : Nat × Bool} {x u c : Nat} (hc : 0 < c) :
    RoundsTo rm neg r (x * c) (u * c) ↔ RoundsTo rm neg r x u := by
  have hlt : ∀ a b, a * c < b * c ↔ a < b := fun _ _ => Nat.mul_lt_mul_right hc
  have hle : ∀ a b, a * c ≤ b * c ↔ a ≤ b := fun _ _ => Nat.mul_le_mul_right_iff hc
  have heq : ∀ a b, a * c = b * c ↔ a = b := fun _ _ => Nat.mul_left_inj hc.ne'
  simp only [RoundsTo, ← Nat.mul_assoc, ← Nat.add_mul, hlt, hle, heq]

/-- When a discarded part `d` of a step of `2 * half` rounds the magnitude up, mode by mode. -/
theorem roundUp_iff {rm : Nat} (hrm : rm ≤ 4) (neg odd : Bool) (d half : Nat) :
    roundUp rm neg odd d half false = true ↔
      (rm = 2 ∧ neg = true ∧ d ≠ 0) ∨ (rm = 3 ∧ neg = false ∧ d ≠ 0) ∨ (rm = 4 ∧ half ≤ d) ∨
        (rm = 0 ∧ (half < d ∨ d = half ∧ odd = true)) := by
  interval_cases rm <;> simp [roundUp]

/-- A rest far below half a step rounds up only away from zero, in the directed modes. -/
theorem roundUp_rest_iff {rm : Nat} (hrm : rm ≤ 4) (neg rest : Bool) :
    roundUp rm neg false 0 1 rest = true ↔ rest = true ∧ ((rm = 2 ∧ neg = true) ∨ (rm = 3 ∧ neg = false)) := by
  interval_cases rm <;> simp [roundUp, and_comm]

/-- A magnitude below half a step is rounded as a mere rest. -/
theorem roundsTo_of_rest {rm : Nat} (hrm : rm ≤ 4) (neg : Bool) {x u : Nat} (h : 2 * x < u) {rest : Bool} (hr : rest = true ↔ x ≠ 0) :
    RoundsTo rm neg (if roundUp rm neg false 0 1 rest then 1 else 0, rest) x u := by
  simp only [roundUp_rest_iff hrm, hr]
  -- one step up, or none; then each mode by itself
  split <;> refine ⟨?_, ?_, ?_, ?_⟩ <;> grind

/-- A magnitude of `n` steps of `2 * half` and a part `d` is rounded by its last bit and that part. -/
theorem roundsTo_of_quotient {rm : Nat} (hrm : rm ≤ 4) (neg : Bool) (n : Nat) {d half : Nat} (hd : d < 2 * half) :
    RoundsTo rm neg (n + (if roundUp rm neg (n % 2 = 1) d half false then 1 else 0), decide (d ≠ 0)) (n * (2 * half) + d) (2 * half) := by
  have hstep : (n + 1) * (2 * half) = n * (2 * half) + 2 * half := Nat.succ_mul ..
  simp only [roundUp_iff hrm]
  -- the next multiple above, or the quotient itself; then each mode by itself
  split <;> refine ⟨?_, ?_, ?_, ?_⟩ <;> grind

theorem lt_two_pow_bitLen (m : Nat) : m < 2 ^ bitLen m := by
  unfold bitLen
  split
  · omega
  · exact Nat.lt_log2_self

/-- Rounding by bit counts: a magnitude far below the step is a rest, any other one is divided by a step of at least two bits. -/
theorem roundAt_roundsTo {rm : Nat} (hrm : rm ≤ 4) (neg : Bool) (m : Nat) {e q : Int} {k : Nat} (he : 0 ≤ e + k) (hq : 0 ≤ q + k) :
    RoundsTo rm neg (roundAt rm neg m e q false) (m * 2 ^ (e + k).toNat) (2 ^ (q + k).toNat) := by
  unfold roundAt
  dsimp only
  split
  · next hfar =>
    simp only [Bool.or_false]
    apply roundsTo_of_rest hrm
    · have hm := lt_two_pow_bitLen m
      calc 2 * (m * 2 ^ (e + k).toNat) < 2 * (2 ^ bitLen m * 2 ^ (e + k).toNat) := by gcongr
        _ = 2 ^ (1 + bitLen m + (e + k).toNat) := by ring
        _ ≤ 2 ^ (q + k).toNat := Nat.pow_le_pow_right two_pos (by omega)
    · simp
  · obtain ⟨sh, hsh⟩ : ∃ sh, (q - e + ((2 - (q - e)).toNat : Nat)).toNat = sh + 1 := ⟨_, (Nat.succ_pred (by omega)).symm⟩
    generalize hup : (2 - (q - e)).toNat = up at *
    rw [hsh, Nat.add_sub_cancel, Bool.or_false, pow_succ']
    have hquot := roundsTo_of_quotient hrm neg (m * 2 ^ up / (2 * 2 ^ sh)) (Nat.mod_lt (m * 2 ^ up) (y := 2 * 2 ^ sh) (by positivity))
    rw [Nat.div_add_mod', ← roundsTo_mul_right (c := 2 ^ (e + k).toNat) (by positivity)] at hquot
    rw [← roundsTo_mul_right (c := 2 ^ up) (by positivity)]
    convert hquot using 1
    · ring
    · rw [← pow_succ', ← pow_add, ← pow_add]
      congr 1
      omega

end Sys2Proof.Num

/-- Settles O19: whatever the exponents, the multiple taken is that of the division of the magnitude by the step. -/
theorem roundingDirections : Obligations.RoundingDirections := by
  intro rm m k neg e q hrm he hq
  exact Sys2Proof.Num.roundAt_roundsTo hrm neg m he hq
end

section
/-! PROOFS. Arithmetic and special functions on jets (02 R57, R58; 09 R197; 10 R207–R211). -/

namespace Sys2Proof.Num

/-! ## Coefficients -/

theorem coef_append_left {l l' : List FV} {i : Nat} (h : i < l.length) : coef (l ++ l') i = coef l i := List.getD_append l l' fvZero i h

theorem coef_append_single (l : List FV) (v : FV) : coef (l ++ [v]) l.length = v := by
  simp [coef]

theorem coef_quiet (l : List FV) (i : Nat) : coef (quiet l) i = ((coef l i).1, 0) := by
  simp only [coef, quiet, List.getD_eq_getElem?_getD, List.getElem?_map]
  cases l[i]? <;> rfl

theorem coef_map_range {n i : Nat} (g : Nat → FV) (h : i < n) : coef ((List.range n).map g) i = g i := by
  simp [coef, h]

/-- Terms are those that their indices give. -/
theorem terms_congr {lo hi : Nat} {g g' : Nat → FV} (h : ∀ i, lo ≤ i → i ≤ hi → g i = g' i) : terms lo hi g = terms lo hi g' := by
  apply List.map_congr_left
  intro i hi
  simp only [List.mem_filter, List.mem_range, decide_eq_true_eq] at hi
  exact h i hi.2 (by omega)

/-- A step reads the jet that it multiplies in below its own index only. -/
theorem stepJ_congr {j : Nat} {c : FV} {f x x' : List FV} (h : ∀ i, i < j → coef x i = coef x' i) : stepJ j c f x = stepJ j c f x' := by
  unfold stepJ
  rw [terms_congr fun i h1 h2 => by rw [h (j - i) (by omega)]]

theorem negConv_congr {a a' b b' : List FV} {m : Nat} (ha : ∀ i, i ≤ m → coef a i = coef a' i) (hb : ∀ i, i ≤ m → coef b i = coef b' i) :
    negConv a b m = negConv a' b' m := by
  unfold negConv
  rw [terms_congr fun i _ h2 => by rw [ha i h2, hb (m - i) (by omega)]]

/-! ## Jets built coefficient by coefficient -/

/-- A rule for coefficient `j` reads the coefficients from `lo` to `j - 1` only. -/
def ReadsBelow (lo : Nat) (rule : Nat → List FV → FV) : Prop :=
  ∀ j l l', 0 < j → (∀ i, lo ≤ i → i < j → coef l i = coef l' i) → rule j l = rule j l'

theorem ReadsBelow.mono {lo : Nat} {rule : Nat → List FV → FV} (h : ReadsBelow lo rule) : ReadsBelow 0 rule :=
  fun j l l' hj hl => h j l l' hj fun i _ => hl i (Nat.zero_le i)

theorem build_succ (k : Nat) (x0 : FV) (rule : Nat → List FV → FV) :
    build (k + 1) x0 rule = build k x0 rule ++ [rule (k + 1) (build k x0 rule)] := by
  simp [build, List.range_succ]

theorem length_build (k : Nat) (x0 : FV) (rule : Nat → List FV → FV) : (build k x0 rule).length = k + 1 := by
  induction k with
  | zero => rfl
  | succ k ih => simp [build_succ, ih]

theorem coef_build_zero (k : Nat) (x0 : FV) (rule : Nat → List FV → FV) : coef (build k x0 rule) 0 = x0 := by
  induction k with
  | zero => rfl
  | succ k ih => rw [build_succ, coef_append_left (by simp [length_build]), ih]

/-- Every further coefficient is as the rule says, over the jet itself. -/
theorem coef_build {rule : Nat → List FV → FV} (hr : ReadsBelow 0 rule) (x0 : FV) {k j : Nat} (h0 : 0 < j) (hj : j ≤ k) :
    coef (build k x0 rule) j = rule j (build k x0 rule) := by
  induction k with
  | zero => omega
  | succ k ih =>
    have hlow : ∀ i, i < k + 1 → coef (build (k + 1) x0 rule) i = coef (build k x0 rule) i := fun i hi => by
      rw [build_succ, coef_append_left (by rw [length_build]; exact hi)]
    rw [hr j _ (build k x0 rule) h0 fun i _ hi => hlow i (by omega)]
    rcases Nat.lt_or_ge k j with hk | hk
    · obtain rfl : j = k + 1 := by omega
      have hlast := coef_append_single (build k x0 rule) (rule (k + 1) (build k x0 rule))
      rwa [length_build, ← build_succ] at hlast
    · rw [hlow j (by omega), ih hk]

theorem length_buildQ (k : Nat) (x0 : FV) (rule : Nat → List FV → FV) : (buildQ k x0 rule).length = k + 1 := length_build ..

theorem coef_buildQ_zero (k : Nat) (x0 : FV) (rule : Nat → List FV → FV) : coef (buildQ k x0 rule) 0 = x0 := coef_build_zero ..

theorem coef_buildQ {rule : Nat → List FV → FV} (hr : ReadsBelow 0 rule) (x0 : FV) {k j : Nat} (h0 : 0 < j) (hj : j ≤ k) :
    coef (buildQ k x0 rule) j = rule j (quiet (buildQ k x0 rule)) :=
  coef_build (fun j l l' hj hl => hr j _ _ hj fun i h1 h2 => by rw [coef_quiet, coef_quiet, hl i h1 h2]) x0 h0 hj

/-- The coefficients from `lo` on that obey one rule over each other agree where the lower ones agree. -/
theorem coef_eq_of_rule {lo k : Nat} {rule : Nat → List FV → FV} (hr : ReadsBelow lo rule) {a b : List FV}
    (h0 : lo = 0 → coef a 0 = coef b 0) (ha : ∀ j, 0 < j → j ≤ k → coef a j = rule j (quiet a))
    (hb : ∀ j, 0 < j → j ≤ k → coef b j = rule j (quiet b)) {j : Nat} (hlo : lo ≤ j) (hj : j ≤ k) : coef a j = coef b j := by
  induction j using Nat.strong_induction_on with
  | _ j ih =>
    rcases Nat.eq_zero_or_pos j with rfl | hpos
    · exact h0 (by omega)
    · rw [ha j hpos hj, hb j hpos hj]
      exact hr j _ _ hpos fun i h1 h2 => by rw [coef_quiet, coef_quiet, ih i h2 h1 (by omega)]

/-! ## Rules that read below their index -/

theorem readsBelow_stepJ (c : FV) (f : List FV) : ReadsBelow 0 fun j h => stepJ j c f h :=
  fun _ _ _ _ h => stepJ_congr fun i hi => h i (Nat.zero_le i) hi

/-- The rule of FLOG (10 R209). -/
def logRule (fa : List FV) (j : Nat) (l : List FV) : FV :=
  fvDiv48 (r48 (fvAdd (coef fa j) (fvNeg (fvDiv48
    (if j = 1 then fvZero else sum48 (terms 1 (j - 1) fun i => fvMul (fvMul (fvInt i) (coef l i)) (coef fa (j - i)))) (fvInt j))))) (coef fa 0)

theorem logJ_eq (k : Nat) (fa : List FV) (l0 : FV) : logJ k fa l0 = buildQ k l0 (logRule fa) := rfl

theorem readsBelow_logRule (fa : List FV) : ReadsBelow 1 (logRule fa) := by
  intro j l l' hj h
  unfold logRule
  rw [terms_congr fun i h1 h2 => by rw [h i h1 (by omega)]]

/-- The rule of the exponential series inside FERF (10 R211), over a jet `q`. -/
def expRule (q : List FV) (m : Nat) (e : List FV) : FV :=
  fvDiv48 (sum48 (terms 1 m fun i => fvMul (fvMul (fvInt i) (coef q i)) (coef e (m - i)))) (fvInt m)

theorem readsBelow_expRule (q : List FV) : ReadsBelow 0 (expRule q) := by
  intro m l l' hm h
  unfold expRule
  rw [terms_congr fun i h1 h2 => by rw [h (m - i) (Nat.zero_le _) (by omega)]]

theorem fvFlag_fst (fl : Flags) (v : FV) : (fvFlag fl v).1 = v.1 := rfl

/-- The rule of a function with an auxiliary jet (10 R211). -/
def auxRule (fa : List FV) (c : FV) (aux : Nat → List FV → FV) (j : Nat) (h : List FV) : FV :=
  fvFlag (coef ((List.range j).map fun m => aux m h) (j - 1)).2 (stepJ j c fa (quiet ((List.range j).map fun m => aux m h)))

theorem auxJ_eq (k : Nat) (fa : List FV) (h0 c : FV) (aux : Nat → List FV → FV) : auxJ k fa h0 c aux = buildQ k h0 (auxRule fa c aux) := rfl

theorem readsBelow_auxRule (fa : List FV) (c : FV) {aux : Nat → List FV → FV}
    (ha : ∀ m l l', (∀ i, i ≤ m → coef l i = coef l' i) → aux m l = aux m l') : ReadsBelow 0 (auxRule fa c aux) := by
  intro j l l' _ h
  have hu : (List.range j).map (fun m => aux m l) = (List.range j).map fun m => aux m l' :=
    List.map_congr_left fun m hm => ha m l l' fun i hi => h i (Nat.zero_le i) (by have := List.mem_range.1 hm; omega)
  simp only [auxRule, hu]

/-! ## Sine and cosine -/

theorem trigJ_succ (k : Nat) (fa : List FV) :
    trigJ (k + 1) fa = ((trigJ k fa).1 ++ [stepJ (k + 1) (fvInt 1) fa (quiet (trigJ k fa).2)],
      (trigJ k fa).2 ++ [stepJ (k + 1) (fvInt (-1)) fa (quiet (trigJ k fa).1)]) := by
  simp [trigJ, List.range_succ]

theorem length_trigJ (k : Nat) (fa : List FV) : (trigJ k fa).1.length = k + 1 ∧ (trigJ k fa).2.length = k + 1 := by
  induction k with
  | zero => exact ⟨rfl, rfl⟩
  | succ k ih => simp [trigJ_succ, ih]

theorem coef_trigJ_zero (k : Nat) (fa : List FV) :
    coef (trigJ k fa).1 0 = special48 .sin (coef fa 0).1 ∧ coef (trigJ k fa).2 0 = special48 .cos (coef fa 0).1 := by
  induction k with
  | zero => exact ⟨rfl, rfl⟩
  | succ k ih =>
    obtain ⟨hs, hc⟩ := length_trigJ k fa
    simp only [trigJ_succ]
    rwa [coef_append_left (by omega), coef_append_left (by omega)]

/-- Each of sine and cosine steps over the other (10 R210). -/
theorem coef_trigJ (fa : List FV) {k j : Nat} (h0 : 0 < j) (hj : j ≤ k) :
    coef (trigJ k fa).1 j = stepJ j (fvInt 1) fa (quiet (trigJ k fa).2) ∧
      coef (trigJ k fa).2 j = stepJ j (fvInt (-1)) fa (quiet (trigJ k fa).1) := by
  induction k with
  | zero => omega
  | succ k ih =>
    obtain ⟨hs, hc⟩ := length_trigJ k fa
    have hlowS : ∀ i, i < k + 1 → coef (trigJ (k + 1) fa).1 i = coef (trigJ k fa).1 i := fun i hi => by
      rw [trigJ_succ, coef_append_left (by omega)]
    have hlowC : ∀ i, i < k + 1 → coef (trigJ (k + 1) fa).2 i = coef (trigJ k fa).2 i := fun i hi => by
      rw [trigJ_succ, coef_append_left (by omega)]
    rw [stepJ_congr (x := quiet (trigJ (k + 1) fa).2) (x' := quiet (trigJ k fa).2) fun i hi => by
        rw [coef_quiet, coef_quiet, hlowC i (by omega)],
      stepJ_congr (x := quiet (trigJ (k + 1) fa).1) (x' := quiet (trigJ k fa).1) fun i hi => by
        rw [coef_quiet, coef_quiet, hlowS i (by omega)]]
    rcases Nat.lt_or_ge k j with hk | hk
    · obtain rfl : j = k + 1 := by omega
      simp only [trigJ_succ]
      constructor
      · rw [← hs, coef_append_single]
      · rw [← hc, coef_append_single]
    · rw [hlowS j (by omega), hlowC j (by omega)]
      exact ih hk

/-! ## The recurrences of the special functions (10 R209–R211) -/

/-- The jet of −f² inside FERF, before its exponential (10 R211). -/
def negSquare (k : Nat) (fa : List FV) : List FV := (List.range (k + 1)).map fun m => negConv fa fa m

/-- The exponential of −f² inside FERF (10 R211). -/
def erfExp (k : Nat) (fa : List FV) : List FV :=
  buildQ k (special48 .exp (coef (negSquare k fa) 0).1) (expRule (quiet (negSquare k fa)))

theorem fnJet_erf (k : Nat) (fa : List FV) : fnJet .erf k fa = buildQ k (special48 .erf (coef fa 0).1) fun j _ =>
    fvFlag ((coef (erfExp k fa) (j - 1)).2 ||| (coef (negSquare k fa) (j - 1)).2) (stepJ j (kerfc, 0) fa (quiet (erfExp k fa))) := rfl

theorem shape_of_buildQ {l : List FV} {k : Nat} {x0 : FV} {rule : Nat → List FV → FV} (h : l = buildQ k x0 rule) :
    l.length = k + 1 ∧ coef l 0 = x0 := by
  rw [h, length_buildQ, coef_buildQ_zero]
  exact ⟨rfl, rfl⟩

/-- A special function of a jet of order k has k + 1 coefficients, the first one its value. -/
theorem fnJet_shape (g : Fn) (k : Nat) (fa : List FV) :
    (fnJet g k fa).length = k + 1 ∧ coef (fnJet g k fa) 0 = special48 g (coef fa 0).1 := by
  cases g with
  | exp | exp2 => exact shape_of_buildQ rfl
  | log => exact shape_of_buildQ (logJ_eq ..)
  | log2 => exact ⟨by simp [fnJet, logJ_eq, length_buildQ], rfl⟩
  | sin => exact ⟨(length_trigJ k fa).1, (coef_trigJ_zero k fa).1⟩
  | cos => exact ⟨(length_trigJ k fa).2, (coef_trigJ_zero k fa).2⟩
  | tanh | lgst => exact shape_of_buildQ (auxJ_eq ..)
  | erf => exact shape_of_buildQ (fnJet_erf k fa)

section
variable {k j : Nat} {fa : List FV} (h0 : 0 < j) (hj : j ≤ k)
include h0 hj

theorem coef_fnJet_exp : coef (fnJet .exp k fa) j = stepJ j (fvInt 1) fa (quiet (fnJet .exp k fa)) :=
  coef_buildQ (readsBelow_stepJ (fvInt 1) fa) _ h0 hj

theorem coef_fnJet_exp2 : coef (fnJet .exp2 k fa) j = stepJ j (ln2c, 0) fa (quiet (fnJet .exp2 k fa)) :=
  coef_buildQ (readsBelow_stepJ (ln2c, 0) fa) _ h0 hj

theorem coef_logJ (l0 : FV) : coef (logJ k fa l0) j = logRule fa j (quiet (logJ k fa l0)) :=
  coef_buildQ (readsBelow_logRule fa).mono l0 h0 hj

/-- The higher coefficients of FLOG do not hang on its coefficient 0. -/
theorem coef_logJ_congr (l0 l0' : FV) : coef (logJ k fa l0) j = coef (logJ k fa l0') j :=
  coef_eq_of_rule (readsBelow_logRule fa) (fun h => absurd h one_ne_zero) (fun _ h1 h2 => coef_logJ h1 h2 l0)
    (fun _ h1 h2 => coef_logJ h1 h2 l0') h0 hj

/-- FLOG2 scales the higher coefficients of FLOG. -/
theorem coef_fnJet_log2 : coef (fnJet .log2 k fa) j = r48 (fvMul (coef (fnJet .log k fa) j) (invLn2c, 0)) := by
  have hlen : j < (logJ k fa fvZero).length := by rw [logJ_eq, length_buildQ]; omega
  have hlog : coef (fnJet .log k fa) j = coef (logJ k fa fvZero) j := coef_logJ_congr h0 hj _ _
  obtain ⟨i, rfl⟩ : ∃ i, j = i + 1 := ⟨j - 1, by omega⟩
  rw [hlog]
  simp [fnJet, coef, hlen]

/-- A function with an auxiliary jet steps over that jet (10 R211). -/
theorem coef_auxJ {h1 c : FV} {aux : Nat → List FV → FV} (ha : ∀ m l l', (∀ i, i ≤ m → coef l i = coef l' i) → aux m l = aux m l') :
    (coef (auxJ k fa h1 c aux) j).1 = (stepJ j c fa (quiet ((List.range j).map fun m => aux m (quiet (auxJ k fa h1 c aux))))).1 := by
  rw [auxJ_eq, coef_buildQ (readsBelow_auxRule fa c ha) h1 h0 hj, auxRule, fvFlag_fst]

theorem coef_fnJet_tanh :
    let t := quiet (fnJet .tanh k fa)
    (coef (fnJet .tanh k fa) j).1 = (stepJ j (fvInt 1) fa (quiet ((List.range j).map fun m =>
      if m = 0 then r48 (fvAdd (fvInt 1) (fvNeg (fvMul (coef t 0) (coef t 0)))) else negConv t t m))).1 :=
  coef_auxJ h0 hj fun m l l' h => by
    rw [h 0 (Nat.zero_le m), negConv_congr h h]

theorem coef_fnJet_lgst :
    let t := quiet (fnJet .lgst k fa)
    (coef (fnJet .lgst k fa) j).1 = (stepJ j (fvInt 1) fa (quiet ((List.range j).map fun m => r48 (fvAdd (coef t m) (negConv t t m))))).1 :=
  coef_auxJ h0 hj fun m l l' h => by
    rw [h m (Nat.le_refl m), negConv_congr h h]

/-- FERF steps over the exponential of its negated square: over any jet that obeys the recurrence of that exponential (10 R211). -/
theorem coef_fnJet_erf {e : List FV} (he0 : coef e 0 = special48 .exp (coef (negSquare k fa) 0).1)
    (he : ∀ m, 0 < m → m ≤ k → coef e m = expRule (quiet (negSquare k fa)) m (quiet e)) :
    (coef (fnJet .erf k fa) j).1 = (stepJ j (kerfc, 0) fa (quiet e)).1 := by
  have hr := readsBelow_expRule (quiet (negSquare k fa))
  have hsame : ∀ i, i ≤ k → coef (erfExp k fa) i = coef e i := fun i hi =>
    coef_eq_of_rule hr (fun _ => (coef_buildQ_zero ..).trans he0.symm) (fun _ h1 h2 => coef_buildQ hr _ h1 h2) he (Nat.zero_le i) hi
  rw [fnJet_erf, coef_buildQ (fun _ _ _ _ _ => rfl) _ h0 hj, fvFlag_fst]
  exact congrArg Prod.fst (stepJ_congr fun i hi => by rw [coef_quiet, coef_quiet, hsame i (by omega)])

end

/-! ## Delivering a special function of a jet (10 R207) -/

/-- A logarithm of a jet below zero and a sine or cosine of an infinite one have no value (10 R207). -/
def NoValue (g : Fn) (x : FVal) : Prop :=
  ((g = .log ∨ g = .log2) ∧ belowZero x = true) ∨ ((g = .sin ∨ g = .cos) ∧ (x = .inf true ∨ x = .inf false))

theorem getD_allNan (F : Fmt) {k j : Nat} (h : j ≤ k) : (allNan F k).getD j (0, 0) = (F.nan, if j = 0 then NV else 0) := by
  cases j with
  | zero => rfl
  | succ j => simp [allNan, h]

theorem getD_deliverFrom (F : Fmt) (rm : Nat) (sat : Bool) (c0 : Nat × Flags) {xs : List FV} {j : Nat} (h0 : 0 < j) (hj : j < xs.length) :
    (deliverFrom F rm sat c0 xs).getD j (0, 0) = deliverJ F rm sat (coef xs j) := by
  obtain ⟨i, rfl⟩ : ∃ i, j = i + 1 := ⟨j - 1, by omega⟩
  simp [deliverFrom, coef, hj]

theorem jspecial_noValue {F : Fmt} {g : Fn} {rm : Nat} {sat : Bool} {a : List Nat} (h : NoValue g (coef (a.map (fv F)) 0).1) :
    jspecial F g rm sat a = allNan F (a.length - 1) := by
  refine if_pos ?_
  rcases h with ⟨hg, hx⟩ | ⟨hg, hx | hx⟩ <;> simp [hg, hx]

theorem jspecial_value {F : Fmt} {g : Fn} {rm : Nat} {sat : Bool} {a : List Nat} (h : ¬NoValue g (coef (a.map (fv F)) 0).1) :
    jspecial F g rm sat a =
      deliverFrom F rm sat (special F g rm sat (a.getD 0 0)) (fnJet g (a.length - 1) (a.map (fv F))) := by
  refine if_neg fun hc => h ?_
  simp only [Bool.or_eq_true, Bool.and_eq_true, decide_eq_true_eq] at hc
  refine hc.imp_right fun ⟨hg, hx⟩ => ⟨hg, ?_⟩
  generalize (coef (a.map (fv F)) 0).1 = x at hx ⊢
  cases x with
  | inf n => cases n <;> simp
  | nan | fin => cases hx

/-- A special function of a jet that is not empty: a NaN throughout where it has no value, else its value and its delivered internal values. -/
theorem jspecial_coefficients (F : Fmt) (g : Fn) (rm : Nat) (sat : Bool) {a : List Nat} (ha : a ≠ []) :
    let r := jspecial F g rm sat a
    r.length = a.length ∧
    (NoValue g (decode F (a.getD 0 0)) → ∀ j, j < a.length → r.getD j (0, 0) = (F.nan, if j = 0 then NV else 0)) ∧
    (¬NoValue g (decode F (a.getD 0 0)) → r.getD 0 (0, 0) = special F g rm sat (a.getD 0 0) ∧ ∀ j, 0 < j → j < a.length →
      r.getD j (0, 0) = deliverJ F rm sat (coef (fnJet g (a.length - 1) (a.map (fv F))) j)) := by
  have hpos : 0 < a.length := List.length_pos_of_ne_nil ha
  have hx : (coef (a.map (fv F)) 0).1 = decode F (a.getD 0 0) := by
    cases a with
    | nil => exact absurd rfl ha
    | cons => rfl
  rw [← hx]
  by_cases hn : NoValue g (coef (a.map (fv F)) 0).1
  · refine ⟨?_, fun _ j hj => ?_, absurd hn⟩ <;> rw [jspecial_noValue hn]
    · simp only [allNan, List.length_cons, List.length_replicate]
      omega
    · exact getD_allNan F (by omega)
  · refine ⟨?_, fun h => absurd h hn, fun _ => ⟨?_, fun j h0 hj => ?_⟩⟩ <;> rw [jspecial_value hn]
    · simp only [deliverFrom, List.length_cons, List.length_map, List.length_drop, (fnJet_shape ..).1]
      omega
    · rfl
    · exact getD_deliverFrom F rm sat _ h0 (by rw [(fnJet_shape ..).1]; omega)

end Sys2Proof.Num

namespace Sys2Proof.Machine

/-! ## The draws of jets (06 R112, 10 R217) -/

theorem planeOf_jet {i : Instr} {f : FmtA} (hh : i.hdr = f.h) (hp : f.h.plane = 2) : planeOf i = 2 := by
  rw [planeOf, hh, hp]
  rfl

section
variable {i : Instr} {f : FmtA} {el : Fx → Nat → Nat → Nat → Nat → LaneOut} {jet : Fx → List Nat → List Nat → List Nat → LaneOut}
  (hx : exec i = jetForm i f el jet) (hh : i.hdr = f.h)
include hx hh

/-- A FARITH form that draws by coefficient. -/
theorem jetForm_byCoefficient (hg : groupOf i = 5) (ho : Instr.isOpc i [0xA2, 0xA3, 0xA4, 0xA5, 0xA6, 0xA7, 0xA8] = false) :
    JetForm i f (fun k => 40 * (k + 1)) jet :=
  jetForm_jet hx hh fun hp k => by simp [formDraw, hg, ho, planeOf_jet hh hp, linJ]

/-- A FARITH form that draws by product of coefficients. -/
theorem jetForm_byProduct (hg : groupOf i = 5) (ho : Instr.isOpc i [0xA2, 0xA3, 0xA4, 0xA5, 0xA6, 0xA7, 0xA8] = true) :
    JetForm i f (fun k => 40 * ((k + 1) * (k + 2) / 2)) jet :=
  jetForm_jet hx hh fun hp k => by simp [formDraw, hg, ho, planeOf_jet hh hp, prodJ]

/-- A FSPEC form. -/
theorem jetForm_special (hg : groupOf i = 6) : JetForm i f (fun k => 96 * ((k + 1) * (k + 2) / 2)) jet :=
  jetForm_jet hx hh fun hp k => by simp [formDraw, hg, planeOf_jet hh hp, prodJ]

end

end Sys2Proof.Machine

open Sys2Proof Sys2Proof.Machine Sys2Proof.Num

/-- Settles O21: the frame of the jet forms gives each form its function, and the internal values meet the rules that they are built by. -/
theorem jetResults : Obligations.JetResults := by
  refine ⟨fun f => ?_, fun F g rm sat a => jspecial_coefficients F g rm sat, fun k fa => ⟨fun g => (fnJet_shape g k fa).2, fun j h0 hj => ?_⟩⟩
  · refine ⟨?fadd, ?fsub, ?fscale, ?fmin, ?fmax, ?fabs, ?fneg, ?fcpys, ?fmul, ?fma, ?fnma, ?fdiv, ?frcp, ?fsqrt, ?frsqrt,
      ?fexp, ?fexp2, ?flog, ?flog2, ?fsin, ?fcos, ?ftanh, ?flgst, ?ferf⟩
    case fadd | fsub | fscale | fmin | fmax | fabs | fneg | fcpys => exact jetForm_byCoefficient rfl rfl (by simp) rfl
    case fmul | fma | fnma | fdiv | frcp | fsqrt | frsqrt => exact jetForm_byProduct rfl rfl (by simp) rfl
    case fexp | fexp2 | flog | flog2 | fsin | fcos | ftanh | flgst | ferf => exact jetForm_special rfl rfl (by simp)
  · exact ⟨coef_fnJet_exp h0 hj, coef_fnJet_exp2 h0 hj, coef_logJ h0 hj _, coef_fnJet_log2 h0 hj, (coef_trigJ fa h0 hj).1, (coef_trigJ fa h0 hj).2,
      coef_fnJet_tanh h0 hj, coef_fnJet_lgst h0 hj, fun e _ ⟨he0, he⟩ => coef_fnJet_erf h0 hj he0 he⟩

end

section
/-! PROOFS. Every step keeps the canonical form of memory and of the sparse maps (01 R12; 03 R72). -/

namespace Sys2Proof.Machine

/-- Only the sparse maps and memory decide whether a state is canonical; how long moves have been there does not. -/
theorem canonical_since {s : State} (l : List (Move × Nat)) (h : s.Canonical) : State.Canonical { s with since := l } :=
  Upd.canonical (.since fun _ => l) h

theorem makeMove_canonical {mv : Move} {s t : State} (hs : s.Canonical) (h : makeMove mv s = .next t) : t.Canonical := by
  obtain ⟨c, p, rfl⟩ := makeMove_next h
  exact noteMove.canonical (canonical_cur none (p.canonical (canonical_cur c hs)))

/-- The machine's own move is power-on, the end of a start, a move that is there, or none. -/
theorem ownMove_canonical {s t : State} (hs : s.Canonical) (h : ownMove s = .next t) : t.Canonical := by
  unfold ownMove at h
  split at h
  case isTrue off => exact makeMove_canonical hs h
  case isFalse on =>
    split at h
    case isTrue starting => exact makeMove_canonical hs h
    case isFalse =>
      dsimp only at h
      split at h
      case h_1 mv chosen => exact makeMove_canonical (canonical_since _ hs) h
      case h_2 =>
        cases h
        exact canonical_since _ hs

/-- A step is the agenda's first move where that is there, else the machine's own move, once the clock has gone on. -/
theorem step_cases {s t : State} (h : step s = .next t) :
    (∃ mv ms, s.agenda = mv :: ms ∧ makeMove mv { tickClock s with agenda := ms } = .next t) ∨ ownMove (tickClock s) = .next t := by
  unfold step oneStep at h
  dsimp only at h
  split at h
  case h_1 mv ms hq =>
    split at h
    case isTrue there => exact .inl ⟨mv, ms, hq, h⟩
    case isFalse waits => exact .inr h
  case h_2 empty => exact .inr h

end Sys2Proof.Machine

open Sys2Proof Sys2Proof.Machine

/-- Settles O4: a step is one move of the agenda or of the machine, which is a program, and programs keep the canonical form. -/
theorem stepKeepsCanonical : Obligations.StepKeepsCanonical := by
  intro s t hs h
  have hc : (tickClock s).Canonical := tickClock_canonical hs
  rcases step_cases h with ⟨mv, ms, -, hm⟩ | hm
  · exact makeMove_canonical (canonical_agenda ms hc) hm
  · exact ownMove_canonical hc hm

end

section
/-! PROOFS. Reads at the home slices and the requests to the base dies (03 R65, R75, R80; 05 R93; 24 R409). -/

namespace Sys2Proof.Machine

/-! ## Loads at the home slice -/

theorem execSliceRead_of_readJob {s : State} {n k : Nat} {p : Prog} (h : readJob s n k = some p) : exec (.sliceRead n k) s = .next (p.run s) := by
  show execSliceRead n k s = _
  simp only [execSliceRead, h, Prog.done_eq]

theorem lineNow_of_l2Line {s : State} {line : Nat} {x : L2Line} (h : s.l2Line line = some x) : s.lineNow line = x.data := by
  simp only [State.lineNow, h]

theorem asked_eq_false {s : State} {line : Nat} (h : ∀ b ∈ s.breqs, b.line = line → b.write.isSome = true) : asked s line = false := by
  simpa [asked, Option.isSome_iff_ne_none] using h

/-- A load is served with the bytes that the slice holds, its node's own stores on top (05 R93). -/
theorem serveLoad_of_overlay {s : State} {n k line : Nat} {l : PLoad} {bs : List Byte} (hw : l.want = none)
    (ho : wqOverlay (s.node n) line (s.lineNow line) = some bs) :
    serveLoad s n k line l = some (.seq (onLoad n k fun y => { y with got := y.got ++ [(line, bs)], wait := y.wait.drop 1 })
      (Prog.when (loadAllocates l) (l1Fill n line (((l.es.find? fun e => lineOf e.pa == line).map fun e => e.va).getD 0 / 128)))) := by
  simp only [serveLoad, ho, hw, id]

section
variable {s : State} {n k tid line : Nat} {ls : List Nat} {l : PLoad}
  (hl : (s.node n).loads[k]? = some l) (hw : l.wait = line :: ls) (ht : (s.node n).task = some tid)
include hl hw ht

theorem readJob_wait (h : sliceTurn s (.load n l.order) line = .wait) : readJob s n k = none := by
  simp only [readJob, hl, ht, hw, h]

theorem readJob_enter (h : sliceTurn s (.load n l.order) line = .enter) : readJob s n k = some (enterWait (.load n l.order) line) := by
  simp only [readJob, hl, ht, hw, h]

/-- A load whose line is there is served and waits no longer. -/
theorem readJob_serve {x : L2Line} {p : Prog} (h : sliceTurn s (.load n l.order) line = .go) (he : lineTrouble s (loadWho s n tid l) line = none)
    (hx : s.l2Line line = some x) (hp : serveLoad s n k line l = some p) :
    readJob s n k = some (.seq (leaveWait (.load n l.order) line) p) := by
  simp [readJob, hl, ht, hw, h, he, hx, hp]

/-- A load whose line is neither there nor asked for asks for it. -/
theorem readJob_ask (h : sliceTurn s (.load n l.order) line = .go) (he : lineTrouble s (loadWho s n tid l) line = none)
    (hx : s.l2Line line = none) (hb : asked s line = false) :
    readJob s n k = some (askLine n line ⟨tid, l.q, l.tag, (mkFault (s.node n) 0 0 0 0 0).pc, some l.order, none⟩) := by
  simp [readJob, hl, ht, hw, h, he, hx, hb]

end

/-! ## Requests to the base dies -/

/-- A request takes the lowest tag that no request of its port has, once every earlier one of its port has a tag (03 R80). -/
theorem requestTag_lowest {s : State} {k g : Nat} {b : BReq} (hb : s.breqs[k]? = some b) (ht : b.tag = none)
    (he : ∀ a ∈ s.breqs.take k, samePort a b = true → a.tag.isSome = true) (hg : g < 8)
    (hl : ∀ h, h < g → ∃ a ∈ s.breqs, samePort a b = true ∧ a.tag = some h) (hf : ∀ a ∈ s.breqs, samePort a b = true → ¬a.tag = some g) :
    requestTag s k = some g := by
  have hnone : ((s.breqs.take k).any fun a => samePort a b && a.tag.isNone) = false := by
    simpa [Option.isSome_iff_ne_none] using he
  have hfree : (!(s.breqs.any fun a => samePort a b && a.tag == some g)) = true := by simpa using hf
  have hused : ∀ h, h < g → (!(s.breqs.any fun a => samePort a b && a.tag == some h)) = false := fun h hh => by simpa using hl h hh
  simp only [requestTag, hb, ht, hnone, Option.isSome_none, Bool.or_self, Bool.false_eq_true, if_false]
  exact List.find?_range_eq_some.2 ⟨hfree, List.mem_range.2 hg, fun h hh => by simp only [hused h hh, Bool.not_false]⟩

theorem replyJob_first {s : State} {k : Nat} {b : BReq} (hb : s.breqs[k]? = some b) (ht : b.tag.isSome = true)
    (he : ∀ a ∈ s.breqs.take k, ¬(samePort a b = true ∧ a.line = b.line)) : replyJob s k = some b := by
  have hfirst : ((s.breqs.take k).any fun a => samePort a b && a.line == b.line) = false := by simpa using he
  simp [replyJob, hb, ht, hfirst]

end Sys2Proof.Machine

open Sys2Proof Sys2Proof.Machine

/-- Settles O56: a load's turn, its line and its errors decide what SLICE_READ does; a request's port decides its tag, and its kind its reply. -/
theorem sliceEvents : Obligations.SliceEvents := by
  refine ⟨fun s n k tid line ls t l hl hw ht _ => ⟨fun h => ?wait, fun h => ?enter, fun h he => ⟨fun x bs hx hwant ho => ?serve, fun hx hb => ?ask⟩⟩,
    fun s r p h => ?perform, fun s k b hb => ⟨fun g ht he hg hl hf => ?request, fun ht he => ⟨fun hw => ?write, fun hw hc => ?read, fun c hw hc => ?broken⟩⟩⟩
  case wait =>
    show execSliceRead n k s = _
    simp only [execSliceRead, readJob_wait hl hw ht h]
  case enter => exact execSliceRead_of_readJob (readJob_enter hl hw ht h)
  case serve => exact execSliceRead_of_readJob (readJob_serve hl hw ht h he hx (serveLoad_of_overlay hwant (lineNow_of_l2Line hx ▸ ho)))
  case ask => exact execSliceRead_of_readJob (readJob_ask hl hw ht h he hx (asked_eq_false hb))
  case perform =>
    show execSliceWritePerform r s = _
    simp only [execSliceWritePerform, h, Prog.done_eq]
  case request =>
    show execBaseDieRequest k s = _
    simp only [execBaseDieRequest, requestTag_lowest hb ht he hg hl hf, Prog.done_eq]
    rfl
  all_goals
    show execBaseDieReply k s = _
    simp only [execBaseDieReply, replyJob_first hb ht he, hw]
  case write => rfl
  case read => simp only [hc]; rfl
  case broken => simp only [hc]; rfl

end

section
/-! PROOFS. A store at its home slice (03 R72–R75; 05 R91, R92): what it leaves in its line, and that it reaches no other. -/

namespace Sys2Proof.Bits

/-- A byte of an overlaid list: of the new bytes where they lie, else of the old ones. -/
theorem getD_overlay {bs new : List Byte} {pos j : Nat} {d : Byte} (h : pos ≤ bs.length) :
    (overlay bs pos new).getD j d = if pos ≤ j ∧ j < pos + new.length then new.getD (j - pos) d else bs.getD j d := by
  have htake : (bs.take pos).length = pos := List.length_take_of_le h
  rcases Nat.lt_or_ge j pos with hj | hj
  · have hb : j < bs.length := by omega
    simp [overlay, List.getD_eq_getElem?_getD, List.getElem?_append, htake, hj, Nat.not_le.2 hj, hb]
  · rcases Nat.lt_or_ge j (pos + new.length) with hn | hn
    · have hlt : j - pos < new.length := by omega
      simp [overlay, List.getD_eq_getElem?_getD, List.getElem?_append, htake, hj, Nat.not_lt.2 hj, hn, hlt]
    · have hge : ¬j - pos < new.length := by omega
      have hidx : pos + new.length + (j - pos - new.length) = j := by omega
      simp [overlay, List.getD_eq_getElem?_getD, List.getElem?_append, htake, Nat.not_lt.2 hj, Nat.not_lt.2 hn, hge, hidx]

theorem length_overlay {bs new : List Byte} {pos : Nat} (h : pos + new.length ≤ bs.length) : (overlay bs pos new).length = bs.length := by
  simp only [overlay, List.length_append, List.length_take, List.length_drop]
  omega

end Sys2Proof.Bits

namespace Sys2Proof.Machine
open Sys2Proof.Bits

/-! ## Updates below the L2 that concern one line -/

/-- An update that reaches neither a node nor the L2, and of memory nothing beyond one line; and no mirror begins or ends. -/
def Upd.AtLine (line : Nat) : Upd → Prop
  | .mem a _ => lineOf a = line
  | .l2 _ _ | .node _ _ => False
  | .hub f => ∀ h, (f h).mirrored = h.mirrored ∧ (f h).package = h.package
  | _ => True

/-- `u` is `s` in nodes, in mirrors and in every other line, and its L2 holds `l` as the line. -/
structure LineHolds (line : Nat) (l : L2Line) (s u : State) : Prop where
  here : u.l2Line line = some l
  lines : ∀ k, k ≠ line → u.l2Line k = s.l2Line k
  bytes : ∀ a, lineOf a ≠ line → u.memByte a = s.memByte a
  nodes : u.nodes = s.nodes
  mirrored : u.hub.mirrored = s.hub.mirrored
  package : u.hub.package = s.hub.package

section
variable {line : Nat} {l : L2Line} {s u : State}

theorem LineHolds.self (h : s.l2Line line = some l) : LineHolds line l s s := ⟨h, fun _ _ => rfl, fun _ _ => rfl, rfl, rfl, rfl⟩

theorem LineHolds.upd {x : Upd} (hx : x.AtLine line) (h : LineHolds line l s u) : LineHolds line l s (x.apply u) := by
  obtain ⟨h1, h2, h3, h4, h5, h6⟩ := h
  cases x with
  | l2 | node => exact hx.elim
  | mem a b => exact ⟨h1, h2, fun c hc => (Sparse.get_put_ne b (by rintro rfl; exact hc hx)).trans (h3 c hc), h4, h5, h6⟩
  | hub f => exact ⟨h1, h2, h3, h4, (hx _).1.trans h5, (hx _).2.trans h6⟩
  | _ => exact ⟨h1, h2, h3, h4, h5, h6⟩

theorem LineHolds.run {p : Prog} (hp : p.Only (Upd.AtLine line)) (h : LineHolds line l s u) : LineHolds line l s (p.run u) :=
  Prog.run_rel (R := fun a b => LineHolds line l s a → LineHolds line l s b) (fun _ => id) (fun _ _ _ hab hbc => hbc ∘ hab)
    (fun _ hx _ => LineHolds.upd hx) p hp u h

/-- The L2 takes another content for the line. -/
theorem LineHolds.put (l' : L2Line) (h : LineHolds line l s u) : LineHolds line l' s ((Upd.l2 line (some l')).apply u) where
  here := Sparse.get_put_same (by simp) _
  lines k hk := (Sparse.get_put_ne _ hk).trans (h.lines k hk)
  bytes := h.bytes
  nodes := h.nodes
  mirrored := h.mirrored
  package := h.package

theorem LineHolds.awaits (h : LineHolds line l s u) (k : Nat) : awaits u k = awaits s k := by
  simp only [Machine.awaits, h.mirrored, h.package]

/-- What is read: in the line its bytes in the L2, elsewhere what was there. -/
theorem LineHolds.byteNow (h : LineHolds line l s u) (a : Nat) :
    u.byteNow a = if lineOf a = line then l.data.getD (a % 128) 0 else s.byteNow a := by
  split
  case isTrue ha => simp only [State.byteNow, ha, h.here]
  case isFalse ha => simp only [State.byteNow, h.lines _ ha, h.bytes a ha]

end

/-! ## Operations on a line that write its memory at most -/

section
variable {line : Nat}

theorem atLine_memWrite {off : Nat} {bs : List Byte} (h : off + bs.length ≤ 128) : (memWrite (line * 128 + off) bs).Only (Upd.AtLine line) := by
  refine Prog.only_each fun x hx => ?_
  have hlt : x.2 < bs.length := by simpa using List.snd_lt_of_mem_zipIdx hx
  show (line * 128 + off + x.2) / 128 = line
  omega

theorem atLine_baseWrite {off : Nat} {bs : List Byte} (h : off + bs.length ≤ 128) : (baseWrite line off bs).Only (Upd.AtLine line) :=
  ⟨atLine_memWrite h, fun _ => ⟨rfl, rfl⟩, fun _ => trivial, trivial⟩

theorem atLine_memoryUe {cw : Nat} : (memoryUe cw).Only (Upd.AtLine line) := by
  refine fun s => ⟨fun _ => ⟨rfl, rfl⟩, ?_⟩
  split
  · exact fun _ => ⟨rfl, rfl⟩
  · exact ⟨trivial, fun _ => ⟨rfl, rfl⟩⟩

theorem atLine_keepCommitted {owner : Nat} {l : L2Line} (h : l.data.length = 128) : (keepCommitted line owner l).Only (Upd.AtLine line) := by
  refine Prog.only_when ?_
  split
  · exact atLine_baseWrite (by omega)
  · refine fun s => ⟨Prog.only_each fun _ _ => atLine_memoryUe, Prog.only_each fun w hw => atLine_baseWrite ?_⟩
    have h16 : w < 16 := List.mem_range.1 (List.mem_filter.1 hw).1
    have h8 := List.length_take_le 8 (l.data.drop (8 * w))
    omega

theorem atLine_noteDead {owner : Nat} {cws : List Nat} : (noteDead owner cws).Only (Upd.AtLine line) := by
  intro s
  dsimp only
  split <;> exact trivial

theorem atLine_clearPoison {pa len : Nat} : (clearPoison pa len).Only (Upd.AtLine line) :=
  Prog.only_each fun _ _ => Prog.only_when ⟨trivial, fun _ => ⟨rfl, rfl⟩⟩

end

/-! ## What a write makes of its line (03 R73, R74) -/

/-- The line after a task's write of some of its bytes: provisional, and clean in the words that were written whole. -/
def L2Line.wrote (owner off : Nat) (bs : List Byte) (l : L2Line) : L2Line :=
  { l with
    data := overlay l.data off bs
    dirty := true
    owner := some owner
    ue := l.ue.filter fun w => !(((List.range 16).filter fun w => off ≤ 8 * w && 8 * w + 8 ≤ off + bs.length).contains w) }

/-- The line after one element of a task's store. -/
def L2Line.stored (owner : Nat) (l : L2Line) (x : Elem × List Byte) : L2Line :=
  if x.2 = [] then l else l.wrote owner (x.1.pa % 128) x.2

/-- The byte at an address after one element of a store. -/
def storedByte (a : Nat) (v : Byte) (x : Elem × List Byte) : Byte :=
  if x.1.pa ≤ a ∧ a < x.1.pa + x.2.length then x.2.getD (a - x.1.pa) 0 else v

/-- An element of a store lies within a line. -/
def Within (line : Nat) (x : Elem × List Byte) : Prop := lineOf x.1.pa = line ∧ x.1.pa % 128 + x.2.length ≤ 128

section
variable {line owner part : Nat} {l : L2Line} {s u : State}

theorem LineHolds.writeLine {off : Nat} {bs : List Byte} (h : LineHolds line l s u) (hd : l.data.length = 128) :
    LineHolds line (l.wrote owner off bs) s ((writeLine owner part line off bs).run u) := by
  have hfill : (fillLine line part).run u = u := by simp only [fillLine, Prog.run_ask, h.here, Prog.run_skip]
  simp only [Machine.writeLine, Prog.run_seq, Prog.run_ask, hfill, h.here, Prog.run_upd]
  exact (h.run (atLine_keepCommitted hd)).put _

theorem LineHolds.writeLineC {off : Nat} {bs : List Byte} (h : LineHolds line l s u) (hd : l.data.length = 128) :
    LineHolds line (l.wrote owner off bs) s ((writeLineC owner part line off bs).run u) := by
  simp only [Machine.writeLineC, Prog.run_ask, Prog.run_all_cons, Prog.run_all_nil]
  exact ((h.writeLine hd).run atLine_noteDead).run atLine_clearPoison

/-- An element that lies within one line is written by one visit to it. -/
theorem writeBytes_within {x : Elem × List Byte} (hx : Within line x) (hne : x.2 ≠ []) :
    writeBytes owner part 2 x.1.pa x.2 = .seq (Machine.writeLineC owner part line (x.1.pa % 128) x.2) .skip := by
  obtain ⟨hline, hfit⟩ := hx
  have hlen : x.2.length ≤ 128 - x.1.pa % 128 := by omega
  simp only [writeBytes, if_neg hne, hline, List.take_of_length_le hlen, List.drop_eq_nil_of_le hlen, if_true]

theorem LineHolds.writeBytes {x : Elem × List Byte} (h : LineHolds line l s u) (hd : l.data.length = 128) (hx : Within line x) :
    LineHolds line (l.stored owner x) s ((writeBytes owner part 2 x.1.pa x.2).run u) := by
  unfold L2Line.stored
  split
  case isTrue he =>
    simp only [Machine.writeBytes, if_pos he, Prog.run_skip]
    exact h
  case isFalse he =>
    rw [writeBytes_within hx he]
    exact h.writeLineC hd

theorem L2Line.length_stored {x : Elem × List Byte} (hd : l.data.length = 128) (hx : Within line x) : (l.stored owner x).data.length = 128 := by
  unfold L2Line.stored
  split
  · exact hd
  · exact (length_overlay (by rw [hd]; exact hx.2)).trans hd

/-- The elements of a store of one line, each in its turn. -/
theorem LineHolds.stores {es : List (Elem × List Byte)} (h : LineHolds line l s u) (hd : l.data.length = 128) (hes : ∀ x ∈ es, Within line x) :
    LineHolds line (es.foldl (L2Line.stored owner) l) s ((Prog.each es fun x => Machine.writeBytes owner part 2 x.1.pa x.2).run u) := by
  induction es generalizing l u with
  | nil => exact h
  | cons x es ih =>
    obtain ⟨hx, hrest⟩ := List.forall_mem_cons.1 hes
    exact ih (h.writeBytes hd hx) (L2Line.length_stored hd hx) hrest

/-- Words and codewords that became whole change no byte. -/
theorem LineHolds.freshen {xs : List (Nat × Nat)} (h : LineHolds line l s u) :
    LineHolds line { l with ue := l.ue.filter fun w => !written xs w 8 } s ((freshen owner line xs).run u) := by
  simp only [Machine.freshen, Prog.run_all_cons, Prog.run_ask, h.here, Prog.run_upd, Prog.run_all_nil]
  exact (h.put _).run (Prog.only_each fun _ _ => Prog.only_when fun _ => ⟨atLine_noteDead, trivial⟩)

/-! ## Bytes, state and owner of the line after a store -/

theorem L2Line.getD_stored {x : Elem × List Byte} {a : Nat} (hd : l.data.length = 128) (hx : Within line x) (ha : lineOf a = line) :
    (l.stored owner x).data.getD (a % 128) 0 = storedByte a (l.data.getD (a % 128) 0) x := by
  obtain ⟨hline, hfit⟩ := hx
  have hpos : x.1.pa % 128 ≤ l.data.length := by omega
  have hiff : (x.1.pa % 128 ≤ a % 128 ∧ a % 128 < x.1.pa % 128 + x.2.length) ↔ x.1.pa ≤ a ∧ a < x.1.pa + x.2.length := by
    unfold lineOf at hline ha
    omega
  unfold L2Line.stored storedByte
  split
  case isTrue he =>
    have hno : ¬(x.1.pa ≤ a ∧ a < x.1.pa + x.2.length) := by
      rw [he]
      simp only [List.length_nil]
      omega
    rw [if_neg hno]
  case isFalse he =>
    refine (getD_overlay hpos).trans ?_
    by_cases hin : x.1.pa ≤ a ∧ a < x.1.pa + x.2.length
    · have hoff : a % 128 - x.1.pa % 128 = a - x.1.pa := by
        unfold lineOf at hline ha
        omega
      rw [if_pos (hiff.2 hin), if_pos hin, hoff]
    · rw [if_neg (mt hiff.1 hin), if_neg hin]

theorem L2Line.getD_stores {es : List (Elem × List Byte)} {a : Nat} (hd : l.data.length = 128) (hes : ∀ x ∈ es, Within line x) (ha : lineOf a = line) :
    (es.foldl (L2Line.stored owner) l).data.getD (a % 128) 0 = es.foldl (storedByte a) (l.data.getD (a % 128) 0) := by
  induction es generalizing l with
  | nil => rfl
  | cons x es ih =>
    obtain ⟨hx, hrest⟩ := List.forall_mem_cons.1 hes
    rw [List.foldl_cons, List.foldl_cons, ← getD_stored hd hx ha]
    exact ih (length_stored hd hx) hrest

/-- A store of one line stores no byte of another. -/
theorem stores_elsewhere {es : List (Elem × List Byte)} {a : Nat} {v : Byte} (hes : ∀ x ∈ es, Within line x) (ha : lineOf a ≠ line) :
    es.foldl (storedByte a) v = v := by
  induction es with
  | nil => rfl
  | cons x es ih =>
    obtain ⟨⟨hline, hfit⟩, hrest⟩ := List.forall_mem_cons.1 hes
    have hout : ¬(x.1.pa ≤ a ∧ a < x.1.pa + x.2.length) := by
      unfold lineOf at hline ha
      omega
    rw [List.foldl_cons, storedByte, if_neg hout]
    exact ih hrest

theorem L2Line.stored_provisional (x : Elem × List Byte) (h : l.dirty = true ∧ l.owner = some owner) :
    (l.stored owner x).dirty = true ∧ (l.stored owner x).owner = some owner := by
  unfold L2Line.stored
  split
  · exact h
  · exact ⟨rfl, rfl⟩

/-- A store that writes at least one byte makes its line dirty and its task's own (03 R73). -/
theorem L2Line.stores_provisional {x : Elem × List Byte} {es : List (Elem × List Byte)} (hx : x.2 ≠ []) :
    ((x :: es).foldl (L2Line.stored owner) l).dirty = true ∧ ((x :: es).foldl (L2Line.stored owner) l).owner = some owner := by
  refine List.foldlRecOn es _ (motive := fun k : L2Line => k.dirty = true ∧ k.owner = some owner) ?_ fun k hk y _ => k.stored_provisional y hk
  rw [L2Line.stored, if_neg hx]
  exact ⟨rfl, rfl⟩

end

/-! ## A store that has been performed, and one that awaits (05 R91, R92) -/

theorem run_onRef_node {n : Nat} {f : Node → Node} {s : State} (h : n < 2048) :
    (onRef n f).run s = { s with nodes := Sparse.upd Node.reset s.nodes n f } := by
  simp only [onRef, if_pos h, Prog.run_upd, Upd.apply]

/-- A change of a node, or of a saved one, is of no other component. -/
theorem run_onRef_frame (r : Nat) (f : Node → Node) (s : State) :
    ((onRef r f).run s).hub = s.hub ∧ ((onRef r f).run s).mirror = s.mirror ∧ ((onRef r f).run s).results = s.results := by
  unfold onRef
  split <;> exact ⟨rfl, rfl, rfl⟩

theorem run_clear_frame (c : Bool) (r : Nat) (s : State) :
    ((Prog.when c (onRef r Node.l1Clear)).run s).hub = s.hub ∧ ((Prog.when c (onRef r Node.l1Clear)).run s).mirror = s.mirror ∧
      ((Prog.when c (onRef r Node.l1Clear)).run s).results = s.results := by
  cases c
  · exact ⟨rfl, rfl, rfl⟩
  · exact run_onRef_frame r _ s

theorem Prog.when_when (c d : Bool) (p : Prog) : Prog.when c (Prog.when d p) = Prog.when (c && d) p := by
  cases c <;> rfl

/-- Where nothing is awaited, the result goes on its way. -/
theorem run_performed_now {r tid m line : Nat} {by_ : Issued} {acq : Bool} {scope : BitVec 3} {res : Option DefRes} {s : State}
    (h : awaits s line = false) : (performed r tid m line by_ acq scope res).run s =
      (Upd.results fun l => l ++ res.toList).apply ((Prog.when acq (onRef r Node.l1Clear)).run s) := by
  simp only [performed, Prog.run_ask, h, Bool.false_eq_true, if_false, Prog.run_seq, Prog.run_upd]

theorem run_performed_awaits {r tid m line : Nat} {by_ : Issued} {acq : Bool} {scope : BitVec 3} {res : Option DefRes} {s : State}
    (h : awaits s line = true) : (performed r tid m line by_ acq scope res).run s =
      (duplicate line (storeWait tid m by_ res (acq && scope = 5))).run ((Prog.when (scope != 5 && acq) (onRef r Node.l1Clear)).run s) := by
  simp only [performed, Prog.run_ask, h, if_true, Prog.run_seq, Prog.when_when]

/-- An update under which every awaited write is awaited still, and no result goes on its way. -/
def Upd.KeepsWaits : Upd → Prop
  | .mirror f => ∀ l, ∀ x ∈ l, x ∈ f l
  | .results _ => False
  | _ => True

theorem waits_kept {p : Prog} (hp : p.Only Upd.KeepsWaits) (s : State) : (p.run s).results = s.results ∧ ∀ x ∈ s.mirror, x ∈ (p.run s).mirror := by
  refine Prog.run_rel (R := fun a b => b.results = a.results ∧ ∀ x ∈ a.mirror, x ∈ b.mirror) (fun _ => ⟨rfl, fun _ => id⟩)
    (fun _ _ _ hab hbc => ⟨hbc.1.trans hab.1, fun x hx => hbc.2 x (hab.2 x hx)⟩) (fun y hy u => ?_) p hp s
  cases y with
  | results => exact hy.elim
  | mirror f => exact ⟨rfl, hy u.mirror⟩
  | _ => exact ⟨rfl, fun _ => id⟩

theorem keepsWaits_append {y : MirWait} : (Prog.upd (.mirror fun l => l ++ [y])).Only Upd.KeepsWaits := fun _ _ hx => List.mem_append_left _ hx

theorem keepsWaits_sendCopy {line partner : Nat} : (sendCopy line partner).Only Upd.KeepsWaits := by
  refine fun _ => ⟨⟨Prog.only_each fun _ _ => trivial, Prog.only_each fun _ _ => Prog.only_when ⟨trivial, trivial⟩⟩,
    fun s => ⟨Prog.only_each fun _ _ => ?_, Prog.only_each fun _ _ => trivial⟩⟩
  split <;> exact trivial

theorem keepsWaits_duplicate {line : Nat} {w : MirWait} : (duplicate line w).Only Upd.KeepsWaits := by
  refine fun s => ⟨?_, Prog.only_when keepsWaits_append⟩
  split
  · exact ⟨keepsWaits_append, trivial, keepsWaits_sendCopy, trivial⟩
  · exact trivial

/-- A write that is awaited is noted as waiting, for the mirror partner or for the line's own package, with all that `w` says of it. -/
theorem duplicate_waits {line : Nat} {w : MirWait} {s : State} (h : awaits s line = true) :
    ∃ x ∈ ((duplicate line w).run s).mirror, x.line = line ∧ x.task = w.task ∧ x.m = w.m ∧ x.res = w.res ∧ x.acq = w.acq := by
  have hlast : ∀ (l : List MirWait) (y : MirWait), y ∈ l ++ [y] := fun l y => List.mem_append_right l (List.mem_singleton_self y)
  simp only [duplicate, Prog.run_ask, Prog.run_seq]
  cases hf : s.hub.mirrored.find? fun x => x.1 == line with
  | some x =>
    exact ⟨_, (waits_kept (Prog.only_when keepsWaits_append) _).2 _
      ((waits_kept (p := .seq (.upd (.hub _)) (.seq (sendCopy _ _) .skip)) ⟨trivial, keepsWaits_sendCopy, trivial⟩ _).2 _ (hlast _ _)), rfl, rfl, rfl, rfl, rfl⟩
  | none =>
    have hfar : (!decide (paPackage (line * 128) = s.hub.package)) = true := by
      simp only [awaits, Bool.or_eq_true, List.any_eq_true] at h
      rcases h with ⟨x, hx, he⟩ | h
      · exact absurd he (List.find?_eq_none.1 hf x hx)
      · exact h
    rw [hfar]
    exact ⟨_, hlast _ _, rfl, rfl, rfl, rfl, rfl⟩

/-! ## The visit of a store to its slice -/

/-- A store is all that stands in a node's commit stream, the L2 holds its line, its turn there has come, and nothing holds it or is amiss
(03 R72–R77; 05 R92; 26 R419). -/
structure StoreReady (s : State) (n tid : Nat) (t : Task) (op : StoreOp) (ord : BitVec 2) (scope : BitVec 3) (by_ : Issued) (line : Nat)
    (l : L2Line) : Prop where
  node : n < 2048
  task : (s.node n).task = some tid
  record : s.task tid = some t
  stream : (s.node n).wq = [.store op ord scope by_]
  next : op.nextLine = some line
  there : s.l2Line line = some l
  turn : sliceTurn s (.store n) line = .go
  may : mayPerform s tid t (nodeM t n) op ord scope by_ = true
  sound : performTrouble s ⟨some tid, n, ⟨0x73, by_.q, by_.pc, by_.tag, 0, 0⟩⟩ op = none

/-- A store that is ready leaves the queue of its slice and is applied without a draw, and the commit stream goes on. -/
theorem StoreReady.performJob {s : State} {n tid line : Nat} {t : Task} {op : StoreOp} {ord : BitVec 2} {scope : BitVec 3} {by_ : Issued}
    {l : L2Line} (h : StoreReady s n tid t op ord scope by_ line l) :
    performJob s n = some (.all [leaveWait (.store n) line, applyStore n tid t (nodeM t n) op ord scope by_, releaseRef n]) := by
  have hfills : storeFills s op = false := by cases op <;> simp [storeFills, h.next, h.there]
  simp only [Machine.performJob, refNode, refTask, if_pos h.node, h.task, h.record, h.stream, h.next, Option.map_some, Option.getD_some, h.turn,
    h.may, h.sound, hfills, reduceCtorEq, decide_false, decide_true, Bool.not_true, Bool.false_and, Bool.false_eq_true, if_false]

/-- A commit stream with nothing in it lets nothing go. -/
theorem releaseRef_empty {s : State} {n : Nat} (hn : n < 2048) (h : (s.node n).wq = []) : (releaseRef n).run s = s := by
  simp only [releaseRef, if_pos hn, releaseStream, Prog.run_ask, h, List.length_nil, releaseHead, Prog.run_skip]

/-- The elements of a store of one line reach it, and the words that they make whole are clean. -/
def putLine (n : Nat) (t : Task) (line : Nat) (es : List (Elem × List Byte)) : Prog :=
  .all [leaveWait (.store n) line, Prog.each es fun x => writeBytes t.owner t.part 2 x.1.pa x.2, freshen t.owner line (linePieces es)]

/-- A store that nothing awaits leaves the commit stream, and its acquire ends. -/
def endVisit (n : Nat) (acq : Bool) : Prog :=
  .all [onRef n fun nd => { nd with wq := nd.wq.drop 1 }, Prog.when acq (onRef n Node.l1Clear), .upd (.results fun l => l ++ [])]

theorem putLine_holds {s : State} {n line : Nat} {t : Task} {l : L2Line} {es : List (Elem × List Byte)} (hl : s.l2Line line = some l)
    (hd : l.data.length = 128) (hes : ∀ x ∈ es, Within line x) :
    LineHolds line { es.foldl (L2Line.stored t.owner) l with ue := (es.foldl (L2Line.stored t.owner) l).ue.filter fun w => !written (linePieces es) w 8 }
      s ((putLine n t line es).run s) :=
  (((LineHolds.self hl).run (p := leaveWait (.store n) line) trivial).stores hd hes).freshen

/-- A store of one line that nothing awaits puts its bytes and is done. -/
theorem run_applyStore {s : State} {n tid m line : Nat} {t : Task} {e : Elem} {b : List Byte} {es : List (Elem × List Byte)} {loc ord : BitVec 2}
    {scope : BitVec 3} {by_ : Issued} (hline : ∀ x ∈ (e, b) :: es, lineOf x.1.pa = line)
    (ha : awaits ((putLine n t line ((e, b) :: es)).run s) line = false) :
    (applyStore n tid t m (.bytes ((e, b) :: es) loc) ord scope by_).run ((leaveWait (.store n) line).run s) =
      (endVisit n (ord = 1 || ord = 3)).run ((putLine n t line ((e, b) :: es)).run s) := by
  have he : lineOf e.pa = line := hline (e, b) (List.mem_cons_self ..)
  have hall : ∀ x ∈ (e, b) :: es, (lineOf x.1.pa == line) = true := fun x hx => beq_iff_eq.2 (hline x hx)
  have hsplit : splitLine line ((e, b) :: es) = ((e, b) :: es, []) := by
    simp only [splitLine, List.takeWhile_eq_self_iff.2 hall, List.dropWhile_eq_nil_iff.2 hall]
  have hrest : ∀ u, awaits ((onRef n fun nd => { nd with wq := nd.wq.drop 1 }).run u) line = awaits u line := fun u => by
    simp only [awaits, (run_onRef_frame n _ u).1]
  simp only [applyStore, he, hsplit, if_true, Prog.run_all_cons, Prog.run_all_nil]
  exact run_performed_now ((hrest _).trans ha)

theorem endVisit_undisturbed (n : Nat) (acq : Bool) (s : State) : Undisturbed false s ((endVisit n acq).run s) := by
  refine Prog.run_rel (Undisturbed.refl false) (fun _ _ _ => Undisturbed.trans) (fun _ hx u => Upd.Calm.undisturbed hx u) _ ?_ s
  exact ⟨calm_onRef, Prog.only_when (calm_onRef Node.regs_l1Clear), trivial, trivial⟩

theorem node_onRef {s : State} {n : Nat} {f : Node → Node} (hs : s.Canonical) (hn : n < 2048) : ((onRef n f).run s).node n = f (s.node n) := by
  rw [run_onRef_node hn]
  exact (Sparse.get_put n _ n hs.nodes).trans (if_pos rfl)

theorem endVisit_wq {s : State} {n : Nat} (acq : Bool) (hs : s.Canonical) (hn : n < 2048) :
    (((endVisit n acq).run s).node n).wq = (s.node n).wq.drop 1 := by
  have hdrop : (((onRef n fun nd => { nd with wq := nd.wq.drop 1 }).run s).node n).wq = (s.node n).wq.drop 1 := by rw [node_onRef hs hn]
  cases acq with
  | false => exact hdrop
  | true => exact (congrArg Node.wq (node_onRef (Prog.canonical _ hs) hn)).trans hdrop

/-- The visit of a store of one line that nothing awaits, from its start to its end. -/
theorem StoreReady.exec_line {s : State} {n tid line : Nat} {t : Task} {e : Elem} {b : List Byte} {es : List (Elem × List Byte)}
    {loc ord : BitVec 2} {scope : BitVec 3} {by_ : Issued} {l : L2Line}
    (h : StoreReady s n tid t (.bytes ((e, b) :: es) loc) ord scope by_ line l) (hs : s.Canonical) (hd : l.data.length = 128)
    (hes : ∀ x ∈ (e, b) :: es, Within line x) (ha : awaits s line = false) :
    exec (.sliceWritePerform n) s = .next ((endVisit n (ord = 1 || ord = 3)).run ((putLine n t line ((e, b) :: es)).run s)) := by
  have hline : ∀ x ∈ (e, b) :: es, lineOf x.1.pa = line := fun x hx => (hes x hx).1
  have hold := putLine_holds (n := n) (t := t) h.there hd hes
  have hempty : (((endVisit n (ord = 1 || ord = 3)).run ((putLine n t line ((e, b) :: es)).run s)).node n).wq = [] := by
    rw [endVisit_wq _ (Prog.canonical _ hs) h.node, State.node, hold.nodes]
    exact congrArg (List.drop 1) h.stream
  show execSliceWritePerform n s = _
  simp only [execSliceWritePerform, h.performJob, Prog.done_eq, Prog.run_all_cons, Prog.run_all_nil,
    run_applyStore hline ((hold.awaits line).trans ha), releaseRef_empty h.node hempty]

end Sys2Proof.Machine

open Sys2Proof Sys2Proof.Machine

/-- Settles O49: the visit puts the store's bytes into its line and ends; a write that others acknowledge is noted as waiting instead. -/
theorem storesArePerformed : Obligations.StoresArePerformed := by
  refine ⟨fun s n tid t e b es loc ord scope by_ l hs hn => ?_, fun s r tid m line by_ acq scope res => ⟨fun ha => ?_, fun ha => ?_⟩⟩
  · intro line op hb ht hk hq hes hl hd hturn hmay he ha
    have hready : StoreReady s n tid t op ord scope by_ line l := ⟨hn, ht, hk, hq, rfl, hl, hturn, hmay, he⟩
    have hold := putLine_holds (n := n) (t := t) hl hd hes
    have hend := endVisit_undisturbed n (ord = 1 || ord = 3) ((putLine n t line ((e, b) :: es)).run s)
    have hcan : ((putLine n t line ((e, b) :: es)).run s).Canonical := Prog.canonical _ hs
    obtain ⟨-, -, hmem, hl2, -, -⟩ := hend.memory rfl
    obtain ⟨hdirty, howner⟩ := L2Line.stores_provisional (owner := t.owner) (l := l) (es := es) (x := (e, b)) hb
    refine ⟨_, hready.exec_line hs hd hes ha, fun a => ?bytes, ?line, ?stream, fun k => ?regs⟩
    case bytes =>
      rw [State.byteNow_congr hmem hl2, hold.byteNow]
      split
      case isTrue hin =>
        have hold0 : s.byteNow a = l.data.getD (a % 128) 0 := by simp only [State.byteNow, hin, hl]
        rw [hold0]
        exact L2Line.getD_stores hd hes hin
      case isFalse hout => exact (stores_elsewhere hes hout).symm
    case line =>
      rw [State.l2Line, hl2]
      exact (congrArg (Option.map _) hold.here).trans (congrArg some (Prod.ext hdirty howner))
    case stream =>
      rw [endVisit_wq _ hcan hn, State.node, hold.nodes]
      exact congrArg (List.drop 1) hq
    case regs =>
      refine Node.sameRegs_of_regs ((hend.regs hcan k).trans ?_)
      rw [State.node, hold.nodes]
      rfl
  · obtain ⟨-, hmirror, hresults⟩ := run_clear_frame acq r s
    rw [run_performed_now ha]
    exact ⟨hmirror, congrArg (· ++ res.toList) hresults⟩
  · obtain ⟨hhub, -, hresults⟩ := run_clear_frame (scope != 5 && acq) r s
    have hstill : awaits ((Prog.when (scope != 5 && acq) (onRef r Node.l1Clear)).run s) line = true := by
      simp only [awaits, hhub]
      exact ha
    rw [run_performed_awaits ha]
    exact ⟨(waits_kept keepsWaits_duplicate _).1.trans hresults, duplicate_waits hstill⟩

end

section
/-! PROOFS. Making, copying, splitting, narrowing, dropping, telling and sending reins (04 R86; 13 R264–R267). -/

namespace Sys2Proof.Machine
open Sys2Proof.Bits

/-! ## Operands of the rein forms (13 R264) -/

/-- The lowest bits of a word, such as the arena that a REINMK names or the TASKID that a REINSEND names. -/
theorem field_lowest {n : Nat} (x : BitVec n) (k : Nat) : field x 0 k = x.toNat % 2 ^ k := by
  rw [field_eq, Nat.pow_zero, Nat.div_one]

theorem numOk_of_lt {t : Option Tok} (h : (optScalar t).toNat < 2 ^ 40) : numOk t = true := by
  rw [numOk, field_eq, decide_eq_true_eq]
  omega

theorem num40_of_lt {t : Option Tok} (h : (optScalar t).toNat < 2 ^ 40) : num40 t = (optScalar t).toNat := by
  rw [num40, field_lowest, Nat.mod_eq_of_lt h]

/-! ## Open rein forms -/

section
variable {i : Instr} {f : FmtM} {plan : Fx → Plan} {s : State} {c : Fx} {g : BitVec 16} {tg : Tag} {cl : Option Claim} {d : TokData} {p : Prog}

/-- An open holder whose plan emits a result draws, takes its operands and emits. -/
theorem memForm_emits (ho : MemOpen i f c false g) (hg : Goes i s c 64 tg cl) (hp : plan c = c.emitPlan 64 d false p) :
    memForm i f false (fun c _ => plan c) s = .next (c.emitted 64 tg cl d false p) := by
  rw [memForm_open hg.fires ho, hp, Fx.run_emitPlan hg.tags hg.covers]

/-- An open holder whose plan acts draws, takes its operands and acts. -/
theorem memForm_acts (ho : MemOpen i f c false g) (hf : Fires i s c) (hc : Covers c 64) (hp : plan c = .act 64 p) :
    memForm i f false (fun c _ => plan c) s = .next (c.acted 64 p) := by
  rw [memForm_open hf ho, hp, Fx.run_act hc, Fx.acted]

end

/-! ## What each form plans where it may make what it asks (04 R86; 13 R265–R267) -/

section
variable {f : FmtM} {c : Fx} {tg : Tag} {cl : Option Claim}

section
variable {a : Arena} (hx : (optScalar c.l).toNat < 2 ^ 40) (hy : (optScalar c.r).toNat < 2 ^ 40)
  (hid : (optScalar c.r).toNat % 1024 < 1023) (ha : c.s.arena c.t.asid ((optScalar c.r).toNat % 1024) = some a)
include hx hy hid ha

/-- REINMK of no byte, or of more granules than stand free in a row, gives the null rein. -/
theorem reinmkPlan_noRun (hn : (optScalar c.l).toNat = 0 ∨ a.size / 4096 < ((optScalar c.l).toNat + 4095) / 4096 ∨
      freeRun a (((optScalar c.l).toNat + 4095) / 4096) = none) :
    reinmkPlan f c = emitLen c 0 (.seq (reinDone c f) (putRein c f f.hreg.toNat 0 false)) := by
  have hrun : (if (optScalar c.l).toNat = 0 || a.size / 4096 < ceilDiv (optScalar c.l).toNat 4096 then none
      else freeRun a (ceilDiv (optScalar c.l).toNat 4096)) = none := by
    rcases hn with h | h | h
    · simp [h]
    · simp [ceilDiv, h]
    · simp [ceilDiv, h]
  simp only [reinmkPlan, numOk_of_lt hx, numOk_of_lt hy, num40_of_lt hx, field_lowest, Nat.reducePow, hid.ne, ha, hrun, Bool.not_true, Bool.or_self,
    decide_false, Bool.false_eq_true, if_false]

/-- REINMK takes the lowest free run of the arena, of which it makes a rein with every right. -/
theorem reinmkPlan_run {first : Nat} (h0 : (optScalar c.l).toNat ≠ 0) (hs : ((optScalar c.l).toNat + 4095) / 4096 ≤ a.size / 4096)
    (hr : freeRun a (((optScalar c.l).toNat + 4095) / 4096) = some first) :
    let id := (optScalar c.r).toNat % 1024
    let n := ((optScalar c.l).toNat + 4095) / 4096
    let z := mkRein id a.gen.toNat 15 (first * 4096) (optScalar c.l).toNat
    reinmkPlan f c = emitLen c z (.all [reinDone c f, putRein c f f.hreg.toNat z false, noteCover c (.mk id first n),
      onUnit c.n c.ut fun u => { u with claims := .run id first n :: u.claims },
      onArena c.t.asid id fun a => { a with taken := a.taken ++ (List.range n).map (first + ·) }]) := by
  have hrun : (if (optScalar c.l).toNat = 0 || a.size / 4096 < ceilDiv (optScalar c.l).toNat 4096 then none
      else freeRun a (ceilDiv (optScalar c.l).toNat 4096)) = some first := by
    simp [ceilDiv, h0, hr, hs.not_gt]
  simp only [reinmkPlan, numOk_of_lt hx, numOk_of_lt hy, num40_of_lt hx, field_lowest, Nat.reducePow, hid.ne, ha, hrun, Bool.not_true, Bool.or_self,
    decide_false, Bool.false_eq_true, if_false]
  rfl

end

/-- REINDUP copies a rein that has SPL. -/
theorem reindupPlan_copies (h : (srcRein c f).getLsbD 98 = true) :
    reindupPlan f c = emitLen c (srcRein c f) (.all [reinDone c f, putRein c f (field f.low 26 5) (srcRein c f) false,
      noteCover c (.inc (reinSpan (srcRein c f)).1 (reinSpan (srcRein c f)).2.1 (reinSpan (srcRein c f)).2.2)]) := by
  simp only [reindupPlan, bit, h, Bool.not_true, Bool.false_eq_true, if_false]

/-- REINSPL cuts a rein that has SPL inside its length. -/
theorem reinsplPlan_splits (h : (srcRein c f).getLsbD 98 = true) (hx : (optScalar c.l).toNat < 2 ^ 40)
    (hle : (optScalar c.l).toNat ≤ rLen (srcRein c f)) :
    let r := srcRein c f
    let x := (optScalar c.l).toNat
    let lo := mkRein (rArena r) (rGen r) (rRights r) (rBase r) x
    reinsplPlan f c = emitLen c lo (.all [reinDone c f, putRein c f f.hreg.toNat lo true,
      putRein c f (field f.low 26 5) (mkRein (rArena r) (rGen r) (rRights r) (rBase r + x) (rLen r - x)) false,
      Prog.when (0 < x && x < rLen r && !((rBase r + x) % 4096 = 0)) (noteCover c (.inc (rArena r) ((rBase r + x) / 4096) 1))]) := by
  simp only [reinsplPlan, bit, h, numOk_of_lt hx, num40_of_lt hx, hle.not_gt, Bool.not_true, Bool.or_self, decide_false, Bool.false_eq_true, if_false]

/-- REINNAR narrows a rein to a span inside it, with no right that it lacks. -/
theorem reinnarPlan_narrows (hx : (optScalar c.l).toNat < 2 ^ 40) (hy : (optScalar c.r).toNat < 2 ^ 40)
    (hxy : (optScalar c.l).toNat ≤ (optScalar c.r).toNat) (hle : (optScalar c.r).toNat ≤ rLen (srcRein c f))
    (hm : field f.low 22 4 &&& (15 - rRights (srcRein c f)) = 0) :
    let r := srcRein c f
    let x := (optScalar c.l).toNat
    let y := (optScalar c.r).toNat
    let z := mkRein (rArena r) (rGen r) (rRights r &&& field f.low 22 4) (rBase r + x) (y - x)
    let now := granules (rBase r + x) (y - x)
    reinnarPlan f c = emitLen c z (.all [reinDone c f, putRein c f f.hreg.toNat z true,
      Prog.when (!((reinSpan r).1 = 0)) (Prog.each (leaving (reinSpan r).1 (reinSpan r).2.1 (reinSpan r).2.2 now.1 now.2) fun cv => noteCover c cv)]) := by
  simp only [reinnarPlan, numOk_of_lt hx, numOk_of_lt hy, num40_of_lt hx, num40_of_lt hy, hxy.not_gt, hle.not_gt, hm, Bool.not_true, Bool.or_self,
    decide_false, decide_true, Bool.false_eq_true, if_false]

/-- REINQ passes BASE on, and LEN with the rights. -/
theorem reinqPlan_tags (hT : Tags c tg cl) :
    let r := srcRein c f
    reinqPlan f c = .act 64 (.all [takeClaim c.tid c.n c.ut cl, reinDone c f, Prog.when (f.hv = 0) (putRein c f f.hreg.toNat r false),
      emitTo c.n c.ut c.q c.tag c.h.t0 (mkTok tg (.scalar (BitVec.ofNat 64 (rBase r))) false),
      emitTo c.n c.ut c.q c.tag c.h.t1 (mkTok tg (.scalar (lenRights r)) false)]) := by
  have hok : tagRes c.t c.tag c.h.tagop.toNat = .ok tg cl := hT
  simp only [reinqPlan, hok]

/-- REINSEND with a target sends the rein there as a marked token. -/
theorem reinsendPlan_toPort (h0 : ¬c.h.t0 = 0) (hT : Tags c tg cl) :
    reinsendPlan f c = .act 64 (.all [takeClaim c.tid c.n c.ut cl, reinDone c f, Prog.when (f.hv = 1) (putRein c f f.hreg.toNat 0 true),
      emitTo c.n c.ut c.q c.tag c.h.t0 { mkTok tg (vecData (reinVec (srcRein c f)) 0xFFFF) false with rein := true }]) := by
  have hok : tagRes c.t c.tag c.h.tagop.toNat = .ok tg cl := hT
  simp only [reinsendPlan, h0, if_false, hok]

/-- REINSEND without a target notes, for a rein with SEND, the task and the port that its right operand names. -/
theorem reinsendPlan_toTask (h0 : c.h.t0 = 0) (h : (srcRein c f).getLsbD 99 = true) (hd : (optScalar c.r).toNat < 2 ^ 35) :
    reinsendPlan f c = .act 64 (.all [reinDone c f, Prog.when (f.hv = 1) (putRein c f f.hreg.toNat 0 true),
      addAct c.n c.ut c.q c.tag (.reinTo ((optScalar c.r).toNat % 2 ^ 32) ((optScalar c.r).toNat / 2 ^ 32) (srcRein c f))]) := by
  have hin : field (optScalar c.r) 35 29 = 0 := by rw [field_eq]; omega
  have hport : field (optScalar c.r) 32 3 = (optScalar c.r).toNat / 2 ^ 32 := by rw [field_eq]; omega
  simp only [reinsendPlan, h0, bit, h, hin, hport, field_lowest, if_true, Bool.not_true, Bool.or_self, decide_true, Bool.false_eq_true, if_false]

end

end Sys2Proof.Machine

open Sys2Proof Sys2Proof.Machine

/-- Settles O42: each form is open and goes through, so it runs its plan; the premises give the branch that the plan takes. -/
theorem reinsAreMade : Obligations.ReinsAreMade := by
  intro f s c g tg cl r x y hb done len goes emit
  refine ⟨⟨fun a hy hid ha hx ⟨ho, hg⟩ => ⟨fun hn => ?mkNull, fun first h0 hs hr => ?mkRun⟩, fun h ⟨ho, hg⟩ => ?dup,
      fun h hx hle ⟨ho, hg⟩ => ?spl, fun hx hy hxy hle hm ⟨ho, hg⟩ => ?nar, fun ⟨ho, hg⟩ => ?drop⟩,
    fun ⟨ho, hg⟩ => ?query, fun h0 ⟨ho, hg⟩ => ?toPort, fun h0 h hd ho hf hc => ?toTask⟩
  case mkNull => exact memForm_emits ho hg (reinmkPlan_noRun hx hy hid ha hn)
  case mkRun => exact memForm_emits ho hg (reinmkPlan_run hx hy hid ha h0 hs hr)
  case dup => exact memForm_emits ho hg (reindupPlan_copies h)
  case spl => exact memForm_emits ho hg (reinsplPlan_splits h hx hle)
  case nar => exact memForm_emits ho hg (reinnarPlan_narrows hx hy hxy hle hm)
  case drop => exact memForm_emits ho hg rfl
  case query => exact memForm_acts ho hg.fires hg.covers (reinqPlan_tags hg.tags)
  case toPort =>
    have ht : ¬c.h.t0 = 0 := hg.fires.hdr ▸ h0
    exact memForm_acts ho hg.fires hg.covers (reinsendPlan_toPort ht hg.tags)
  case toTask =>
    have ht : c.h.t0 = 0 := hf.hdr ▸ h0
    exact memForm_acts ho hf hc (reinsendPlan_toTask ht h hd)

end

section
/-! PROOFS. A draw that the crib does not cover (06 R113; 22 R371): the firing comes to the shortfall alone, and the abort of its task is on the way. -/

namespace Sys2Proof.Machine

/-- A plan whose draw is not covered comes to the shortfall: one that waits draws nothing, which every charge covers. -/
theorem Fx.run_short {c : Fx} {pl : Plan} {d : Nat} (hd : pl.draw = d) (hc : ¬Covers c d) :
    c.run pl = .next ((shortfall c.n d c.q c.m.blk.pc c.tag).run c.s) := by
  subst hd
  cases pl with
  | wait | hold p => exact absurd (Nat.zero_le _) hc
  | fault d code addr info => simp only [Fx.run, Prog.done_eq, run_drawOr, Plan.draw, if_neg (show ¬d ≤ _ from hc)]
  | act d p => exact Fx.run_act_short hc

/-- A change of a task that stands, in a list of any order. -/
theorem task_map {k : Nat} {g : Task → Task} {s : State} {t : Task} (h : s.task k = some t) :
    ((Upd.task k fun o => o.map g).apply s).task k = some (g t) := by
  have h' : Sparse.get none s.tasks k = some t := h
  simp only [State.task, Upd.task_tasks, Sparse.upd, h', Option.map_some]
  exact Sparse.get_put_same (by simp) _

/-- A change of a node or of a saved node leaves the status of every task that stands. -/
theorem onRef_task_st {n k : Nat} {f : Node → Node} {s : State} {t : Task} (h : s.task k = some t) :
    ∃ t', ((onRef n f).run s).task k = some t' ∧ t'.st = t.st := by
  unfold onRef
  split
  · exact ⟨t, h, rfl⟩
  · by_cases hk : k = n / 2048
    · subst hk
      exact ⟨_, task_map h, rfl⟩
    · exact ⟨t, (Sparse.get_put_ne _ hk).trans h, rfl⟩

/-- Reporting a fault changes no task. -/
theorem report_task (n : Nat) (f : FaultRec) (a : Option Nat) (s : State) (k : Nat) : ((report n f a).run s).task k = s.task k := by
  cases a <;> rfl

/-- A shortfall dooms the task of its node, unless that is ending already (22 R371). -/
theorem shortfall_doomed {n d place k : Nat} {pc : BitVec 58} {tag : Tag} {s : State} {t : Task} (ht : s.task k = some t)
    (he : ¬t.st = .ending) (hr : refTask s n = some k) :
    (((shortfall n d place pc tag).run s).task k).map (fun t => t.doomed) = some (some 0x81) := by
  have hst (f : Node → Node) := onRef_task_st (n := n) (f := f) ht
  simp only [shortfall, Prog.run_ask, Prog.run_all_cons, Prog.run_all_nil, Prog.run_upd, hr]
  generalize hs : (onRef n _).run s = s'
  obtain ⟨u, hu, hue⟩ := hs ▸ hst _
  rw [task_map ((report_task ..).trans hu), Option.map_some, if_neg (hue ▸ he)]

end Sys2Proof.Machine

open Sys2Proof Sys2Proof.Machine

/-- Settles O8: every form fires by a lawful plan, which draws what the form's table gives, and a draw that is not covered is the shortfall. -/
theorem shortfallEndsTheTask : Obligations.ShortfallEndsTheTask := by
  intro i s c tg cl hg hf hp hF hT hc
  obtain ⟨plan, he, hl⟩ := exec_firesBy hf
  refine ⟨?_, fun t ht hn hr => shortfall_doomed ht hn hr⟩
  rw [he, fire_fires hF, Fx.run_short (hl.draws hg hp c tg cl hF.hdr hT) hc, hF.state]

end

section
/-! PROOFS. Periods and signatures of the usage log (06 R121, R124–R126), monitors (21 R353, R355), the scrub and the retirement of pages (24 R406–R408;
26 R419–R421). -/

namespace Sys2Proof.Bits

theorem length_toBytes (n x : Nat) : (toBytes n x).length = n := by
  induction n generalizing x with
  | zero => rfl
  | succ n ih => exact congrArg (· + 1) (ih _)

end Sys2Proof.Bits

namespace Sys2Proof.Machine
open Sys2Proof.Bits

/-! ## The usage log (06 R121, R124–R126) -/

/-- A period that is due opens by itself once the log holds its reservation. -/
theorem execPeriodAutoOpen_due {s : State} {p : Nat} (he : (s.part p).en = true) (hd : 2 ^ 40 ≤ (s.tbase.toNat - (s.part p).opened.toNat) / 1000)
    (hw : periodWhole s p = true) : 
    exec (.periodAutoOpen p) s = .next ((openPeriod p (Config.freePeriod s.ctr) (s.part p).quota).run { s with ctr := s.ctr + 1 }) := by
  have hdue : periodDue s p = true := by simp only [periodDue, he, hd, decide_true, Bool.and_self]
  show execPeriodAutoOpen p s = _
  simp only [execPeriodAutoOpen, hdue, hw, Bool.and_self, if_true, Prog.done_eq, autoOpen, Prog.run_ask, Prog.run_seq, Prog.run_upd, Upd.apply]

/-- The first head that waits is signed while the key has a leaf. -/
theorem execLogSign256_signs {s : State} {p n : Nat} {head : List Byte} {rest : List (Nat × List Byte)} (hl : s.hub.leaf < 2 ^ 20)
    (hs : (s.part p).toSign = (n, head) :: rest) :
    exec (.logSign256 p) s = .next { s with
      hub := { s.hub with leaf := s.hub.leaf + 1 }
      parts := Sparse.upd Part.reset (Sparse.upd Part.reset s.parts p fun x => { x with
        sigs := x.sigs ++ [⟨n, s.hub.leaf, signature s.hub.leaf (signMessage p n head)⟩] }) p fun x => { x with toSign := rest } } := by
  have hleft : leafLeft s = true := by simp only [leafLeft, hl, decide_true]
  show execLogSign256 p s = _
  simp only [execLogSign256, hs, hleft, if_true, Prog.done_eq, signAt, Prog.run_seq, Prog.run_ask, Prog.run_upd, Upd.apply]

theorem length_u32 (x : Nat) : (u32 x).length = 4 := by
  rw [u32, List.length_reverse, length_toBytes]

/-- A signature has the length of RFC 8554 (06 R126). -/
theorem length_signature (q : Nat) (msg : List Byte) : (signature q msg).length = 2828 := by
  simp only [signature, List.length_append, length_u32, List.length_map, List.length_range]

/-- A partition after a change of it. -/
theorem part_upd {s : State} (hs : s.Canonical) (p : Nat) (f : Part → Part) : ((Upd.part p f).apply s).part p = f (s.part p) :=
  (Sparse.get_put p _ p hs.parts).trans (if_pos rfl)

/-! ## Monitors (21 R353, R355) -/

/-- Samples of a part that is on take their places, and then the part may have cooled down. -/
theorem execMonitorSample_on {s : State} (l : List MonSample) (h : ¬s.power = .off) :
    exec (.monitorSample l) s = .next (coolDown.run ((Prog.each (l.filter fun m => m.cluster < 128) takeSample).run s)) := by
  show execMonitorSample l s = _
  simp only [execMonitorSample, h, if_false, Prog.done_eq, Prog.run_seq]

/-- A sample of at most 105 degrees takes its place and is not reported. -/
theorem takeSample_cool {s : State} {m : MonSample} (h : m.temp.toInt ≤ 1680) : (takeSample m).run s = { s with hub := { s.hub with
    mons := (m.cluster, m) :: s.hub.mons.filter fun e => !(e.1 == m.cluster)
    above105 := s.hub.above105.filter fun c => !(c == m.cluster) } } := by
  have h105 : ¬1680 < degreesOf m := not_lt.2 h
  have h115 : ¬1840 < degreesOf m := fun hlt => h105 (lt_trans (by decide) hlt)
  simp only [takeSample, Prog.run_ask, h105, h115, decide_false, Bool.false_and, Prog.run_all_cons, Prog.run_all_nil, Prog.run_when_false, Prog.run_upd,
    if_false, List.append_nil, Upd.apply]

/-- A part that is not too hot has nothing to resume. -/
theorem coolDown_skip {s : State} (h : s.hub.thermal = false) : coolDown.run s = s := by
  simp only [coolDown, Prog.run_ask, h, Bool.false_and, Prog.run_when_false]

/-! ## The scrub (24 R406, R407; 26 R419, R420) -/

section
variable {s : State} {line : Nat} {l : L2Line}

theorem execPatrolScrub_line (hl : s.l2Line line = some l) : exec (.patrolScrub line) s =
    .next ((if l.tagUe then l2TagUe line l else if l.ue = [] then Prog.skip else l2DataUe Who.none line l).run s) := by
  show execPatrolScrub line s = _
  simp only [execPatrolScrub, hl, Prog.done_eq]

/-- Broken data of an owned line: the record of the owner, then its kill on the way. -/
theorem l2DataUe_owned {w : Who} {o t : Nat} (ho : l.owner = some o) (ht : ownerTask s o = some t) (hlive : taskLive s t = true) :
    (l2DataUe w line l).run s = (doomOwner t line l).run ((recordFor t w (BitVec.ofNat 64 (line * 128)) (eccInfo s 2 line l.way)).run s) := by
  simp only [l2DataUe, Prog.run_ask, ho, Option.bind_some, ht, hlive, Bool.not_true, Bool.false_and, Bool.false_eq_true, if_false, Prog.run_seq]

/-- The kill of a live owner is on its way, and the page waits for it. -/
theorem doomOwner_live {t : Nat} {x : Task} (hx : s.task t = some x) (hlive : taskLive s t = true) :
    (((doomOwner t line l).run s).task t).map (fun y => y.doomed) = some (some 0x83) ∧
    ((doomOwner t line l).run s).hub.retires =
      s.hub.retires ++ [⟨line, some l.part, some t, some (paDie (line * 128), homeSlice s line, lineSet line, l.way)⟩] := by
  simp only [doomOwner, Prog.run_ask, hlive, if_true, Prog.run_seq, Prog.run_upd]
  exact ⟨by rw [task_map (s := (Upd.hub _).apply s) hx]; rfl, rfl⟩

end

/-! ## Retirement of pages (24 R408; 26 R421) -/

theorem execFrameRetire_of_job {s : State} {k : Nat} {p : Prog} (h : frameRetireJob s k = some p) : exec (.frameRetire k) s = .next (p.run s) := by
  show execFrameRetire k s = _
  simp only [execFrameRetire, h, Prog.done_eq]

section
variable {s : State} {k : Nat} {r : PageRetire} (hr : s.hub.retires[k]? = some r)
include hr

/-- What the lines of the page hold is seen to first. -/
theorem frameRetireJob_trouble {x : Prog} (ht : frameTrouble s (r.line * 128 / 2 ^ 16) = some x) : frameRetireJob s k = some x := by
  simp only [frameRetireJob, hr, ht]

/-- A page that no assignment names any more leaves with what waited for it. -/
theorem frameRetireJob_unowned (ht : frameTrouble s (r.line * 128 / 2 ^ 16) = none)
    (hd : frameDying s (r.line * 128 / 2 ^ 16) (s.hub.retires.filter fun x => x.line * 128 / 2 ^ 16 == r.line * 128 / 2 ^ 16) = false)
    (ho : frameOwner s (r.line * 128 / 2 ^ 16) = none) :
    frameRetireJob s k = some (.seq (.upd (.hub fun h => { h with retires := h.retires.filter fun x => !(x.line * 128 / 2 ^ 16 == r.line * 128 / 2 ^ 16) }))
      (Prog.each ((s.hub.retires.filter fun x => x.line * 128 / 2 ^ 16 == r.line * 128 / 2 ^ 16).filterMap fun r => r.tid) settleClosing)) := by
  simp only [frameRetireJob, hr, ht, hd, ho, Option.isNone_none, Bool.false_eq_true, if_false, if_true]

/-- An assigned page is retired once the kills have taken hold and the directory has room. -/
theorem frameRetireJob_owned {p : Nat} (ht : frameTrouble s (r.line * 128 / 2 ^ 16) = none)
    (hd : frameDying s (r.line * 128 / 2 ^ 16) (s.hub.retires.filter fun x => x.line * 128 / 2 ^ 16 == r.line * 128 / 2 ^ 16) = false)
    (ho : frameOwner s (r.line * 128 / 2 ^ 16) = some p) (hready : retireReady s (r.line * 128 / 2 ^ 16) = true) :
    frameRetireJob s k = some (.seq (.upd (.hub fun h => { h with retires := h.retires.filter fun x => !(x.line * 128 / 2 ^ 16 == r.line * 128 / 2 ^ 16) }))
      (retireAll s (r.line * 128 / 2 ^ 16) (s.hub.retires.filter fun x => x.line * 128 / 2 ^ 16 == r.line * 128 / 2 ^ 16))) := by
  simp only [frameRetireJob, hr, ht, hd, ho, hready, Option.isNone_some, Bool.not_true, Bool.false_eq_true, if_false]

end

/-- The retirement for one line that is no way's: the page goes, then its partition's device entry. -/
theorem retireAll_one {s : State} {frame line q : Nat} :
    (retireAll s frame [⟨line, some q, none, none⟩]).run s = (deviceEntry q 0 4 (retiredValue s frame)).run ((retirePage frame).run s) := by
  simp only [retireAll, Prog.each, List.filter_cons, Option.isNone_some, Bool.false_eq_true, if_false, List.filter_nil, List.filterMap_cons, List.filterMap_nil,
    List.map_cons, List.map_nil, Prog.run_all_cons, Prog.run_all_nil, Option.getD_none]

end Sys2Proof.Machine

open Sys2Proof Sys2Proof.Machine

/-- Settles O60: each event is enabled where the statement says, and runs the program of its case. -/
theorem meterAndMonitorEvents : Obligations.MeterAndMonitorEvents := by
  intro s
  refine ⟨fun p he hd hw => execPeriodAutoOpen_due he hd hw, fun p n head rest hl hs => execLogSign256_signs hl hs, length_signature,
    fun l hp => execMonitorSample_on l hp, fun m hp hc ht hth => ?_, fun line l hl => ⟨fun hg hu => ?_, fun hg => ?_, fun hg hu => ?_,
      fun o t ho ht hlive => l2DataUe_owned ho ht hlive, fun t x _ hx hlive => doomOwner_live hx hlive⟩,
    fun k r hr => ⟨fun x hx => ?_, fun ht hd => ⟨fun ho => ?_, fun p ho hready => ?_⟩⟩, fun frame line q => retireAll_one, fun p body hs => ?_⟩
  · rw [execMonitorSample_on _ hp, List.filter_cons_of_pos (by simpa using hc)]
    exact congrArg Host.Outcome.next ((congrArg coolDown.run (takeSample_cool ht)).trans (coolDown_skip hth))
  · simp only [execPatrolScrub_line hl, hg, hu, Bool.false_eq_true, if_false, if_true, Prog.run_skip]
  · simp only [execPatrolScrub_line hl, hg, if_true]
  · simp only [execPatrolScrub_line hl, hg, hu, Bool.false_eq_true, if_false]
  · exact execFrameRetire_of_job (frameRetireJob_trouble hr hx)
  · exact execFrameRetire_of_job (frameRetireJob_unowned hr ht hd ho)
  · exact execFrameRetire_of_job (frameRetireJob_owned hr ht hd ho hready)
  · dsimp only
    rw [show ((appendLog p body).run s).part p = _ from part_upd hs p _]
    exact ⟨rfl, rfl, rfl⟩

end

section
/-! PROOFS. A task that commits leaves no provisional and no held line, and comes to its end (03 R75; 06 R118). -/

namespace Sys2Proof

/-- A value other than the default is listed. -/
theorem Sparse.mem_of_get {α : Type} {d v : α} {k : Nat} (hv : v ≠ d) {m : List (Nat × α)} (h : Sparse.get d m k = v) : (k, v) ∈ m := by
  induction m with
  | nil => exact absurd h.symm hv
  | cons e m ih =>
    obtain ⟨a, w⟩ := e
    by_cases ha : a = k
    · subst ha
      rw [Sparse.get_eq] at h
      exact h ▸ List.mem_cons_self ..
    · rw [Sparse.get_ne ha] at h
      exact List.mem_cons_of_mem _ (ih h)

end Sys2Proof

namespace Sys2Proof.Machine

/-! ## What every state on the way keeps -/

/-- What holds before a program holds after it. -/
def Prog.Preserves (I : State → Prop) (p : Prog) : Prop := ∀ s, I s → I (p.run s)

section
variable {I : State → Prop}

theorem preserves_skip : Prog.skip.Preserves I := fun _ h => h

theorem preserves_seq {p q : Prog} (hp : p.Preserves I) (hq : q.Preserves I) : (Prog.seq p q).Preserves I := fun _ h => hq _ (hp _ h)

theorem preserves_ask {k : State → Prog} (h : ∀ s, I s → (k s).Preserves I) : (Prog.ask k).Preserves I := fun s hs => h s hs s hs

theorem preserves_all_nil : (Prog.all []).Preserves I := preserves_skip

theorem preserves_all_cons {p : Prog} {ps : List Prog} (hp : p.Preserves I) (hps : (Prog.all ps).Preserves I) : (Prog.all (p :: ps)).Preserves I :=
  preserves_seq hp hps

theorem preserves_each {α : Type} {f : α → Prog} {l : List α} (h : ∀ x ∈ l, (f x).Preserves I) : (Prog.each l f).Preserves I := by
  induction l with
  | nil => exact preserves_skip
  | cons x l ih => exact preserves_seq (h x (List.mem_cons_self ..)) (ih fun y hy => h y (List.mem_cons_of_mem _ hy))

end

/-- No held line and no line of the L2 bears an owner tag. -/
structure Unmarked (owner : Nat) (s : State) : Prop where
  canonical : s.Canonical
  held : ∀ h ∈ s.held, ¬h.owner = owner
  lines : ∀ k l, s.l2Line k = some l → ¬l.owner = some owner

/-- An update that marks no line with an owner tag. -/
def Upd.MarksNone (owner : Nat) : Upd → Prop
  | .l2 _ x => ∀ l, x = some l → ¬l.owner = some owner
  | .held f => ∀ hs, ∀ h ∈ f hs, h ∈ hs
  | _ => True

section
variable {o : Nat}

theorem Upd.MarksNone.unmarked {u : Upd} (hu : u.MarksNone o) {s : State} (h : Unmarked o s) : Unmarked o (u.apply s) := by
  obtain ⟨hc, hh, hl⟩ := h
  cases u with
  | l2 line x =>
    refine ⟨Upd.canonical _ hc, hh, fun k l hk => ?_⟩
    have hk' : (if k = line then x else s.l2Line k) = some l := (Sparse.get_put line x k hc.l2).symm.trans hk
    split at hk'
    · exact hu l hk'
    · exact hl k l hk'
  | held f => exact ⟨Upd.canonical _ hc, fun h hm => hh h (hu _ h hm), hl⟩
  | _ => exact ⟨Upd.canonical _ hc, hh, hl⟩

theorem preserves_of_only {p : Prog} (h : p.Only (Upd.MarksNone o)) : p.Preserves (Unmarked o) :=
  Prog.run_rel (R := fun a b => Unmarked o a → Unmarked o b) (fun _ => id) (fun _ _ _ hab hbc => hbc ∘ hab) (fun _ hu _ => hu.unmarked) p h

/-- An update that a firing may make without reading lines marks none. -/
theorem marksNone_of_calm {p : Prog} (h : p.Only (Upd.Calm false)) : p.Only (Upd.MarksNone o) :=
  h.mono fun u hu => by
    cases u with
    | l2 | held => exact nomatch hu
    | _ => trivial

/-! ## Writes by the device, and page tables (01 R34; 03 R62; 25 R413) -/

theorem marksNone_memWrite {pa : Nat} {bs : List Byte} : (memWrite pa bs).Only (Upd.MarksNone o) := Prog.only_each fun _ _ => trivial

theorem marksNone_clearPoison {pa len : Nat} : (clearPoison pa len).Only (Upd.MarksNone o) :=
  Prog.only_each fun _ _ => Prog.only_when ⟨trivial, trivial⟩

/-- A write by the device changes the data of lines, not their owners. -/
theorem unmarked_devWrite {pa : Nat} {bs : List Byte} : (devWrite pa bs).Preserves (Unmarked o) := by
  refine preserves_seq (preserves_of_only ⟨marksNone_memWrite, marksNone_clearPoison⟩) (preserves_ask fun s hs => preserves_of_only ⟨?_, ?_⟩)
  · refine Prog.only_each fun line _ => ?_
    split
    · trivial
    · next l hl => exact fun l' h => Option.some.inj h ▸ hs.lines line l hl
  · exact Prog.only_each fun _ _ => trivial

theorem marksNone_putLeafFrom {e : Word} : ∀ {is : List Nat} {tbl : Nat}, (putLeafFrom e tbl is).Only (Upd.MarksNone o)
  | [], _ => trivial
  | [_], _ => trivial
  | _ :: j :: is, _ => by
    intro s
    dsimp only
    split
    · exact marksNone_putLeafFrom
    · exact fun _ => ⟨trivial, trivial, marksNone_putLeafFrom⟩

theorem marksNone_groomNow {asid va : Nat} : (groomNow asid va).Only (Upd.MarksNone o) := by
  intro s
  dsimp only
  split
  · refine ⟨fun _ => Prog.only_each fun _ _ => trivial, fun s => ?_⟩
    dsimp only
    split
    · exact marksNone_putLeafFrom
    · exact fun _ => ⟨trivial, trivial, marksNone_putLeafFrom⟩
  · trivial

theorem unmarked_writeStatus {asid va status tid : Nat} : (writeStatus asid va status tid).Preserves (Unmarked o) := by
  refine preserves_seq (preserves_of_only marksNone_groomNow) (preserves_ask fun s _ => ?_)
  split
  · split
    · exact unmarked_devWrite
    · exact preserves_skip
  · exact preserves_skip

theorem unmarked_writeDone {asid va status : Nat} : (writeDone asid va status).Preserves (Unmarked o) := by
  refine preserves_seq (preserves_of_only marksNone_groomNow) (preserves_ask fun s _ => ?_)
  split
  · exact preserves_skip
  · split
    · split
      · exact preserves_seq unmarked_devWrite (preserves_of_only fun _ => trivial)
      · exact preserves_skip
    · exact preserves_skip

/-! ## The account, reins and launches of a task that commits (06 R118; 04 R89; 14 R288) -/

theorem marksNone_beforeStamp {p : Nat} : (beforeStamp p).Only (Upd.MarksNone o) :=
  fun _ => Prog.only_when fun _ => ⟨trivial, fun _ => ⟨fun _ => trivial, trivial, fun _ => trivial, trivial⟩⟩

theorem unmarked_settle {tid outcome : Nat} : (settle tid outcome).Preserves (Unmarked o) := by
  refine preserves_ask fun s _ => ?_
  split
  · exact preserves_skip
  · exact preserves_all_cons (preserves_of_only marksNone_beforeStamp) (preserves_all_cons (preserves_of_only trivial)
      (preserves_all_cons (preserves_of_only fun _ => trivial) (preserves_all_cons unmarked_writeStatus
        (preserves_all_cons unmarked_writeDone preserves_all_nil))))

/-- Dropping a rein changes its arena alone. -/
theorem calm_dropRein {r : Bool} {asid tid : Nat} {x : Quad} : (dropRein asid tid x).Only (Upd.Calm r) := by
  unfold dropRein
  split <;> exact trivial

theorem calm_undeliverable {r : Bool} {part asid to_ input sender : Nat} {x : Quad} : (undeliverable part asid to_ input x sender).Only (Upd.Calm r) :=
  ⟨calm_dropRein, calm_deviceEntry, trivial⟩

theorem calm_sendRein {r : Bool} {t : Task} {x : Nat × Nat × Quad × Nat} : (sendRein t x).Only (Upd.Calm r) := by
  intro s
  dsimp only
  split
  · split
    · exact trivial
    · exact calm_undeliverable
  · exact calm_undeliverable

theorem unmarked_enterLaunches {p : Nat} : ∀ {k : Nat}, (enterLaunches p k).Preserves (Unmarked o)
  | 0 => preserves_skip
  | k + 1 => by
    refine preserves_ask fun s _ => ?_
    split
    · exact preserves_skip
    · split
      · refine preserves_all_cons (preserves_of_only trivial) (preserves_all_cons ?_ (preserves_all_cons unmarked_enterLaunches preserves_all_nil))
        exact preserves_ask fun s _ => preserves_all_cons unmarked_writeStatus (preserves_of_only ⟨trivial, trivial, trivial⟩)
      · exact preserves_skip

theorem keepsTasks_enterLaunches {p : Nat} : ∀ {k : Nat}, (enterLaunches p k).Only Upd.KeepsTasks
  | 0 => trivial
  | k + 1 => by
    intro s
    dsimp only
    split
    · trivial
    · split
      · exact ⟨trivial, fun _ => ⟨keepsTasks_writeStatus, trivial, trivial, trivial⟩, keepsTasks_enterLaunches, trivial⟩
      · trivial

/-! ## The task's nodes (15 R303; 03 R71) -/

theorem marksNone_returnFrame {frame : Nat} : (returnFrame frame).Only (Upd.MarksNone o) :=
  fun _ => Prog.only_when ⟨fun _ => ⟨Prog.only_each fun _ _ _ h => (nomatch h), fun _ _ hm => List.mem_of_mem_filter hm,
    Prog.only_each fun _ _ => trivial, trivial⟩, fun _ => ⟨Prog.only_each fun _ _ => trivial, Prog.only_each fun _ _ => trivial, trivial,
    Prog.only_each fun _ _ => trivial, trivial⟩⟩

theorem marksNone_freeNodes {tid : Nat} : (freeNodes tid).Only (Upd.MarksNone o) :=
  fun _ => ⟨Prog.only_each fun _ _ => trivial, trivial, trivial, trivial, trivial,
    fun _ => ⟨trivial, Prog.only_each fun _ _ => marksNone_returnFrame⟩, trivial, trivial⟩

/-! ## The owner tag (03 R75) -/

/-- An entry of the L2 that bears an owner tag. -/
def OwnedEntry (owner : Nat) (e : Nat × Option L2Line) : Prop := ∃ l, e.2 = some l ∧ l.owner = some owner

/-- The mark of an owner tag leaves the entry of a line. -/
def clearOwner (owner : Nat) (e : Nat × Option L2Line) : Prog := match e.2 with
  | some l => if l.owner = some owner then .upd (.l2 e.1 (some { l with owner := none })) else .skip
  | none => .skip

/-- Clearing an entry leaves its tag on no line but those that bore it. -/
theorem clearOwner_line {e : Nat × Option L2Line} {s : State} {k : Nat} {l : L2Line} (h : ((clearOwner o e).run s).l2Line k = some l)
    (hl : l.owner = some o) : s.l2Line k = some l ∧ ¬(k = e.1 ∧ OwnedEntry o e) := by
  unfold clearOwner at h
  split at h
  · next l' he =>
    split at h
    · next ho =>
      by_cases hk : k = e.1
      · subst hk
        obtain rfl := Option.some.inj ((Sparse.get_put_same (by simp) _).symm.trans h)
        cases hl
      · exact ⟨(Sparse.get_put_ne _ hk).symm.trans h, fun hn => hk hn.1⟩
    · next ho =>
      refine ⟨h, ?_⟩
      rintro ⟨-, l'', he', ho'⟩
      exact ho (Option.some.inj (he.symm.trans he') ▸ ho')
  · next he =>
    refine ⟨h, ?_⟩
    rintro ⟨-, l'', he', -⟩
    cases he.symm.trans he'

/-- Clearing entries among which are all that bear the tag clears it. -/
theorem each_clearOwner_lines : ∀ {es : List (Nat × Option L2Line)} {s : State},
    (∀ k l, s.l2Line k = some l → l.owner = some o → ∃ e ∈ es, e.1 = k ∧ OwnedEntry o e) →
    ∀ k l, ((Prog.each es (clearOwner o)).run s).l2Line k = some l → ¬l.owner = some o
  | [], _, h, k, l, hk, hl => by
    obtain ⟨e, he, -⟩ := h k l hk hl
    cases he
  | e :: es, s, h, k, l, hk, hl => by
    refine each_clearOwner_lines (es := es) (s := (clearOwner o e).run s) (fun k l hk hl => ?_) k l hk hl
    obtain ⟨hk', hn⟩ := clearOwner_line hk hl
    obtain ⟨e', he', hek, ho⟩ := h k l hk' hl
    rcases List.mem_cons.1 he' with rfl | hm
    · exact absurd ⟨hek.symm, ho⟩ hn
    · exact ⟨e', hm, hek, ho⟩

/-- A committed owner tag marks no line (03 R75). -/
theorem commitOwner_unmarks {s : State} (hs : s.Canonical) (tid : Nat) (t : Task) : Unmarked t.owner ((commitOwner tid t).run s) := by
  have hl : ∀ k l, ((Prog.each s.l2 (clearOwner t.owner)).run s).l2Line k = some l → ¬l.owner = some t.owner :=
    each_clearOwner_lines fun k l hk hl => ⟨(k, some l), Sparse.mem_of_get (by simp) hk, rfl, l, rfl, hl⟩
  have hu : Unmarked t.owner ((Upd.held fun h => h.filter fun x => !(x.owner == t.owner)).apply ((Prog.each s.l2 (clearOwner t.owner)).run s)) :=
    ⟨Upd.canonical _ (Prog.canonical _ hs), fun h hm => by simpa using (List.mem_filter.1 hm).2, hl⟩
  unfold commitOwner
  rw [Prog.run_all_cons, Prog.run_all_cons]
  refine preserves_of_only ?_ _ hu
  exact ⟨fun _ => Prog.only_each fun _ _ => trivial, trivial, trivial⟩

theorem keepsTasks_commitOwner {tid : Nat} {t : Task} : (commitOwner tid t).Only Upd.KeepsTasks := by
  refine ⟨fun s => Prog.only_each fun e _ => ?_, trivial, fun _ => Prog.only_each fun _ _ => trivial, keepsTasks_task, trivial⟩
  split
  · split <;> exact trivial
  · trivial

end

/-! ## TASK_COMMIT (06 R118) -/

theorem execTaskCommit_done {s : State} {tid : Nat} {t : Task} (ht : s.task tid = some t) (hd : taskDone s tid t = true) :
    exec (.taskCommit tid) s = .next ((commitTask tid t).run s) := by
  show execTaskCommit tid s = _
  simp only [execTaskCommit, ht, hd, if_true, Prog.done_eq]

theorem keepsTasks_commitTask {tid : Nat} {t : Task} : (commitTask tid t).Only Upd.KeepsTasks :=
  ⟨keepsTasks_commitOwner, Prog.only_each fun _ _ => keepsTasks_of_calm (r := false) calm_sendRein, fun _ => Prog.only_each fun _ _ => keepsTasks_dropRein,
    trivial, trivial, keepsTasks_settle, trivial, fun _ => keepsTasks_enterLaunches, trivial, Prog.only_each fun _ _ => trivial, keepsTasks_freeNodes,
    keepsTasks_task fun _ _ => rfl, trivial⟩

/-- A commit ends its task. -/
theorem commitTask_ends {s : State} {tid : Nat} {t : Task} (ht : s.task tid = some t) : ((commitTask tid t).run s).ending tid := by
  obtain ⟨t', ht'⟩ := task_of_last keepsTasks_commitTask (g := closeTask) rfl ht
  exact State.ending_iff.2 ⟨_, ht', rfl⟩

/-- A commit leaves no line to the task. -/
theorem commitTask_unmarks {s : State} (hs : s.Canonical) (tid : Nat) (t : Task) : Unmarked t.owner ((commitTask tid t).run s) := by
  unfold commitTask
  rw [Prog.run_all_cons]
  refine preserves_all_cons (preserves_of_only (Prog.only_each fun _ _ => marksNone_of_calm calm_sendRein)) ?_ _ (commitOwner_unmarks hs tid t)
  refine preserves_all_cons (preserves_of_only fun _ => Prog.only_each fun _ _ => marksNone_of_calm calm_dropRein) ?_
  refine preserves_all_cons (preserves_of_only trivial) (preserves_all_cons (preserves_of_only trivial) (preserves_all_cons unmarked_settle ?_))
  refine preserves_all_cons (preserves_of_only trivial) (preserves_all_cons (preserves_ask fun _ _ => unmarked_enterLaunches) ?_)
  exact preserves_of_only ⟨trivial, Prog.only_each fun _ _ => trivial, marksNone_freeNodes, trivial, trivial⟩

end Sys2Proof.Machine
end

section
/-! PROOFS. Bids and their bypasses (15 R299–R303; 23 R389), slices and the dusk token (15 R304–R306), granules and reins (04 R88, R89; 13 R267). -/

namespace Sys2Proof.Machine
open Sys2Proof.Bits

theorem execOwnerTagCleared_of_slot {s : State} {owner tid : Nat} (h : slotJob s owner = some tid) :
    exec (.ownerTagCleared owner) s = .next { s with tasks := Sparse.upd none s.tasks tid fun _ => none } := by
  show execOwnerTagCleared owner s = _
  simp only [execOwnerTagCleared, h, Prog.done_eq, Prog.run_upd, Upd.apply]

/-! ## The arbiter (15 R300, R301) -/

theorem execAreaBidding_of_job {s : State} {p : Nat} {a : Prog} (h : arbiterJob s p = some a) : exec (.areaBidding p) s = .next (a.run s) := by
  show execAreaBidding p s = _
  simp only [execAreaBidding, h, Prog.done_eq]

/-- The error in the image of a record that bids. -/
def bidTrouble (s : State) (b : Bid) : Option Prog := match b.who with
  | .new _ e => imageTrouble s (recAsid e.trec) (e.trec.getD 0 0).toNat
  | .swept _ _ => none

/-- Whether a bid for which the partition reserves ranks above another. -/
def reservedAbove (s : State) (p : Nat) (b : Bid) : Bool := match reservingBid s p with
  | some r => r.above b
  | none => false

/-- What the arbiter does with one bid. -/
def bidJob (s : State) (p : Nat) (b : Bid) : Option Prog := match verdict s p (placement s p) b, b.who with
  | .reject k, .new q e => if logRoom s p then some (rejectRecord p q e k) else none
  | .admitted o c, _ => if admissionStopped s p || reservedAbove s p b then none
      else some (.seq (countBypasses s p (placement s p) b) (admitBid p b o c startAll))
  | _, _ => none

/-- The arbiter sees to the first error of an image, else to the first bid with which there is something to do. -/
theorem arbiterJob_eq (s : State) (p : Nat) : arbiterJob s p = ((bids s p).findSome? (bidTrouble s)).or ((bids s p).findSome? (bidJob s p)) := by
  refine congrArg₂ Option.or (congrArg (fun f => (bids s p).findSome? f) (funext fun b => ?_)) rfl
  unfold bidTrouble
  cases b.who <;> rfl

section
variable {s : State} {p : Nat} {l bs : List Bid} {b : Bid}

/-- An image's error comes first. -/
theorem arbiterJob_trouble {x : Prog} (hb : bids s p = l ++ b :: bs) (hl : ∀ a ∈ l, bidTrouble s a = none) (hx : bidTrouble s b = some x) :
    arbiterJob s p = some x := by
  have hfirst : (bids s p).findSome? (bidTrouble s) = some x := by
    rw [hb, List.findSome?_append, List.findSome?_eq_none_iff.2 hl, Option.none_or, List.findSome?_cons_of_isSome (by rw [hx]; rfl), hx]
  rw [arbiterJob_eq, hfirst, Option.some_or]

/-- Where no image has an error, the first bid with which there is something to do decides. -/
theorem arbiterJob_first {a : Prog} (hb : bids s p = l ++ b :: bs) (ht : ∀ a ∈ bids s p, bidTrouble s a = none) (hl : ∀ a ∈ l, bidJob s p a = none)
    (ha : bidJob s p b = some a) : arbiterJob s p = some a := by
  rw [arbiterJob_eq, List.findSome?_eq_none_iff.2 ht, Option.none_or, hb, List.findSome?_append, List.findSome?_eq_none_iff.2 hl, Option.none_or,
    List.findSome?_cons_of_isSome (by rw [ha]; rfl), ha]

theorem bidJob_reject {k q : Nat} {e : QEntry} (hv : verdict s p (placement s p) b = .reject k) (hw : b.who = .new q e) (hr : logRoom s p = true) :
    bidJob s p b = some (rejectRecord p q e k) := by
  simp only [bidJob, hv, hw, hr, if_true]

theorem bidJob_admit {o : Nat × Nat} {c : Option Cand} (hv : verdict s p (placement s p) b = .admitted o c) (hs : admissionStopped s p = false)
    (hr : ∀ r, reservingBid s p = some r → r.above b = false) :
    bidJob s p b = some (.seq (countBypasses s p (placement s p) b) (admitBid p b o c startAll)) := by
  have habove : reservedAbove s p b = false := by
    unfold reservedAbove
    split
    · next r h => exact hr r h
    · rfl
  simp only [bidJob, hv, hs, habove, Bool.or_self, Bool.false_eq_true, if_false]

/-- With a bid that waits, one that the log has no room to reject, and one that may not be admitted now, there is nothing to do. -/
theorem bidJob_none (h : (∃ z, verdict s p (placement s p) b = .wait z) ∨ (∃ k, verdict s p (placement s p) b = .reject k ∧ logRoom s p = false) ∨
    (∃ o c, verdict s p (placement s p) b = .admitted o c ∧ (admissionStopped s p = true ∨ ∃ r, reservingBid s p = some r ∧ r.above b = true))) :
    bidJob s p b = none := by
  rcases h with ⟨z, hv⟩ | ⟨k, hv, hr⟩ | ⟨o, c, hv, hs | ⟨r, hr, ha⟩⟩
  · simp only [bidJob, hv]
  · cases hw : b.who <;> simp only [bidJob, hv, hw, hr, Bool.false_eq_true, if_false]
  · simp only [bidJob, hv, hs, Bool.true_or, if_true]
  · simp only [bidJob, hv, reservedAbove, hr, ha, Bool.or_true, if_true]

/-! ## Verdicts that wait (15 R301; 23 R389) -/

theorem placeless_none : placeless s p none = true := rfl

theorem placeless_some (o : Nat × Nat) : placeless s p (some o) = (freeSlot s (dieAt o.1 o.2) p).isNone := rfl

/-- A record that passes its checks and has no placement, or none with a slot, counts as placeless. -/
theorem verdict_pass_wait {place : Nat → Nat → Option (Nat × Nat)} {q : Nat} {e : QEntry} {c : Cand} (hw : b.who = .new q e)
    (hc : checkRecord s p e.trec = .pass c)
    (hp : ∀ o, place c.img.width c.img.height = some o → freeSlot s (dieAt o.1 o.2) p = none) : verdict s p place b = .wait true := by
  cases ho : place c.img.width c.img.height with
  | none => simp only [verdict, hw, hc, ho]
  | some o => simp only [verdict, hw, hc, ho, hp o ho, Option.isSome_none, Bool.and_false, Bool.false_and, Bool.false_eq_true, if_false, placeless_some,
      Option.isNone_none]

/-- A record that waits for its ASID is as placeless as its rectangle. -/
theorem verdict_wait {place : Nat → Nat → Option (Nat × Nat)} {q : Nat} {e : QEntry} {z : Nat × Nat} (hw : b.who = .new q e)
    (hc : checkRecord s p e.trec = .wait (some z)) : verdict s p place b = .wait (placeless s p (place z.1 z.2)) := by
  simp only [verdict, hw, hc, Option.any_some]

end

/-! ## The end of a slice (15 R304) -/

theorem execSliceExpiry_of_job {s : State} {tid : Nat} {a : Prog} (h : sliceJob s tid = some a) : exec (.sliceExpiry tid) s = .next (a.run s) := by
  show execSliceExpiry tid s = _
  simp only [execSliceExpiry, h, Prog.done_eq]

section
variable {s : State} {tid : Nat} {t : Task} (ht : s.task tid = some t) (hr : t.st = .running) (hd : t.dusk = none)
  (h0 : ¬field (s.part t.part).w1 40 24 = 0) (hs : field (s.part t.part).w1 40 24 * 1000 ≤ s.tbase.toNat - t.sliceFrom.toNat)
include ht hr hd h0 hs

/-- A slice that has run out begins anew where no task may come in. -/
theorem sliceJob_again (hi : incomingBid s t = none) :
    sliceJob s tid = some (.upd (.task tid fun u => u.map fun t => { t with sliceFrom := s.tbase })) := by
  simp [sliceJob, ht, hr, hd, h0, Nat.not_lt.2 hs, hi]

/-- A task that may come in is admitted, and the dusk token sets out for it. -/
theorem sliceJob_sweep {b : Bid} {o : Nat × Nat} {c : Option Cand} (hi : incomingBid s t = some (b, o, c)) :
    sliceJob s tid = some (.seq (countBypasses s t.part (placement s t.part) b) (admitBid t.part b o c fun inc =>
      .upd (.task tid fun u => u.map fun t => { t with dusk := some ⟨0, some inc⟩ }))) := by
  simp [sliceJob, ht, hr, hd, h0, Nat.not_lt.2 hs, hi]

end

/-! ## The dusk token (15 R305, R306) -/

theorem execDuskToken_of_job {s : State} {tid : Nat} {a : Prog} (h : duskJob s tid = some a) : exec (.duskToken tid) s = .next (a.run s) := by
  show execDuskToken tid s = _
  simp only [execDuskToken, h, Prog.done_eq]

section
variable {s : State} {tid : Nat} {t : Task} {d : Dusk} (ht : s.task tid = some t) (hd : t.dusk = some d)
include ht hd

/-- Inside the rectangle the token moves on; before its first position no other token may be under way in its rectangle. -/
theorem duskJob_step (hp : d.pos < t.img.width * t.img.height)
    (ho : d.pos = 0 → ∀ e ∈ s.tasks, ∀ u x, e.1 ≠ tid → e.2 = some u → u.dusk = some x → x.pos = 0 ∨ overlaps u.rect t.rect = false) :
    duskJob s tid = some (duskStep tid t d) := by
  simp only [duskJob, ht, hd, hp, if_true]
  refine if_neg fun hwait => ?_
  obtain ⟨h0, hany⟩ := (Bool.and_eq_true _ _).mp hwait
  obtain ⟨e, he, hother⟩ := List.any_eq_true.1 hany
  obtain ⟨hne, hway⟩ := (Bool.and_eq_true _ _).mp hother
  split at hway
  · next u hu =>
    split at hway
    · next x hx =>
      obtain ⟨hpos, hover⟩ := (Bool.and_eq_true _ _).mp hway
      rcases ho (of_decide_eq_true h0) e he u x (by simpa using hne) hu hx with h | h
      · exact absurd h (Nat.ne_of_gt (of_decide_eq_true hpos))
      · cases h.symm.trans hover
    · cases hway
  · cases hway

/-- At its end the token leaves once no token of its task is on the mesh. -/
theorem duskJob_end (hp : t.img.width * t.img.height ≤ d.pos) (hf : ∀ f ∈ s.flits, ¬f.task = tid) : duskJob s tid = some (duskEnd tid t) := by
  have hnone : (s.flits.any fun f => f.task == tid) = false := by simpa using hf
  simp only [duskJob, ht, hd, Nat.not_lt.2 hp, hnone, if_false, Bool.false_eq_true]

end

/-! ## Granules and reins (04 R88, R89; 13 R267) -/

/-- A granule that is pending free, that nothing covers and to which no access is on its way is zeroed and free. -/
theorem execIreFree_frees {s : State} {asid arena g : Nat} {a : Arena} (ha : s.arena asid arena = some a) (hp : ∃ p ∈ a.pending, p = (g, []))
    (hc : Sparse.get 0 a.count g = 0) (hf : granuleInFlight s asid a.base g = false) :
    exec (.ireFree asid arena g) s = .next ((Prog.seq (zeroGranule asid a.base g) (onArena asid arena fun x => { x with
      taken := x.taken.filter fun h => !(h == g), pending := x.pending.filter fun p => !(p.1 == g) })).run s) := by
  obtain ⟨_, hp, rfl⟩ := hp
  have hpend : (a.pending.any fun p => p.1 == g && p.2 = []) = true := List.any_eq_true.2 ⟨_, hp, by simp⟩
  have hjob : ireJob s asid arena g = some a := by
    simp only [ireJob, ha, hpend, hc, hf, decide_true, Bool.not_false, Bool.and_self, if_true]
  show execIreFree asid arena g s = _
  simp only [execIreFree, hjob, Prog.done_eq]

section
variable {s : State} {k to_ input sender : Nat} {r : Quad} {t : Task} {d : Nat × Nat}

/-- A rein is delivered at a block boundary of the node that its input names. -/
theorem execReinDelivery_boundary (hr : s.reins[k]? = some (to_, input, r, sender)) (ht : s.task to_ = some t) (hi : reinInput t input = some d)
    (hb : (refNode s (homeRef s to_ t d.1)).cur = none) : exec (.reinDelivery k) s =
      .next ((deliverRein t (to_, input, r, sender) (homeRef s to_ t d.1) d.2).run { s with reins := s.reins.eraseIdx k }) := by
  have hjob : reinJob s k = some (.seq (.upd (.reins fun l => l.eraseIdx k)) (deliverRein t (to_, input, r, sender) (homeRef s to_ t d.1) d.2)) := by
    simp only [reinJob, hr, ht, hi, hb, Option.bind_some, Option.isSome_none, Bool.false_eq_true, if_false]
  show execReinDelivery k s = _
  simp only [execReinDelivery, hjob, Prog.done_eq, Prog.run_seq, Prog.run_upd, Upd.apply]

/-- A register without a live rein takes the one delivered, and the task has received it. -/
theorem deliverRein_writes {ref h : Nat} (h0 : (refNode s ref).hreg h = 0) : (deliverRein t (to_, input, r, sender) ref h).run s =
    (Prog.upd (.task to_ fun o => o.map fun t => { t with received := t.received ++ [r] })).run
      ((onRef ref fun nd => { nd with h := Sparse.put 0 nd.h h r }).run s) := by
  simp only [deliverRein, Prog.run_ask, h0, decide_true, Bool.not_true, Bool.false_eq_true, if_false, Prog.run_seq]

end

end Sys2Proof.Machine

open Sys2Proof Sys2Proof.Machine

/-- Settles O57: a commit unmarks its lines and ends its task; every other event is enabled where the statement says, and runs the program of its case. -/
theorem taskEvents : Obligations.TaskEvents := by
  intro s
  refine ⟨fun tid t hs ht hd => ?_, fun owner tid h => execOwnerTagCleared_of_slot h,
    fun p => ⟨fun l b k x hb hl hx => ?_, fun l b bs hb ht hl => ⟨fun k q e hv hw hr => ?_, fun o c hv hs hr => ?_⟩,
      fun b q e hw => ⟨fun c hc => ⟨fun hp => ?_, fun o ho hf => ?_⟩, fun z hz => ⟨fun hp => ?_, fun o ho => ?_⟩⟩, fun b hr => ?_⟩,
    fun tid t ht hr hd h0 hs => ⟨fun hi => ?_, fun b o c hi => ?_⟩, fun tid t d ht hd => ⟨fun hp ho => ?_, fun hp hf => ?_⟩,
    fun asid arena g a ha hp hc hf => execIreFree_frees ha hp hc hf, fun k to_ input r sender t d hr ht hi hb => ⟨?_, fun h0 => ?_⟩⟩
  · have hu := commitTask_unmarks hs tid t
    exact ⟨_, execTaskCommit_done ht hd, rfl, commitTask_ends ht, hu.held, hu.lines⟩
  · exact execAreaBidding_of_job (arbiterJob_trouble hb hl hx)
  · exact execAreaBidding_of_job (arbiterJob_first hb ht (fun a ha => bidJob_none (hl a ha)) (bidJob_reject hv hw hr))
  · exact execAreaBidding_of_job (arbiterJob_first hb ht (fun a ha => bidJob_none (hl a ha)) (bidJob_admit hv hs hr))
  · exact verdict_pass_wait hw hc fun o ho => nomatch hp.symm.trans ho
  · exact verdict_pass_wait hw hc fun o' ho' => Option.some.inj (ho.symm.trans ho') ▸ hf
  · exact (verdict_wait hw hz).trans (by rw [hp, placeless_none])
  · exact (verdict_wait hw hz).trans (by rw [ho, placeless_some])
  · have hfree : ¬(reservingBid s p).isSome = true := by rw [hr, Option.isSome_none]; exact Bool.false_ne_true
    exact if_neg hfree
  · exact execSliceExpiry_of_job (sliceJob_again ht hr hd h0 hs hi)
  · exact execSliceExpiry_of_job (sliceJob_sweep ht hr hd h0 hs hi)
  · exact execDuskToken_of_job (duskJob_step ht hd hp ho)
  · exact execDuskToken_of_job (duskJob_end ht hd hp hf)
  · exact execReinDelivery_boundary hr ht hi hb
  · exact deliverRein_writes h0

end

section
/-! PROOFS. The formats' words give back the word that they were read from, the opcode map names each form once (07 R144), and so the
decoder and the encoder are inverse. -/

namespace Sys2Proof
open Sys2Proof.Machine

/-! ## The formats' words, read and written again -/

/-- The top 44 bits of a word are its OPC and its header (07 R127). -/
theorem encodeTop_opcOf (w : Quad) : encodeTop (opcOf w) (decodeHdr w) = w.extractLsb' 84 44 := by
  simp only [encodeTop, opcOf, decodeHdr, BitVec.ofNat_toNat, BitVec.setWidth_eq, BitVec.extractLsb'_append_extractLsb'_eq_extractLsb']

theorem wordA_decodeA {w : Quad} (h : w.extractLsb' 0 8 = 0) : wordA (opcOf w) (decodeA w) = w := by
  rw [wordA, ← h]
  simp only [decodeA, encodeTop_opcOf, BitVec.extractLsb'_append_extractLsb'_eq_extractLsb', BitVec.extractLsb'_eq_self]

theorem wordB_decodeB {w : Quad} (h : w.extractLsb' 0 21 = 0) : wordB (opcOf w) (decodeB w) = w := by
  rw [wordB, ← h]
  simp only [decodeB, encodeTop_opcOf, BitVec.extractLsb'_append_extractLsb'_eq_extractLsb', BitVec.extractLsb'_eq_self]

theorem wordG_decodeG (w : Quad) : wordG (opcOf w) (decodeG w) = w := by
  simp only [wordG, decodeG, encodeTop_opcOf, BitVec.extractLsb'_append_extractLsb'_eq_extractLsb', BitVec.extractLsb'_eq_self]

theorem wordM_decodeM (w : Quad) : wordM (opcOf w) (decodeM w) = w := by
  simp only [wordM, decodeM, encodeTop_opcOf, BitVec.extractLsb'_append_extractLsb'_eq_extractLsb', BitVec.extractLsb'_eq_self]

theorem wordX_decodeX (w : Quad) : wordX (opcOf w) (decodeX w) = w := by
  simp only [wordX, decodeX, encodeTop_opcOf, BitVec.extractLsb'_append_extractLsb'_eq_extractLsb', BitVec.extractLsb'_eq_self]

theorem wordE_decodeE (w : Quad) : wordE (opcOf w) (decodeE w) = w := by
  simp only [wordE, decodeE, encodeTop_opcOf, BitVec.extractLsb'_append_extractLsb'_eq_extractLsb', BitVec.extractLsb'_eq_self]

theorem wordY_decodeY (w : Quad) : wordY (opcOf w) (decodeY w) = w := by
  simp only [wordY, decodeY, encodeTop_opcOf, BitVec.extractLsb'_append_extractLsb'_eq_extractLsb', BitVec.extractLsb'_eq_self]

/-! ## The opcode map (07 R144): what each table's forms are, and in which groups -/

section
variable {opc : Nat} {i : Instr}

theorem formA_some {f : FmtA} (h : formA opc f = some i) : i.body = .a f ∧ i.opc = opc ∧ 2 ≤ opc / 32 ∧ opc / 32 ≤ 9 := by
  by_cases hv : f.var = 1
  · simp only [formA, if_pos hv] at h
    split at h <;> cases h
    all_goals exact ⟨rfl, rfl, by decide, by decide⟩
  · simp only [formA, if_neg hv] at h
    split at h <;> cases h
    all_goals exact ⟨rfl, rfl, by decide, by decide⟩

theorem formG_some {f : FmtG} (h : formG opc f = some i) : i.body = .g f ∧ i.opc = opc ∧ (opc / 32 = 1 ∨ opc / 32 = 10) := by
  unfold formG at h
  split at h <;> cases h
  all_goals exact ⟨rfl, rfl, by decide⟩

theorem formB_some {f : FmtB} (h : formB opc f = some i) : i.body = .b f ∧ i.opc = opc ∧ opc / 32 = 0 := by
  unfold formB at h
  split at h <;> cases h
  all_goals exact ⟨rfl, rfl, rfl⟩

theorem formM_some {f : FmtM} (h : formM opc f = some i) : i.body = .m f ∧ i.opc = opc ∧ 12 ≤ opc / 32 ∧ opc / 32 ≤ 14 := by
  unfold formM at h
  split at h <;> cases h
  all_goals exact ⟨rfl, rfl, by decide, by decide⟩

theorem formX_some {f : FmtX} (h : formX opc f = some i) : i.body = .x f ∧ i.opc = opc ∧ opc / 32 = 11 := by
  unfold formX at h
  split at h <;> cases h
  all_goals exact ⟨rfl, rfl, rfl⟩

theorem formE_some {f : FmtE} (h : formE opc f = some i) : i.body = .e f ∧ i.opc = opc ∧ 15 ≤ opc / 32 ∧ opc / 32 ≤ 16 := by
  unfold formE at h
  split at h <;> cases h
  all_goals exact ⟨rfl, rfl, by decide, by decide⟩

theorem formY_some {f : FmtY} (h : formY opc f = some i) : i.body = .y f ∧ i.opc = opc ∧ opc / 32 = 17 := by
  unfold formY at h
  split at h <;> cases h
  all_goals exact ⟨rfl, rfl, rfl⟩

end

/-- The form of an OPC and a body: that of the body's own table; an event has none. -/
def formOf (opc : Nat) : Body → Option Instr
  | .a f => formA opc f
  | .g f => formG opc f
  | .b f => formB opc f
  | .m f => formM opc f
  | .x f => formX opc f
  | .e f => formE opc f
  | .y f => formY opc f
  | .event => none

/-- Every form stands in its body's table under its own OPC; where two share an OPC, VAR tells them apart (10 R212). -/
theorem formOf_opc_body {i : Instr} (hv : varFits i = true) : formOf i.opc i.body = if isForm i then some i else none := by
  cases i with
  | jord f => exact congrArg some (if_neg (of_decide_eq_false (Bool.not_eq_true' _ |>.mp hv)))
  | jflag f => exact congrArg some (if_neg (of_decide_eq_false (Bool.not_eq_true' _ |>.mp hv)))
  | jordSet f => exact congrArg some (if_pos (of_decide_eq_true hv))
  | jflagClr f => exact congrArg some (if_pos (of_decide_eq_true hv))
  | _ => rfl

/-! ## The decoder on the encoder's words, and the words that the decoder accepts -/

section
variable {opc : Nat} {i : Instr}

theorem decode_wordA {f : FmtA} (h : formA opc f = some i) : decode (wordA opc f) = .ok i := by
  obtain ⟨-, -, hlo, hhi⟩ := formA_some h
  have hopc : opcOf (wordA opc f) = opc := (opcOf_wordA opc f).trans (Nat.mod_eq_of_lt (by omega))
  have hg : ¬opc / 32 = 0 ∧ ¬opc / 32 = 1 ∧ ¬opc / 32 = 10 := by omega
  simp [decode, hopc, hg, hhi, decodeA_word, wordA_low, h, orUnassigned]

theorem decode_wordG {f : FmtG} (h : formG opc f = some i) : decode (wordG opc f) = .ok i := by
  obtain ⟨-, -, hg⟩ := formG_some h
  have hopc : opcOf (wordG opc f) = opc := (opcOf_wordG opc f).trans (Nat.mod_eq_of_lt (by omega))
  have h0 : ¬opc / 32 = 0 := by omega
  simp [decode, hopc, hg, h0, decodeG_word, h, orUnassigned]

theorem decode_wordB {f : FmtB} (h : formB opc f = some i) : decode (wordB opc f) = .ok i := by
  obtain ⟨-, -, hg⟩ := formB_some h
  have hopc : opcOf (wordB opc f) = opc := (opcOf_wordB opc f).trans (Nat.mod_eq_of_lt (by omega))
  simp [decode, hopc, hg, decodeB_word, wordB_low, h, orUnassigned]

theorem decode_wordM {f : FmtM} (h : formM opc f = some i) : decode (wordM opc f) = .ok i := by
  obtain ⟨-, -, hlo, hhi⟩ := formM_some h
  have hopc : opcOf (wordM opc f) = opc := (opcOf_wordM opc f).trans (Nat.mod_eq_of_lt (by omega))
  have hg : ¬opc / 32 = 0 ∧ ¬opc / 32 = 1 ∧ ¬opc / 32 = 10 ∧ ¬opc / 32 ≤ 9 ∧ ¬opc / 32 = 11 := by omega
  simp [decode, hopc, hg, hhi, decodeM_word, h, orUnassigned]

theorem decode_wordX {f : FmtX} (h : formX opc f = some i) : decode (wordX opc f) = .ok i := by
  obtain ⟨-, -, hg⟩ := formX_some h
  have hopc : opcOf (wordX opc f) = opc := (opcOf_wordX opc f).trans (Nat.mod_eq_of_lt (by omega))
  simp [decode, hopc, hg, decodeX_word, h, orUnassigned]

theorem decode_wordE {f : FmtE} (h : formE opc f = some i) : decode (wordE opc f) = .ok i := by
  obtain ⟨-, -, hlo, hhi⟩ := formE_some h
  have hopc : opcOf (wordE opc f) = opc := (opcOf_wordE opc f).trans (Nat.mod_eq_of_lt (by omega))
  have hg : ¬opc / 32 = 0 ∧ ¬opc / 32 = 1 ∧ ¬opc / 32 = 10 ∧ ¬opc / 32 ≤ 9 ∧ ¬opc / 32 = 11 ∧ ¬opc / 32 ≤ 14 := by omega
  simp [decode, hopc, hg, hhi, decodeE_word, h, orUnassigned]

theorem decode_wordY {f : FmtY} (h : formY opc f = some i) : decode (wordY opc f) = .ok i := by
  obtain ⟨-, -, hg⟩ := formY_some h
  have hopc : opcOf (wordY opc f) = opc := (opcOf_wordY opc f).trans (Nat.mod_eq_of_lt (by omega))
  simp [decode, hopc, hg, decodeY_word, h, orUnassigned]

theorem orUnassigned_ok {o : Option Instr} (h : orUnassigned o = .ok i) : o = some i := by
  cases o with
  | none => nomatch h
  | some j => exact congrArg some (Except.ok.inj h)

/-- A word that decodes is one of its group's table (07 R144), and in formats A and B its lowest bits are zero (07 R131, R133). -/
theorem decode_ok {w : Quad} (h : decode w = .ok i) :
    (formA (opcOf w) (decodeA w) = some i ∧ w.extractLsb' 0 8 = 0) ∨ formG (opcOf w) (decodeG w) = some i ∨
    (formB (opcOf w) (decodeB w) = some i ∧ w.extractLsb' 0 21 = 0) ∨ formM (opcOf w) (decodeM w) = some i ∨
    formX (opcOf w) (decodeX w) = some i ∨ formE (opcOf w) (decodeE w) = some i ∨ formY (opcOf w) (decodeY w) = some i := by
  have refused : ∀ b : Bool, ¬(if b then .error .mustBeZero else .error .unassignedOpc : Except DecodeError Instr) = .ok i := by
    intro b hb
    cases b <;> nomatch hb
  simp only [decode] at h
  split at h
  · split at h
    · exact .inr (.inr (.inl ⟨orUnassigned_ok h, ‹_›⟩))
    · exact absurd h (refused _)
  split at h
  · exact .inr (.inl (orUnassigned_ok h))
  split at h
  · split at h
    · exact .inl ⟨orUnassigned_ok h, ‹_›⟩
    · exact absurd h (refused _)
  split at h
  · exact .inr (.inr (.inr (.inr (.inl (orUnassigned_ok h)))))
  split at h
  · exact .inr (.inr (.inr (.inl (orUnassigned_ok h))))
  split at h
  · exact .inr (.inr (.inr (.inr (.inr (.inl (orUnassigned_ok h))))))
  · exact .inr (.inr (.inr (.inr (.inr (.inr (orUnassigned_ok h))))))

end

/-- 07 R144: no table has a form in the groups 0x12 to 0x1F. -/
theorem decode_unassigned {w : Quad} (h : 0x12 ≤ opcOf w / 32) : decode w = .error .unassignedOpc := by
  have hn : formY (opcOf w) (decodeY w) = none := Option.eq_none_iff_forall_ne_some.2 fun i hi => by
    obtain ⟨-, -, hg⟩ := formY_some hi
    omega
  have hg : ¬opcOf w / 32 = 0 ∧ ¬opcOf w / 32 = 1 ∧ ¬opcOf w / 32 = 10 ∧ ¬opcOf w / 32 ≤ 9 ∧ ¬opcOf w / 32 = 11 ∧ ¬opcOf w / 32 ≤ 14 ∧
      ¬opcOf w / 32 ≤ 16 := by omega
  simp [decode, hg, hn, orUnassigned]

end Sys2Proof

open Sys2Proof Sys2Proof.Machine

/-- Settles O5: each form stands in its format's table, and the decoder reads from the format's word the table's form. -/
theorem decodeInvertsEncode : Obligations.DecodeInvertsEncode := by
  intro i hf hv
  have hi : formOf i.opc i.body = some i := (formOf_opc_body hv).trans (if_pos hf)
  cases hb : i.body <;> rw [hb] at hi
  case event => nomatch hi
  case a f => exact ⟨wordA i.opc f, by simp only [encode, hb], decode_wordA hi⟩
  case g f => exact ⟨wordG i.opc f, by simp only [encode, hb], decode_wordG hi⟩
  case b f => exact ⟨wordB i.opc f, by simp only [encode, hb], decode_wordB hi⟩
  case m f => exact ⟨wordM i.opc f, by simp only [encode, hb], decode_wordM hi⟩
  case x f => exact ⟨wordX i.opc f, by simp only [encode, hb], decode_wordX hi⟩
  case e f => exact ⟨wordE i.opc f, by simp only [encode, hb], decode_wordE hi⟩
  case y f => exact ⟨wordY i.opc f, by simp only [encode, hb], decode_wordY hi⟩

/-- Settles O6: what decodes came from its format's table, and the format's fields and its OPC make up the whole word. -/
theorem encodeInvertsDecode : Obligations.EncodeInvertsDecode := by
  intro w i h
  obtain ⟨hi, hz⟩ | hi | ⟨hi, hz⟩ | hi | hi | hi | hi := decode_ok h
  · obtain ⟨hb, ho, -⟩ := formA_some hi
    simp only [encode, hb, ho, wordA_decodeA hz]
  · obtain ⟨hb, ho, -⟩ := formG_some hi
    simp only [encode, hb, ho, wordG_decodeG]
  · obtain ⟨hb, ho, -⟩ := formB_some hi
    simp only [encode, hb, ho, wordB_decodeB hz]
  · obtain ⟨hb, ho, -⟩ := formM_some hi
    simp only [encode, hb, ho, wordM_decodeM]
  · obtain ⟨hb, ho, -⟩ := formX_some hi
    simp only [encode, hb, ho, wordX_decodeX]
  · obtain ⟨hb, ho, -⟩ := formE_some hi
    simp only [encode, hb, ho, wordE_decodeE]
  · obtain ⟨hb, ho, -⟩ := formY_some hi
    simp only [encode, hb, ho, wordY_decodeY]

/-- Settles O1: the decoder is run on the words written out; that no table has a form above group 0x11 refuses the rest. -/
theorem decodeReadsSpecWords : Obligations.DecodeReadsSpecWords :=
  ⟨by decide +kernel, fun _ h => decode_unassigned h⟩

end

section
/-! PROOFS. The control registers, number by number (07 R147–R151, 06 R114). -/

namespace Sys2Proof.Bits

theorem total_append (l l' : List Nat) : total (l ++ l') = total l + total l' := by
  induction l with
  | nil => exact (Nat.zero_add _).symm
  | cons x xs ih => rw [List.cons_append, total, total, ih, Nat.add_assoc]

theorem total_powers_succ (p : Nat → Bool) (n : Nat) : total ((List.range (n + 1)).map fun b => if p b then 2 ^ b else 0) =
    total ((List.range n).map fun b => if p b then 2 ^ b else 0) + if p n then 2 ^ n else 0 := by
  rw [List.range_succ, List.map_append, total_append]
  rfl

theorem total_powers_lt (p : Nat → Bool) (n : Nat) : total ((List.range n).map fun b => if p b then 2 ^ b else 0) < 2 ^ n := by
  induction n with
  | zero => exact Nat.zero_lt_one
  | succ n ih =>
    rw [total_powers_succ, Nat.pow_succ]
    split <;> omega

/-- A sum of distinct powers of two has the bits of its powers. -/
theorem testBit_total_powers (p : Nat → Bool) {n b : Nat} (h : b < n) :
    (total ((List.range n).map fun b => if p b then 2 ^ b else 0)).testBit b = p b := by
  induction n with
  | zero => omega
  | succ n ih =>
    rw [total_powers_succ]
    obtain rfl | hb : b = n ∨ b < n := by omega
    · cases p b with
      | false => exact Nat.testBit_lt_two_pow (total_powers_lt p b)
      | true =>
        rw [if_pos rfl, Nat.add_comm, Nat.testBit_two_pow_add_eq, Nat.testBit_lt_two_pow (total_powers_lt p b), Bool.not_false]
    · rw [← ih hb]
      split
      · rw [Nat.add_comm, Nat.testBit_two_pow_add_gt hb]
      · rfl

end Sys2Proof.Bits

namespace Sys2Proof.Machine
open Sys2Proof.Bits

section
variable (c : Fx) {k : Nat}

theorem csrValue_fwin (h : k < 64) : csrValue c (0x100 + k) = c.m.snap.fwin.getD k 0 := by
  simp (disch := omega) only [csrValue, Bool.and_eq_true, decide_eq_true_eq, if_neg, if_pos, Nat.add_sub_cancel_left]

theorem csrValue_mon {v : BitVec 16} {ok : Bool} (h : k < 3) (hm : c.m.snap.mon[k]? = some (v, ok)) :
    csrValue c (0x200 + k) = BitVec.ofNat 64 (v.toNat + if ok then 2 ^ 63 else 0) := by
  simp (disch := omega) only [csrValue, Bool.and_eq_true, decide_eq_true_eq, if_neg, if_pos, Nat.add_sub_cancel_left, hm]

theorem csrValue_bad {b : Nat} (h : k < 32) (hb : b < 64) : (csrValue c (0x300 + k)).getLsbD b = c.m.snap.bad.contains (64 * k + b) := by
  simp (disch := omega) only [csrValue, Bool.and_eq_true, decide_eq_true_eq, if_neg, if_pos, Nat.add_sub_cancel_left]
  rw [BitVec.getLsbD_ofNat, testBit_total_powers (fun b => c.m.snap.bad.contains (64 * k + b)) hb, decide_eq_true hb, Bool.true_and]

theorem csrValue_fs (h : k < 8) : csrValue c (0x8000 + k) = c.m.snap.fs.getD k 0 := by
  simp (disch := omega) only [csrValue, Bool.and_eq_true, decide_eq_true_eq, if_neg, if_pos, Nat.add_sub_cancel_left]

end

end Sys2Proof.Machine

open Sys2Proof Sys2Proof.Machine

/-- Settles O31: the single registers are read by their numbers, the windows of the map by the place in them. -/
theorem csrValues : Obligations.CsrValues := fun c =>
  ⟨rfl, rfl, rfl, rfl, rfl, rfl, rfl, rfl, rfl, rfl, fun _ => csrValue_fs c, fun _ => csrValue_fwin c, fun _ _ _ => csrValue_mon c,
    fun _ _ => csrValue_bad c⟩

end

section
/-! PROOFS. Fetch, map, commit and the return of a load (07 R145, R146; 01 R17–R20; 13 R247). -/

namespace Sys2Proof

/-- Writing at a key below every listed one. -/
theorem Sparse.put_below {α : Type} [DecidableEq α] {d : α} {lo k : Nat} {m : List (Nat × α)} (v : α) (hm : Sparse.okFrom d lo m = true)
    (h : k < lo) : Sparse.put d m k v = if v = d then m else (k, v) :: m := by
  cases m with
  | nil => rfl
  | cons e m =>
    obtain ⟨a, x⟩ := e
    exact Sparse.put_lt v (Nat.lt_of_lt_of_le h (Sparse.okFrom_cons.1 hm).1)

/-- Of two writes at one key the second stands. -/
theorem Sparse.put_put {α : Type} [DecidableEq α] {d : α} {lo k : Nat} {m : List (Nat × α)} (v w : α) (hm : Sparse.okFrom d lo m = true) :
    Sparse.put d (Sparse.put d m k v) k w = Sparse.put d m k w := by
  induction m generalizing lo with
  | nil =>
    by_cases hv : v = d
    · rw [Sparse.put, if_pos hv]
    · rw [Sparse.put, if_neg hv, Sparse.put_eq, Sparse.put]
  | cons e m ih =>
    obtain ⟨a, x⟩ := e
    have hok := (Sparse.okFrom_cons.1 hm).2.2
    rcases Nat.lt_trichotomy k a with hk | rfl | hk
    · rw [Sparse.put_lt v hk, Sparse.put_lt w hk]
      by_cases hv : v = d
      · rw [if_pos hv, Sparse.put_lt w hk]
      · rw [if_neg hv, Sparse.put_eq]
    · rw [Sparse.put_eq, Sparse.put_eq]
      by_cases hv : v = d
      · rw [if_pos hv, Sparse.put_below w hok (Nat.lt_succ_self k)]
      · rw [if_neg hv, Sparse.put_eq]
    · rw [Sparse.put_gt v hk, Sparse.put_gt w hk, Sparse.put_gt w hk, ih hok]

end Sys2Proof

namespace Sys2Proof.Machine
open Sys2Proof.Bits

/-- A node after a change of it. -/
theorem node_upd {s : State} (hs : s.Canonical) (n : Nat) (f : Node → Node) : ((Upd.node n f).apply s).node n = f (s.node n) :=
  (Sparse.get_put n _ n hs.nodes).trans (if_pos rfl)

/-- Two changes of a node are one. -/
theorem node_upd_upd {s : State} (hs : s.Canonical) (n : Nat) (f g : Node → Node) :
    (Upd.node n g).apply ((Upd.node n f).apply s) = (Upd.node n fun nd => g (f nd)).apply s := by
  have hg : g (((Upd.node n f).apply s).node n) = g (f (s.node n)) := congrArg g (node_upd hs n f)
  have hm : Sparse.put Node.reset (Sparse.put Node.reset s.nodes n (f (s.node n))) n (g (((Upd.node n f).apply s).node n)) =
      Sparse.put Node.reset s.nodes n (g (f (s.node n))) := by rw [hg, Sparse.put_put _ _ hs.nodes]
  exact congrArg (fun m => { s with nodes := m }) hm

section
variable {s : State} {n tid : Nat} {t : Task}

theorem taskOf_of_task (hn : (s.node n).task = some tid) (ht : s.task tid = some t) : s.taskOf n = some t := by
  rw [State.taskOf, hn, Option.bind_some, ht]

/-! ## Fetch (07 R146) -/

/-- A node with no block mapped or fetched fetches its next context's. -/
theorem fetchJob_now {c : Nat} (hr : mayRun s n = true) (hc : (s.node n).cur = none) (hf : (s.node n).fetched = none)
    (hp : (s.node n).prefetched = none) (hx : (s.node n).nextCtx = some c) : fetchJob s n = some (.now c ((s.node n).ctx c)) := by
  simp only [fetchJob, hr, hc, hf, hp, hx, Bool.not_true, Option.isSome_none, Bool.or_false, Bool.false_eq_true, if_false]

theorem execBlockFetch_wide {c : Nat} {x : Ctx} {w : Word} (hj : fetchJob s n = some (.now c x)) (hw : x.wide = some w) :
    exec (.blockFetch n) s = .next ((takeFault n (fetchFault x.pc 6 w)).run s) := by
  show execBlockFetch n s = _
  simp only [execBlockFetch, hj, hw, Prog.done_eq]

theorem execBlockFetch_reads {c : Nat} {x : Ctx} (hj : fetchJob s n = some (.now c x)) (hw : x.wide = none) :
    exec (.blockFetch n) s = .next ((fetchBlock n c x.pc false).run s) := by
  show execBlockFetch n s = _
  simp only [execBlockFetch, hj, hw, Prog.done_eq]

/-- A block that lies in memory, is one, lies in its task's image and is stopped by nothing is fetched whole. -/
theorem fetchBlock_whole (hn : (s.node n).task = some tid) (ht : s.task tid = some t) {c : Nat} {pc : BitVec 58} (hb : bit pc 57 = false)
    {a : Nat} (ha : a = field pc 0 57) {b : Fetched} (hbk : b = ⟨c, pc, quadsOf 4 (fetchBytes s n t a 64), []⟩)
    (h64 : fetchStop s n tid t pc a 64 = none) (hk : hKind b = 0xB1 ∨ hKind b = 0xB2) (he : inExtent t b = true)
    (hall : fetchStop s n tid t pc a (blockBytes b) = none) :
    (fetchBlock n c pc false).run s = (fetchDone n false { b with ins := quadsOf (hNins b) (fetchBytes s n t (a + 64) (16 * hNins b)) }).run
      ((fetchFills n t.part (fetchLines s n t a (blockBytes b))).run
        ((Prog.each (pageStarts a (blockBytes b)) fun v => touchTlb (nodeDie n) t.asid v).run s)) := by
  subst ha
  have hgood : (!(hKind b = 0xB1 || hKind b = 0xB2) || !inExtent t b) = false := by
    rw [he, Bool.not_true, Bool.or_false, Bool.not_eq_false']
    exact Bool.or_eq_true_iff.2 (hk.imp decide_eq_true decide_eq_true)
  rw [hbk] at hgood hall ⊢
  simp only [fetchBlock, Prog.run_ask, hn, taskOf_of_task hn ht, hb, h64, hgood, hall, Bool.false_eq_true, if_false, Prog.run_all_cons, Prog.run_all_nil]

/-! ## Map (07 R145) -/

theorem execBlockMap_of_job {b : Fetched} (hj : mapJob s n = some b) : exec (.blockMap n) s = .next ((mapBlock n b).run s) := by
  show execBlockMap n s = _
  simp only [execBlockMap, hj, Prog.done_eq]

/-- The node of a map that has drawn, the block taken from the place to which it was fetched. -/
def Node.mapDrawn (b : Fetched) (nd : Node) : Node :=
  { nd with crib := nd.crib.draw (16 + 2 * hNins b) (tagColour (nd.ctx b.ctx).ctag), fetched := none, prefetched := none }

@[simp] theorem Node.mapDrawn_task (b : Fetched) (nd : Node) : (nd.mapDrawn b).task = nd.task := rfl
@[simp] theorem Node.mapDrawn_jord (b : Fetched) (nd : Node) : (nd.mapDrawn b).jord = nd.jord := rfl
@[simp] theorem Node.mapDrawn_h (b : Fetched) (nd : Node) : (nd.mapDrawn b).h = nd.h := rfl
@[simp] theorem Node.mapDrawn_pins (b : Fetched) (nd : Node) : (nd.mapDrawn b).pins = nd.pins := rfl

/-- The block as it stands when it has been mapped, before its header reads. -/
def mappedOf (u : State) (n : Nat) (nd : Node) (b : Fetched) : Mapped :=
  { blk := b, snap := snapOf u n b, h := nd.h, pins := nd.pins, units := if hKind b = 0xB2 then [] else [CUnit.fresh (nd.ctx b.ctx).ctag],
    reads := [], latches := [], takes := [], ready := [], faults := [], under := none }

/-- A read in trap mode is what names an empty register. -/
theorem trapEmpty_noReads {b : Fetched} (h : hReads b = []) {nd : Node} {m : Mapped} (hm : m.blk = b) : trapEmpty nd m = none := by
  rw [trapEmpty, hm, h]
  rfl

theorem mapDraw_covered {d col : Nat} {pc : BitVec 58} {k : Prog} (h : d ≤ (s.node n).crib.remaining) :
    (mapDraw n d pc col k).run s = k.run ((Upd.node n fun nd => { nd with crib := nd.crib.draw d col }).apply s) := by
  simp only [mapDraw, Prog.run_ask, h, if_true, Prog.run_seq, Prog.run_upd]

/-- Taking the block and drawing is one change of the node. -/
theorem upd_mapDrawn (hs : s.Canonical) (b : Fetched) :
    (Upd.node n fun nd => { nd with crib := nd.crib.draw (16 + 2 * hNins b) (tagColour ((s.node n).ctx b.ctx).ctag) }).apply
      ((Upd.node n fun nd => { nd with fetched := none, prefetched := none }).apply s) = (Upd.node n (Node.mapDrawn b)).apply s :=
  node_upd_upd hs n _ _

theorem taskOf_mapDrawn (hs : s.Canonical) (hn : (s.node n).task = some tid) (ht : s.task tid = some t) (b : Fetched) :
    ((Upd.node n (Node.mapDrawn b)).apply s).taskOf n = some t :=
  taskOf_of_task (by rw [node_upd hs, Node.mapDrawn_task, hn]) ht

section
variable {b : Fetched} (hs : s.Canonical) (hn : (s.node n).task = some tid) (ht : s.task tid = some t)
  (hd : 16 + 2 * hNins b ≤ (s.node n).crib.remaining)
include hs hn ht hd

theorem mapBlock_fails {code place info : Nat} {addr : Word} (hf : mapFailure t n (s.node n).jord b = some (code, place, info, addr)) :
    (mapBlock n b).run s =
      (takeFault n ⟨code, place, b.pc, 0, addr, BitVec.ofNat 64 info⟩).run ((Upd.node n (Node.mapDrawn b)).apply s) := by
  simp only [mapBlock, Prog.run_ask, Prog.run_seq, Prog.run_upd]
  rw [mapDraw_covered (by rw [node_upd hs]; exact hd), upd_mapDrawn hs]
  simp only [Prog.run_ask, taskOf_mapDrawn hs hn ht, node_upd hs, Node.mapDrawn_jord, hf]

theorem mapBlock_maps (hf : mapFailure t n (s.node n).jord b = none) (hr : hReads b = []) :
    (mapBlock n b).run s = (Prog.seq (.upd (.node n fun x => { x with
      cur := some (mappedOf ((Upd.node n (Node.mapDrawn b)).apply s) n (s.node n) b) })) (injectReads n)).run
        ((Upd.node n (Node.mapDrawn b)).apply s) := by
  simp only [mapBlock, Prog.run_ask, Prog.run_seq, Prog.run_upd]
  rw [mapDraw_covered (by rw [node_upd hs]; exact hd), upd_mapDrawn hs]
  simp only [Prog.run_ask, Prog.run_seq, Prog.run_upd, taskOf_mapDrawn hs hn ht, node_upd hs, Node.mapDrawn_jord, hf, trapEmpty_noReads hr,
    Node.mapDrawn_h, Node.mapDrawn_pins, mappedOf]

end

/-! ## Commit (01 R19, R20) -/

theorem execBlockCommit_takesEffect {colour : Nat} {c : Commit} (hr : readyFirst s n colour = true) (hj : judge s n colour = .ok c)
    (ht : hubTrouble s c = none) : exec (.blockCommit n colour) s = .next ((commitEffects c).run s) := by
  show execBlockCommit n colour s = _
  simp only [execBlockCommit, hj, hr, ht, if_true, Option.getD_none, Prog.done_eq]

theorem execBlockCommit_trouble {colour : Nat} {c : Commit} {p : Prog} (hr : readyFirst s n colour = true) (hj : judge s n colour = .ok c)
    (ht : hubTrouble s c = some p) : exec (.blockCommit n colour) s = .next (p.run s) := by
  show execBlockCommit n colour s = _
  simp only [execBlockCommit, hj, hr, ht, if_true, Option.getD_some, Prog.done_eq]

theorem execBlockCommit_faults {colour : Nat} {f : FaultRec} (hr : readyFirst s n colour = true) (hj : judge s n colour = .fault f) :
    exec (.blockCommit n colour) s = .next ((takeFault n f).run s) := by
  show execBlockCommit n colour s = _
  simp only [execBlockCommit, hj, hr, if_true, Prog.done_eq]

/-- A unit is not the next to commit only where another of its loop-resident block became ready before it. -/
theorem readyFirst_false {colour : Nat} {m : Mapped} (hn : (s.node n).task = some tid) (ht : s.task tid = some t)
    (hm : (s.node n).cur = some m) (hr : readyFirst s n colour = false) :
    m.loop = true ∧ ∃ x, m.ready.head? = some x ∧ ¬x = unitOf t n (s.node n) m colour := by
  simp only [readyFirst, hm, taskOf_of_task hn ht, Bool.or_eq_false_iff, Bool.not_eq_false'] at hr
  obtain ⟨hl, hh⟩ := hr
  cases hx : m.ready.head? with
  | none => rw [hx] at hh; nomatch hh
  | some x =>
    rw [hx] at hh
    exact ⟨hl, x, rfl, beq_eq_false_iff_ne.1 hh⟩

/-! ## The return of a load (13 R247) -/

theorem execLoadValueReturn_emits {k : Nat} {l : PLoad} {m : Mapped} {tg : Tag} {cl : Option Claim} (hn : (s.node n).task = some tid)
    (ht : s.task tid = some t) (hl : (s.node n).loads[k]? = some l) (hm : (s.node n).cur = some m) (hf : bit (s.node n).fs.code 63 = false)
    (hw : l.wait = []) (hu : ¬(m.unit l.unit).lsid l.lsid = .nulled) (hg : tagRes t l.tag l.instr.hdr.tagop.toNat = .ok tg cl) :
    exec (.loadValueReturn n k) s = .next ((loadEmit n l m.snap.jord tid tg cl false).run
      ((Prog.upd (.node n fun nd => { nd with loads := nd.loads.eraseIdx k })).run s)) := by
  have hj : returnJob s n k = some (.seq (.upd (.node n fun nd => { nd with loads := nd.loads.eraseIdx k })) (loadEmit n l m.snap.jord tid tg cl false)) := by
    simp only [returnJob, hl, hm, hn, taskOf_of_task hn ht, hf, hw, hu, hg, decide_true, decide_false, Bool.not_true, Bool.false_and,
      Bool.false_eq_true, if_false]
  show execLoadValueReturn n k s = _
  simp only [execLoadValueReturn, hj, Prog.done_eq, Prog.run_seq]

end

end Sys2Proof.Machine

open Sys2Proof Sys2Proof.Machine

/-- Settles O55: each event has its job where the statement says, and runs the program of its case; the two changes that a map makes of its node
are one. -/
theorem blockEvents : Obligations.BlockEvents := by
  intro s n tid t hn ht
  refine ⟨fun c hr hc hf hp hx => ?_, fun c pc hb h64 hk he hall => fetchBlock_whole hn ht hb rfl rfl h64 hk he hall,
    fun b hs hj hd => ⟨fun code place info addr hf => ?_, fun hf hr => ?_⟩,
    fun colour hr => ⟨fun c => execBlockCommit_takesEffect hr, fun c p => execBlockCommit_trouble hr, fun f => execBlockCommit_faults hr⟩,
    fun colour m hr hm => readyFirst_false hn ht hm hr,
    fun k l m tg cl hl hm hf hw hu hg => execLoadValueReturn_emits hn ht hl hm hf hw hu hg⟩
  · have hj := fetchJob_now hr hc hf hp hx
    exact ⟨fun w => execBlockFetch_wide hj, execBlockFetch_reads hj⟩
  · exact (execBlockMap_of_job hj).trans (congrArg _ (mapBlock_fails hs hn ht hd hf))
  · exact (execBlockMap_of_job hj).trans (congrArg _ (mapBlock_maps hs hn ht hd hf hr))

end

section
/-! PROOFS. What TALLOC does (08 R165): besides taking the iteration it notes that it gave it, which TFREE asks for. -/

namespace Sys2Proof.Machine

/-- TALLOC of an iteration of a tag space that stands emits under it, takes its slot, and notes in the frame that it was given. -/
theorem execTalloc_gives {f : FmtG} {s : State} {c : Fx} {g : BitVec 16} {d : TokData} {x j : Nat} {fr : Frame} (hm : c.mode false = .go g)
    (hd : gated c g (leftData c) = some d) (hx : spaceOf c = some (x, fr))
    (hj : (List.range fr.win).find? (fun j => !(fr.live.contains j)) = some j) (h : Fires (.talloc f) s c) (hc : Covers c (graphDraw c)) :
    exec (.talloc f) s = .next (c.acted (graphDraw c) (.seq (giveTag c x j) (c.emit (mkTag x j) d false))) := by
  show execTalloc f s = _
  rw [execTalloc, tagForm, fire_fires h]
  simp only [hm, hd, tallocPlan, hx, hj, emitUnder]
  exact Fx.run_act hc

/-- A TALLOC of the S plane without targets, and the space of its own from which it has given iterations 0 and 1 of three. -/
def plainTalloc : Instr := .talloc ⟨⟨0, 0, 0, 0, 0, 0⟩, 0, 0, 0⟩
def ownSpace : Frame :=
  { Frame.make .tagSpace 0 with win := 3, free := 1, live := [0, 1], given := [0, 1], owner := some (nodeM (oneTask (nodeX placeAt) (nodeY placeAt)) placeAt, 0, 0, 0) }

/-- The TALLOC about to fire in a task whose colour 3 is its space. -/
def aboutToGive : State :=
  { State.reset with
    power := .running
    cur := some ⟨placeAt, 0, 0⟩
    nodes := [(placeAt, oneNode plainTalloc 0)]
    tasks := [(1, some { oneTask (nodeX placeAt) (nodeY placeAt) with frames := [(0, Frame.make .root 0), (3, ownSpace)] })] }

/-- The iterations that TALLOC has given of colour 3 of task 1. -/
def givenOf (s : State) : Option (List Nat) := ((s.task 1).bind fun t => t.frame 3).map fun fr => fr.given

/-- The firing gives iteration 2 and notes it; taking its slot alone notes nothing. -/
theorem aboutToGive_notes : ∃ c, Fires plainTalloc aboutToGive c ∧ Covers c 4 ∧ c.mode false = .go 0xFFFF ∧
    gated c 0xFFFF (leftData c) = some (.scalar 0) ∧ spaceOf c = some (3, ownSpace) ∧
    givenOf (c.acted 4 (.seq (giveTag c 3 2) (c.emit (mkTag 3 2) (.scalar 0) false))) = some [0, 1, 2] ∧
    givenOf (c.acted 4 (.seq (takeClaim c.tid c.n c.ut (some (.slot 3 2))) (c.emit (mkTag 3 2) (.scalar 0) false))) = some [0, 1] :=
  ⟨_, ⟨rfl, rfl, rfl, rfl, rfl⟩, by unfold Covers; decide, rfl, rfl, rfl, rfl, rfl⟩

end Sys2Proof.Machine

open Sys2Proof Sys2Proof.Machine

/-- Refutes O28: at `aboutToGive` TALLOC notes in its space's frame that it gave iteration 2, and the statement's state lacks that note. -/
theorem not_loopForms : ¬ Obligations.LoopForms := by
  intro h
  obtain ⟨c, hf, hc, hm, hd, hx, hgives, htakes⟩ := aboutToGive_notes
  obtain ⟨hopen, -, -⟩ := h.1 _ aboutToGive c 0xFFFF hm
  obtain ⟨-, -, -, -, htalloc, -⟩ := hopen _ hd
  have hfree : (List.range ownSpace.win).find? (fun j => !(ownSpace.live.contains j)) = some 2 := rfl
  have hsays := htalloc 3 ownSpace hx 2 hfree hf hc
  have hdoes := execTalloc_gives hm hd hx hfree hf (by rw [graphDraw_scalar (congrArg Hdr.plane hf.hdr)]; exact hc)
  rw [graphDraw_scalar (congrArg Hdr.plane hf.hdr)] at hdoes
  have hgiven := congrArg givenOf (Host.Outcome.next.inj (hdoes.symm.trans hsays))
  rw [hgives] at hgiven
  exact absurd (hgiven.trans htakes) (by decide)

end

section
/-! PROOFS. Null operands pass on (08 R171): each form that the rule names plans a null token of the plane it emits, at its form's draw. -/

namespace Sys2Proof.Machine

variable {i : Instr} {c : Fx}

/-- Whether an operand is null does not hang on whether slot 11 is data. -/
theorem Fx.mode_null {a : Bool} (h : c.mode a = .null) (b : Bool) : c.mode b = .null := by
  unfold Fx.mode at h ⊢
  split at h
  · next hn => rw [if_pos hn]
  · split at h
    · cases h
    · split at h
      · cases h
      · split at h
        · split at h <;> cases h
        · split at h
          · split at h <;> cases h
          · cases h

/-- The plane as which consumers read what a firing emits is its form's. -/
theorem Fires.np {s : State} (h : Fires i s c) : c.np = (outPlanes i).headD i.hdr.plane.toNat := by
  obtain ⟨_, _, _, _, -, -, -, -, -, rfl⟩ := fireCtx_some h.ctx
  rfl

/-- A meaning is the firing of an instruction by a plan that makes a null operand a null token. -/
def PassesNulls (i : Instr) (m : State → Host.Outcome State Fault Refusal) : Prop :=
  ∃ plan, (∀ s, m s = fire i plan s) ∧ ∀ c, c.h = i.hdr → (∀ b, c.mode b = .null) → plan c = c.nullPlan (formDraw i c.k)

theorem PassesNulls.run {m : State → Host.Outcome State Fault Refusal} {s : State} {tg : Tag} {cl : Option Claim} {a : Bool} (hp : PassesNulls i m)
    (hm : c.mode a = .null) (h : Goes i s c (formDraw i c.k) tg cl) :
    m s = .next (c.emitted (formDraw i c.k) tg cl (nullData ((outPlanes i).headD i.hdr.plane.toNat) c.k) true .skip) := by
  obtain ⟨plan, hfire, hplan⟩ := hp
  rw [hfire, fire_fires h.fires, hplan c h.fires.hdr (Fx.mode_null hm), Fx.nullPlan, h.run_emitPlan, h.fires.np]

/-! ## The frames -/

theorem fire_passesNulls {plan : Fx → Plan} (h : ∀ c, c.h = i.hdr → (∀ b, c.mode b = .null) → plan c = c.nullPlan (formDraw i c.k)) :
    PassesNulls i (fire i plan) := ⟨plan, fun _ => rfl, h⟩

theorem gateForm_passesNulls {plan : Fx → BitVec 16 → Plan} : PassesNulls i (gateForm i plan) := fire_passesNulls fun c _ hm => by simp only [hm]

theorem jetForm_passesNulls {f : FmtA} {el : Fx → Nat → Nat → Nat → Nat → LaneOut} {jet : Fx → List Nat → List Nat → List Nat → LaneOut} :
    PassesNulls i (jetForm i f el jet) := by
  unfold jetForm
  split
  · exact gateForm_passesNulls
  · exact gateForm_passesNulls

/-- A form that first makes a null operand a null token at draw `d`, whatever else its plan does. -/
theorem modeForm_passesNulls {d : Fx → Nat} {closed : Fx → Plan} {go : Fx → BitVec 16 → Plan} (hd : ∀ c, c.h = i.hdr → d c = formDraw i c.k) :
    PassesNulls i (fire i fun c => match c.mode false with
      | .null => c.nullPlan (d c)
      | .closed => closed c
      | .go g => go c g) :=
  fire_passesNulls fun c hh hm => by simp only [hm, hd c hh]

theorem graph_passesNulls {closed : Fx → Plan} {go : Fx → BitVec 16 → Plan} (hg : groupOf i = 1) :
    PassesNulls i (fire i fun c => match c.mode false with
      | .null => c.nullPlan (graphDraw c)
      | .closed => closed c
      | .go g => go c g) := modeForm_passesNulls fun _ hh => formDraw_graph hh hg

theorem flat_passesNulls {d : Nat} {closed : Fx → Plan} {go : Fx → BitVec 16 → Plan} (hd : ∀ k, formDraw i k = d) :
    PassesNulls i (fire i fun c => match c.mode false with
      | .null => c.nullPlan d
      | .closed => closed c
      | .go g => go c g) := modeForm_passesNulls fun c _ => (hd c.k).symm

theorem execSel_passesNulls {f : FmtA} : PassesNulls (.sel f) (execSel f) := fire_passesNulls fun c _ hm => by simp only [hm]

/-! ## Every form that 08 R171 names -/

/-- The forms of which a null operand makes a null result (08 R171). -/
def namesNulls (i : Instr) : Bool :=
  [2, 3, 4, 5, 6, 7, 8, 9, 11, 15].contains (groupOf i) ||
    Instr.isOpc i [0x20, 0x21, 0x2A, 0x2B, 0x2C, 0x2D, 0x140, 0x141, 0x222, 0x223, 0x225]

theorem exec_passesNulls (hf : isForm i = true) (hn : namesNulls i = true) : PassesNulls i (exec i) := by
  cases i with
  | mov | const | null | getg | empty | putg => exact graph_passesNulls (by simp)
  | cmp | fcmp | pand | por | pxor | pnot | any | all | maskn => exact gateForm_passesNulls
  | sel => exact execSel_passesNulls
  | add | sub | mul | neg | abs =>
    delta exec execAdd execSub execMul execNeg execAbs intForm
    exact gateForm_passesNulls
  | mulh | div | rem | min | max =>
    delta exec execMulh execDiv execRem execMin execMax intFormU
    exact gateForm_passesNulls
  | madd | dot4 | lea =>
    delta exec execMadd execDot4 execLea
    exact gateForm_passesNulls
  | and | or | xor | andn | not | shl | shr | sar | rol | clz | popc | brev | bfx | bfi | sext | zext =>
    delta exec execAnd execOr execXor execAndn execNot execShl execShr execSar execRol execClz execPopc execBrev execBfx execBfi execSext execZext bitForm
    exact gateForm_passesNulls
  | fadd | fsub | fmul | fma | fnma | fdiv | fsqrt | frsqrt | frcp | fmin | fmax | fabs | fneg | fcpys | fscale =>
    delta exec execFadd execFsub execFmul execFma execFnma execFdiv execFsqrt execFrsqrt execFrcp execFmin execFmax execFabs execFneg execFcpys execFscale
    exact jetForm_passesNulls
  | fclass | frint | cvt | cvtsr | rng | pack4 | unpk4 => exact gateForm_passesNulls
  | fexp | fexp2 | flog | flog2 | fsin | fcos | ftanh | flgst | ferf =>
    delta exec execFexp execFexp2 execFlog execFlog2 execFsin execFcos execFtanh execFlgst execFerf specForm
    exact jetForm_passesNulls
  | jord | jordSet | jflag | jflagClr | jseed | jcoef | jsetc | jdiff | jintg | jtrunc | jeval => exact gateForm_passesNulls
  | repl | lane | insl | perm | shuf | rotl | slide | zip | unzip | iota => exact gateForm_passesNulls
  | red | scan => exact modeForm_passesNulls fun _ _ => rfl
  | mmat => exact modeForm_passesNulls fun _ _ => rfl
  | tfetch => exact modeForm_passesNulls fun _ _ => by simp [formDraw, Instr.body]
  | accclr f | accarm f | accrel f | mtrans f | accrd f | accchk f => exact flat_passesNulls (formDraw_tile (by simp) ⟨f, rfl⟩ (by simp))
  | copy | gather | coll | topk | mirror | wpwait | wprd | cwait | cstat | ccancel => exact flat_passesNulls (formDraw_hub (.inl (by simp)))
  | csrrd | csrwr | tbase => exact flat_passesNulls (formDraw_system (by simp))
  | br | bri | call | calli | ret | halt | lenter | inext | iprev | lexit | talloc | tfree | spawn | join | accum | filter | compact | steer | merge
  | ld | lds | ldg | st | sts | stg | ldsp | stsp | pref | nullst | l1inv | fence | ldv | stv | reclaim | atom | cas
  | reinmk | reindup | reinspl | reinnar | reindrop | reinq | reinsend | qpush | qpop | qstat | chgrd | chgask | tlaunch
  | trap | fret | bkpt | tlbinv | codesync | mlog => simp [namesNulls, Instr.isOpc] at hn
  | _ => exact nomatch hf

end Sys2Proof.Machine

open Sys2Proof Sys2Proof.Machine

/-- Settles O9: each form that the rule names fires by a plan that makes a null operand a null token at the form's draw. -/
theorem nullOperandsPassOn : Obligations.NullOperandsPassOn :=
  fun _ _ _ _ _ hf hn hm h => (exec_passesNulls hf hn).run hm h

end

section
/-! PROOFS. The predicate forms (08 R173–R177): each is the frame of the predicates at its condition, and where nothing traps it emits. -/

namespace Sys2Proof.Machine

variable {i : Instr} {f : FmtA} {el : Nat → Nat → Bool × Num.Flags}

/-! ## The conditions of the predicate logic (08 R177) -/

theorem execPand_eq (f : FmtA) : execPand f = predForm (.pand f) f fun x y => (x % 2 = 1 ∧ y % 2 = 1, 0) := by
  simp only [funext_iff, execPand, Bool.decide_and, implies_true]

theorem execPor_eq (f : FmtA) : execPor f = predForm (.por f) f fun x y => (x % 2 = 1 ∨ y % 2 = 1, 0) := by
  simp only [funext_iff, execPor, Bool.decide_or, implies_true]

/-- One of two numbers is odd just when their sum is. -/
theorem execPxor_eq (f : FmtA) : execPxor f = predForm (.pxor f) f fun x y => ((x + y) % 2 = 1, 0) := by
  have hodd : ∀ x y : Nat, (!decide (x % 2 = y % 2)) = decide ((x + y) % 2 = 1) := fun x y => by
    rw [← decide_not, decide_eq_decide]
    omega
  simp only [funext_iff, execPxor, hodd, implies_true]

/-! ## What a predicate emits where nothing traps (22 R370) -/

/-- Under XM 00 nothing traps. -/
theorem traps_eq_false {h : Hdr} (hx : ¬h.xm = 1) (r : Raised) : traps h r = false := by
  simp only [traps, hx, decide_false, Bool.false_and]

section
variable {s : State} {c : Fx} {draw : Nat} {tg : Tag} {cl : Option Claim} {g m comp : BitVec 16}

theorem Fx.scalared_predicate (hx : ¬c.h.xm = 1) (r : Bool × Num.Flags) :
    c.scalared draw tg cl (LaneOut.one (boolNat r.1, r.2)) =
      c.emitted draw tg cl (.scalar (if r.1 then 1 else 0)) false (noteFlags c [(0, 0, r.2)]) := by
  have hb : BitVec.ofNat 64 (boolNat r.1) = if r.1 then 1 else 0 := by cases r.1 <;> rfl
  simp only [Fx.scalared, traps_eq_false hx, Bool.false_eq_true, if_false, LaneOut.one, List.getD_cons_zero, hb, List.map_cons, List.map_nil]

theorem Fx.predicated_untrapped (hx : ¬c.h.xm = 1) (lane : Nat → LaneOut) :
    c.predicated draw tg cl g m comp lane = Upd.apply .fresh (c.laned draw tg cl true g m 1
      (fun _ l => if comp.getLsbD l then BitVec.ofNat 32 ((lane l).vals.getD 0 0) else Vec.lane (optBeat c.l 0) l) (noteFlags c (raisedOf comp lane))) := by
  simp only [Fx.predicated, Fx.computed, Fx.laned, Fx.gatedBeats, traps_eq_false hx, Bool.false_eq_true, and_false, if_false, List.range_one, List.map_cons,
    List.map_nil]

end

/-- A form completes: under XM 00 its scalar or its lanes go out, with its flags noted (08 R173; 22 R370). -/
def CompletesPredicate (i : Instr) (f : FmtA) (el : Nat → Nat → Bool × Num.Flags) : Prop :=
  ∀ s c tg cl g, c.mode false = .go g → ¬f.h.xm = 1 →
    (f.h.plane = 0 → Goes i s c 4 tg cl → let r := el (optScalar c.l).toNat (rightScalar c f).toNat
      exec i s = .next (c.emitted 4 tg cl (.scalar (if r.1 then 1 else 0)) false (noteFlags c [(0, 0, r.2)]))) ∧
    ∀ draw comp, (f.h.plane = 1 ∧ draw = 24 ∧ comp = 0xFFFF) ∨ (f.h.plane = 2 ∧ draw = 24 * (c.k + 1) ∧ comp = dataMask i c f) →
      Goes i s c draw tg cl → exec i s = .next (Upd.apply .fresh (c.laned draw tg cl true g (dataMask i c f) 1 (fun _ l =>
        if comp.getLsbD l then BitVec.ofNat 32 ((predLane i c f el l).vals.getD 0 0) else Vec.lane (optBeat c.l 0) l)
        (noteFlags c (raisedOf comp (predLane i c f el)))))

theorem PredicateForm.completes (hp : PredicateForm i f el) (hh : i.hdr = f.h) : CompletesPredicate i f el := by
  intro s c tg cl g hm hx
  obtain ⟨hscalar, hvector, hjet⟩ := hp s c tg cl g hm
  have hxc : ∀ {d}, Goes i s c d tg cl → ¬c.h.xm = 1 := fun h => by rw [h.fires.hdr, hh]; exact hx
  refine ⟨fun hpl h => ?_, fun draw comp hcase h => ?_⟩
  · rw [hscalar hpl h, Fx.scalared_predicate (hxc h)]
  · rw [← Fx.predicated_untrapped (hxc h)]
    rcases hcase with ⟨hpl, rfl, rfl⟩ | ⟨hpl, rfl, rfl⟩
    · exact hvector hpl h
    · exact hjet hpl h

end Sys2Proof.Machine

open Sys2Proof Sys2Proof.Machine

/-- Settles O14: the six forms are the frame of the predicates at their conditions, and such a form completes. -/
theorem predicateResults : Obligations.PredicateResults := by
  intro f
  have hcmp : PredicateForm (.cmp f) f (fun x y => (intCond f.var f.ty.toNat x y, 0)) := predForm_predicate (by rfl) rfl (by simp) rfl
  have hfcmp : PredicateForm (.fcmp f) f (fun x y => floatCond f.var f.ty.toNat x y) := predForm_predicate (by rfl) rfl (by simp) rfl
  have hpand := predForm_predicate (i := .pand f) (execPand_eq f) rfl (by simp) rfl
  have hpor := predForm_predicate (i := .por f) (execPor_eq f) rfl (by simp) rfl
  have hpxor := predForm_predicate (i := .pxor f) (execPxor_eq f) rfl (by simp) rfl
  have hpnot : PredicateForm (.pnot f) f (fun x _ => (x % 2 = 0, 0)) := predForm_predicate (by rfl) rfl (by simp) rfl
  refine ⟨⟨hcmp, hfcmp, hpand, hpor, hpxor, hpnot⟩, ?_⟩
  simp only [List.forall_mem_cons]
  exact ⟨hcmp.completes rfl, hfcmp.completes rfl, hpand.completes rfl, hpor.completes rfl, hpxor.completes rfl, hpnot.completes rfl,
    fun _ h => absurd h (List.not_mem_nil)⟩

end

section
/-! PROOFS. The order of floating-point values and the conditions of CMP and FCMP (08 R175, R176; 02 R40). -/

namespace Sys2Proof.Num

/-! ## Values of finite data -/

theorem signed_mul (n : Bool) (m u : Nat) : signed n (m * u) = signed n m * u := by
  cases n
  · simp [signed]
  · simp [signed, neg_mul]

/-- The larger of two exponents is the smaller one and a number of doublings. -/
theorem two_pow_toNat_split {e e' : Int} {k : Nat} (he : 0 ≤ e + k) (h : e ≤ e') :
    2 ^ (e' + k).toNat = 2 ^ (e' - e).toNat * 2 ^ (e + k).toNat := by
  rw [← Nat.pow_add]
  congr 1
  omega

/-- The order of finite values is that of their multiples of one unit below both. -/
theorem ltFin_iff {n n' : Bool} {m m' k : Nat} {e e' : Int} (he : 0 ≤ e + k) (he' : 0 ≤ e' + k) :
    ltFin (signed n m, e) (signed n' m', e') = true ↔ signed n (m * 2 ^ (e + k).toNat) < signed n' (m' * 2 ^ (e' + k).toNat) := by
  unfold ltFin
  by_cases h : e ≤ e'
  · have hu : (0 : Int) < (2 ^ (e + k).toNat : Nat) := by positivity
    rw [if_pos h, decide_eq_true_eq, two_pow_toNat_split he h, ← Nat.mul_assoc, signed_mul, signed_mul n', signed_mul, mul_lt_mul_iff_left₀ hu]
    simp
  · have hu : (0 : Int) < (2 ^ (e' + k).toNat : Nat) := by positivity
    rw [if_neg h, decide_eq_true_eq, two_pow_toNat_split he' (by omega), ← Nat.mul_assoc, signed_mul, signed_mul n', signed_mul, mul_lt_mul_iff_left₀ hu]
    simp

theorem isNan_of_isSnan {a : FVal} (h : a.isSnan = true) : a.isNan = true := by
  cases a with
  | nan => rfl
  | inf => cases h
  | fin => cases h

theorem eqVal_eq {a b : FVal} (ha : a.isNan = false) (hb : b.isNan = false) : eqVal a b = (!ltVal b a && !ltVal a b) := by
  rw [eqVal, ha, hb, Bool.not_false, Bool.true_and, Bool.true_and, Bool.and_comm]

/-- Finite values are equal just when their multiples of one unit below both are. -/
theorem eqVal_fin_iff {n n' : Bool} {m m' k : Nat} {e e' : Int} (he : 0 ≤ e + k) (he' : 0 ≤ e' + k) :
    eqVal (.fin n m e) (.fin n' m' e') = true ↔ signed n (m * 2 ^ (e + k).toNat) = signed n' (m' * 2 ^ (e' + k).toNat) := by
  rw [eqVal_eq rfl rfl, Bool.and_eq_true, Bool.not_eq_true', Bool.not_eq_true', ← Bool.not_eq_true, ← Bool.not_eq_true]
  show ¬ltFin _ _ = true ∧ ¬ltFin _ _ = true ↔ _
  rw [ltFin_iff he he', ltFin_iff he' he]
  omega

end Sys2Proof.Num

namespace Sys2Proof.Machine
open Sys2Proof.Num

/-! ## The conditions of CMP -/

/-- The conditions of CMP are those of the integers at TY, and LTU and GEU those of the low bits. -/
theorem intCond_iff (ty x y : Nat) :
    let a := readInt ty x
    let b := readInt ty y
    let w := 2 ^ width ty
    (intCond 0 ty x y = true ↔ a = b) ∧ (intCond 1 ty x y = true ↔ ¬a = b) ∧ (intCond 2 ty x y = true ↔ a < b) ∧
    (intCond 3 ty x y = true ↔ ¬b < a) ∧ (intCond 4 ty x y = true ↔ b < a) ∧ (intCond 5 ty x y = true ↔ ¬a < b) ∧
    (intCond 6 ty x y = true ↔ x % w < y % w) ∧ (intCond 7 ty x y = true ↔ ¬x % w < y % w) := by
  simp [intCond]

/-! ## The conditions of FCMP -/

/-- The condition of FCMP on two values that are no NaN, by their order. -/
def ordCond (v : Nat) (a b : FVal) : Bool :=
  match v with
  | 0 => eqVal a b
  | 1 => !eqVal a b
  | 2 => ltVal a b
  | 3 => !ltVal b a
  | 4 => ltVal b a
  | 5 => !ltVal a b
  | _ => false

section
variable {ty x y : Nat}

theorem floatCond_flags_of_quiet {v : BitVec 3} (hv : v = 0 ∨ v = 1 ∨ v = 6) :
    (floatCond v ty x y).2 = if (Num.decode (fmtOf ty) x).isSnan || (Num.decode (fmtOf ty) y).isSnan then NV else 0 := by
  rcases hv with rfl | rfl | rfl <;> rfl

/-- A NaN operand leaves no condition but NE and UN, and the ordered conditions raise invalid. -/
theorem floatCond_nan (h : (Num.decode (fmtOf ty) x).isNan = true ∨ (Num.decode (fmtOf ty) y).isNan = true) :
    (floatCond 0 ty x y).1 = false ∧ (floatCond 1 ty x y).1 = true ∧ (floatCond 6 ty x y).1 = true ∧
      ∀ v : BitVec 3, 2 ≤ v.toNat → v.toNat ≤ 5 → floatCond v ty x y = (false, NV) := by
  have hn : ((Num.decode (fmtOf ty) x).isNan || (Num.decode (fmtOf ty) y).isNan) = true := Bool.or_eq_true_iff.2 h
  refine ⟨?_, ?_, ?_, fun v h2 h5 => ?_⟩
  · simp [floatCond, hn]
  · simp [floatCond, hn]
  · simp [floatCond, hn]
  · have hv : v.toNat = 2 ∨ v.toNat = 3 ∨ v.toNat = 4 ∨ v.toNat = 5 := by omega
    rcases hv with hv | hv | hv | hv <;> simp [floatCond, hn, hv]

variable (h : ¬((Num.decode (fmtOf ty) x).isNan = true ∨ (Num.decode (fmtOf ty) y).isNan = true))
include h

theorem operands_notNan : (Num.decode (fmtOf ty) x).isNan = false ∧ (Num.decode (fmtOf ty) y).isNan = false := by
  simpa only [not_or, Bool.not_eq_true] using h

/-- Where neither operand is a NaN each condition is one of the order, and none raises a flag. -/
theorem floatCond_ordered (v : BitVec 3) : floatCond v ty x y = (ordCond v.toNat (Num.decode (fmtOf ty) x) (Num.decode (fmtOf ty) y), 0) := by
  obtain ⟨ha, hb⟩ := operands_notNan h
  have hsa : (Num.decode (fmtOf ty) x).isSnan = false := Bool.eq_false_iff.2 fun hs => Bool.eq_false_iff.1 ha (isNan_of_isSnan hs)
  have hsb : (Num.decode (fmtOf ty) y).isSnan = false := Bool.eq_false_iff.2 fun hs => Bool.eq_false_iff.1 hb (isNan_of_isSnan hs)
  simp only [floatCond, ha, hb, hsa, hsb, Bool.or_self, Bool.not_false, Bool.true_and, Bool.false_or, Bool.false_eq_true, if_false]
  match v.toNat with
  | 0 | 1 | 2 | 3 | 4 | 5 | _ + 6 => rfl

end

end Sys2Proof.Machine

open Sys2Proof Sys2Proof.Machine

/-- Settles O15: the conditions are those of the integers, and, where there is no NaN, those of the order of the values; the order of finite values is
that of their multiples of one unit. -/
theorem comparisonConditions : Obligations.ComparisonConditions := by
  refine ⟨intCond_iff, fun ty x y => ⟨floatCond_nan, fun h => ⟨?_, fun v => ?_⟩, fun h => ?_, fun v hv => ?_, fun h => ?_, ?_, ?_⟩⟩
  · rw [floatCond_ordered h]
    rfl
  · rw [floatCond_ordered h]
  · obtain ⟨ha, hb⟩ := operands_notNan h
    simp [floatCond_ordered h, ordCond, Num.eqVal_eq ha hb]
  · rw [floatCond_flags_of_quiet hv, ← Bool.or_eq_true_iff]
    split
    · next hs => simp only [hs]
    · next hs => simp [hs, Num.NV]
  · rw [floatCond_ordered h, floatCond_ordered (fun hyx => h hyx.symm)]
    rfl
  · intro n n' m m' k e e' ha hb he he'
    have h : ¬((Num.decode (Num.fmtOf ty) x).isNan = true ∨ (Num.decode (Num.fmtOf ty) y).isNan = true) := by simp [ha, hb, Num.FVal.isNan]
    rw [floatCond_ordered h, floatCond_ordered h, ha, hb]
    exact ⟨Num.ltFin_iff he he', Num.eqVal_fin_iff he he'⟩
  · intro n n' m e
    refine ⟨fun ha hb => ?_, fun ha hb => ?_, fun ha hb => ?_⟩
    all_goals
      have h : ¬((Num.decode (Num.fmtOf ty) x).isNan = true ∨ (Num.decode (Num.fmtOf ty) y).isNan = true) := by simp [ha, hb, Num.FVal.isNan]
      rw [floatCond_ordered h, floatCond_ordered h, ha, hb]
    · exact ⟨rfl, by cases n <;> rfl⟩
    · exact ⟨rfl, by cases n <;> rfl⟩
    · exact ⟨rfl, by cases n <;> cases n' <;> rfl⟩

end

section
/-! PROOFS. ANY, ALL, MASKN and SEL (08 R178–R180): what their lanes and masks come to. -/

namespace Sys2Proof.Machine
open Sys2Proof.Bits

/-! ## Masks lane by lane -/

theorem getLsbD_maskOf (f : Nat → Bool) {l : Nat} (h : l < 16) : (maskOf f).getLsbD l = f l := by
  rw [maskOf, BitVec.getLsbD_ofNat, decide_eq_true h, Bool.true_and, testBit_total_powers f h]

theorem getLsbD_trueLanes (t : Option Tok) {l : Nat} (h : l < 16) :
    (trueLanes t).getLsbD l = ((optMask t).getLsbD l && (Vec.lane (optBeat t 0) l).getLsbD 0) := getLsbD_maskOf _ h

/-- A mask is zero just when it has no lane. -/
theorem mask_eq_zero_iff (m : BitVec 16) : m = 0 ↔ ((List.range 16).any fun l => m.getLsbD l) = false := by
  simp only [List.any_eq_false, List.mem_range, Bool.not_eq_true]
  refine ⟨fun h l _ => by rw [h, BitVec.ofNat_eq_ofNat, BitVec.getLsbD_zero], fun h => BitVec.eq_of_getLsbD_eq fun l hl => ?_⟩
  rw [h l hl, BitVec.ofNat_eq_ofNat, BitVec.getLsbD_zero]

/-- The true lanes are the mask just when every lane of the mask is true. -/
theorem trueLanes_eq_mask_iff (t : Option Tok) :
    trueLanes t = optMask t ↔ ((List.range 16).all fun l => !(optMask t).getLsbD l || (trueLanes t).getLsbD l) = true := by
  simp only [List.all_eq_true, List.mem_range]
  refine ⟨fun h l _ => by rw [h, Bool.not_or_self], fun h => BitVec.eq_of_getLsbD_eq fun l hl => ?_⟩
  have := h l hl
  rw [getLsbD_trueLanes t hl] at this ⊢
  revert this
  cases (optMask t).getLsbD l <;> simp

/-! ## Vectors of one beat -/

theorem fill_eq_mk (x : Lane) : Vec.fill x = Vec.mk fun _ => x := by
  rw [Vec.fill, Vec.mk, List.map_const', List.length_range]

theorem gateForm_gated {i : Instr} {v : Fx → Nat → Lane} {m : Fx → BitVec 16}
    (hx : exec i = gateForm i fun c g => vecOut i c g [Vec.mk (v c)] (m c)) :
    GatedForm i (fun k => formDraw i k) (fun _ => 1) (fun c _ l => v c l) m := by
  intro s c tg cl g hm h
  rw [hx, gateForm_go h.fires hm]
  exact run_gated (nb := 1) (v := fun _ l => v c l) h hm

theorem execAny_eq (f : FmtA) : execAny f = gateForm (.any f) fun c g =>
    vecOut (.any f) c g [Vec.mk fun _ => if (List.range 16).any fun l => (trueLanes c.l).getLsbD l then 1 else 0] 0xFFFF := by
  have hany : ∀ t, (if trueLanes t = 0 then 0 else 1 : Lane) = if (List.range 16).any fun l => (trueLanes t).getLsbD l then 1 else 0 := fun t => by
    simp only [mask_eq_zero_iff, ← Bool.not_eq_true, ite_not]
  simp only [funext_iff, execAny, fill_eq_mk, hany, implies_true]

theorem execAll_eq (f : FmtA) : execAll f = gateForm (.all f) fun c g =>
    vecOut (.all f) c g [Vec.mk fun _ => if (List.range 16).all fun l => !(optMask c.l).getLsbD l || (trueLanes c.l).getLsbD l then 1 else 0] 0xFFFF := by
  simp only [funext_iff, execAll, fill_eq_mk, trueLanes_eq_mask_iff, implies_true]

/-! ## SEL -/

theorem execSel_open {f : FmtA} {s : State} {c : Fx} {g : BitVec 16} (hm : c.mode true = .go g) (h : Fires (.sel f) s c) :
    exec (.sel f) s = c.run (selPlan f c) := by
  show execSel f s = _
  rw [execSel, fire_fires h]
  simp only [hm]

theorem formDraw_sel (f : FmtA) (k : Nat) : formDraw (.sel f) k = if f.h.plane = 0 then 4 else 24 * if f.h.plane = 2 then k + 1 else 1 := by
  have hp : planeOf (.sel f) = f.h.plane.toNat := rfl
  have h0 : planeOf (.sel f) = 0 ↔ f.h.plane = 0 := by rw [hp, BitVec.toNat_eq]; rfl
  have h2 : planeOf (.sel f) = 2 ↔ f.h.plane = 2 := by rw [hp, BitVec.toNat_eq]; rfl
  have hg : groupOf (.sel f) = 2 := by simp
  simp only [formDraw, hg, linJ, h0, h2]
  split
  · next h => simp [h]
  · rfl

section
variable {f : FmtA} {s : State} {c : Fx} {tg : Tag} {cl : Option Claim} {g : BitVec 16}

theorem execSel_scalar (hm : c.mode true = .go g) (hp : f.h.plane = 0) (h : Goes (.sel f) s c 4 tg cl) :
    exec (.sel f) s = .next (c.emitted 4 tg cl
      (.scalar (if gateScalar c.h.pmode ((optScalar c.p).getLsbD 0) then optScalar c.l else rightScalar c f)) false .skip) := by
  have hc : c.h.plane = 0 := by rw [h.fires.hdr]; exact hp
  rw [execSel_open hm h.fires, selPlan, formDraw_sel, if_pos hp]
  simp only [hc, if_true]
  exact h.run_emitPlan ..

/-- The lanes that SEL takes from its left operand. -/
def selPick (c : Fx) : BitVec 16 := if c.h.pmode = 1 then trueLanes c.p else ~~~trueLanes c.p

theorem execSel_lanes {nb : Nat} (hm : c.mode true = .go g) (hp : f.h.plane = 1 ∧ nb = 1 ∨ f.h.plane = 2 ∧ nb = c.k + 1)
    (h : Goes (.sel f) s c (24 * nb) tg cl) :
    exec (.sel f) s = .next (c.emitted (24 * nb) tg cl (.beats ((List.range nb).map fun j => Vec.mk fun l =>
      if (selPick c).getLsbD l then Vec.lane (optBeat c.l j) l else rightLane c f j l)
        ((optMask c.l &&& selPick c) ||| (rightMask c f &&& ~~~selPick c))) false .skip) := by
  have hc : c.h.plane = f.h.plane := by rw [h.fires.hdr]; rfl
  have h0 : ¬f.h.plane = 0 := by rcases hp with ⟨hp, -⟩ | ⟨hp, -⟩ <;> simp [hp]
  have hn : (if f.h.plane = 2 then c.k + 1 else 1) = nb := by rcases hp with ⟨hp, rfl⟩ | ⟨hp, rfl⟩ <;> simp [hp]
  rw [execSel_open hm h.fires, selPlan, formDraw_sel, if_neg h0]
  simp only [hc, h0, hn, if_false]
  exact h.run_emitPlan ..

end

end Sys2Proof.Machine

open Sys2Proof Sys2Proof.Machine

/-- Settles O16: ANY, ALL and MASKN are gated vectors of one beat; SEL, which has no gate, emits what its predicate picks. -/
theorem maskAndSelectResults : Obligations.MaskAndSelectResults := by
  intro f
  refine ⟨gateForm_gated (execAny_eq f), gateForm_gated (execAll_eq f), gateForm_gated rfl, fun s c tg cl g hm =>
    ⟨fun hp h => execSel_scalar hm hp h, fun nb hp h => execSel_lanes hm hp h⟩⟩

end

section
/-! PROOFS. Exits (08 R156–R158): what each form plans where its gate is open, and its destinations. -/

namespace Sys2Proof.Machine
open Sys2Proof.Bits

variable {f : FmtB} {i : Instr} {s : State} {c : Fx} {g : BitVec 16} {taken : Fx → Plan}

/-! ## Destinations (08 R158) -/

/-- The address of the next block in the code space of its own (01 R16), with the whole address where it leaves the 57-bit space (07 R133). -/
theorem splitDest_eq (pc : BitVec 58) (dest : Nat) : splitDest pc dest =
    ((if bit pc 57 then 1#1 else 0#1) ++ (BitVec.ofNat 64 dest).extractLsb' 0 57,
      if (BitVec.ofNat 64 dest).toNat < 2 ^ 57 then none else some (BitVec.ofNat 64 dest)) := by
  simp only [splitDest, field_top_eq_zero]

theorem relDest_eq (pc : BitVec 58) (boff : BitVec 60) :
    relDest pc boff = ((((pc.toNat % 2 ^ 57 : Nat) : Int) + 64 * boff.toInt) % 2 ^ 64).toNat := by
  rw [relDest, field_lowest]

theorem nextBlock_eq (pc : BitVec 58) (nins : Nat) : nextBlock pc nins = pc.toNat % 2 ^ 57 + 64 * ((64 + 16 * nins + 63) / 64) := by
  rw [nextBlock, field_lowest, ceilDiv]
  congr 2

/-- The frame of a call from a block: it returns to the block after it (08 R158). -/
def callFrame (c : Fx) : Frame :=
  let next := BitVec.ofNat 64 (nextBlock c.m.blk.pc c.m.blk.ins.length)
  { Frame.make .call (ctagOf c.nd c.m) with
    ret := (if bit c.m.blk.pc 57 then 1#1 else 0#1) ++ next.extractLsb' 0 57
    wide := if next.toNat < 2 ^ 57 then none else some next }

theorem callPlan_of_colour {dest col : Nat} (hf : c.t.freeColour = some col) :
    callPlan i c dest = takeExit i c dest col (claimColour c col (callFrame c)) := by
  unfold callPlan callFrame
  rw [hf]
  simp only [splitDest_eq]

theorem callPlan_of_none {dest : Nat} (hf : c.t.freeColour = none) : callPlan i c dest = .wait := by
  unfold callPlan
  rw [hf]

/-! ## Exits that are taken and that are not -/

/-- An exit noted in its unit, after `before` (08 R157). -/
def noteExit (i : Instr) (c : Fx) (dest colour : Nat) (before : Prog) : Prog :=
  .seq before (onUnit c.n c.ut fun u => { u with exit := some ⟨c.q, i, dest, colour⟩ })

theorem run_takeExit {dest colour : Nat} {before : Prog} (hc : Covers c 4) :
    c.run (takeExit i c dest colour before) = .next (c.acted 4 (noteExit i c dest colour before)) := Fx.run_act hc

/-- An exit form whose gate is open runs its own plan, unless its unit has an exit already (08 R157). -/
theorem exitForm_open (h : Fires i s c) (hm : c.mode false = .go g) (hu : c.u.exit = none) : exitForm i taken s = c.run (taken c) := by
  rw [exitForm, fire_fires h]
  simp only [hm, hu, Option.isSome_none, Bool.false_eq_true, if_false]

theorem exitForm_second (h : Fires i s c) (hm : c.mode false = .go g) (hc : Covers c 4) (hu : c.u.exit.isSome = true) :
    exitForm i taken s = .next (c.faulted 4 0x10 0 9) := by
  rw [exitForm, fire_fires h]
  simp only [hm, hu, if_true]
  exact Fx.run_fault hc

/-- CALL and CALLI take a free colour whose frame returns to the next block (08 R158), and wait for one. -/
theorem callForm_takes {dest : Fx → Nat} {col : Nat} (h : Fires i s c) (hm : c.mode false = .go g) (hc : Covers c 4) (hu : c.u.exit = none)
    (hf : c.t.freeColour = some col) : exitForm i (fun c => callPlan i c (dest c)) s =
      .next (c.acted 4 (noteExit i c (dest c) col (claimColour c col (callFrame c)))) := by
  rw [exitForm_open h hm hu, callPlan_of_colour hf, run_takeExit hc]

theorem callForm_waits {dest : Fx → Nat} (h : Fires i s c) (hm : c.mode false = .go g) (hu : c.u.exit = none) (hf : c.t.freeColour = none) :
    exitForm i (fun c => callPlan i c (dest c)) s = .next s := by
  rw [exitForm_open h hm hu, callPlan_of_none hf, Fx.run_wait, h.state]

theorem execRet_runs (h : Fires (.ret f) s c) (hm : c.mode false = .go g) (hc : Covers c 4) (hu : c.u.exit = none) : exec (.ret f) s =
    if tagColour (ctagOf c.nd c.m) = 0 then .next (c.faulted 4 0x10 0 5) else .next (c.acted 4 (noteExit (.ret f) c 0 0 .skip)) := by
  show execRet f s = _
  rw [execRet, exitForm_open h hm hu]
  split
  · exact Fx.run_fault hc
  · exact run_takeExit hc

theorem execHalt_runs (h : Fires (.halt f) s c) (hm : c.mode false = .go g) (hc : Covers c 4) (hu : c.u.exit = none) : exec (.halt f) s =
    if c.m.blk.ctx = 0 then .next (c.acted 4 (noteExit (.halt f) c 0 0 .skip)) else .next (c.faulted 4 0x10 0 8) := by
  show execHalt f s = _
  rw [execHalt, exitForm_open h hm hu]
  split
  · exact run_takeExit hc
  · exact Fx.run_fault hc

end Sys2Proof.Machine

open Sys2Proof Sys2Proof.Machine

/-- Settles O26: the destinations and the frame of a call are the ones that the statement writes out, and each form takes its exit, waits or faults. -/
theorem exitsAreTaken : Obligations.ExitsAreTaken := by
  intro f s c g hm hc
  simp only [← relDest_eq, ← nextBlock_eq]
  refine ⟨fun hu => ⟨fun h => ?_, fun h => ?_, fun col hf => ⟨fun h => ?_, fun h => ?_⟩, fun hf => ⟨fun h => ?_, fun h => ?_⟩, fun h => ?_, fun h => ?_⟩,
    fun hu i hi h => ?_⟩
  · exact (exitForm_open h hm hu).trans (run_takeExit hc)
  · exact (exitForm_open h hm hu).trans (run_takeExit hc)
  · exact callForm_takes h hm hc hu hf
  · exact callForm_takes h hm hc hu hf
  · exact callForm_waits h hm hu hf
  · exact callForm_waits h hm hu hf
  · rw [execRet_runs h hm hc hu]
    split <;> rfl
  · rw [execHalt_runs h hm hc hu]
    split <;> rfl
  · simp only [List.mem_cons, List.not_mem_nil, or_false] at hi
    rcases hi with rfl | rfl | rfl | rfl | rfl | rfl <;> exact exitForm_second h hm hc hu

end

section
/-! PROOFS. Moves and register access in a block (08 R161, R168, R170–R172): what each form does where its gate is open. -/

namespace Sys2Proof.Machine
open Sys2Proof.Bits

variable {f : FmtG} {i : Instr} {s : State} {c : Fx} {tg : Tag} {cl : Option Claim} {g : BitVec 16}

/-- The draw of a GRAPH form of format G (08 R172). -/
theorem graphDraw_eq (h : Fires i s c) (hh : i.hdr = f.h) :
    (if f.h.plane = 0 then 4 else 24 * (if f.h.plane = 2 then c.k + 1 else 1)) = graphDraw c := by
  rw [graphDraw, h.hdr, hh]

/-- A datum that goes out as its gate lets it through: behind a gate that leaves nothing the firing draws alone (08 R173). -/
theorem Goes.run_gated {d : Nat} {o : Option TokData} {before : TokData → Prog} (h : Goes i s c d tg cl) :
    c.run (match o with
      | none => .act d .skip
      | some x => c.emitPlan d x false (before x)) = .next (o.elim (c.taken d) fun x => c.emitted d tg cl x false (before x)) := by
  cases o with
  | none => exact h.run_act .skip
  | some x => exact h.run_emitPlan x false (before x)

/-! ## Moves -/

theorem moveForm_open {d : Fx → TokData} (hm : c.mode false = .go g) (h : Goes i s c (graphDraw c) tg cl) :
    moveForm i d s = .next ((gated c g (d c)).elim (c.taken (graphDraw c)) fun x => c.emitted (graphDraw c) tg cl x false .skip) := by
  rw [moveForm, fire_fires h.fires]
  simp only [hm]
  exact h.run_gated (before := fun _ => .skip)

theorem execNull_open (hm : c.mode false = .go g) (h : Goes (.null f) s c (graphDraw c) tg cl) : exec (.null f) s = .next
    (if ¬c.h.pmode = 0 ∧ (f.h.plane = 1 ∨ f.h.plane = 2) ∧ optMask c.l &&& g = 0 ∧ 0 < (c.l.map Tok.beats).getD 0 then c.taken (graphDraw c)
     else c.emitted (graphDraw c) tg cl (nullData c.h.plane.toNat c.k) true .skip) := by
  have hpl : c.h.plane = f.h.plane := congrArg Hdr.plane h.fires.hdr
  have hnp : c.np = c.h.plane.toNat := by rw [h.fires.np, hpl]; simp [outPlanes, Instr.isOpc]; rfl
  show execNull f s = _
  rw [execNull, fire_fires h.fires]
  simp only [hm, Bool.and_eq_true, Bool.not_eq_true', decide_eq_false_iff_not, Bool.or_eq_true, decide_eq_true_eq, and_assoc, hpl]
  split
  · exact h.run_act .skip
  · rw [Fx.nullPlan, h.run_emitPlan, hnp, hpl]

/-! ## Registers -/

/-- GETG and EMPTY of a register that may be read (08 R168). -/
theorem getPlan_open {empties : Bool} (hm : c.mode false = .go g) (hr : regReady c (field f.imm 0 7) = true)
    (hb : regBad c.nd (field f.imm 0 7) = false) (h : Goes i s c (graphDraw c) tg cl) : fire i (getPlan f empties) s =
      .next ((gated c g (regData c.nd f.h.plane (field f.imm 0 7))).elim (c.taken (graphDraw c)) fun d => c.emitted (graphDraw c) tg cl d false
        (Prog.when empties (addAct c.n c.ut c.q c.tag (.empty (field f.imm 0 7))))) := by
  rw [fire_fires h.fires]
  simp only [getPlan, hm, hr, hb, Bool.not_true, Bool.false_eq_true, if_false]
  exact h.run_gated (before := fun _ => Prog.when empties (addAct c.n c.ut c.q c.tag (.empty (field f.imm 0 7))))

/-- A read of a register that is empty, or whose iteration's turn has not come, waits (08 R168). -/
theorem getPlan_waits {empties : Bool} (hm : c.mode false = .go g) (hr : regReady c (field f.imm 0 7) = false) (h : Fires i s c) :
    fire i (getPlan f empties) s = .next s := by
  rw [fire_fires h]
  simp only [getPlan, hm, hr, Bool.not_false, if_true, Fx.run_wait, h.state]

theorem regReady_eq_false {r : Nat} (h : (r < 64 ∧ (c.nd.sreg r).full = false) ∨ (64 ≤ r ∧ r < 96 ∧ (c.nd.vreg (r - 64)).full = false) ∨
    (c.m.loop = true ∧ ¬tagIter c.tag = commitPoint c.t (tagColour c.tag) c.n c.m.blk.pc)) : regReady c r = false := by
  rcases h with ⟨hr, hf⟩ | ⟨h64, hr, hf⟩ | ⟨hl, ht⟩
  · simp only [regReady, hr, hf, if_true, Bool.false_and]
  · simp only [regReady, Nat.not_lt.2 h64, hr, hf, if_true, if_false, Bool.false_and]
  · simp only [regReady, hl, ht, Bool.not_true, decide_false, Bool.or_self, Bool.and_false]

/-- Whether the firing's instruction has written by PUTG in its unit already (08 R170). -/
def putBefore (c : Fx) : Bool :=
  c.u.acts.any fun a => a.q == c.q && (match a.act with
    | .putg _ _ => true
    | _ => false)

theorem putBefore_iff : putBefore c = true ↔ ∃ a ∈ c.u.acts, a.q = c.q ∧ ∃ n d, a.act = .putg n d := by
  simp only [putBefore, List.any_eq_true, Bool.and_eq_true, beq_iff_eq]
  refine exists_congr fun a => and_congr_right fun _ => and_congr_right fun _ => ?_
  cases a.act <;> simp

theorem execPutg_first (hm : c.mode false = .go g) (hp : putBefore c = false) (h : Goes (.putg f) s c (graphDraw c) tg cl) : exec (.putg f) s =
    .next ((gated c g (leftData c)).elim (c.taken (graphDraw c)) fun d => c.emitted (graphDraw c) tg cl d false
      (addAct c.n c.ut c.q c.tag (.putg (field f.imm 0 7) d))) := by
  show execPutg f s = _
  rw [execPutg, fire_fires h.fires]
  simp only [hm]
  exact (congrArg c.run (if_neg (Bool.eq_false_iff.1 hp))).trans (h.run_gated (o := gated c g (leftData c))
    (before := fun d => addAct c.n c.ut c.q c.tag (.putg (field f.imm 0 7) d)))

theorem execPutg_second (hm : c.mode false = .go g) (hc : Covers c (graphDraw c)) (hp : putBefore c = true) (h : Fires (.putg f) s c) :
    exec (.putg f) s = .next (c.faulted (graphDraw c) 0x10 0 0x0A) := by
  show execPutg f s = _
  rw [execPutg, fire_fires h]
  simp only [hm]
  exact (congrArg c.run (if_pos hp)).trans (Fx.run_fault hc)

end Sys2Proof.Machine

open Sys2Proof Sys2Proof.Machine

/-- Settles O27: the moves and the reads emit what their gate lets through, a read of a register that is not ready waits, and PUTG acts the first time
it fires in its unit. -/
theorem movesAndRegisters : Obligations.MovesAndRegisters := by
  refine ⟨fun f s c tg cl g hm => ?_, fun f s c g hm => ?_⟩
  · dsimp only
    refine ⟨fun h => ?_, fun h => ?_, fun h => ?_, fun hr hb => ⟨fun h => ?_, fun h => ?_⟩, fun hp h => ?_⟩
    · rw [graphDraw_eq h.fires rfl] at h ⊢
      exact moveForm_open hm h
    · rw [graphDraw_eq h.fires rfl] at h ⊢
      rw [show f.h.plane = c.h.plane from (congrArg Hdr.plane h.fires.hdr).symm]
      exact moveForm_open hm h
    · rw [graphDraw_eq h.fires rfl] at h ⊢
      exact execNull_open hm h
    · rw [graphDraw_eq h.fires rfl] at h ⊢
      exact getPlan_open hm hr hb h
    · rw [graphDraw_eq h.fires rfl] at h ⊢
      exact getPlan_open hm hr hb h
    · rw [graphDraw_eq h.fires rfl] at h ⊢
      refine execPutg_first hm ?_ h
      rw [← Bool.not_eq_true, putBefore_iff]
      rintro ⟨a, ha, hq, n, d, he⟩
      exact hp a ha hq n d he
  · dsimp only
    refine ⟨fun hr => ⟨getPlan_waits hm (regReady_eq_false hr), getPlan_waits hm (regReady_eq_false hr)⟩, fun a ha hq n d he h hc => ?_⟩
    rw [graphDraw_eq h rfl] at hc ⊢
    exact execPutg_second hm hc (putBefore_iff.2 ⟨a, ha, hq, n, d, he⟩) h

end

section
/-! PROOFS. Many writes to a sparse map, and the stable sort that orders them: what a key reads as afterwards. -/

namespace Sys2Proof

section
variable {α β : Type} [DecidableEq α] {d : α} {key : β → Nat} {val : β → α} {m : List (Nat × α)}

/-- A key that every write to it gives the value it has already keeps it. -/
theorem Sparse.get_foldl_put {l : List β} {j : Nat} (hm : Sparse.wf d m = true) (h : ∀ x ∈ l, key x = j → val x = Sparse.get d m j) :
    Sparse.get d (l.foldl (fun m x => Sparse.put d m (key x) (val x)) m) j = Sparse.get d m j := by
  refine (List.foldlRecOn l _ (motive := fun m' => Sparse.wf d m' = true ∧ Sparse.get d m' j = Sparse.get d m j) ⟨hm, rfl⟩ ?_).2
  rintro m' ⟨hw, hj⟩ x hx
  refine ⟨Sparse.put_wf _ _ hw, ?_⟩
  rw [Sparse.get_put _ _ _ hw]
  split
  · next he => exact h x hx he.symm
  · exact hj

/-- The last of the writes to a key decides what it reads as. -/
theorem Sparse.get_foldl_put_of_mem {l : List β} {x : β} (hm : Sparse.wf d m = true) (hx : x ∈ l)
    (hlast : l.Pairwise fun y z => y = x → key z = key x → val z = val x) :
    Sparse.get d (l.foldl (fun m x => Sparse.put d m (key x) (val x)) m) (key x) = val x := by
  induction l generalizing m with
  | nil => cases hx
  | cons y l ih =>
    obtain ⟨hy, hl⟩ := List.pairwise_cons.1 hlast
    rw [List.foldl_cons]
    by_cases hmem : x ∈ l
    · exact ih (Sparse.put_wf _ _ hm) hmem hl
    · obtain rfl : y = x := ((List.mem_cons.1 hx).resolve_right hmem).symm
      have hput : Sparse.get d (Sparse.put d m (key y) (val y)) (key y) = val y := by rw [Sparse.get_put _ _ _ hm, if_pos rfl]
      rw [Sparse.get_foldl_put (Sparse.put_wf _ _ hm) fun z hz he => (hy z hz rfl he).trans hput.symm, hput]

end

namespace Bits

variable {α : Type} {key : α → Nat}

theorem mem_insertBy {x y : α} {l : List α} : y ∈ insertBy key x l ↔ y = x ∨ y ∈ l := by
  induction l with
  | nil => simp [insertBy]
  | cons z l ih =>
    rw [insertBy]
    split
    · rw [List.mem_cons]
    · rw [List.mem_cons, ih, List.mem_cons, or_left_comm]

theorem pairwise_insertBy {x : α} {l : List α} (h : l.Pairwise fun y z => key y ≤ key z) : (insertBy key x l).Pairwise fun y z => key y ≤ key z := by
  induction l with
  | nil => exact List.pairwise_singleton ..
  | cons z l ih =>
    obtain ⟨hz, hl⟩ := List.pairwise_cons.1 h
    rw [insertBy]
    split
    · next hlt =>
      refine List.pairwise_cons.2 ⟨fun y hy => ?_, h⟩
      rcases List.mem_cons.1 hy with rfl | hy
      · exact hlt.le
      · exact hlt.le.trans (hz y hy)
    · next hge =>
      refine List.pairwise_cons.2 ⟨fun y hy => ?_, ih hl⟩
      rcases mem_insertBy.1 hy with rfl | hy
      · exact Nat.not_lt.1 hge
      · exact hz y hy

theorem mem_sortBy {y : α} {l : List α} : y ∈ sortBy key l ↔ y ∈ l := by
  suffices h : ∀ acc, y ∈ l.foldl (fun acc x => insertBy key x acc) acc ↔ y ∈ acc ∨ y ∈ l by
    exact (h []).trans (or_iff_right List.not_mem_nil)
  induction l with
  | nil => simp
  | cons x l ih =>
    intro acc
    rw [List.foldl_cons, ih, mem_insertBy, List.mem_cons, or_assoc, or_left_comm]

theorem pairwise_sortBy (l : List α) : (sortBy key l).Pairwise fun y z => key y ≤ key z :=
  List.foldlRecOn l _ (motive := fun acc : List α => acc.Pairwise fun y z => key y ≤ key z) .nil fun _ h _ _ => pairwise_insertBy h

end Bits

end Sys2Proof

end

section
/-! PROOFS. What a commit leaves in the registers of its node (08 R169, R170; 04 R85; 07 R151; 10 R215; 12 R241). -/

namespace Sys2Proof.Machine
open Sys2Proof.Bits

variable {c : Commit} {base : Nat} {nd : Node} {r x j : Nat} {a : PAct} {v : TokData}

/-! ## One action on the registers -/

/-- An action writes `v` to the S or V register, or the jet group, that begins at number `r` (08 R169, R170). -/
def PAct.Puts (a : PAct) (r : Nat) (v : TokData) : Prop := (∃ n, a.act = .regWrite r v n) ∨ (a.act = .putg r v ∧ r < 96)

/-- What one action of a committing unit does to the registers (08 R169). -/
def regAct (c : Commit) (nd : Node) (a : PAct) : Node :=
  match a.act with
  | .regWrite r v null => if null || defers c.m r then nd else nd.writeReg r v
  | .putg r v => if r < 96 then nd.writeReg r v else nd.writeP (r - 96) v
  | _ => nd

/-- The registers that a unit empties: those of its block's header, and those of its EMPTY forms (08 R168, R169). -/
def emptied (c : Commit) : List Nat :=
  (if c.m.loop then [] else c.m.takes) ++ c.acts.filterMap fun a => match a.act with
    | .empty r => some r
    | _ => none

/-- A deferred write leaves its register empty until its result comes (01 R31). -/
def deferReg (nd : Node) (d : Nat × PendDef) : Node := { nd.emptyReg d.2.reg with defs := nd.defs ++ [{ d.2 with val := none }] }

theorem commitRegs_eq (c : Commit) (base : Nat) (nd : Node) : commitRegs c base nd =
    (deferred c.m base c.acts).foldl deferReg (c.acts.foldl (regAct c) ((emptied c).foldl Node.emptyReg nd)) := rfl

theorem mem_emptied : r ∈ emptied c ↔ (c.m.loop = false ∧ r ∈ c.m.takes) ∨ ∃ a ∈ c.acts, a.act = .empty r := by
  have hact : ∀ a : PAct, (match a.act with
      | .empty r => some r
      | _ => none) = some r ↔ a.act = .empty r := fun a => by
    cases a.act <;> simp
  unfold emptied
  rw [List.mem_append, List.mem_filterMap]
  refine or_congr ?_ (exists_congr fun a => and_congr_right fun _ => ?_)
  · cases c.m.loop <;> simp
  · exact hact a

/-- An action leaves the registers alone, writes an S or V register, or writes a P register. -/
theorem regAct_cases (c : Commit) (nd : Node) (a : PAct) : regAct c nd a = nd ∨ (∃ r v, a.Puts r v ∧ regAct c nd a = nd.writeReg r v) ∨
    ∃ k v, a.act = .putg (96 + k) v ∧ regAct c nd a = nd.writeP k v := by
  unfold regAct
  split
  · next r v n h =>
    split
    · exact .inl rfl
    · exact .inr (.inl ⟨r, v, .inl ⟨n, h⟩, rfl⟩)
  · next r v h =>
    split
    · next hr => exact .inr (.inl ⟨r, v, .inr ⟨h, hr⟩, rfl⟩)
    · next hr => exact .inr (.inr ⟨r - 96, v, by rw [h, Nat.add_sub_cancel' (Nat.not_lt.1 hr)], rfl⟩)
  · exact .inl rfl

/-- A write that is neither null nor deferred takes effect. -/
theorem regAct_writes (hw : a.act = .regWrite r v false ∨ (a.act = .putg r v ∧ r < 96)) (hd : defers c.m r = false) :
    regAct c nd a = nd.writeReg r v := by
  rcases hw with h | ⟨h, hr⟩
  · simp only [regAct, h, hd, Bool.or_self, Bool.false_eq_true, if_false]
  · simp only [regAct, h, hr, if_true]

theorem regAct_writesP (h : a.act = .putg (96 + j) v) : regAct c nd a = nd.writeP j v := by
  simp only [regAct, h, Nat.not_lt.2 (Nat.le_add_right 96 j), if_false, Nat.add_sub_cancel_left]

/-! ## Folds over the node -/

/-- What each step of a fold keeps, the fold keeps. -/
theorem Node.foldl_inv {α : Type} {P : Node → Prop} {f : Node → α → Node} {l : List α} (hf : ∀ x ∈ l, ∀ nd, P nd → P (f nd x)) (h : P nd) :
    P (l.foldl f nd) :=
  List.foldlRecOn l f (motive := P) h fun n hn x hx => hf x hx n hn

/-- What no step of a fold changes, the fold leaves. -/
theorem Node.foldl_frame {α β : Type} {g : Node → β} {f : Node → α → Node} {l : List α} (hf : ∀ x ∈ l, ∀ nd, g (f nd x) = g nd) :
    g (l.foldl f nd) = g nd :=
  Node.foldl_inv (P := fun n => g n = g nd) (fun x hx n hn => (hf x hx n).trans hn) rfl

/-! ## S registers -/

theorem s_wf_emptyReg (h : Sparse.wf SReg.reset nd.s = true) : Sparse.wf SReg.reset (nd.emptyReg x).s = true := by
  unfold Node.emptyReg
  split
  · exact Sparse.put_wf x _ h
  · exact h

theorem s_wf_writeReg (h : Sparse.wf SReg.reset nd.s = true) : Sparse.wf SReg.reset (nd.writeReg x v).s = true := by
  unfold Node.writeReg
  split <;> split
  · exact Sparse.put_wf _ _ h
  · exact h
  · exact Sparse.put_wf _ _ h
  · exact h

theorem s_wf_regAct (h : Sparse.wf SReg.reset nd.s = true) : Sparse.wf SReg.reset (regAct c nd a).s = true := by
  obtain he | ⟨r, v, -, he⟩ | ⟨k, v, -, he⟩ := regAct_cases c nd a
  · rwa [he]
  · rw [he]
    exact s_wf_writeReg h
  · rw [he]
    exact h

theorem sreg_emptyReg_of_ne (h : x ≠ r) : (nd.emptyReg x).sreg r = nd.sreg r := by
  unfold Node.emptyReg
  split
  · exact Sparse.get_put_ne _ h.symm
  · rfl

theorem sreg_emptyReg (hw : Sparse.wf SReg.reset nd.s = true) (hr : r < 64) : (nd.emptyReg r).sreg r = { nd.sreg r with full := false } := by
  rw [Node.emptyReg, if_pos hr]
  exact (Sparse.get_put _ _ _ hw).trans (if_pos rfl)

theorem sreg_writeReg_of_ne (h : x ≠ r) : (nd.writeReg x v).sreg r = nd.sreg r := by
  unfold Node.writeReg
  split <;> split
  · exact Sparse.get_put_ne _ h.symm
  · rfl
  · exact Sparse.get_put_ne _ h.symm
  · rfl

theorem sreg_writeReg (hw : Sparse.wf SReg.reset nd.s = true) (hr : r < 64) (w : Word) : (nd.writeReg r (.scalar w)).sreg r = ⟨w, true, true⟩ := by
  simp only [Node.writeReg, hr, if_true]
  exact (Sparse.get_put _ _ _ hw).trans (if_pos rfl)

theorem sreg_regAct_of_not_puts (h : ∀ v, ¬a.Puts r v) : (regAct c nd a).sreg r = nd.sreg r := by
  obtain he | ⟨x, v, hp, he⟩ | ⟨k, v, -, he⟩ := regAct_cases c nd a
  · rw [he]
  · rw [he]
    exact sreg_writeReg_of_ne fun hx => h v (hx ▸ hp)
  · rw [he]
    rfl

theorem sreg_foldl_regAct {l : List PAct} (h : ∀ a ∈ l, ∀ v, ¬a.Puts r v) : (l.foldl (regAct c) nd).sreg r = nd.sreg r :=
  Node.foldl_frame (g := fun n => n.sreg r) fun a ha _ => sreg_regAct_of_not_puts (h a ha)

theorem sreg_foldl_emptyReg {l : List Nat} (hw : Sparse.wf SReg.reset nd.s = true) (hr : r < 64) :
    (l.foldl Node.emptyReg nd).sreg r = if r ∈ l then { nd.sreg r with full := false } else nd.sreg r := by
  induction l generalizing nd with
  | nil => simp
  | cons x l ih =>
    rw [List.foldl_cons, ih (s_wf_emptyReg hw)]
    by_cases hx : x = r
    · subst hx
      simp [sreg_emptyReg hw hr]
    · simp [sreg_emptyReg_of_ne hx, Ne.symm hx]

/-- Deferred writes of other registers leave an S register to the actions (08 R169). -/
theorem sreg_commitRegs (hd : ∀ d ∈ deferred c.m base c.acts, d.2.reg ≠ r) :
    (commitRegs c base nd).sreg r = (c.acts.foldl (regAct c) ((emptied c).foldl Node.emptyReg nd)).sreg r :=
  Node.foldl_frame (g := fun n => n.sreg r) fun d hmem _ => sreg_emptyReg_of_ne (hd d hmem)

/-- A register that no action writes keeps its value, and is full unless it is emptied (08 R168, R169). -/
theorem sreg_commitRegs_unwritten (hw : Sparse.wf SReg.reset nd.s = true) (hr : r < 64) (hd : ∀ d ∈ deferred c.m base c.acts, d.2.reg ≠ r)
    (h : ∀ a ∈ c.acts, ∀ v, ¬a.Puts r v) :
    (commitRegs c base nd).sreg r = if r ∈ emptied c then { nd.sreg r with full := false } else nd.sreg r := by
  rw [sreg_commitRegs hd, sreg_foldl_regAct h, sreg_foldl_emptyReg hw hr]

/-- The last action that writes a register decides its value (08 R169). -/
theorem sreg_commitRegs_last {l k : List PAct} {w : Word} (hw : Sparse.wf SReg.reset nd.s = true) (hr : r < 64)
    (hd : ∀ d ∈ deferred c.m base c.acts, d.2.reg ≠ r) (he : c.acts = l ++ a :: k)
    (ha : a.act = .regWrite r (.scalar w) false ∨ a.act = .putg r (.scalar w)) (hdef : defers c.m r = false) (hk : ∀ b ∈ k, ∀ v, ¬b.Puts r v) :
    (commitRegs c base nd).sreg r = ⟨w, true, true⟩ := by
  have hr96 : r < 96 := by omega
  rw [sreg_commitRegs hd, he, List.foldl_append, List.foldl_cons, sreg_foldl_regAct hk, regAct_writes (ha.imp_right fun h => ⟨h, hr96⟩) hdef]
  have hempty : Sparse.wf SReg.reset ((emptied c).foldl Node.emptyReg nd).s = true :=
    Node.foldl_inv (P := fun n => Sparse.wf SReg.reset n.s = true) (fun _ _ _ => s_wf_emptyReg) hw
  exact sreg_writeReg (Node.foldl_inv (P := fun n => Sparse.wf SReg.reset n.s = true) (fun _ _ _ => s_wf_regAct) hempty) hr w

/-! ## V registers -/

/-- An action writes a V register, or a jet group of them. -/
def PAct.PutsV (a : PAct) : Prop := ∃ x v, 64 ≤ x ∧ a.Puts x v

theorem v_emptyReg (h : x < 64) : (nd.emptyReg x).v = nd.v := by rw [Node.emptyReg, if_pos h]

theorem v_writeReg (h : x < 64) : (nd.writeReg x v).v = nd.v := by
  cases v <;> simp only [Node.writeReg, h, if_true]

theorem v_regAct (h : ¬a.PutsV) : (regAct c nd a).v = nd.v := by
  obtain he | ⟨x, v, hp, he⟩ | ⟨k, v, -, he⟩ := regAct_cases c nd a
  · rw [he]
  · rw [he]
    exact v_writeReg (Nat.not_le.1 fun h64 => h ⟨x, v, h64, hp⟩)
  · rw [he]
    rfl

theorem v_wf_emptyReg (h : Sparse.wf VReg.reset nd.v = true) : Sparse.wf VReg.reset (nd.emptyReg x).v = true := by
  unfold Node.emptyReg
  split
  · exact h
  · exact Sparse.put_wf (x - 64) _ h

theorem v_wf_writeReg (h : Sparse.wf VReg.reset nd.v = true) : Sparse.wf VReg.reset (nd.writeReg x v).v = true := by
  unfold Node.writeReg
  split <;> split
  · exact h
  · exact Sparse.put_wf _ _ h
  · exact h
  · exact List.foldlRecOn _ _ (motive := fun m => Sparse.wf VReg.reset m = true) h fun _ hm _ _ => Sparse.put_wf _ _ hm

theorem v_wf_regAct (h : Sparse.wf VReg.reset nd.v = true) : Sparse.wf VReg.reset (regAct c nd a).v = true := by
  obtain he | ⟨r, v, -, he⟩ | ⟨k, v, -, he⟩ := regAct_cases c nd a
  · rwa [he]
  · rw [he]
    exact v_wf_writeReg h
  · rw [he]
    exact h

/-- The register that a beat of a write gives. -/
def beatReg (b : Vec × Nat) : VReg := ⟨Vec.mk fun k => Vec.lane b.1 k, true, true⟩

theorem writeReg_beats {bs : List Vec} {m : BitVec 16} (hx : 64 ≤ x) :
    (nd.writeReg x (.beats bs m)).v = bs.zipIdx.foldl (fun v b => Sparse.put VReg.reset v (x - 64 + b.2) (beatReg b)) nd.v := by
  simp only [Node.writeReg, Nat.not_lt.2 hx, if_false]
  rfl

/-- A write of beats gives one register to each (08 R169). -/
theorem vreg_writeReg {bs : List Vec} {m : BitVec 16} (hw : Sparse.wf VReg.reset nd.v = true) (hx : 64 ≤ x) (hj : x - 64 ≤ j) (hb : j < x - 64 + bs.length) :
    (nd.writeReg x (.beats bs m)).vreg j = ⟨Vec.mk fun i => Vec.lane (bs.getD (j - (x - 64)) []) i, true, true⟩ := by
  have hi : j - (x - 64) < bs.length := by omega
  have hkey : x - 64 + (j - (x - 64)) = j := Nat.add_sub_cancel' hj
  have hmem : (bs[j - (x - 64)], j - (x - 64)) ∈ bs.zipIdx := List.mem_zipIdx_iff_getElem?.2 (List.getElem?_eq_getElem hi)
  have hput := Sparse.get_foldl_put_of_mem (key := fun b : Vec × Nat => x - 64 + b.2) (val := beatReg) hw hmem
    (List.pairwise_iff_forall_sublist.2 fun {y z} hs hy hz => ?_)
  · rw [Node.vreg, writeReg_beats hx]
    simp only [hkey] at hput
    rw [hput, List.getD_eq_getElem _ _ hi]
    rfl
  · have hzm : z ∈ bs.zipIdx := hs.subset (List.mem_cons_of_mem _ (List.mem_singleton_self _))
    have hz2 : z.2 = j - (x - 64) := Nat.add_left_cancel hz
    have hz1 : bs[j - (x - 64)]? = some z.1 := hz2 ▸ List.mem_zipIdx_iff_getElem?.1 hzm
    rw [List.getElem?_eq_getElem hi, Option.some.injEq] at hz1
    exact congrArg (fun b : Vec => (⟨Vec.mk fun k => Vec.lane b k, true, true⟩ : VReg)) hz1.symm

/-- V registers that no action writes or empties keep their values (08 R169). -/
theorem v_commitRegs_unwritten (ht : ∀ x ∈ c.m.takes, x < 64) (hd : ∀ d ∈ deferred c.m base c.acts, d.2.reg < 64)
    (h : ∀ a ∈ c.acts, ¬a.PutsV ∧ ∀ x, a.act = .empty x → x < 64) : (commitRegs c base nd).v = nd.v := by
  have hempty : ∀ x ∈ emptied c, x < 64 := fun x hx => by
    obtain ⟨-, hx⟩ | ⟨a, ha, hx⟩ := mem_emptied.1 hx
    · exact ht x hx
    · exact (h a ha).2 x hx
  calc (commitRegs c base nd).v
    _ = (c.acts.foldl (regAct c) ((emptied c).foldl Node.emptyReg nd)).v := Node.foldl_frame (g := Node.v) fun d hmem _ => v_emptyReg (hd d hmem)
    _ = ((emptied c).foldl Node.emptyReg nd).v := Node.foldl_frame (g := Node.v) fun a ha _ => v_regAct (h a ha).1
    _ = nd.v := Node.foldl_frame (g := Node.v) fun x hx _ => v_emptyReg (hempty x hx)

/-- The last action that writes V registers decides the values of those it names (08 R169). -/
theorem vreg_commitRegs_last {l k : List PAct} {bs : List Vec} {m : BitVec 16} (hw : Sparse.wf VReg.reset nd.v = true)
    (hd : ∀ d ∈ deferred c.m base c.acts, d.2.reg < 64) (he : c.acts = l ++ a :: k)
    (ha : a.act = .regWrite x (.beats bs m) false ∨ (a.act = .putg x (.beats bs m) ∧ x < 96)) (hdef : defers c.m x = false)
    (hk : ∀ b ∈ k, ¬b.PutsV) (hx : 64 ≤ x) (hj : x - 64 ≤ j) (hb : j < x - 64 + bs.length) :
    (commitRegs c base nd).vreg j = ⟨Vec.mk fun i => Vec.lane (bs.getD (j - (x - 64)) []) i, true, true⟩ := by
  have hempty : Sparse.wf VReg.reset ((emptied c).foldl Node.emptyReg nd).v = true :=
    Node.foldl_inv (P := fun n => Sparse.wf VReg.reset n.v = true) (fun _ _ _ => v_wf_emptyReg) hw
  have hl : Sparse.wf VReg.reset (l.foldl (regAct c) ((emptied c).foldl Node.emptyReg nd)).v = true :=
    Node.foldl_inv (P := fun n => Sparse.wf VReg.reset n.v = true) (fun _ _ _ => v_wf_regAct) hempty
  rw [← vreg_writeReg (m := m) hl hx hj hb, ← regAct_writes ha hdef]
  have hv : (commitRegs c base nd).v = (regAct c (l.foldl (regAct c) ((emptied c).foldl Node.emptyReg nd)) a).v := by
    calc (commitRegs c base nd).v
      _ = (c.acts.foldl (regAct c) ((emptied c).foldl Node.emptyReg nd)).v := Node.foldl_frame (g := Node.v) fun d hmem _ => v_emptyReg (hd d hmem)
      _ = (k.foldl (regAct c) (regAct c (l.foldl (regAct c) ((emptied c).foldl Node.emptyReg nd)) a)).v := by
        rw [he, List.foldl_append, List.foldl_cons]
      _ = _ := Node.foldl_frame (g := Node.v) fun b hb _ => v_regAct (hk b hb)
  rw [Node.vreg, hv]
  rfl

/-! ## P registers -/

theorem p_emptyReg : (nd.emptyReg x).p = nd.p := by
  unfold Node.emptyReg
  split <;> rfl

theorem p_writeReg : (nd.writeReg x v).p = nd.p := by
  unfold Node.writeReg
  split <;> split <;> rfl

theorem p_wf_regAct (h : Sparse.wf 0 nd.p = true) : Sparse.wf 0 (regAct c nd a).p = true := by
  obtain he | ⟨x, v, -, he⟩ | ⟨k, v, -, he⟩ := regAct_cases c nd a
  · rwa [he]
  · rwa [he, p_writeReg]
  · rw [he]
    exact Sparse.put_wf _ _ h

theorem preg_regAct_of_ne (h : ∀ v, a.act ≠ .putg (96 + j) v) : (regAct c nd a).preg j = nd.preg j := by
  obtain he | ⟨x, v, -, he⟩ | ⟨k, v, hk, he⟩ := regAct_cases c nd a
  · rw [he]
  · rw [he, Node.preg, p_writeReg]
    rfl
  · rw [he]
    exact Sparse.get_put_ne _ fun hjk => h v (hjk ▸ hk)

theorem preg_foldl_regAct {l : List PAct} (h : ∀ a ∈ l, ∀ v, a.act ≠ .putg (96 + j) v) : (l.foldl (regAct c) nd).preg j = nd.preg j :=
  Node.foldl_frame (g := fun n => n.preg j) fun a ha _ => preg_regAct_of_ne (h a ha)

/-- Nothing but the actions touches a P register. -/
theorem p_commitRegs : (commitRegs c base nd).p = (c.acts.foldl (regAct c) ((emptied c).foldl Node.emptyReg nd)).p :=
  Node.foldl_frame (g := Node.p) fun _ _ _ => p_emptyReg

theorem p_foldl_emptyReg {l : List Nat} : (l.foldl Node.emptyReg nd).p = nd.p := Node.foldl_frame (g := Node.p) fun _ _ _ => p_emptyReg

/-- A P register that no PUTG names keeps its value (08 R170). -/
theorem preg_commitRegs_unwritten (h : ∀ a ∈ c.acts, ∀ v, a.act ≠ .putg (96 + j) v) : (commitRegs c base nd).preg j = nd.preg j := by
  rw [Node.preg, p_commitRegs]
  refine (preg_foldl_regAct h).trans ?_
  rw [Node.preg, p_foldl_emptyReg]
  rfl

/-- The last PUTG of a P register decides its value (08 R170). -/
theorem preg_commitRegs_last {l k : List PAct} (hw : Sparse.wf 0 nd.p = true) (he : c.acts = l ++ a :: k) (ha : a.act = .putg (96 + j) v)
    (hk : ∀ b ∈ k, ∀ w, b.act ≠ .putg (96 + j) w) : (commitRegs c base nd).preg j = (Node.writeP nd j v).preg j := by
  have hl : Sparse.wf 0 (l.foldl (regAct c) ((emptied c).foldl Node.emptyReg nd)).p = true :=
    Node.foldl_inv (P := fun n => Sparse.wf 0 n.p = true) (fun _ _ _ => p_wf_regAct) (by rwa [p_foldl_emptyReg])
  rw [Node.preg, p_commitRegs, he, List.foldl_append, List.foldl_cons]
  refine (preg_foldl_regAct hk).trans ?_
  rw [regAct_writesP ha]
  exact ((Sparse.get_put _ _ _ hl).trans (if_pos rfl)).trans ((Sparse.get_put _ _ _ hw).trans (if_pos rfl)).symm

theorem preg_writeP (hw : Sparse.wf 0 nd.p = true) : (nd.writeP j v).preg j = match v with
    | .scalar w => if w.getLsbD 0 then 0xFFFF else 0
    | .beats bs m => maskOf fun i => m.getLsbD i && (Vec.lane (bs.getD 0 []) i).getLsbD 0 :=
  (Sparse.get_put _ _ _ hw).trans ((if_pos rfl).trans (by cases v <;> rfl))

/-! ## Control registers -/

/-- The control registers of a node, and its fault state. -/
def Node.csrs (nd : Node) : Word × Word × Word × Nat × Word × FaultSt := (nd.fpstat, nd.jflags, nd.rmode, nd.jord, nd.rngkey, nd.fs)

/-- The registers of a node. -/
def Node.file (nd : Node) : List (Nat × SReg) × List (Nat × VReg) × List (Nat × BitVec 16) × List (Nat × Quad) := (nd.s, nd.v, nd.p, nd.h)

theorem csrs_eq_iff {fp jf rm key : Word} {k : Nat} {fs : FaultSt} : nd.csrs = (fp, jf, rm, k, key, fs) ↔
    nd.fpstat = fp ∧ nd.jflags = jf ∧ nd.rmode = rm ∧ nd.jord = k ∧ nd.rngkey = key ∧ nd.fs = fs := by
  simp only [Node.csrs, Prod.mk.injEq]

theorem csrs_emptyReg : (nd.emptyReg x).csrs = nd.csrs := by
  unfold Node.emptyReg
  split <;> rfl

theorem csrs_regAct : (regAct c nd a).csrs = nd.csrs := by
  have hreg : ∀ r v, (nd.writeReg r v).csrs = nd.csrs := fun r v => by
    unfold Node.writeReg
    split <;> split <;> rfl
  obtain he | ⟨x, v, -, he⟩ | ⟨k, v, -, he⟩ := regAct_cases c nd a
  · rw [he]
  · rw [he, hreg]
  · rw [he]
    rfl

/-- The register actions leave the control registers. -/
theorem csrs_commitRegs : (commitRegs c base nd).csrs = nd.csrs :=
  calc (commitRegs c base nd).csrs
    _ = (c.acts.foldl (regAct c) ((emptied c).foldl Node.emptyReg nd)).csrs := Node.foldl_frame (g := Node.csrs) fun _ _ _ => csrs_emptyReg
    _ = ((emptied c).foldl Node.emptyReg nd).csrs := Node.foldl_frame (g := Node.csrs) fun _ _ _ => csrs_regAct
    _ = nd.csrs := Node.foldl_frame (g := Node.csrs) fun _ _ _ => csrs_emptyReg

theorem h_commitRegs : (commitRegs c base nd).h = nd.h := by
  have hempty : ∀ (n : Node) x, (n.emptyReg x).h = n.h := fun n x => by
    unfold Node.emptyReg
    split <;> rfl
  have hreg : ∀ (n : Node) a, (regAct c n a).h = n.h := fun n a => by
    obtain he | ⟨x, v, -, he⟩ | ⟨k, v, -, he⟩ := regAct_cases c n a
    · rw [he]
    · rw [he]
      unfold Node.writeReg
      split <;> split <;> rfl
    · rw [he]
      rfl
  calc (commitRegs c base nd).h
    _ = (c.acts.foldl (regAct c) ((emptied c).foldl Node.emptyReg nd)).h := Node.foldl_frame (g := Node.h) fun _ _ n => hempty n _
    _ = ((emptied c).foldl Node.emptyReg nd).h := Node.foldl_frame (g := Node.h) fun a _ n => hreg n a
    _ = nd.h := Node.foldl_frame (g := Node.h) fun x _ n => hempty n x

/-- What one action of a committing unit does to the control registers (07 R151). -/
def csrAct (nd : Node) (a : PAct) : Node :=
  match a.act with
  | .csrwr r w => nd.writeCsr r w
  | .jordSet k => { nd with jord := k % 8 }
  | .jflagClr m => { nd with jflags := nd.jflags &&& ~~~m }
  | _ => nd

theorem commitCsrs_eq (c : Commit) (nd : Node) : commitCsrs c nd = { c.acts.foldl csrAct nd with
    fpstat := (c.acts.foldl csrAct nd).fpstat ||| c.fp.setWidth 64
    jflags := (c.acts.foldl csrAct nd).jflags ||| c.jet } := rfl

theorem file_ite {q : Prop} [Decidable q] {m n : Node} (hm : m.file = nd.file) (hn : n.file = nd.file) : (if q then m else n).file = nd.file := by
  split
  · exact hm
  · exact hn

theorem file_writeCsr {w : Word} : (nd.writeCsr x w).file = nd.file := by
  unfold Node.writeCsr
  exact file_ite rfl (file_ite rfl (file_ite (file_ite rfl rfl) (file_ite rfl (file_ite rfl (file_ite rfl (file_ite rfl (file_ite rfl
    (file_ite rfl (file_ite rfl (file_ite rfl rfl))))))))))

theorem file_csrAct : (csrAct nd a).file = nd.file := by
  unfold csrAct
  split
  · exact file_writeCsr
  · rfl
  · rfl
  · rfl

theorem file_commitCsrs : (commitCsrs c nd).file = nd.file := by
  rw [commitCsrs_eq]
  exact Node.foldl_frame (g := Node.file) fun _ _ _ => file_csrAct

/-- An action that writes no control register leaves the node as it is here. -/
theorem csrAct_eq (hw : ∀ x w, a.act ≠ .csrwr x w) (hj : ∀ k, a.act ≠ .jordSet k) (hf : ∀ m, a.act ≠ .jflagClr m) : csrAct nd a = nd := by
  unfold csrAct
  split
  · next h => exact absurd h (hw _ _)
  · next h => exact absurd h (hj _)
  · next h => exact absurd h (hf _)
  · rfl

/-- Without a write of a control register only the unit's flags change (07 R151, 10 R215). -/
theorem csrs_commitCsrs_unwritten (hw : ∀ a ∈ c.acts, ∀ x w, a.act ≠ .csrwr x w) (hj : ∀ a ∈ c.acts, ∀ k, a.act ≠ .jordSet k)
    (hf : ∀ a ∈ c.acts, ∀ m, a.act ≠ .jflagClr m) :
    (commitCsrs c nd).csrs = (nd.fpstat ||| c.fp.setWidth 64, nd.jflags ||| c.jet, nd.rmode, nd.jord, nd.rngkey, nd.fs) := by
  have h : c.acts.foldl csrAct nd = nd := Node.foldl_frame (g := id) fun a ha _ => csrAct_eq (hw a ha) (hj a ha) (hf a ha)
  rw [commitCsrs_eq, h]
  rfl

/-! ## The node after the commit -/

/-- The node `n` is `nd` but for its L1. -/
def OnlyL1 (nd n : Node) : Prop := ∃ l, n = { nd with l1 := l }

theorem OnlyL1.trans {m n : Node} (hn : OnlyL1 nd n) (hm : OnlyL1 n m) : OnlyL1 nd m := by
  obtain ⟨l, rfl⟩ := hn
  obtain ⟨k, rfl⟩ := hm
  exact ⟨k, rfl⟩

theorem OnlyL1.foldl {α : Type} {f : Node → α → Node} (hf : ∀ n x, OnlyL1 n (f n x)) (l : List α) (nd : Node) : OnlyL1 nd (l.foldl f nd) :=
  Node.foldl_inv (P := OnlyL1 nd) (fun x _ n hn => hn.trans (hf n x)) ⟨nd.l1, rfl⟩

theorem onlyL1_l1After (nd : Node) (w : WItem) : OnlyL1 nd (l1After nd w) := by
  unfold l1After
  split
  · split
    · exact .foldl (fun _ _ => ⟨_, rfl⟩) _ nd
    · exact .foldl (fun _ _ => ⟨_, rfl⟩) _ nd
  · exact ⟨_, rfl⟩
  · exact ⟨_, rfl⟩
  · exact ⟨nd.l1, rfl⟩

/-- The H registers that a unit has written, in the order of LSIDs (04 R85). -/
def putH (h : List (Nat × Quad)) (hNew : List (Nat × Nat × Quad)) : List (Nat × Quad) :=
  (sortBy (fun (e : Nat × Nat × Quad) => e.1) hNew).foldl (fun h e => Sparse.put 0 h e.2.1 e.2.2) h

theorem foldl_put_h (nd : Node) (l : List (Nat × Nat × Quad)) :
    l.foldl (fun (nd : Node) e => { nd with h := Sparse.put 0 nd.h e.2.1 e.2.2 }) nd = { nd with h := l.foldl (fun h e => Sparse.put 0 h e.2.1 e.2.2) nd.h } := by
  induction l generalizing nd with
  | nil => rfl
  | cons e l ih => rw [List.foldl_cons, ih, List.foldl_cons]

/-- The last part of a commit: tiles, pins, stream state and the commit stream. -/
def commitTail (c : Commit) (sts : List WItem) (nd : Node) : Node :=
  { nd with
    tiles := c.mat.tiles
    pins := c.mat.pins
    streams := (nd.putStreams c.m.blk.pc c.sts).streams
    wq := nd.wq ++ sts }

/-- Besides the register actions and the control registers, a commit sets the H registers, the tiles and the commit stream. -/
theorem commitNode_eq (c : Commit) (base : Nat) (late : Bool) (nd : Node) :
    ∃ l1 sts, commitNode c base late nd = commitTail c sts { commitCsrs c (commitRegs c base (nd.settleInner c.u.tag)) with
      h := putH nd.h c.u.hNew, l1 := l1 } := by
  let n0 := commitCsrs c (commitRegs c base (nd.settleInner c.u.tag))
  let sts := (commitStores c.m c.u base c.t.reissued c.acts nd.wq late).1
  have hh : n0.h = nd.h := (congrArg (fun f => f.2.2.2) file_commitCsrs).trans h_commitRegs
  obtain ⟨l, hl⟩ := OnlyL1.foldl onlyL1_l1After sts { n0 with h := putH n0.h c.u.hNew }
  refine ⟨l, sts, ?_⟩
  calc commitNode c base late nd
    _ = commitTail c sts (sts.foldl l1After ((sortBy (fun (e : Nat × Nat × Quad) => e.1) c.u.hNew).foldl
          (fun (nd : Node) e => { nd with h := Sparse.put 0 nd.h e.2.1 e.2.2 }) n0)) := rfl
    _ = commitTail c sts { n0 with h := putH n0.h c.u.hNew, l1 := l } := by
      rw [foldl_put_h]
      exact congrArg (commitTail c sts) hl
    _ = _ := by rw [hh]

/-- The S, V and P registers of a node after a commit are those that its actions leave. -/
theorem svp_commitNode (c : Commit) (base : Nat) (late : Bool) (nd : Node) : let n := commitRegs c base (nd.settleInner c.u.tag)
    (commitNode c base late nd).s = n.s ∧ (commitNode c base late nd).v = n.v ∧ (commitNode c base late nd).p = n.p := by
  intro n
  obtain ⟨l, sts, h⟩ := commitNode_eq c base late nd
  have hf : (commitCsrs c n).file = n.file := file_commitCsrs
  rw [h]
  exact ⟨congrArg (·.1) hf, congrArg (·.2.1) hf, congrArg (·.2.2.1) hf⟩

theorem sreg_commitNode {late : Bool} : (commitNode c base late nd).sreg r = (commitRegs c base (nd.settleInner c.u.tag)).sreg r := by
  rw [Node.sreg, (svp_commitNode ..).1]
  rfl

theorem vreg_commitNode {late : Bool} : (commitNode c base late nd).vreg j = (commitRegs c base (nd.settleInner c.u.tag)).vreg j := by
  rw [Node.vreg, (svp_commitNode ..).2.1]
  rfl

theorem preg_commitNode {late : Bool} : (commitNode c base late nd).preg j = (commitRegs c base (nd.settleInner c.u.tag)).preg j := by
  rw [Node.preg, (svp_commitNode ..).2.2]
  rfl

theorem csrs_commitNode {late : Bool} : (commitNode c base late nd).csrs = (commitCsrs c (commitRegs c base (nd.settleInner c.u.tag))).csrs := by
  obtain ⟨l, sts, h⟩ := commitNode_eq c base late nd
  rw [h]
  rfl

theorem h_commitNode {late : Bool} : (commitNode c base late nd).h = putH nd.h c.u.hNew := by
  obtain ⟨l, sts, h⟩ := commitNode_eq c base late nd
  rw [h]
  rfl

/-- An H register that no rein form wrote keeps its value (04 R85). -/
theorem hreg_commitNode_unwritten {late : Bool} (hw : Sparse.wf 0 nd.h = true) (h : ∀ e ∈ c.u.hNew, e.2.1 ≠ j) :
    (commitNode c base late nd).hreg j = nd.hreg j := by
  rw [Node.hreg, h_commitNode]
  exact Sparse.get_foldl_put hw fun e he hk => absurd hk (h e (mem_sortBy.1 he))

/-- Of the rein forms that wrote an H register, the one of the highest LSID decides its value (04 R85, R87). -/
theorem hreg_commitNode_last {late : Bool} {o : Nat} {q : Quad} (hw : Sparse.wf 0 nd.h = true) (hmem : (o, j, q) ∈ c.u.hNew)
    (hlast : ∀ e ∈ c.u.hNew, e.2.1 = j → e ≠ (o, j, q) → e.1 < o) : (commitNode c base late nd).hreg j = q := by
  rw [Node.hreg, h_commitNode]
  refine Sparse.get_foldl_put_of_mem (key := fun e : Nat × Nat × Quad => e.2.1) (val := fun e => e.2.2) hw (mem_sortBy.2 hmem) ?_
  refine (pairwise_sortBy c.u.hNew).imp_of_mem fun {y z} _ hz hle hy hk => ?_
  by_contra hne
  have hlt : z.1 < o := hlast z (mem_sortBy.1 hz) hk fun he => hne (by rw [he])
  subst hy
  exact absurd hle (Nat.not_le.2 hlt)

/-- The register actions leave the control registers, so a commit's control actions act on those of the node. -/
theorem csrs_settled : (commitRegs c base (nd.settleInner c.u.tag)).csrs = nd.csrs := csrs_commitRegs.trans rfl

/-- Without a write of a control register only the unit's flags change (07 R151, 10 R215). -/
theorem csrs_commitNode_unwritten {late : Bool} (hw : ∀ a ∈ c.acts, ∀ x w, a.act ≠ .csrwr x w) (hj : ∀ a ∈ c.acts, ∀ k, a.act ≠ .jordSet k)
    (hf : ∀ a ∈ c.acts, ∀ m, a.act ≠ .jflagClr m) :
    (commitNode c base late nd).csrs = (nd.fpstat ||| c.fp.setWidth 64, nd.jflags ||| c.jet, nd.rmode, nd.jord, nd.rngkey, nd.fs) := by
  rw [csrs_commitNode, csrs_commitCsrs_unwritten hw hj hf]
  exact congrArg (fun f : Word × Word × Word × Nat × Word × FaultSt => (f.1 ||| c.fp.setWidth 64, f.2.1 ||| c.jet, f.2.2)) csrs_settled

/-- One action on the control registers, and then the unit's flags (07 R151). -/
theorem csrs_commitNode_one {late : Bool} (h : c.acts = [a]) : ∃ n : Node, n.csrs = nd.csrs ∧ (commitNode c base late nd).csrs =
    ((csrAct n a).fpstat ||| c.fp.setWidth 64, (csrAct n a).jflags ||| c.jet, (csrAct n a).rmode, (csrAct n a).jord, (csrAct n a).rngkey,
      (csrAct n a).fs) := by
  refine ⟨commitRegs c base (nd.settleInner c.u.tag), csrs_settled, ?_⟩
  rw [csrs_commitNode, commitCsrs_eq, h]
  rfl

/-- A CSRWR that stands alone in its unit leaves what it wrote (07 R147, R151). -/
theorem csrwr_commitNode {late : Bool} {q : Nat} {g : Tag} {w : Word} (h : c.acts = [⟨q, g, .csrwr x w⟩]) : let t := commitNode c base late nd
    (x = 0x12 → t.rmode = if w.toNat % 8 ≤ 4 then w &&& 7 else nd.rmode) ∧ (x = 0x13 → t.jord = w.toNat % 8) ∧ (x = 0x14 → t.rngkey = w) ∧
      (x = 0x10 → t.fpstat = (w &&& 0x1F) ||| c.fp.setWidth 64) ∧ (x = 0x8004 → t.fs.info = w) := by
  intro t
  obtain ⟨n, hn, ht⟩ := csrs_commitNode_one (base := base) (nd := nd) (late := late) h
  obtain ⟨hfp, -, hrmode, hjord, hkey, hfs⟩ := csrs_eq_iff.1 ht
  obtain ⟨-, -, hnr, -⟩ := csrs_eq_iff.1 hn
  have hlow : field w 0 3 = w.toNat % 8 := field_lowest w 3
  refine ⟨?_, ?_, ?_, ?_, ?_⟩ <;> rintro rfl
  · rw [hrmode, ← hlow, ← hnr]
    exact apply_ite Node.rmode _ _ _
  · rw [hjord, ← hlow]
    rfl
  · rw [hkey]
    rfl
  · rw [hfp]
    rfl
  · rw [hfs]
    rfl

theorem jordSet_commitNode {late : Bool} {q : Nat} {g : Tag} {k : Nat} (h : c.acts = [⟨q, g, .jordSet k⟩]) :
    (commitNode c base late nd).jord = k % 8 := by
  obtain ⟨n, -, ht⟩ := csrs_commitNode_one (base := base) (nd := nd) (late := late) h
  obtain ⟨-, -, -, hjord, -⟩ := csrs_eq_iff.1 ht
  exact hjord

end Sys2Proof.Machine
end

open Sys2Proof Sys2Proof.Machine

/-- Settles O48: a commit folds the unit's actions over the node, and each register reads as the last of the writes to it left it; the parts of the
commit that follow leave the S, V and P registers alone, set H in the order of LSIDs, and take tiles and pins from the unit's matrix actions. -/
theorem commitsWriteRegisters : Obligations.CommitsWriteRegisters := by
  unfold Obligations.CommitsWriteRegisters
  constructor
  · intro c base late nd r hw hr t names held writes hd
    have hnot : ∀ {b : PAct}, ¬names b → ∀ v, ¬b.Puts r v := fun hb v hp =>
      hp.elim (fun ⟨n, h⟩ => hb (.inl ⟨v, n, h⟩)) fun h => hb (.inr (.inl ⟨v, h.1⟩))
    refine ⟨fun hloop hheld => ?_, fun l k a w he ha hdef hk => ?_, fun l k q g he hno => ?_, fun h1 h2 h3 => ?_,
      fun q g x w h => csrwr_commitNode h, fun q g k h => jordSet_commitNode h⟩
    · have hkeep : r ∉ emptied c := fun hmem => by
        obtain ⟨hl, ht⟩ | ⟨a, ha, hact⟩ := mem_emptied.1 hmem
        · exact hloop.elim (fun h => by rw [h] at hl; cases hl) fun h => h ht
        · exact hheld a ha (.inr (.inr hact))
      rw [sreg_commitNode, sreg_commitRegs_unwritten (nd := nd.settleInner c.u.tag) hw hr hd fun a ha => hnot (hheld a ha), if_neg hkeep]
      rfl
    · exact sreg_commitNode.trans (sreg_commitRegs_last hw hr hd he ha hdef fun b hb => hnot (hk b hb))
    · have hmem : r ∈ emptied c := mem_emptied.2 (.inr ⟨⟨q, g, .empty r⟩, he ▸ List.mem_append_right _ (List.mem_cons_self ..), rfl⟩)
      have hreg := sreg_commitRegs_unwritten (nd := nd.settleInner c.u.tag) hw hr hd fun a ha v hp =>
        hp.elim (fun ⟨n, h⟩ => (hno a ha).1 v n h) fun h => (hno a ha).2 v h.1
      rw [sreg_commitNode, hreg, if_pos hmem]
      exact ⟨rfl, rfl⟩
    · obtain ⟨hfp, hjf, hrmode, hjord, hkey, -⟩ := csrs_eq_iff.1 (csrs_commitNode_unwritten (base := base) (nd := nd) (late := late) h1 h2 h3)
      exact ⟨hfp, hjf, hrmode, hjord, hkey⟩
  · intro c base late nd hv hp hh t writesV beats
    refine ⟨fun ht hd h => ?_, fun l k a x bs j he hx ha hdef hk hd hj hb => ?_, fun j h => ?_, fun l k q g j v he hk => ?_, fun k h => ?_,
      fun o k r hmem hlast => ?_, rfl, rfl⟩
    · exact (svp_commitNode ..).2.1.trans (v_commitRegs_unwritten ht hd h)
    · obtain ⟨m, hact⟩ := ha
      exact vreg_commitNode.trans (vreg_commitRegs_last hv hd he hact hdef hk hx hj hb)
    · exact preg_commitNode.trans (preg_commitRegs_unwritten h)
    · rw [preg_commitNode, preg_commitRegs_last (nd := nd.settleInner c.u.tag) hp he rfl hk]
      exact preg_writeP hp
    · exact hreg_commitNode_unwritten hh h
    · exact hreg_commitNode_last hh hmem hlast

section
/-! PROOFS. Integers in containers: what an element read back from where it was delivered is (02 R39; 09 R185). -/

namespace Sys2Proof.Num
open Sys2Proof.Bits

theorem sext_eq_bmod (w x : Nat) : sext w x = (x : Int).bmod (2 ^ w) := by
  rw [sext, BitVec.toInt_ofNat']

/-- A number is brought into the range of `w` bits whether or not its higher bits are dropped first. -/
theorem sext_emod {w c : Nat} (h : w ≤ c) (v : Int) : sext w (v % 2 ^ c).toNat = v.bmod (2 ^ w) := by
  have hd : ((2 ^ w : Nat) : Int) ∣ 2 ^ c := by exact_mod_cast Nat.pow_dvd_pow 2 h
  have hpos : (2 : Int) ^ c ≠ 0 := by positivity
  rw [sext_eq_bmod, Int.toNat_of_nonneg (Int.emod_nonneg _ hpos), Int.bmod_def, Int.bmod_def, Int.emod_emod_of_dvd _ hd]

theorem readInt_writeInt_unsigned (cont : Nat) (v : Int) : readInt 1 (writeInt cont 1 v) = v % 256 := by
  simp only [readInt, writeInt, if_true]
  omega

theorem readInt_writeInt_signed {cont ty : Nat} (hty : ¬ty = 1) (hw : width ty ≤ cont) (v : Int) :
    readInt ty (writeInt cont ty v) = v.bmod (2 ^ width ty) := by
  rw [readInt, if_neg hty, writeInt, if_neg hty, sext_emod hw, sext_emod le_rfl, Int.bmod_bmod]

/-- An integer written at TY and read back is congruent to it. -/
theorem readInt_writeInt_emod {cont ty : Nat} (hw : width ty ≤ cont) (v : Int) : (readInt ty (writeInt cont ty v) - v) % 2 ^ width ty = 0 := by
  by_cases hty : ty = 1
  · subst hty
    rw [readInt_writeInt_unsigned, show (2 : Int) ^ width 1 = 256 from rfl]
    omega
  · rw [readInt_writeInt_signed hty hw]
    have := Int.bmod_emod (x := v) (m := 2 ^ width ty)
    exact_mod_cast Int.emod_eq_emod_iff_emod_sub_eq_zero.1 this

theorem width_pos (ty : Nat) : 0 < width ty := by
  unfold width
  split_ifs <;> decide

/-- An integer in the range of TY is read back as it was written. -/
theorem readInt_writeInt_of_range {cont ty : Nat} (hw : width ty ≤ cont) {v : Int} (hlo : intLo ty ≤ v) (hhi : v ≤ intHi ty) :
    readInt ty (writeInt cont ty v) = v := by
  by_cases hty : ty = 1
  · subst hty
    rw [readInt_writeInt_unsigned]
    simp only [intLo, intHi, if_true] at hlo hhi
    omega
  · rw [readInt_writeInt_signed hty hw]
    rw [intLo, if_neg hty] at hlo
    rw [intHi, if_neg hty] at hhi
    obtain ⟨w, hw'⟩ : ∃ w, width ty = w + 1 := ⟨_, (Nat.succ_pred (width_pos ty).ne').symm⟩
    rw [hw'] at hlo hhi ⊢
    have h2 : (2 : Nat) ^ (w + 1) = 2 * 2 ^ w := pow_succ' ..
    rw [Nat.add_sub_cancel] at hlo hhi
    generalize (2 : Nat) ^ w = p at *
    exact Int.bmod_eq_of_le_mul_two (by omega) (by omega)

theorem writeInt_lt {cont ty : Nat} (hw : width ty ≤ cont) (v : Int) : writeInt cont ty v < 2 ^ cont := by
  unfold writeInt
  split
  · next hty =>
    subst hty
    calc (v % 256).toNat < 2 ^ 8 := by omega
      _ ≤ 2 ^ cont := Nat.pow_le_pow_right two_pos hw
  · have hpos : (0 : Int) < 2 ^ cont := by positivity
    rw [Int.toNat_lt (Int.emod_nonneg _ hpos.ne')]
    exact_mod_cast Int.emod_lt_of_pos _ hpos

theorem intLo_le_intHi (ty : Nat) : intLo ty ≤ intHi ty := by
  have := Nat.two_pow_pos (width ty - 1)
  unfold intLo intHi
  split <;> omega

end Sys2Proof.Num

namespace Sys2Proof.Machine
open Sys2Proof.Num

theorem intDeliver_of_range {ty : Nat} {x : Int} (hlo : intLo ty ≤ x) (hhi : x ≤ intHi ty) (cont : Nat) (sat : BitVec 1) :
    intDeliver cont ty sat x = writeInt cont ty x := by
  rw [intDeliver, if_neg (not_lt.2 hlo), if_neg (not_lt.2 hhi), ite_self]

/-- Without SAT the result wraps. -/
theorem intDeliver_wraps (cont ty : Nat) (x : Int) : intDeliver cont ty 0 x = writeInt cont ty x := by
  rw [intDeliver, if_neg (by decide)]

theorem intDeliver_low {ty : Nat} {x : Int} (h : x < intLo ty) (cont : Nat) : intDeliver cont ty 1 x = writeInt cont ty (intLo ty) := by
  rw [intDeliver, if_pos rfl, if_pos h]

theorem intDeliver_high {ty : Nat} {x : Int} (h : intHi ty < x) (cont : Nat) : intDeliver cont ty 1 x = writeInt cont ty (intHi ty) := by
  rw [intDeliver, if_pos rfl, if_neg (not_lt.2 ((intLo_le_intHi ty).trans h.le)), if_pos h]

/-- An element of an integer TY fits the container that an operation on it has. -/
theorem width_le_container {cont ty : Nat} (hty : ty ≤ 4) (hc : cont = 64 ∨ (cont = 32 ∧ ty ≤ 3)) : width ty ≤ cont := by
  rcases hc with rfl | ⟨rfl, h⟩
  · interval_cases ty <;> decide
  · interval_cases ty <;> decide

end Sys2Proof.Machine

open Sys2Proof Sys2Proof.Machine Sys2Proof.Num

/-- Settles O12: an integer written at TY and read back is itself in the range of TY, and congruent to itself always. -/
theorem intDelivery : Obligations.IntDelivery := by
  intro cont ty sat x hty hc
  have hw := width_le_container hty hc
  refine ⟨fun hlo hhi => ?_, ?_, ?_, ?_, writeInt_lt hw _⟩
  · rw [intDeliver_of_range hlo hhi, readInt_writeInt_of_range hw hlo hhi]
  · rintro rfl hlo
    rw [intDeliver_low hlo, readInt_writeInt_of_range hw le_rfl (intLo_le_intHi ty)]
  · rintro rfl hhi
    rw [intDeliver_high hhi, readInt_writeInt_of_range hw (intLo_le_intHi ty) le_rfl]
  · rintro rfl
    rw [intDeliver_wraps]
    exact readInt_writeInt_emod hw x

end

section
/-! PROOFS. The integer forms, element by element (09 R185–R188). -/

namespace Sys2Proof.Machine
open Sys2Proof.Bits

/-! ## The draws of element forms (06 R110, R111; 09 R204) -/

theorem planeOf_eq {i : Instr} {f : FmtA} {p : BitVec 2} (hh : i.hdr = f.h) (hp : f.h.plane = p) : planeOf i = p.toNat := by
  rw [planeOf, hh, hp]

/-- An INT or BIT form draws 4 or 24. -/
theorem elemForm_integer {i : Instr} {f : FmtA} {el : Fx → Nat → Nat → Nat → Nat → LaneOut} (hx : exec i = elemForm i f el) (hh : i.hdr = f.h)
    (hg : groupOf i = 3 ∨ groupOf i = 4) : ElementForm i f 4 24 el := by
  have hd : ∀ k, formDraw i k = if planeOf i = 0 then 4 else 24 := fun k => by rcases hg with hg | hg <;> simp only [formDraw, hg]
  exact elemForm_element hx hh (fun hp k => by rw [hd, planeOf_eq hh hp]; rfl) (fun hp k => by rw [hd, planeOf_eq hh hp]; rfl)

/-! ## The functions of the INT forms -/

/-- The quotient by zero: the largest number without sign, or −1 (09 R186). -/
theorem intDiv_eq (ty : Nat) (uns : Prop) [Decidable uns] (a b : Int) :
    intDiv ty (decide uns) a b = if b = 0 then (if ¬(uns ∨ ty = 1) then -1 else ((2 ^ Num.width ty : Nat) : Int) - 1) else a.tdiv b := by
  simp only [intDiv, Bool.or_eq_true, decide_eq_true_eq, ite_not]

/-- MADD reads its operands without sign just where it subtracts. -/
theorem madd_eq (ty : Nat) (uns : Prop) [Decidable uns] (a b c : Nat) :
    (if uns then intRead ty (decide uns) a * intRead ty (decide uns) b - intRead ty (decide uns) c
      else intRead ty (decide uns) a * intRead ty (decide uns) b + intRead ty (decide uns) c) =
    if uns then intRead ty (decide uns) a * intRead ty (decide uns) b - intRead ty (decide uns) c
      else intRead ty false a * intRead ty false b + intRead ty false c := by
  split
  · rfl
  · next h => rw [decide_eq_false h]

/-- The sum of the four products of bytes (09 R187). -/
theorem dot4_eq (ty : Nat) (us : Bool) (a b : Nat) : dot4 ty us a b =
    dotByte (!(ty = 1) && !us) a 0 * dotByte (!(ty = 1)) b 0 + dotByte (!(ty = 1) && !us) a 1 * dotByte (!(ty = 1)) b 1 +
      dotByte (!(ty = 1) && !us) a 2 * dotByte (!(ty = 1)) b 2 + dotByte (!(ty = 1) && !us) a 3 * dotByte (!(ty = 1)) b 3 := by
  simp only [dot4, List.range, List.range.loop, List.foldl_cons, List.foldl_nil, Int.zero_add]

theorem dotByte_not (uns : Prop) [Decidable uns] (x i : Nat) :
    dotByte (!decide uns) x i = if uns then ((x / 2 ^ (8 * i) % 256 : Nat) : Int) else Bits.sext 8 (x / 2 ^ (8 * i) % 256) := by
  by_cases h : uns <;> simp [dotByte, h]

end Sys2Proof.Machine

open Sys2Proof Sys2Proof.Machine

/-- Settles O11: the frame of the element forms gives each INT form its function. -/
theorem intResults : Obligations.IntResults := by
  intro f
  refine ⟨?add, ?sub, ?mul, ?mulh, ?div, ?rem, ?neg, ?abs, ?min, ?max, ?madd, ?dot4, ?lea⟩
  case add | sub | mul | mulh | rem | neg | abs | min | max | lea => exact elemForm_integer rfl rfl (by simp)
  case div =>
    refine elemForm_integer (funext fun s => ?_) rfl (by simp)
    show execDiv f s = _
    simp only [execDiv, intFormU, intDiv_eq]
  case madd =>
    refine elemForm_integer (funext fun s => ?_) rfl (by simp)
    show execMadd f s = _
    simp only [execMadd, madd_eq]
  case dot4 =>
    refine elemForm_integer (funext fun s => ?_) rfl (by simp)
    show execDot4 f s = _
    simp only [execDot4, dot4_eq, ← Bool.not_or, ← Bool.decide_or, dotByte_not]

end

section
/-! PROOFS. The floating-point forms on the S and V planes, element by element (09 R191–R196). -/

namespace Sys2Proof.Machine

section
variable {i : Instr} {f : FmtA} {el : Fx → Nat → Nat → Nat → Nat → LaneOut} {jet : Fx → List Nat → List Nat → List Nat → LaneOut}
  (hh : i.hdr = f.h)
include hh

/-- A FARITH form draws 8 or 40 off the J plane. -/
theorem formDraw_farith (hg : groupOf i = 5) {p : BitVec 2} (hp : f.h.plane = p) (h2 : ¬p.toNat = 2) (k : Nat) :
    formDraw i k = if p.toNat = 0 then 8 else 40 := by
  simp only [formDraw, hg, planeOf_eq hh hp, prodJ, linJ, if_neg h2, ite_self, Nat.mul_one]

theorem jetForm_float (hg : groupOf i = 5) (hx : ∀ s, exec i s = jetForm i f el jet s) : ElementForm i f 8 40 el :=
  jetForm_element (funext hx) hh (fun hp => formDraw_farith hh hg hp (by decide)) (fun hp => formDraw_farith hh hg hp (by decide))

theorem elemForm_float (hg : groupOf i = 5) (hx : exec i = elemForm i f el) : ElementForm i f 8 40 el :=
  elemForm_element hx hh (fun hp => formDraw_farith hh hg hp (by decide)) (fun hp => formDraw_farith hh hg hp (by decide))

end

end Sys2Proof.Machine

open Sys2Proof Sys2Proof.Machine

/-- Settles O17: the frames of the element forms and of the jet forms give each FARITH form its function. -/
theorem floatResults : Obligations.FloatResults := by
  intro f
  refine ⟨?fadd, ?fsub, ?fmul, ?fma, ?fnma, ?fdiv, ?frcp, ?fsqrt, ?frsqrt, ?fmin, ?fmax, ?fabs, ?fneg, ?fcpys, ?fclass, ?frint, ?fscale⟩
  case fclass | frint => exact elemForm_float rfl (by simp) rfl
  case fadd | fsub | fmul | fma | fnma | fdiv | frcp | fsqrt | frsqrt | fmin | fmax | fabs | fneg | fcpys | fscale =>
    apply jetForm_float rfl (by simp)
    intro s
    delta exec execFadd execFsub execFmul execFma execFnma execFdiv execFsqrt execFrsqrt execFrcp execFmin execFmax execFabs execFneg execFcpys execFscale
    rfl

end

section
/-! PROOFS. The bitwise and shift forms (09 R189, R190): bit `k` of what each of them computes. -/

namespace Sys2Proof.Num

theorem bitLen_of_testBit {w x : Nat} (hx : x < 2 ^ (w + 1)) (h : x.testBit w = true) : bitLen x = w + 1 := by
  have hge : 2 ^ w ≤ x := Nat.ge_two_pow_of_testBit h
  have h0 : x ≠ 0 := by have := Nat.two_pow_pos w; omega
  rw [bitLen, if_neg h0, (Nat.log2_eq_iff h0).2 ⟨hge, hx⟩]

theorem bitLen_le {w x : Nat} (hx : x < 2 ^ w) : bitLen x ≤ w := by
  unfold bitLen
  split
  · exact Nat.zero_le w
  · next h => exact (Nat.log2_lt h).2 hx

end Sys2Proof.Num

namespace Sys2Proof.Machine
open Sys2Proof.Bits Sys2Proof.Num

/-! ## Numbers from their bits -/

theorem testBit_ofBits_getD (l : List Bool) (k : Nat) : (ofBits l).testBit k = l.getD k false := by
  induction l generalizing k with
  | nil => simp [ofBits]
  | cons b bs ih =>
    cases k with
    | zero => cases b <;> simp [ofBits, Nat.testBit_zero]
    | succ k =>
      have hhalf : ((if b then 1 else 0) + 2 * ofBits bs) / 2 = ofBits bs := by split <;> omega
      rw [ofBits, Nat.testBit_succ, hhalf, ih, List.getD_cons_succ]

theorem testBit_ofBits_range {w k : Nat} (g : Nat → Bool) (hk : k < w) : (ofBits ((List.range w).map g)).testBit k = g k := by
  rw [testBit_ofBits_getD]
  simp [hk]

theorem testBit_ofBits_reverse {w k : Nat} (x : Nat) (hk : k < w) : (ofBits (bitList w x).reverse).testBit k = x.testBit (w - 1 - k) := by
  rw [testBit_ofBits_getD, bitList]
  simp [List.getD, hk]

theorem div_two_pow_odd_iff (x k : Nat) : x / 2 ^ k % 2 = 1 ↔ x.testBit k = true := by
  rw [Nat.testBit_eq_decide_div_mod_eq, decide_eq_true_eq]

/-! ## Bit `k` of each result -/

theorem testBit_ones_sub {w y k : Nat} (hy : y < 2 ^ w) (hk : k < w) : (ones w - y).testBit k = !y.testBit k := by
  rw [ones, Nat.sub_sub, Nat.add_comm 1, Nat.testBit_two_pow_sub_succ hy, decide_eq_true hk, Bool.true_and]

/-- Ones above the low `n` bits. -/
theorem testBit_add_high {n w b k : Nat} (hb : b < 2 ^ n) (hn : n ≤ w) (hk : k < w) (fill : Prop) [Decidable fill] :
    (b + if fill then 2 ^ w - 2 ^ n else 0).testBit k = if k < n then b.testBit k else decide fill := by
  have hsum : (b + if fill then 2 ^ w - 2 ^ n else 0) = 2 ^ n * (if fill then 2 ^ (w - n) - 1 else 0) + b := by
    split
    · rw [Nat.mul_sub, ← Nat.pow_add, Nat.add_sub_cancel' hn, Nat.mul_one, Nat.add_comm]
    · omega
  rw [hsum, Nat.testBit_two_pow_mul_add _ hb]
  split
  · rfl
  · split
    · next hf => simpa [hf] using by omega
    · next hf => simp [hf]

/-- A number extended from its low `n` bits repeats its bit `n − 1` above them. -/
theorem testBit_signTo {w n k : Nat} (x : Nat) (hn : n ≤ w) (hk : k < w) :
    (signTo w n x).testBit k = if k < n then x.testBit k else x.testBit (n - 1) := by
  have hsign : signTo w n x = x % 2 ^ n + if x.testBit (n - 1) = true then 2 ^ w - 2 ^ n else 0 := by
    simp only [signTo, div_two_pow_odd_iff]
    split <;> rfl
  rw [hsign, testBit_add_high (Nat.mod_lt _ (Nat.two_pow_pos n)) hn hk, Nat.testBit_mod_two_pow, Bool.decide_eq_true]
  split
  · next h => rw [decide_eq_true h, Bool.true_and]
  · rfl

theorem testBit_sarW {w x k : Nat} (c : Nat) (hx : x < 2 ^ w) (hk : k < w) :
    (sarW w x c).testBit k = x.testBit (if k + c < w then k + c else w - 1) := by
  have hmin : (if w ≤ c then w else c) = min w c := by
    rw [min_def]
  have hsmall : x / 2 ^ min w c < 2 ^ (w - min w c) := by
    rw [Nat.div_lt_iff_lt_mul (Nat.two_pow_pos _), ← Nat.pow_add, Nat.sub_add_cancel (Nat.min_le_left w c)]
    exact hx
  simp only [sarW, hmin, div_two_pow_odd_iff]
  rw [testBit_add_high hsmall (Nat.sub_le ..) hk, Nat.testBit_div_two_pow, Bool.decide_eq_true]
  by_cases h : k + c < w
  · rw [if_pos h, if_pos (by omega), Nat.min_eq_right (by omega)]
  · rw [if_neg h, if_neg (by omega)]

theorem testBit_rolW {w x k : Nat} (c : Nat) (hx : x < 2 ^ w) (hk : k < w) : (rolW w x c).testBit k = x.testBit ((k + (w - c % w)) % w) := by
  have hc : c % w < w := Nat.mod_lt _ (by omega)
  simp only [rolW]
  generalize c % w = c at *
  have hw : 2 ^ w = 2 ^ c * 2 ^ (w - c) := by rw [← Nat.pow_add, Nat.add_sub_cancel' hc.le]
  have hlow : x / 2 ^ (w - c) < 2 ^ c := by
    rw [Nat.div_lt_iff_lt_mul (Nat.two_pow_pos _), ← hw]
    exact hx
  rw [Nat.mul_comm, hw, Nat.mul_mod_mul_left, Nat.testBit_two_pow_mul_add _ hlow]
  split
  · next h => rw [Nat.testBit_div_two_pow, Nat.mod_eq_of_lt (by omega)]
  · next h =>
    have hturn : (k + (w - c)) % w = k - c := by
      rw [show k + (w - c) = k - c + w by omega, Nat.add_mod_right, Nat.mod_eq_of_lt (by omega)]
    rw [hturn, Nat.testBit_mod_two_pow, decide_eq_true (by omega), Bool.true_and]

theorem testBit_field {n k : Nat} (x p : Nat) : (x / 2 ^ p % 2 ^ n).testBit k = (decide (k < n) && x.testBit (p + k)) := by
  rw [Nat.testBit_mod_two_pow, Nat.testBit_div_two_pow, Nat.add_comm]

/-- A field of `x`, extended with its sign or without. -/
theorem testBit_extract {w n p k : Nat} (x : Nat) (h1 : 1 ≤ n) (hn : n ≤ w) (hk : k < w) (signed : Prop) [Decidable signed] :
    (if signed then signTo w n (x / 2 ^ p % 2 ^ n) else x / 2 ^ p % 2 ^ n).testBit k =
      if k < n then x.testBit (p + k) else signed && x.testBit (p + n - 1) := by
  by_cases hs : signed
  · rw [if_pos hs, testBit_signTo _ hn hk, testBit_field, testBit_field, decide_eq_true hs, Bool.true_and]
    split
    · next h => rw [decide_eq_true h, Bool.true_and]
    · rw [decide_eq_true (by omega), Bool.true_and, Nat.add_sub_assoc h1]
  · rw [if_neg hs, testBit_field, decide_eq_false hs, Bool.false_and]
    split
    · next h => rw [decide_eq_true h, Bool.true_and]
    · next h => rw [decide_eq_false h, Bool.false_and]

/-- A field of `y` inserted into `x`. -/
theorem testBit_insert (x y p n k : Nat) : (x % 2 ^ p + y % 2 ^ n * 2 ^ p + x / 2 ^ (p + n) * 2 ^ (p + n)).testBit k =
    if p ≤ k ∧ k < p + n then y.testBit (k - p) else x.testBit k := by
  have hx : x % 2 ^ p < 2 ^ p := Nat.mod_lt _ (Nat.two_pow_pos p)
  have hy : y % 2 ^ n < 2 ^ n := Nat.mod_lt _ (Nat.two_pow_pos n)
  have hlow : 2 ^ p * (y % 2 ^ n) + x % 2 ^ p < 2 ^ (p + n) := by
    calc 2 ^ p * (y % 2 ^ n) + x % 2 ^ p < 2 ^ p * (y % 2 ^ n + 1) := by rw [Nat.mul_succ]; omega
      _ ≤ 2 ^ p * 2 ^ n := Nat.mul_le_mul_left _ hy
      _ = 2 ^ (p + n) := (Nat.pow_add ..).symm
  rw [show x % 2 ^ p + y % 2 ^ n * 2 ^ p + x / 2 ^ (p + n) * 2 ^ (p + n) = 2 ^ (p + n) * (x / 2 ^ (p + n)) + (2 ^ p * (y % 2 ^ n) + x % 2 ^ p) by ring,
    Nat.testBit_two_pow_mul_add _ hlow, Nat.testBit_two_pow_mul_add _ hx, Nat.testBit_mod_two_pow, Nat.testBit_mod_two_pow, Nat.testBit_div_two_pow]
  by_cases h1 : k < p
  · simp [h1, show k < p + n by omega, show ¬p ≤ k by omega]
  · by_cases h2 : k < p + n
    · simp [h1, h2, show p ≤ k by omega, show k - p < n by omega]
    · simp [h2, show k - (p + n) + (p + n) = k by omega]

/-! ## Counts -/

/-- The leading zeros are the bits from the top down to the first one. -/
theorem clzW_eq {w x : Nat} (hx : x < 2 ^ w) : clzW w x = ((List.range w).reverse.takeWhile fun k => !x.testBit k).length := by
  induction w with
  | zero => simp [clzW]
  | succ w ih =>
    rw [List.range_succ, List.reverse_append, List.reverse_singleton, List.singleton_append, List.takeWhile_cons]
    cases h : x.testBit w with
    | true => simp [clzW, bitLen_of_testBit hx h]
    | false =>
      have hlow : x < 2 ^ w := Nat.lt_pow_two_of_testBit _ fun k hk => by
        rcases Nat.eq_or_lt_of_le hk with rfl | hk
        · exact h
        · exact Nat.testBit_lt_two_pow (hx.trans_le (Nat.pow_le_pow_right two_pos hk))
      have := bitLen_le hlow
      rw [if_pos (by simp), List.length_cons, ← ih hlow, clzW, clzW]
      omega

theorem length_filter_bitList (w x : Nat) : ((bitList w x).filter id).length = ((List.range w).filter fun k => x.testBit k).length := by
  simp [bitList, List.filter_map]

/-! ## The frame of the BIT forms -/

/-- What is delivered hangs on the low bits alone. -/
theorem bitDeliver_congr {ty x y : Nat} (h : ∀ k, k < width ty → x.testBit k = y.testBit k) (cont : Nat) : bitDeliver cont ty x = bitDeliver cont ty y := by
  have hlow : x % 2 ^ width ty = y % 2 ^ width ty := Nat.eq_of_testBit_eq fun k => by
    simp only [Nat.testBit_mod_two_pow]
    by_cases hk : k < width ty
    · rw [h k hk]
    · rw [decide_eq_false hk, Bool.false_and, Bool.false_and]
  rw [bitDeliver, bitDeliver, hlow]

section
variable {i : Instr} {f : FmtA} {m : State → Host.Outcome State Fault Refusal} {op : Nat → Nat → Nat → Nat}
  (hm : exec i = m) (hx : ∀ s, m s = bitForm i f op s) (hh : i.hdr = f.h) (hg : groupOf i = 4)
include hm hx hh hg

/-- A BIT form delivers any number that has the low bits of its own. -/
theorem bitForm_element {res : Nat → Nat → Nat} (h : ∀ a b, a % 2 ^ width f.ty.toNat < 2 ^ width f.ty.toNat →
      b % 2 ^ width f.ty.toNat < 2 ^ width f.ty.toNat → ∀ k, k < width f.ty.toNat →
      (op (width f.ty.toNat) (a % 2 ^ width f.ty.toNat) (b % 2 ^ width f.ty.toNat)).testBit k = (res a b).testBit k) :
    ElementForm i f 4 24 fun _ cont a b _ => LaneOut.pure (bitDeliver cont f.ty.toNat (res a b)) := by
  have hlt : ∀ a, a % 2 ^ width f.ty.toNat < 2 ^ width f.ty.toNat := fun a => Nat.mod_lt a (Nat.two_pow_pos _)
  refine elemForm_integer (funext fun s => ?_) hh (.inr hg)
  simp only [hm, hx, bitForm, bitDeliver_congr (h _ _ (hlt _) (hlt _))]

/-- A BIT form given bit by bit. -/
theorem bitForm_bits {g : Nat → Nat → Nat → Bool} (h : ∀ a b, a % 2 ^ width f.ty.toNat < 2 ^ width f.ty.toNat →
      b % 2 ^ width f.ty.toNat < 2 ^ width f.ty.toNat → ∀ k, k < width f.ty.toNat →
      (op (width f.ty.toNat) (a % 2 ^ width f.ty.toNat) (b % 2 ^ width f.ty.toNat)).testBit k = g a b k) :
    ElementForm i f 4 24 fun _ cont a b _ =>
      LaneOut.pure (bitDeliver cont f.ty.toNat (ofBits ((List.range (width f.ty.toNat)).map (g a b)))) :=
  bitForm_element hm hx hh hg fun a b ha hb k hk => by rw [h a b ha hb k hk, testBit_ofBits_range _ hk]

end

end Sys2Proof.Machine

open Sys2Proof Sys2Proof.Machine Sys2Proof.Bits

/-- Settles O13: each BIT form is the frame of its function, which has the bits, or is the count, that the rule gives. -/
theorem bitResults : Obligations.BitResults := by
  intro f
  refine ⟨?and, ?or, ?xor, ?andn, ?not, ?brev, ?shl, ?shr, ?sar, ?rol, ?clz, ?popc, ?bfx, ?bfi, ?sext, ?zext⟩
  case and => exact bitForm_bits (m := execAnd f) rfl (fun _ => rfl) rfl (by simp) fun x y _ _ k _ => Nat.testBit_and ..
  case or => exact bitForm_bits (m := execOr f) rfl (fun _ => rfl) rfl (by simp) fun x y _ _ k _ => Nat.testBit_or ..
  case xor => exact bitForm_bits (m := execXor f) rfl (fun _ => rfl) rfl (by simp) fun x y _ _ k _ => Nat.testBit_xor ..
  case andn => exact bitForm_bits (m := execAndn f) rfl (fun _ => rfl) rfl (by simp) fun x y _ hy k hk => by rw [Nat.testBit_and, testBit_ones_sub hy hk]
  case not => exact bitForm_bits (m := execNot f) rfl (fun _ => rfl) rfl (by simp) fun x _ hx _ k hk => testBit_ones_sub hx hk
  case brev => exact bitForm_bits (m := execBrev f) rfl (fun _ => rfl) rfl (by simp) fun x _ _ _ k hk => by rw [testBit_ofBits_reverse _ hk]
  case shl =>
    refine bitForm_element (m := execShl f) rfl (fun _ => rfl) rfl (by simp) fun x c _ _ k hk => ?_
    dsimp only
    split
    · rfl
    · rw [Nat.testBit_mod_two_pow, decide_eq_true hk, Bool.true_and]
  case shr => exact bitForm_element (m := execShr f) rfl (fun _ => rfl) rfl (by simp) fun _ _ _ _ _ _ => rfl
  case sar =>
    refine bitForm_element (m := execSar f) rfl (fun _ => rfl) rfl (by simp) fun x c hx _ k hk => ?_
    rw [testBit_sarW _ hx hk, testBit_ofBits_range _ hk]
  case rol =>
    refine bitForm_element (m := execRol f) rfl (fun _ => rfl) rfl (by simp) fun x c hx _ k hk => ?_
    rw [testBit_rolW _ hx hk, testBit_ofBits_range _ hk]
  case clz => exact bitForm_element (m := execClz f) rfl (fun _ => rfl) rfl (by simp) fun _ _ hx _ _ _ => congrArg (Nat.testBit · _) (clzW_eq hx)
  case popc => exact bitForm_element (m := execPopc f) rfl (fun _ => rfl) rfl (by simp) fun _ _ _ _ _ _ => congrArg (Nat.testBit · _) (length_filter_bitList ..)
  case bfx => exact fun h1 hp => bitForm_bits (m := execBfx f) rfl (fun _ => rfl) rfl (by simp) fun _ _ _ _ _ hk =>
    testBit_extract _ h1 ((Nat.le_add_left ..).trans hp) hk _
  case bfi => exact fun h1 hp => bitForm_bits (m := execBfi f) rfl (fun _ => rfl) rfl (by simp) fun _ _ _ _ _ _ => testBit_insert ..
  case sext => exact fun h1 hp => bitForm_bits (m := execSext f) rfl (fun _ => rfl) rfl (by simp) fun _ _ _ _ _ hk => testBit_signTo _ hp hk
  case zext => exact fun h1 hp => bitForm_bits (m := execZext f) rfl (fun _ => rfl) rfl (by simp) fun _ _ _ _ _ _ => Nat.testBit_mod_two_pow ..

end

section
/-! PROOFS. The floating-point operations at NaNs, infinities and zeros, and where their addends cancel (09 R192, R193, R196; 02 R40). -/

namespace Sys2Proof.Num

theorem Flags.zero_or (fl : Flags) : 0 ||| fl = fl := BitVec.zero_or

theorem ieee_of_mem {F : Fmt} (h : F ∈ [bf16, fp16, fp32, fp64]) : F.ieee = true := by
  simp only [List.mem_cons, List.not_mem_nil, or_false] at h
  rcases h with rfl | rfl | rfl | rfl <;> rfl

/-! ## Values that are delivered without rounding (02 R43) -/

section
variable {F : Fmt} {rm : Nat} {sat n : Bool} {e : Int}

theorem roundFin_zero : roundFin F rm sat n 0 e = (F.zero n, 0) := rfl

theorem deliver_nan {s invalid : Bool} : deliver F rm sat (.nan s, invalid) = (F.nan, if invalid then NV else 0) := rfl

theorem deliver_inf (hF : F.ieee = true) {invalid : Bool} : deliver F rm sat (.inf n, invalid) = (F.inf n, if invalid then NV else 0) := by
  simp only [deliver, hF, if_true]

theorem deliver_zero {invalid : Bool} : deliver F rm sat (.fin n 0 e, invalid) = (F.zero n, if invalid then NV else 0) := by
  simp only [deliver, roundFin_zero, Flags.zero_or]

theorem deliverQuot_nan {s : Bool} {fl : Flags} : deliverQuot F rm sat (.val (.nan s) fl) = (F.nan, fl) := by
  simp only [deliverQuot, deliver_nan, Bool.false_eq_true, if_false, Flags.zero_or]

theorem deliverQuot_inf (hF : F.ieee = true) {fl : Flags} : deliverQuot F rm sat (.val (.inf n) fl) = (F.inf n, fl) := by
  simp only [deliverQuot, deliver_inf hF, Bool.false_eq_true, if_false, Flags.zero_or]

theorem deliverQuot_zero {fl : Flags} : deliverQuot F rm sat (.val (.fin n 0 e) fl) = (F.zero n, fl) := by
  simp only [deliverQuot, deliver_zero, Bool.false_eq_true, if_false, Flags.zero_or]

end

/-! ## Sums (09 R192) -/

theorem FVal.isNan_iff {a : FVal} : a.isNan = true ↔ ∃ s, a = .nan s := by
  cases a <;> simp [FVal.isNan]

theorem FVal.isNan_neg (a : FVal) : a.neg.isNan = a.isNan := by cases a <;> rfl

theorem FVal.isSnan_neg (a : FVal) : a.neg.isSnan = a.isSnan := by cases a <;> rfl

/-- A value, negated or not. -/
def FVal.negIf (neg : Bool) (a : FVal) : FVal := if neg then a.neg else a

@[simp] theorem FVal.isNan_negIf (neg : Bool) (a : FVal) : (a.negIf neg).isNan = a.isNan := by
  cases neg
  · rfl
  · exact a.isNan_neg

@[simp] theorem FVal.isSnan_negIf (neg : Bool) (a : FVal) : (a.negIf neg).isSnan = a.isSnan := by
  cases neg
  · rfl
  · exact a.isSnan_neg

@[simp] theorem FVal.negIf_nan (neg s : Bool) : (FVal.nan s).negIf neg = .nan s := by cases neg <;> rfl

@[simp] theorem FVal.negIf_inf (neg n : Bool) : (FVal.inf n).negIf neg = .inf (n ^^ neg) := by cases neg <;> simp [negIf, FVal.neg]

@[simp] theorem FVal.negIf_fin (neg n : Bool) (m : Nat) (e : Int) : (FVal.fin n m e).negIf neg = .fin (n ^^ neg) m e := by
  cases neg <;> simp [negIf, FVal.neg]

section
variable {rm : Nat} {n n' : Bool} {m m' : Nat} {e e' : Int}

theorem sumVals_nan {a b : FVal} (h : a.isNan = true ∨ b.isNan = true) : sumVals rm [a, b] = (.nan false, a.isSnan || b.isSnan) := by
  simp [sumVals, h]

theorem sumVals_inf_inf : sumVals rm [.inf n, .inf n'] = if n = n' then (.inf n, false) else (.nan false, true) := by
  cases n <;> cases n' <;> rfl

theorem sumVals_inf_fin : sumVals rm [.inf n, .fin n' m e] = (.inf n, false) := by cases n <;> rfl

theorem sumVals_fin_inf : sumVals rm [.fin n' m e, .inf n] = (.inf n, false) := by cases n <;> rfl

theorem sumVals_zero_zero : sumVals rm [.fin n 0 e, .fin n' 0 e'] = (.fin (if n = n' then n else rm = 2) 0 0, false) := by
  cases n <;> cases n' <;> rfl

/-- Two numbers that cancel leave the zero of the rounding mode. -/
theorem sumVals_cancel : sumVals rm [.fin n m e, .fin (!n) m e] = (.fin (rm = 2) 0 0, false) := by
  by_cases hm : m = 0
  · subst hm
    rw [sumVals_zero_zero]
    simp
  · have hs : signed n m + signed (!n) m = 0 := by cases n <;> simp [signed]
    have hs0 : ∀ n, signed n m ≠ 0 := fun n => by cases n <;> simp [signed, hm]
    simp [sumVals, FVal.isNan, dyAdd, hs, hs0, FVal.isZero, hm]

end

/-! ## Products (09 R192) -/

theorem mulVal_comm (a b : FVal) : mulVal a b = mulVal b a := by
  cases a <;> cases b <;> simp [mulVal, Bool.or_comm, Bool.xor_comm, Nat.mul_comm, Int.add_comm]

theorem mulVal_nan {a b : FVal} (h : a.isNan = true ∨ b.isNan = true) : mulVal a b = (.nan false, a.isSnan || b.isSnan) := by
  cases a <;> cases b <;> simp [FVal.isNan] at h <;> simp [mulVal, FVal.isSnan]

/-- An infinity and a zero. -/
def InfZero (x y : FVal) : Prop := (x = .inf true ∨ x = .inf false) ∧ y.isZero = true

theorem FVal.isZero_iff {a : FVal} : a.isZero = true ↔ ∃ n e, a = .fin n 0 e := by
  cases a <;> simp [FVal.isZero]

theorem infZero_iff {x y : FVal} : InfZero x y ↔ ∃ n n' e, x = .inf n ∧ y = .fin n' 0 e := by
  simp only [InfZero, FVal.isZero_iff, Bool.exists_bool, exists_and_left, ← or_and_right, or_comm]

theorem mulVal_infZero {x y : FVal} (h : InfZero x y) : mulVal x y = (.nan false, true) := by
  obtain ⟨n, n', e, rfl, rfl⟩ := infZero_iff.1 h
  rfl

theorem mulVal_inf_fin {n n' : Bool} {m : Nat} {e : Int} (hm : ¬m = 0) : mulVal (.inf n) (.fin n' m e) = (.inf (n ^^ n'), false) := by
  simp [mulVal, hm]

/-- A product is valid unless an operand signals or an infinity meets a zero. -/
theorem mulVal_invalid {x y : FVal} (hxy : ¬InfZero x y) (hyx : ¬InfZero y x) : (mulVal x y).2 = (x.isSnan || y.isSnan) := by
  have hinf : ∀ {n n' m e}, ¬InfZero (.inf n) (.fin n' m e) → (mulVal (.inf n) (.fin n' m e)).2 = false := fun {n n' m e} h => by
    have hm : ¬m = 0 := fun hm => h (infZero_iff.2 ⟨n, n', e, rfl, by rw [hm]⟩)
    rw [mulVal_inf_fin hm]
  cases x with
  | nan => rw [mulVal_nan (.inl rfl)]
  | inf =>
    cases y with
    | nan => rw [mulVal_nan (.inr rfl)]
    | inf => rfl
    | fin => exact hinf hxy
  | fin =>
    cases y with
    | nan => rw [mulVal_nan (.inr rfl)]
    | inf => rw [mulVal_comm]; exact hinf hyx
    | fin => rfl

theorem mulVal_isSnan (x y : FVal) : (mulVal x y).1.isSnan = false := by
  unfold mulVal
  split
  case h_5 | h_6 => split <;> rfl
  all_goals rfl

theorem mulVal_inf_inf {n n' : Bool} : mulVal (.inf n) (.inf n') = (.inf (n ^^ n'), false) := by simp [mulVal]

theorem mulVal_fin_fin {n n' : Bool} {m m' : Nat} {e e' : Int} : mulVal (.fin n m e) (.fin n' m' e') = (.fin (n ^^ n') (m * m') (e + e'), false) := by
  simp [mulVal]

/-! ## Quotients (09 R192) -/

theorem quotVal_nan {a b : FVal} (h : a.isNan = true ∨ b.isNan = true) :
    quotVal a b = .val (.nan false) (if a.isSnan || b.isSnan then NV else 0) := by
  cases a <;> cases b <;> simp [FVal.isNan] at h <;> simp [quotVal, FVal.isSnan]

theorem quotVal_inf_fin {n n' : Bool} {m : Nat} {e : Int} : quotVal (.inf n) (.fin n' m e) = .val (.inf (n ^^ n')) 0 := by simp [quotVal]

theorem quotVal_fin_inf {n n' : Bool} {m : Nat} {e : Int} : quotVal (.fin n m e) (.inf n') = .val (.fin (n ^^ n') 0 0) 0 := by simp [quotVal]

theorem quotVal_fin_zero {n n' : Bool} {m : Nat} {e e' : Int} :
    quotVal (.fin n m e) (.fin n' 0 e') = if m = 0 then .val (.nan false) NV else .val (.inf (n ^^ n')) DZ := by simp [quotVal]

theorem quotVal_zero_fin {n n' : Bool} {m : Nat} {e e' : Int} (hm : ¬m = 0) : quotVal (.fin n 0 e) (.fin n' m e') = .val (.fin (n ^^ n') 0 0) 0 := by
  simp [quotVal, hm]

/-! ## What each operation delivers -/

theorem fadd_eq (F : Fmt) (rm : Nat) (sat neg : Bool) (a b : Nat) :
    fadd F rm sat neg a b = deliver F rm sat (sumVals rm [decode F a, (decode F b).negIf neg]) := rfl

theorem ffma_eq (F : Fmt) (rm : Nat) (sat negP negC : Bool) (a b c : Nat) : ffma F rm sat negP negC a b c =
    deliver F rm sat ((sumVals rm [(mulVal (decode F a) (decode F b)).1.negIf negP, (decode F c).negIf negC]).1,
      (mulVal (decode F a) (decode F b)).2 || (sumVals rm [(mulVal (decode F a) (decode F b)).1.negIf negP, (decode F c).negIf negC]).2) := rfl

theorem fmul_comm (F : Fmt) (rm : Nat) (sat : Bool) (a b : Nat) : fmul F rm sat a b = fmul F rm sat b a := by
  rw [fmul, fmul, mulVal_comm]

theorem ffma_comm (F : Fmt) (rm : Nat) (sat negP negC : Bool) (a b c : Nat) : ffma F rm sat negP negC a b c = ffma F rm sat negP negC b a c := by
  rw [ffma_eq, ffma_eq, mulVal_comm]

section
variable {F : Fmt} {rm : Nat} {sat p u n n' v : Bool} {a b c m m' k : Nat} {e e' f : Int}

section
variable (h : (decode F a).isNan = true ∨ (decode F b).isNan = true)
include h

theorem fadd_nan : fadd F rm sat p a b = (F.nan, if (decode F a).isSnan = true ∨ (decode F b).isSnan = true then NV else 0) := by
  rw [fadd_eq, sumVals_nan (by simpa using h), deliver_nan]
  simp only [FVal.isSnan_negIf, Bool.or_eq_true]

theorem fmul_nan : fmul F rm sat a b = (F.nan, if (decode F a).isSnan = true ∨ (decode F b).isSnan = true then NV else 0) := by
  rw [fmul, mulVal_nan h, deliver_nan]
  simp only [Bool.or_eq_true]

theorem fdiv_nan : deliverQuot F rm sat (quotVal (decode F a) (decode F b)) =
    (F.nan, if (decode F a).isSnan = true ∨ (decode F b).isSnan = true then NV else 0) := by
  rw [quotVal_nan h, deliverQuot_nan]
  simp only [Bool.or_eq_true]

end

/-- The sum of a product and an addend that are both given without a signal. -/
theorem ffma_of_mulVal {x : FVal} (hP : mulVal (decode F a) (decode F b) = (x, false)) : ffma F rm sat p u a b c =
    deliver F rm sat (sumVals rm [x.negIf p, (decode F c).negIf u]) := by
  simp only [ffma_eq, hP, Bool.false_or]

theorem ffma_inf_zero (h : InfZero (decode F a) (decode F b)) : ffma F rm sat p u a b c = (F.nan, NV) := by
  rw [ffma_eq, mulVal_infZero h, FVal.negIf_nan, sumVals_nan (.inl rfl), Bool.true_or, deliver_nan, if_pos rfl]

/-- A NaN among three operands is delivered, unless the product is invalid (09 R192). -/
theorem ffma_nan (h : (decode F a).isNan = true ∨ (decode F b).isNan = true ∨ (decode F c).isNan = true) (hab : ¬InfZero (decode F a) (decode F b))
    (hba : ¬InfZero (decode F b) (decode F a)) : ffma F rm sat p u a b c =
      (F.nan, if (decode F a).isSnan = true ∨ (decode F b).isSnan = true ∨ (decode F c).isSnan = true then NV else 0) := by
  have hsum : (mulVal (decode F a) (decode F b)).1.isNan = true ∨ (decode F c).isNan = true := by
    rcases h with h | h | h
    · exact .inl (by rw [mulVal_nan (.inl h)]; rfl)
    · exact .inl (by rw [mulVal_nan (.inr h)]; rfl)
    · exact .inr h
  rw [ffma_eq, sumVals_nan (by simpa using hsum), deliver_nan]
  simp only [FVal.isSnan_negIf, mulVal_isSnan, mulVal_invalid hab hba, Bool.false_or, Bool.or_eq_true, or_assoc]

theorem fadd_inf_inf (hF : F.ieee = true) (hA : decode F a = .inf n) (hB : decode F b = .inf n') :
    fadd F rm sat p a b = if n = (n' ^^ p) then (F.inf n, 0) else (F.nan, NV) := by
  rw [fadd_eq, hA, hB, FVal.negIf_inf, sumVals_inf_inf]
  split
  · exact deliver_inf hF
  · rfl

theorem fadd_inf_fin (hF : F.ieee = true) (hA : decode F a = .inf n) (hB : decode F b = .fin n' m e) : fadd F rm sat p a b = (F.inf n, 0) := by
  rw [fadd_eq, hA, hB, FVal.negIf_fin, sumVals_inf_fin, deliver_inf hF]
  rfl

theorem fadd_fin_inf (hF : F.ieee = true) (hA : decode F a = .fin n m e) (hB : decode F b = .inf n') : fadd F rm sat p a b = (F.inf (n' ^^ p), 0) := by
  rw [fadd_eq, hA, hB, FVal.negIf_inf, sumVals_fin_inf, deliver_inf hF]
  rfl

theorem fadd_zero_zero (hA : decode F a = .fin n 0 e) (hB : decode F b = .fin (n ^^ p) 0 e') : fadd F rm sat p a b = (F.zero n, 0) := by
  rw [fadd_eq, hA, hB, FVal.negIf_fin, sumVals_zero_zero, Bool.xor_assoc, Bool.xor_self, Bool.xor_false, if_pos rfl, deliver_zero]
  rfl

theorem fadd_cancel (hA : decode F a = .fin n m e) (hB : decode F b = .fin (n ^^ !p) m e) : fadd F rm sat p a b = (F.zero (rm = 2), 0) := by
  rw [fadd_eq, hA, hB, FVal.negIf_fin, Bool.xor_assoc, Bool.not_xor_self, Bool.xor_true, sumVals_cancel, deliver_zero]
  rfl

theorem ffma_inf_product (hF : F.ieee = true) (hP : mulVal (decode F a) (decode F b) = (.inf n, false)) :
    (decode F c = .inf v → ffma F rm sat p u a b c = if (v ^^ u) = (n ^^ p) then (F.inf (n ^^ p), 0) else (F.nan, NV)) ∧
      (decode F c = .fin v m e → ffma F rm sat p u a b c = (F.inf (n ^^ p), 0)) := by
  refine ⟨fun hC => ?_, fun hC => ?_⟩
  · rw [ffma_of_mulVal hP, hC, FVal.negIf_inf, FVal.negIf_inf, sumVals_inf_inf]
    simp only [eq_comm (a := v ^^ u)]
    split
    · exact deliver_inf hF
    · rfl
  · rw [ffma_of_mulVal hP, hC, FVal.negIf_inf, FVal.negIf_fin, sumVals_inf_fin, deliver_inf hF]
    rfl

theorem ffma_fin_product (hF : F.ieee = true) (hP : mulVal (decode F a) (decode F b) = (.fin n m e, false)) :
    (decode F c = .inf v → ffma F rm sat p u a b c = (F.inf (v ^^ u), 0)) ∧
      ∀ k f, decode F c = .fin v k f →
        (k = 0 → m = 0 → ffma F rm sat p u a b c = (F.zero (if (n ^^ p) = (v ^^ u) then n ^^ p else decide (rm = 2)), 0)) ∧
        (k = m → f = e → (n ^^ p) = !(v ^^ u) → ffma F rm sat p u a b c = (F.zero (rm = 2), 0)) := by
  refine ⟨fun hC => ?_, fun k f hC => ⟨?_, ?_⟩⟩
  · rw [ffma_of_mulVal hP, hC, FVal.negIf_inf, FVal.negIf_fin, sumVals_fin_inf, deliver_inf hF]
    rfl
  · rintro rfl rfl
    rw [ffma_of_mulVal hP, hC, FVal.negIf_fin, FVal.negIf_fin, sumVals_zero_zero, deliver_zero]
    rfl
  · rintro rfl rfl hs
    rw [ffma_of_mulVal hP, hC, FVal.negIf_fin, FVal.negIf_fin, show (v ^^ u) = !(n ^^ p) by rw [hs, Bool.not_not], sumVals_cancel, deliver_zero]
    rfl

/-! ## FMIN, FMAX and FSCALE -/

theorem fminmax_cases (F : Fmt) (max : Bool) (a b : Nat) : let A := decode F a
    let B := decode F b
    let r := fminmax F max a b
    r.2 = (if A.isSnan = true ∨ B.isSnan = true then NV else 0) ∧ (A.isNan = true → B.isNan = true → r.1 = F.nan) ∧
     (A.isNan = true → B.isNan = false → r.1 = b % 2 ^ F.bits) ∧ (A.isNan = false → B.isNan = true → r.1 = a % 2 ^ F.bits) ∧
     (A.isNan = false → B.isNan = false → r.1 = (if (if max then ltVal A B else ltVal B A) = true then b else a) % 2 ^ F.bits) := by
  refine ⟨?_, fun ha hb => ?_, fun ha hb => ?_, fun ha hb => ?_, fun ha hb => ?_⟩
  · simp [fminmax, snanFlag]
  · simp [fminmax, ha, hb]
  · simp [fminmax, ha, hb]
  · simp [fminmax, ha, hb]
  · simp only [fminmax, ha, hb, Bool.and_self, Bool.false_eq_true, if_false, apply_ite (· % 2 ^ F.bits)]

theorem fscale_of_range {k : Int} (hA : decode F a = .fin n m e) (hlo : -4200 ≤ k) (hhi : k ≤ 4200) :
    fscale F rm sat a k = roundFin F rm sat n m (e + k) := by
  simp only [fscale, hA, if_neg (not_lt.2 hlo), if_neg (not_lt.2 hhi)]

theorem fscale_zero {k : Int} (hA : decode F a = .fin n 0 e) : fscale F rm sat a k = (F.zero n, 0) := by
  simp only [fscale, hA, roundFin_zero]

theorem fscale_inf (hF : F.ieee = true) {k : Int} (hA : decode F a = .inf n) : fscale F rm sat a k = (F.inf n, 0) := by
  simp only [fscale, hA, deliver_inf hF]
  rfl

theorem fscale_nan {k : Int} (h : (decode F a).isNan = true) : fscale F rm sat a k = (F.nan, if (decode F a).isSnan = true then NV else 0) := by
  obtain ⟨s, hA⟩ := FVal.isNan_iff.1 h
  simp only [fscale, hA, deliver_nan]

end

end Sys2Proof.Num

open Sys2Proof Sys2Proof.Num

/-- Settles O18: where an operand is special, or the addends cancel, the exact sum, product or quotient is a NaN, an infinity or a zero, which is
delivered without rounding. -/
theorem floatSpecialValues : Obligations.FloatSpecialValues := by
  intro F hmem rm sat n n' p u v a b z m m' e e'
  have hF := ieee_of_mem hmem
  dsimp only
  refine ⟨fun h => ⟨fadd_nan h, fmul_nan h, fdiv_nan h⟩, fun hA hB => ?infMinusInf,
    fun hA hB => ⟨fadd_inf_fin hF hA hB, ?infOverFin, fun hm => ⟨?infTimesZero, ?infTimesZeroPlus⟩, fun hm => ?infTimesFin⟩,
    fun hA hB => ⟨?infOverInf, ?infTimesInf⟩, fun hA hB => ?finOverZero, fun hA => ⟨?rsqrtZero, ?sqrtZero, fadd_zero_zero hA⟩,
    fun hA => ⟨?rsqrtInf, ?sqrtInf⟩, fun hA => ⟨?rsqrtNegInf, ?sqrtNegInf⟩, fun hA hm => ⟨?rsqrtNeg, ?sqrtNeg⟩,
    fun hA hB hm he => ?cancel, fun hA hB => ⟨fadd_fin_inf hF hA hB, ?finOverInf⟩, fun hA hB => ⟨?zeroTimesFin, fun hm => ?zeroOverFin⟩, fmul_comm ..,
    ⟨fun hA => ⟨?rcpNan, ?sqrtNan, ?rsqrtNan⟩, fun hA => ?rcpInf, fun hA => ?rcpZero⟩,
    ⟨ffma_comm .., ffma_inf_zero, ffma_nan, fun hA hB => ?infProduct, fun hA hB => ?finProduct⟩,
    fun max => fminmax_cases F max a b, fun k => ⟨fscale_nan, fscale_inf hF, fscale_zero, fscale_of_range⟩⟩
  case infMinusInf =>
    rw [fadd_inf_inf hF hA hB, if_neg (by cases p <;> simp)]
  case infOverFin => rw [hA, hB, quotVal_inf_fin, deliverQuot_inf hF]
  case infTimesZero =>
    subst hm
    rw [fmul, hA, hB, mulVal_infZero (infZero_iff.2 ⟨n, n', e, rfl, rfl⟩), deliver_nan, if_pos rfl]
  case infTimesZeroPlus =>
    subst hm
    exact ffma_inf_zero (infZero_iff.2 ⟨n, n', e, hA, hB⟩)
  case infTimesFin => rw [fmul, hA, hB, mulVal_inf_fin hm, deliver_inf hF]; rfl
  case infOverInf => rw [hA, hB, quotVal, deliverQuot_nan]
  case infTimesInf => rw [fmul, hA, hB, mulVal_inf_inf, deliver_inf hF]; rfl
  case finOverZero =>
    rw [hA, hB, quotVal_fin_zero]
    split
    · rw [deliverQuot_nan]
    · rw [deliverQuot_inf hF]
  case rsqrtZero => rw [hA, rsqrtVal, if_pos rfl, deliverQuot_inf hF]
  case sqrtZero => rw [hA, sqrtVal, if_pos rfl, deliverQuot_zero]
  case rsqrtInf => rw [hA, rsqrtVal, if_neg (by simp), deliverQuot_zero]
  case sqrtInf => rw [hA, sqrtVal, if_neg (by simp), deliverQuot_inf hF]
  case rsqrtNegInf => rw [hA, rsqrtVal, if_pos rfl, deliverQuot_nan]
  case sqrtNegInf => rw [hA, sqrtVal, if_pos rfl, deliverQuot_nan]
  case rsqrtNeg => rw [hA, rsqrtVal, if_neg hm, if_pos rfl, deliverQuot_nan]
  case sqrtNeg => rw [hA, sqrtVal, if_neg hm, if_pos rfl, deliverQuot_nan]
  case cancel =>
    subst hm he
    exact fadd_cancel hA hB
  case finOverInf => rw [hA, hB, quotVal_fin_inf, deliverQuot_zero]
  case zeroTimesFin => rw [fmul, hA, hB, mulVal_fin_fin, Nat.zero_mul, deliver_zero]; rfl
  case zeroOverFin => rw [hA, hB, quotVal_zero_fin hm, deliverQuot_zero]
  case rcpNan =>
    rw [quotVal_nan (.inr hA), deliverQuot_nan]
    rfl
  case sqrtNan =>
    obtain ⟨s, hs⟩ := FVal.isNan_iff.1 hA
    rw [hs, sqrtVal, deliverQuot_nan]
    rfl
  case rsqrtNan =>
    obtain ⟨s, hs⟩ := FVal.isNan_iff.1 hA
    rw [hs, rsqrtVal, deliverQuot_nan]
    rfl
  case rcpInf => rw [hA, FVal.one, quotVal_fin_inf, deliverQuot_zero, Bool.false_xor]
  case rcpZero => rw [hA, FVal.one, quotVal_fin_zero, if_neg (by decide), deliverQuot_inf hF, Bool.false_xor]
  case infProduct =>
    apply ffma_inf_product hF
    rcases hB with hB | ⟨hB, hm⟩
    · rw [hA, hB, mulVal_inf_inf]
    · rw [hA, hB, mulVal_inf_fin hm]
  case finProduct => exact ffma_fin_product hF (by rw [hA, hB, mulVal_fin_fin])

end

section
/-! PROOFS. The special functions and the conversions as forms (10 R205, R206; 09 R198–R203). -/

namespace Sys2Proof.Machine
open Sys2Proof.Bits Sys2Proof.Num

/-! ## Draws (09 R204; 10 R217) -/

section
variable {i : Instr} {f : FmtA} {el : Fx → Nat → Nat → Nat → Nat → LaneOut} {jet : Fx → List Nat → List Nat → List Nat → LaneOut}
  (hh : i.hdr = f.h)
include hh

theorem jetForm_transcendental (hg : groupOf i = 6) (hx : ∀ s, exec i s = jetForm i f el jet s) : ElementForm i f 24 96 el :=
  jetForm_element (funext hx) hh (fun hp k => by simp [formDraw, hg, planeOf_eq hh hp, prodJ]) (fun hp k => by simp [formDraw, hg, planeOf_eq hh hp, prodJ])

theorem elemForm_conversion (hg : groupOf i = 7) (ho : ¬i.opc = 0xE2) (hx : exec i = elemForm i f el) : ElementForm i f 8 40 el :=
  elemForm_element hx hh (fun hp k => by simp [formDraw, hg, ho, planeOf_eq hh hp]) (fun hp k => by simp [formDraw, hg, ho, planeOf_eq hh hp])

end

section
variable {f : FmtA} {s : State} {c : Fx} {tg : Tag} {cl : Option Claim} {g : BitVec 16}

/-! ## RNG -/

theorem field_high (x : Word) : field x 32 32 = x.toNat / 2 ^ 32 := by
  rw [field_eq, Nat.mod_eq_of_lt]
  have := x.isLt
  omega

theorem execRng_open (hm : c.mode false = .go g) (h : Goes (.rng f) s c 24 tg cl) :
    exec (.rng f) s = .next (c.computed 24 tg cl true g (optMask c.l) (optMask c.l) 1 fun l =>
      .pure ((mix c.m.snap.rngkey (rngCounter c) l).toNat / 2 ^ 32)) := by
  have hd : ∀ k, formDraw (.rng f) k = 24 := fun k => by simp [formDraw]
  show execRng f s = _
  rw [execRng, gateForm_go h.fires hm]
  simp only [hd, field_high]
  exact run_lanesOut h.tags h.covers hm (by simp)

/-! ## One beat behind a gate -/

theorem run_noted_single {d : Nat} {m : BitVec 16} {v : Nat → Lane} {r : Raised} {i : Instr} (hm : c.mode false = .go g) (h : Goes i s c d tg cl) :
    c.run (match laneGate c.h g c.l [Vec.mk v] m with
      | none => .act d .skip
      | some x => c.finish d r x) = .next (c.noted d tg cl g m 1 (fun _ l => v l) r) :=
  run_noted (nb := 1) (v := fun _ l => v l) h.tags h.covers hm

theorem run_gated_single {d : Nat} {m : BitVec 16} {v : Nat → Lane} {i : Instr} (hm : c.mode false = .go g) (h : Goes i s c d tg cl) :
    c.run (match laneGate c.h g c.l [Vec.mk v] m with
      | none => .act d .skip
      | some x => c.emitPlan d x false .skip) = .next (c.laned d tg cl true g m 1 (fun _ l => v l) .skip) :=
  run_gated (nb := 1) (v := fun _ l => v l) h hm

/-! ## Packed FP4 -/

theorem formDraw_pack (hp : f.h.plane = 1) (k : Nat) : formDraw (.pack4 f) k = 40 ∧ formDraw (.unpk4 f) k = 40 := by
  have h4 : planeOf (.pack4 f) = 1 := planeOf_eq rfl hp
  have hu : planeOf (.unpk4 f) = 1 := planeOf_eq rfl hp
  simp [formDraw, h4, hu]

/-- The code of a lane under the scale of its block (09 R202). -/
def packedCode (f : FmtA) (c : Fx) (l : Nat) : Nat × Flags :=
  let scale := fun (b : Nat) => (Vec.lane (optBeat c.r 0) b).toNat % 256
  if scale (l / 8) = 255 ∨ scale (l / 8) = 0 then (0, if l % 8 = 0 then NV else 0)
  else if (optMask c.l).getLsbD l then packCode (c.rm f.rm) (Vec.lane (optBeat c.l 0) l).toNat (scale (l / 8)) else (0, 0)

theorem packScale_eq (c : Fx) (b : Nat) : packScale c b = (Vec.lane (optBeat c.r 0) b).toNat % 256 := field_lowest ..

theorem packElem_eq (f : FmtA) (c : Fx) (l : Nat) : packElem f c l = packedCode f c l := by
  simp only [packElem, packedCode, packScale_eq, noScale, Bool.or_eq_true, decide_eq_true_eq, Bool.not_eq_true', ← Bool.not_eq_true, ite_not]

/-- The word of the codes of block `b` (09 R202). -/
def packedWord (f : FmtA) (c : Fx) (b : Nat) : Nat := total ((List.range 8).map fun i => (packedCode f c (8 * b + i)).1 * 2 ^ (4 * i))

theorem total_packElems (f : FmtA) (c : Fx) {b : Nat} (hb : b < 2) :
    total ((List.range 8).map fun i => (((List.range 16).map (packElem f c)).getD (8 * b + i) (0, 0)).1 * 2 ^ (4 * i)) = packedWord f c b := by
  refine congrArg total (List.map_congr_left fun i hi => ?_)
  have hi8 := List.mem_range.1 hi
  rw [← packElem_eq, List.getD_eq_getElem _ _ (by simp only [List.length_map, List.length_range]; omega), List.getElem_map, List.getElem_range]

theorem execPack4_open (hp : f.h.plane = 1) (hm : c.mode false = .go g) (h : Goes (.pack4 f) s c 40 tg cl) :
    exec (.pack4 f) s = .next (c.noted 40 tg cl g 7 1 (fun _ l =>
      if l < 2 then BitVec.ofNat 32 (packedWord f c l)
      else if l = 2 then BitVec.ofNat 32 ((Vec.lane (optBeat c.r 0) 1).toNat % 256 * 256 + (Vec.lane (optBeat c.r 0) 0).toNat % 256) else 0)
      ((List.range 16).map fun l => (l, 0, (packedCode f c l).2))) := by
  have hlanes : ∀ l, (if l < 2 then BitVec.ofNat 32 (total ((List.range 8).map fun i => (((List.range 16).map (packElem f c)).getD (8 * l + i) (0, 0)).1 * 2 ^ (4 * i)))
        else if l = 2 then BitVec.ofNat 32 (packScale c 1 * 256 + packScale c 0) else 0) =
      if l < 2 then BitVec.ofNat 32 (packedWord f c l)
        else if l = 2 then BitVec.ofNat 32 ((Vec.lane (optBeat c.r 0) 1).toNat % 256 * 256 + (Vec.lane (optBeat c.r 0) 0).toNat % 256) else 0 := fun l => by
    split
    · next hl => rw [total_packElems f c hl]
    · rw [packScale_eq, packScale_eq]
  show execPack4 f s = _
  rw [execPack4, gateForm_go h.fires hm]
  simp only [(formDraw_pack hp _).1, zipIdx_map_range, packElem_eq, hlanes]
  exact run_noted_single hm h

theorem execUnpk4_open (hp : f.h.plane = 1) (hm : c.mode false = .go g) (h : Goes (.unpk4 f) s c 40 tg cl) :
    let m := maskOf fun l => (optMask c.l).getLsbD (l / 8) && (optMask c.l).getLsbD 2
    exec (.unpk4 f) s = .next (c.laned 40 tg cl true g m 1 (fun _ l => if m.getLsbD l then BitVec.ofNat 32 (unpackCode
      (field (Vec.lane (optBeat c.l 0) (l / 8)) (4 * (l % 8)) 4) (field (Vec.lane (optBeat c.l 0) 2) (8 * (l / 8)) 8)) else 0) .skip) := by
  intro m
  show execUnpk4 f s = _
  rw [execUnpk4, gateForm_go h.fires hm]
  simp only [(formDraw_pack hp _).2]
  exact run_gated_single hm h

end

end Sys2Proof.Machine
end

section
/-! PROOFS. Rounding where nothing is lost, and the special functions at their special values (02 R40, R48; 10 R206). -/

namespace Sys2Proof.Num

/-! ## Exact rounding -/

theorem roundUp_exact (rm : Nat) (neg odd : Bool) {half : Nat} (h : 0 < half) : roundUp rm neg odd 0 half false = false := by
  unfold roundUp
  split <;> simp <;> omega

/-- A magnitude whose unit is a multiple of the step is itself. -/
theorem roundAt_exact (rm : Nat) (neg : Bool) (m : Nat) {e q : Int} (h : q ≤ e) : roundAt rm neg m e q false = (m * 2 ^ (e - q).toNat, false) := by
  have hup : (2 - (q - e)).toNat = (e - q).toNat + 2 := by omega
  have hsh : (q - e + ((2 - (q - e)).toNat : Nat)).toNat = 2 := by omega
  have hm : m * 2 ^ (2 - (q - e)).toNat = m * 2 ^ (e - q).toNat * 2 ^ 2 := by rw [hup, Nat.pow_add, Nat.mul_assoc]
  unfold roundAt
  rw [if_neg (by omega)]
  simp only [hsh, hm, Nat.mul_mod_left, Nat.mul_div_cancel _ (Nat.two_pow_pos 2), roundUp_exact rm neg _ (Nat.two_pow_pos (2 - 1)), Bool.false_eq_true, if_false,
    Nat.add_zero, ne_eq, not_true, decide_false, Bool.or_self]

theorem two_pow_le_of_bitLen {m : Nat} (hm : ¬m = 0) : 2 ^ bitLen m ≤ 2 * m := by
  rw [bitLen, if_neg hm, pow_succ']
  exact Nat.mul_le_mul_left 2 (Nat.log2_self_le hm)

/-- A magnitude shifted up to `k + 1` bits. -/
theorem normalized_bounds {m k : Nat} (hm : ¬m = 0) (hlen : bitLen m ≤ k + 1) :
    2 ^ k ≤ m * 2 ^ (k + 1 - bitLen m) ∧ m * 2 ^ (k + 1 - bitLen m) < 2 ^ (k + 1) := by
  constructor
  · have := Nat.mul_le_mul_right (2 ^ (k + 1 - bitLen m)) (two_pow_le_of_bitLen hm)
    rw [← Nat.pow_add, Nat.add_sub_cancel' hlen, pow_succ', Nat.mul_assoc] at this
    omega
  · have := Nat.mul_lt_mul_of_pos_right (lt_two_pow_bitLen m) (Nat.two_pow_pos (k + 1 - bitLen m))
    rwa [← Nat.pow_add, Nat.add_sub_cancel' hlen] at this

/-- A number that a format holds is rounded to itself. -/
theorem roundFin_exact (F : Fmt) (rm : Nat) (sat neg : Bool) {m : Nat} {e : Int} (hm : ¬m = 0) (hlen : bitLen m ≤ F.mb + 1)
    (hlo : F.emin ≤ topOf m e) (hhi : topOf m e - F.mb < F.maxE) :
    roundFin F rm sat neg m e = (F.pack neg (topOf m e + F.bias).toNat (m * 2 ^ (F.mb + 1 - bitLen m) - 2 ^ F.mb), 0) := by
  have hexp : (e - (topOf m e - F.mb)).toNat = F.mb + 1 - bitLen m := by
    unfold topOf
    omega
  have hr := roundAt_exact rm neg m (e := e) (q := topOf m e - F.mb) (by unfold topOf; omega)
  rw [hexp] at hr
  obtain ⟨hge, hlt⟩ := normalized_bounds hm hlen
  have hbias : topOf m e - F.mb + F.mb + F.bias = topOf m e + F.bias := by omega
  rw [roundFin, roundTo, if_neg (by simp [hm])]
  clear hexp
  unfold topOf at *
  generalize e + (bitLen m : Int) - 1 = top at *
  dsimp only
  rw [if_neg (not_lt.2 hlo), hr]
  simp only [not_lt.2 hhi.le, ne_of_lt hhi, not_lt.2 hlo, not_lt.2 hge, ne_of_lt hlt, hbias, decide_false, Bool.false_and, Bool.or_self, Bool.false_eq_true,
    if_false]
  rfl

theorem bitLen_two_pow (j : Nat) : bitLen (2 ^ j) = j + 1 := by
  rw [bitLen, if_neg (Nat.two_pow_pos j).ne', Nat.log2_two_pow]

/-- One and one half, as a format holds them. -/
theorem roundFin_one {F : Fmt} (hF : F ∈ [bf16, fp16, fp32, fp64]) (rm : Nat) (sat n : Bool) :
    roundFin F rm sat n 1 0 = (F.pack n F.bias 0, 0) ∧ roundFin F rm sat n 1 (-1) = (F.pack n (F.bias - 1) 0, 0) := by
  have hbits : bitLen 1 = 1 := bitLen_two_pow 0
  have hrange : ∀ F ∈ [bf16, fp16, fp32, fp64], F.emin ≤ topOf 1 (-1) ∧ topOf 1 0 - F.mb < F.maxE ∧ (topOf 1 (-1) + F.bias).toNat = F.bias - 1 := by decide
  obtain ⟨hlo, hhi, hhalf⟩ := hrange F hF
  have htop : topOf 1 0 = 0 := by decide
  have htop' : topOf 1 (-1) = -1 := by decide
  constructor
  · rw [roundFin_exact F rm sat n (by decide) (by omega) (by omega) hhi, hbits, htop]
    simp
  · rw [roundFin_exact F rm sat n (by decide) (by omega) hlo (by omega), hbits, hhalf]
    simp

/-! ## The special functions -/

section
variable {F : Fmt} {g : Fn} {rm : Nat} {sat n : Bool} {a m : Nat} {e : Int}

theorem special_of_val {v : FVal} {fl : Flags} (h : fnCase g (decode F a) = .val v fl) : special F g rm sat a = deliverQuot F rm sat (.val v fl) := by
  rw [special, h]
  rfl

theorem zivRound_exact {encl : Nat → Encl} (h : encl 96 = .exact n m e) : zivRound F rm sat encl = roundFin F rm sat n m e := by
  simp only [zivRound, zivLoop, h, enclRound]

/-- Where the enclosure of a function is its exact value, that value is rounded. -/
theorem special_of_exact {encl : Nat → Encl} (h : fnCase g (decode F a) = .encl encl) (hx : encl 96 = .exact n m e) :
    special F g rm sat a = roundFin F rm sat n m e := by
  rw [special, h]
  exact zivRound_exact hx

theorem special_invalid {fl : Flags} {s : Bool} (h : fnCase g (decode F a) = .val (.nan s) fl) : special F g rm sat a = (F.nan, fl) := by
  rw [special_of_val h, deliverQuot_nan]

theorem special_infinity (hF : F ∈ [bf16, fp16, fp32, fp64]) {fl : Flags} (h : fnCase g (decode F a) = .val (.inf n) fl) :
    special F g rm sat a = (F.inf n, fl) := by
  rw [special_of_val h, deliverQuot_inf (ieee_of_mem hF)]

theorem special_zero {fl : Flags} (h : fnCase g (decode F a) = .val (.fin n 0 e) fl) : special F g rm sat a = (F.zero n, fl) := by
  rw [special_of_val h, deliverQuot_zero]

theorem special_exact {fl : Flags} {x : Nat} (h : fnCase g (decode F a) = .val (.fin n m e) fl) (hx : roundFin F rm sat n m e = (x, 0)) :
    special F g rm sat a = (x, fl) := by
  simp only [special_of_val h, deliverQuot, deliver, hx, Bool.false_eq_true, if_false, Flags.zero_or]

theorem special_nan (h : (decode F a).isNan = true) : special F g rm sat a = (F.nan, if (decode F a).isSnan = true then NV else 0) := by
  obtain ⟨s, hs⟩ := FVal.isNan_iff.1 h
  rw [special_invalid (s := false) (fl := if s then NV else 0) (by rw [hs]; rfl), hs]
  rfl

theorem enclLog2_two_pow (p j : Nat) (e : Int) : enclLog2 p (2 ^ j) e = .exact (decide (e + j < 0)) (e + j).natAbs 0 := by
  have htop : topOf (2 ^ j) e = e + j := by
    rw [topOf, bitLen_two_pow]
    omega
  rw [enclLog2, bitLen_two_pow, Nat.add_sub_cancel]
  simp only [if_true, htop]

theorem special_exp2_integer (hA : decode F a = .fin n m e) (hm : ¬m = 0) (he : 0 ≤ e) :
    special F .exp2 rm sat a = roundFin F rm sat false 1 (signed n (m * 2 ^ e.toNat)) :=
  special_of_exact (by rw [hA, fnCase, if_neg hm]) (if_pos he)

theorem special_log2_two_pow {j : Nat} (hA : decode F a = .fin false (2 ^ j) e) :
    special F .log2 rm sat a = roundFin F rm sat (decide (e + j < 0)) (e + j).natAbs 0 :=
  special_of_exact (by rw [hA, fnCase, if_neg (Nat.two_pow_pos j).ne']; rfl) (enclLog2_two_pow 96 j e)

theorem forall_mem_pair {P : Fn → Prop} {g h : Fn} (hg : P g) (hh : P h) : ∀ x ∈ [g, h], P x := by
  simp [hg, hh]

theorem forall_mem_triple {P : Fn → Prop} {g h k : Fn} (hg : P g) (hh : P h) (hk : P k) : ∀ x ∈ [g, h, k], P x := by
  simp [hg, hh, hk]

variable (hF : F ∈ [bf16, fp16, fp32, fp64])
include hF

/-- The functions at an infinity (10 R206). -/
theorem special_at_inf (hA : decode F a = .inf n) :
    (∀ g ∈ [Fn.exp, .exp2], special F g rm sat a = (if n then F.zero false else F.inf false, 0)) ∧
    (∀ g ∈ [Fn.log, .log2], special F g rm sat a = if n then (F.nan, NV) else (F.inf false, 0)) ∧
    (∀ g ∈ [Fn.sin, .cos], special F g rm sat a = (F.nan, NV)) ∧
    (∀ g ∈ [Fn.tanh, .erf], special F g rm sat a = (F.pack n F.bias 0, 0)) ∧
    special F .lgst rm sat a = (if n then F.zero false else F.pack false F.bias 0, 0) := by
  obtain ⟨hone, -⟩ := roundFin_one hF rm sat n
  refine ⟨?exp, ?log, forall_mem_pair (special_invalid (by rw [hA]; rfl)) (special_invalid (by rw [hA]; rfl)),
    forall_mem_pair (special_exact (by rw [hA]; rfl) hone) (special_exact (by rw [hA]; rfl) hone), ?lgst⟩ <;> cases n
  case exp.true => exact forall_mem_pair (special_zero (by rw [hA]; rfl)) (special_zero (by rw [hA]; rfl))
  case exp.false => exact forall_mem_pair (special_infinity hF (by rw [hA]; rfl)) (special_infinity hF (by rw [hA]; rfl))
  case log.true => exact forall_mem_pair (special_invalid (by rw [hA]; rfl)) (special_invalid (by rw [hA]; rfl))
  case log.false => exact forall_mem_pair (special_infinity hF (by rw [hA]; rfl)) (special_infinity hF (by rw [hA]; rfl))
  case lgst.true => exact special_zero (by rw [hA]; rfl)
  case lgst.false => exact special_exact (by rw [hA]; rfl) hone

/-- The functions at a zero (10 R206). -/
theorem special_at_zero (hA : decode F a = .fin n 0 e) :
    (∀ g ∈ [Fn.exp, .exp2, .cos], special F g rm sat a = (F.pack false F.bias 0, 0)) ∧
    (∀ g ∈ [Fn.log, .log2], special F g rm sat a = (F.inf true, DZ)) ∧
    (∀ g ∈ [Fn.sin, .tanh, .erf], special F g rm sat a = (F.zero n, 0)) ∧
    special F .lgst rm sat a = (F.pack false (F.bias - 1) 0, 0) := by
  obtain ⟨hone, hhalf⟩ := roundFin_one hF rm sat false
  exact ⟨forall_mem_triple (special_exact (by rw [hA]; rfl) hone) (special_exact (by rw [hA]; rfl) hone) (special_exact (by rw [hA]; rfl) hone),
    forall_mem_pair (special_infinity hF (by rw [hA]; rfl)) (special_infinity hF (by rw [hA]; rfl)),
    forall_mem_triple (special_zero (by rw [hA]; rfl)) (special_zero (by rw [hA]; rfl)) (special_zero (by rw [hA]; rfl)),
    special_exact (by rw [hA]; rfl) hhalf⟩

omit hF in
/-- The logarithms of a number below zero (10 R206). -/
theorem special_log_negative (hA : decode F a = .fin true m e) (hm : ¬m = 0) : ∀ g ∈ [Fn.log, .log2], special F g rm sat a = (F.nan, NV) :=
  forall_mem_pair (special_invalid (by rw [hA, fnCase, if_neg hm]; rfl)) (special_invalid (by rw [hA, fnCase, if_neg hm]; rfl))

end

end Sys2Proof.Num
end

section
/-! PROOFS. Conversions of values, the mixing function, and packed FP4 (09 R199–R203; 02 R42–R44, R50, R51). -/

namespace Sys2Proof.Num

/-! ## CVT (09 R199; 02 R43) -/

section
variable {cont dst src rm x m : Nat} {sat n : Bool} {e : Int}

theorem isFloat_eq_false {ty : Nat} (h : ty ≤ 4) : isFloat ty = false := by
  simp only [isFloat, decide_eq_false (show ¬5 ≤ ty by omega), Bool.false_and]

theorem isFloat_eq_true {ty : Nat} (h5 : 5 ≤ ty) (h10 : ty ≤ 10) : isFloat ty = true := by
  simp only [isFloat, decide_eq_true h5, decide_eq_true (show ty ≤ 11 by omega), Bool.and_self]

/-- The integer of the range of TY that is nearest (02 R39). -/
def nearest (ty : Nat) (v : Int) : Int := if v < intLo ty then intLo ty else if intHi ty < v then intHi ty else v

theorem cvt_int_int (hs : src ≤ 4) (hd : dst ≤ 4) : cvt cont dst src rm sat x =
    (writeInt cont dst (if sat then nearest dst (readInt src x) else readInt src x), 0) := by
  simp only [cvt, isFloat_eq_false hs, isFloat_eq_false hd, Bool.false_eq_true, if_false, Bool.not_false, if_true]
  rfl

theorem cvt_int_float (hs : src ≤ 4) (h5 : 5 ≤ dst) (h10 : dst ≤ 10) : cvt cont dst src rm sat x =
    roundFin (fmtOf dst) rm sat (decide (readInt src x < 0)) (readInt src x).natAbs 0 := by
  simp only [cvt, isFloat_eq_false hs, isFloat_eq_true h5 h10, Bool.false_eq_true, if_false, if_true]

theorem toInteger_fin (rm : Nat) (n : Bool) (m : Nat) (e : Int) : toInteger rm (.fin n m e) =
    let y := if 0 ≤ e then (m * 2 ^ e.toNat, false) else roundAt rm n m e 0 false
    some (none, signed n y.1, y.2) := by
  rw [toInteger]
  split <;> rfl

section
variable (h5 : 5 ≤ src) (h10 : src ≤ 10) (hd : dst ≤ 4)
include h5 h10 hd

theorem cvt_nan_int (h : (decode (fmtOf src) x).isNan = true) : cvt cont dst src rm sat x = (writeInt cont dst (if sat then 0 else intLo dst), NV) := by
  obtain ⟨s, hs⟩ := FVal.isNan_iff.1 h
  simp only [cvt, isFloat_eq_true h5 h10, isFloat_eq_false hd, Bool.false_eq_true, if_false, Bool.not_true, hs, toInteger]

theorem cvt_inf_int (h : decode (fmtOf src) x = .inf n) : cvt cont dst src rm sat x =
    (writeInt cont dst (if sat then (if n then intLo dst else intHi dst) else intLo dst), NV) := by
  simp only [cvt, isFloat_eq_true h5 h10, isFloat_eq_false hd, Bool.false_eq_true, if_false, Bool.not_true, h, toInteger]

/-- A number that is rounded to an integer is delivered where it lies in the range of TY. -/
theorem cvt_rounded_int {y : Int} {moved : Bool} (h : toInteger rm (decode (fmtOf src) x) = some (none, y, moved)) :
    cvt cont dst src rm sat x = if intLo dst ≤ y ∧ y ≤ intHi dst then (writeInt cont dst y, if moved then NX else 0)
      else (writeInt cont dst (if sat then nearest dst y else intLo dst), NV) := by
  simp only [cvt, isFloat_eq_true h5 h10, isFloat_eq_false hd, Bool.false_eq_true, if_false, Bool.not_true, h]
  by_cases hr : intLo dst ≤ y ∧ y ≤ intHi dst
  · rw [if_pos hr, if_neg (by simpa using hr)]
  · rw [if_neg hr, if_pos (by simpa [imp_iff_not_or] using hr)]
    rfl

theorem cvt_fin_int (h : decode (fmtOf src) x = .fin n m e) :
    let y := if 0 ≤ e then (m * 2 ^ e.toNat, false) else roundAt rm n m e 0 false
    cvt cont dst src rm sat x = if intLo dst ≤ signed n y.1 ∧ signed n y.1 ≤ intHi dst then (writeInt cont dst (signed n y.1), if y.2 then NX else 0)
      else (writeInt cont dst (if sat then nearest dst (signed n y.1) else intLo dst), NV) :=
  cvt_rounded_int h5 h10 hd (by rw [h]; exact toInteger_fin ..)

end

section
variable (hs5 : 5 ≤ src) (hs10 : src ≤ 10) (h5 : 5 ≤ dst) (h10 : dst ≤ 10)
include hs5 hs10 h5 h10

/-- Between two formats a value is converted, unless it is a number that has its format already. -/
theorem cvt_float_float (h : dst = src → (decode (fmtOf src) x).isNan = true) :
    cvt cont dst src rm sat x = convert (fmtOf dst) rm sat (decode (fmtOf src) x) := by
  simp only [cvt, isFloat_eq_true hs5 hs10, isFloat_eq_true h5 h10, if_true]
  exact if_neg (by simpa [imp_iff_not_or] using h)

omit h5 h10 in
theorem cvt_same (hd : dst = src) (h : (decode (fmtOf src) x).isNan = false) : cvt cont dst src rm sat x = (x % 2 ^ width src, 0) := by
  simp only [cvt, isFloat_eq_true hs5 hs10, if_true, hd, h, decide_true, Bool.not_false, Bool.and_self]

omit hs5 hs10 in
/-- The formats of the destinations but FP8 E4M3 are like those of IEEE 754 (02 R40, R41). -/
theorem fmtOf_kind : if dst = 5 then (fmtOf dst).ieee = false ∧ (fmtOf dst).oneNan = true else (fmtOf dst).ieee = true := by
  interval_cases dst <;> decide

theorem cvt_nan_float (h : (decode (fmtOf src) x).isNan = true) :
    cvt cont dst src rm sat x = ((fmtOf dst).nan, if (decode (fmtOf src) x).isSnan = true then NV else 0) := by
  have hkind := fmtOf_kind h5 h10
  rw [cvt_float_float hs5 hs10 h5 h10 fun _ => h]
  obtain ⟨s, hs⟩ := FVal.isNan_iff.1 h
  rw [hs, convert]
  split at hkind
  · rw [if_pos (by simp [hkind])]
    rfl
  · rw [if_pos (by simp [hkind])]
    rfl

theorem cvt_inf_float (h : decode (fmtOf src) x = .inf n) (hd : ¬dst = src) : cvt cont dst src rm sat x =
    (if sat then (fmtOf dst).max n else if dst = 5 then (fmtOf dst).nan else (fmtOf dst).inf n, if dst = 5 ∧ sat = false then NV else 0) := by
  have hkind := fmtOf_kind h5 h10
  rw [cvt_float_float hs5 hs10 h5 h10 fun he => absurd he hd, h, convert]
  by_cases h5 : dst = 5
  · subst h5
    cases sat <;> rfl
  · rw [if_neg h5] at hkind ⊢
    simp only [hkind, h5, if_true, false_and, if_false]

theorem cvt_fin_float (h : decode (fmtOf src) x = .fin n m e) (hd : ¬dst = src) : cvt cont dst src rm sat x = roundFin (fmtOf dst) rm sat n m e := by
  rw [cvt_float_float hs5 hs10 h5 h10 fun he => absurd he hd, h, convert]

end

/-! ## CVTSR (09 R200; 02 R50) -/

/-- The exponent of the last place that format `F` keeps of `m·2^e` (02 R48). -/
def lastPlace (F : Fmt) (m : Nat) (e : Int) : Int :=
  let top := e + (bitLen m : Int) - 1
  (if top < F.emin then F.emin else top) - F.mb

/-- The magnitude in units of the last place: what lies below it is cut into 32 bits, and with the random word may carry (02 R50). -/
def stochasticMag (m unit u : Nat) : Nat := if 2 ^ 32 ≤ m % unit * 2 ^ 32 / unit + u % 2 ^ 32 then m / unit + 1 else m / unit

theorem ite_succ (c : Prop) [Decidable c] (k : Nat) : (if c then k + 1 else k) = k + if c then 1 else 0 := by
  split <;> rfl

theorem stochasticMag_eq (m unit u : Nat) :
    stochasticMag m unit u = m / unit + if 2 ^ 32 ≤ m % unit * 2 ^ 32 / unit + u % 2 ^ 32 then 1 else 0 := ite_succ ..

theorem cvtsr_exact {u : Nat} (hA : decode (fmtOf src) x = .fin n m e) (hm : ¬m = 0)
    (h : lastPlace (fmtOf dst) m e ≤ e ∨ m % 2 ^ (lastPlace (fmtOf dst) m e - e).toNat = 0) :
    cvtsr dst src sat x u = roundFin (fmtOf dst) 0 sat n m e := by
  unfold lastPlace at h
  unfold cvtsr
  rw [hA]
  dsimp only at h ⊢
  rw [if_neg hm, ite_eq_left_iff]
  intro hq
  rw [if_pos (h.resolve_left hq)]

theorem cvtsr_inexact {u : Nat} (hA : decode (fmtOf src) x = .fin n m e) (hm : ¬m = 0) (hq : e < lastPlace (fmtOf dst) m e)
    (h : ¬m % 2 ^ (lastPlace (fmtOf dst) m e - e).toNat = 0) :
    ∃ fl, cvtsr dst src sat x u = ((roundFin (fmtOf dst) (if sat then 1 else 0) sat n
      (stochasticMag m (2 ^ (lastPlace (fmtOf dst) m e - e).toNat) u) (lastPlace (fmtOf dst) m e)).1, fl) := by
  unfold lastPlace at hq h ⊢
  unfold cvtsr stochasticMag
  rw [hA]
  dsimp only at hq h ⊢
  rw [if_neg hm, if_neg (not_le.2 hq), if_neg h]
  exact ⟨_, rfl⟩

theorem fst_eq_of_eq_mk {α β : Type} {p : α × β} {a : α} {b : β} (h : p = (a, b)) : p.1 = a := by
  rw [h]

end

/-! ## The mixing function (02 R51) -/

theorem mix_eq_foldl (key c : Word) (l : Nat) : mix key c l =
    ([(0xA5C39B174E2D6F81#64, 23, 11), (0x3D7E1C95B248F06B#64, 41, 29), (0x6B1FD4A28C53E97D#64, 17, 47), (0xF28A5D3C71B609E5#64, 37, 5)] :
      List (Word × Nat × Nat)).foldl (fun v k => mixRound key v k.1 k.2.1 k.2.2) (c + BitVec.ofNat 64 l * 0x9E3779B97F4A7C15#64) := rfl

/-! ## Packed FP4 (09 R202, R203) -/

theorem e3m5_pos {scale : Nat} (h : 0 < scale) : ¬(e3m5 scale).1 = 0 := by
  unfold e3m5
  dsimp only
  split <;> dsimp only <;> omega

section
variable {rm x scale m : Nat} {n : Bool} {e : Int}

theorem packCode_nan (h : (decode fp32 x).isNan = true) : packCode rm x scale = (0, NV) := by
  obtain ⟨s, hs⟩ := FVal.isNan_iff.1 h
  simp only [packCode, hs, quotVal]
  rfl

theorem packCode_inf (h : decode fp32 x = .inf n) : packCode rm x scale = (if n then 15 else 7, NV) := by
  simp only [packCode, h, quotVal]
  cases n <;> rfl

variable (hs : 0 < scale)
include hs

theorem packCode_zero (h : decode fp32 x = .fin n 0 e) : packCode rm x scale = (if n then 8 else 0, 0) := by
  rw [packCode, h, quotVal_zero_fin (e3m5_pos hs)]
  cases n <;> rfl

/-- The quotient by the scale is rounded once (09 R202). -/
theorem packCode_fin (h : decode fp32 x = .fin n m e) (hm : ¬m = 0) :
    let s := e3m5 scale
    let k := 72 + bitLen s.1
    packCode rm x scale = roundTo e2m1 rm false n (m * 2 ^ k / s.1) (e - s.2 - k) (decide (¬m * 2 ^ k % s.1 = 0)) := by
  intro s k
  simp only [packCode, h, quotVal, e3m5_pos hs, hm, if_false, divDy, Int.natAbs_natCast, workBits, Bool.bne_false]
  rfl

end

/-! ## The values of packed codes -/

theorem pack_eq (F : Fmt) (n : Bool) (E M : Nat) : F.pack n E M = 2 ^ F.mb * (2 ^ F.eb * n.toNat + E) + M := by
  cases n
  · simp [Fmt.pack, Nat.mul_comm]
  · simp only [Fmt.pack, if_true, Bool.toNat_true]
    ring

/-- A normal number is read back from where it was packed (02 R40). -/
theorem decode_pack {F : Fmt} (n : Bool) {E M : Nat} (h0 : 0 < E) (hE : E < 2 ^ F.eb - 1) (hM : M < 2 ^ F.mb) :
    decode F (F.pack n E M) = .fin n (M + 2 ^ F.mb) (E - F.bias - F.mb) := by
  have hhead : F.pack n E M / 2 ^ F.mb = 2 ^ F.eb * n.toNat + E := by
    rw [pack_eq, Nat.mul_add_div (Nat.two_pow_pos _), Nat.div_eq_of_lt hM, Nat.add_zero]
  have hsig : F.pack n E M % 2 ^ F.mb = M := by rw [pack_eq, Nat.mul_add_mod, Nat.mod_eq_of_lt hM]
  have hexp : F.pack n E M / 2 ^ F.mb % 2 ^ F.eb = E := by rw [hhead, Nat.mul_add_mod, Nat.mod_eq_of_lt (by omega)]
  have hsign : F.pack n E M / 2 ^ (F.eb + F.mb) % 2 = n.toNat := by
    rw [Nat.add_comm, Nat.pow_add, ← Nat.div_div_eq_div_mul, hhead, Nat.mul_add_div (Nat.two_pow_pos _), Nat.div_eq_of_lt (by omega), Nat.add_zero]
    cases n <;> rfl
  simp only [decode, hexp, hsig, hsign, ne_of_lt hE, h0.ne', decide_false, Bool.and_false, Bool.false_and, Bool.false_eq_true, if_false]
  cases n <;> rfl

/-- A number that a format holds is read back after rounding. -/
theorem decode_roundFin_exact (F : Fmt) (rm : Nat) (sat n : Bool) {m : Nat} {e : Int} (hm : ¬m = 0) (hlen : bitLen m ≤ F.mb + 1)
    (hlo : F.emin ≤ topOf m e) (hhi : topOf m e - F.mb < F.maxE) :
    decode F (roundFin F rm sat n m e).1 = .fin n (m * 2 ^ (F.mb + 1 - bitLen m)) (topOf m e - F.mb) := by
  obtain ⟨hge, hlt⟩ := normalized_bounds hm hlen
  have hpos := Nat.two_pow_pos F.mb
  have hmax : F.maxE ≤ ((2 ^ F.eb - 1 : Nat) : Int) - F.bias - F.mb := by
    unfold Fmt.maxE
    split <;> omega
  unfold Fmt.emin at hlo
  rw [pow_succ'] at hlt
  rw [roundFin_exact F rm sat n hm hlen hlo hhi, decode_pack n (by omega) (by omega) (by omega), Nat.sub_add_cancel hge, Int.toNat_of_nonneg (by omega),
    Int.add_sub_cancel]

theorem decode_e2m1 {code : Nat} (h : code < 16) : ∃ m e, decode e2m1 code = .fin (decide (8 ≤ code)) m e ∧ m ≤ 3 ∧ -1 ≤ e ∧ e ≤ 1 ∧
    m * 2 ^ (e + 1).toNat = [0, 1, 2, 3, 4, 6, 8, 12].getD (code % 8) 0 := by
  interval_cases code <;> exact ⟨_, _, rfl, by decide, by decide, by decide, rfl⟩

theorem e3m5_bounds {scale : Nat} (h0 : 0 < scale) (h : scale < 255) : 0 < (e3m5 scale).1 ∧ (e3m5 scale).1 < 64 ∧ -7 ≤ (e3m5 scale).2 ∧ (e3m5 scale).2 ≤ -1 := by
  unfold e3m5
  dsimp only
  split <;> dsimp only <;> omega

/-- A code under a scale is the product of its value, in halves, and the scale's (09 R203). -/
theorem unpackCode_value {code scale : Nat} (hc : code < 16) (h0 : 0 < scale) (hs : scale < 255) :
    ∃ m e, decode fp32 (unpackCode code scale) = .fin (decide (8 ≤ code)) m e ∧ 0 ≤ e + 160 ∧
      m * 2 ^ (e + 160).toNat = [0, 1, 2, 3, 4, 6, 8, 12].getD (code % 8) 0 * (e3m5 scale).1 * 2 ^ ((e3m5 scale).2 + 159).toNat := by
  obtain ⟨m, e, hd, hm, helo, hehi, hv⟩ := decode_e2m1 hc
  obtain ⟨hspos, hslt, hxlo, hxhi⟩ := e3m5_bounds h0 hs
  have hcode : unpackCode code scale = (roundFin fp32 0 false (decide (8 ≤ code)) (m * (e3m5 scale).1) (e + (e3m5 scale).2)).1 := by
    simp only [unpackCode, if_neg hs.ne, hd]
  rw [hcode, ← hv]
  generalize e3m5 scale = s at *
  by_cases h0 : m * s.1 = 0
  · have hm0 : m = 0 := (Nat.mul_eq_zero.1 h0).resolve_right hspos.ne'
    refine ⟨0, -149, ?_, by decide, by simp [hm0]⟩
    rw [h0, roundFin_zero]
    cases decide (8 ≤ code) <;> rfl
  · have hprod : m * s.1 < 2 ^ 8 := by
      have := Nat.mul_le_mul hm (Nat.le_of_lt_succ hslt)
      omega
    have hlen := bitLen_le hprod
    have hlen0 : 0 < bitLen (m * s.1) := by
      rw [bitLen, if_neg h0]
      omega
    have htop : topOf (m * s.1) (e + s.2) = e + s.2 + bitLen (m * s.1) - 1 := rfl
    have hmaxE : fp32.maxE = 104 := by decide
    have hemin : fp32.emin = -126 := by decide
    have hmb : fp32.mb = 23 := rfl
    refine ⟨_, _, decode_roundFin_exact fp32 0 false _ h0 (hlen.trans (by decide)) (by omega) (by omega), by omega, ?_⟩
    have hexp : fp32.mb + 1 - bitLen (m * s.1) + (topOf (m * s.1) (e + s.2) - fp32.mb + 160).toNat = (e + 1).toNat + (s.2 + 159).toNat := by omega
    rw [Nat.mul_assoc, ← Nat.pow_add, hexp, Nat.pow_add]
    ring

end Sys2Proof.Num
end

section
/-! PROOFS. The special functions, conversions, random numbers and packed blocks together (09 R196, R199–R203; 10 R206, R209–R211). -/

namespace Sys2Proof.Num

/-- One value of each special function (10 R206). -/
theorem special_values : ∀ x ∈ [(Fn.exp, 0x3F80_0000, 0x402D_F854), (.exp2, 0x3F00_0000, 0x3FB5_04F3), (.log, 0x4000_0000, 0x3F31_7218),
    (.log2, 0x4040_0000, 0x3FCA_E00D), (.sin, 0x3F80_0000, 0x3F57_6AA4), (.cos, 0x3F80_0000, 0x3F0A_5140), (.tanh, 0x3F80_0000, 0x3F42_F7D6),
    (.lgst, 0x3F80_0000, 0x3F3B_26A8), (.erf, 0x3F80_0000, 0x3F57_BB3D)], special fp32 x.1 0 false x.2.1 = (x.2.2, NX) := by
  decide +kernel

end Sys2Proof.Num

namespace Sys2Proof.Machine
open Sys2Proof.Num

/-- The special functions as forms (10 R205). -/
theorem specialForms_element (f : FmtA) :
    let fn := fun (i : Instr) (g : Fn) => ElementForm i f 24 96 fun c _ a _ _ => .one (special (fmtOf f.ty.toNat) g (c.rm f.rm) (f.sat = 1) a)
    fn (.fexp f) .exp ∧ fn (.fexp2 f) .exp2 ∧ fn (.flog f) .log ∧ fn (.flog2 f) .log2 ∧ fn (.fsin f) .sin ∧ fn (.fcos f) .cos ∧
    fn (.ftanh f) .tanh ∧ fn (.flgst f) .lgst ∧ fn (.ferf f) .erf := by
  refine ⟨?fexp, ?fexp2, ?flog, ?flog2, ?fsin, ?fcos, ?ftanh, ?flgst, ?ferf⟩
  case fexp | fexp2 | flog | flog2 | fsin | fcos | ftanh | flgst | ferf =>
    apply jetForm_transcendental rfl (by simp)
    intro s
    delta exec execFexp execFexp2 execFlog execFlog2 execFsin execFcos execFtanh execFlgst execFerf specForm
    rfl

end Sys2Proof.Machine

open Sys2Proof Sys2Proof.Machine Sys2Proof.Num

/-- Settles O20: the forms are the frames of their functions; a special function or a conversion at a special value delivers it, and everywhere else
rounds once. -/
theorem specialAndConversionResults : Obligations.SpecialAndConversionResults := by
  refine ⟨specialForms_element, fun f => ⟨elemForm_conversion rfl (by simp) (by simp) rfl, elemForm_conversion rfl (by simp) (by simp) rfl,
      fun s c tg cl g hm => ⟨execRng_open hm, fun hp h => execPack4_open hp hm h, fun hp h => execUnpk4_open hp hm h⟩⟩,
    fun F hF rm sat n a m j e => ⟨fun h g => special_nan h, special_at_inf hF, special_at_zero hF, special_log_negative, special_exp2_integer,
      special_log2_two_pow⟩, special_values, fun cont dst src rm x sat n m e hd hs => ?cvt, fun dst src x u sat n m e hA hm => ?cvtsr, mix_eq_foldl,
    fun rm x scale n m e h0 hs => ⟨packCode_nan, packCode_inf, packCode_zero h0, packCode_fin h0⟩, fun code scale hc h0 hs => unpackCode_value hc h0 hs,
    fun code => rfl⟩
  case cvt =>
    refine ⟨fun hs4 hd4 => cvt_int_int hs4 hd4, fun hs4 hd5 => cvt_int_float hs4 hd5 hd, fun hs5 hd4 => ⟨cvt_nan_int hs5 hs hd4, cvt_inf_int hs5 hs hd4,
      cvt_fin_int hs5 hs hd4⟩, fun hs5 hd5 => ⟨cvt_nan_float hs5 hs hd5 hd, cvt_inf_float hs5 hs hd5 hd, cvt_fin_float hs5 hs hd5 hd,
      fun h he => cvt_same hs5 hs he h⟩⟩
  case cvtsr =>
    refine ⟨cvtsr_exact hA hm, fun hq h => ?_⟩
    obtain ⟨fl, hr⟩ := cvtsr_inexact hA hm hq h
    have hfst := fst_eq_of_eq_mk hr
    rw [stochasticMag_eq] at hfst
    exact hfst

end

section
/-! PROOFS. The JET forms (10 R212–R217): the reads of order and flags, and the J-plane forms that reshape a jet. -/

namespace Sys2Proof.Machine
open Sys2Proof.Bits Sys2Proof.Num

/-! ## Operands (02 R39; 10 R212, R214, R215) -/

theorem jordVal_eq (c : Fx) (f : FmtA) : jordVal c f = (rightScalar c f).toNat % 8 := field_lowest ..

theorem jetLeft_eq (c : Fx) (f : FmtA) (j l : Nat) :
    jetLeft c f j l = (Vec.lane (optBeat c.l j) l).toNat % 2 ^ width f.ty.toNat := field_lowest ..

theorem jetRight_eq (c : Fx) (f : FmtA) (l : Nat) :
    jetRight c f l = (if f.immr = 1 then f.imm.toNat else (Vec.lane (optBeat c.r 0) l).toNat) % 2 ^ width f.ty.toNat := by
  simp only [jetRight, field_lowest, apply_ite (· % 2 ^ width f.ty.toNat)]

/-- The index, or the order, in the immediate of a JET form. -/
theorem jetIndex_eq (f : FmtA) : field f.imm 0 3 = f.imm.toNat % 8 := field_lowest ..

/-! ## What the JET group has in common -/

/-- Whether a JET form computes the values that it leaves, or only moves them (10 R217). -/
def jetComputes (i : Instr) : Bool := Instr.isOpc i [0x104, 0x105, 0x107] || (i.opc = 0x102 && varOf i = 1)

theorem jetComputes_jcoef (f : FmtA) : jetComputes (.jcoef f) = decide (f.var = 1) := by
  have hv : varOf (.jcoef f) = 1 ↔ f.var = 1 := (BitVec.toNat_eq (x := f.var) (y := 1)).symm
  simp only [jetComputes, hv]
  rfl

section
variable {i : Instr} {f : FmtA} {s : State} {c : Fx} {tg : Tag} {cl : Option Claim} {g : BitVec 16} (hg : groupOf i = 8)
include hg

/-- The gate of a JET form is never data. -/
theorem thirdData_jet : thirdData i = false := by
  unfold groupOf at hg
  simp only [thirdData, Instr.isOpc, List.contains_eq_mem, decide_eq_false_iff_not, List.mem_cons, List.not_mem_nil, or_false]
  omega

theorem formDraw_jet (hh : i.hdr = f.h) (hp : f.h.plane = 2) (k : Nat) : formDraw i k = (if jetComputes i then 40 else 24) * (k + 1) := by
  simp only [formDraw, hg, planeOf_jet hh hp, jetComputes, Nat.mul_comm]
  rfl

/-- JORD and JFLAG in all their forms: a datum of the context goes out, and `before` is done besides. -/
theorem jetRead_open (hm : c.mode false = .go g) (h : Goes i s c 4 tg cl) {x : Fx → TokData} {before : Fx → Prog}
    (hx : exec i = gateForm i fun c _ => c.emitPlan 4 (x c) false (before c)) : exec i s = .next (c.emitted 4 tg cl (x c) false (before c)) := by
  rw [hx, gateForm_go h.fires (thirdData_jet hg ▸ hm)]
  exact h.run_emitPlan ..

/-- A J-plane form computes the lanes of mask and gate (10 R213), and draws as it moves or computes. -/
theorem jetGroup_open {b : Bool} (hb : jetComputes i = b) (hm : c.mode false = .go g) (h : Goes i s c ((if b then 40 else 24) * (c.k + 1)) tg cl)
    {one : Bool} {lane : Fx → Nat → LaneOut} (hx : exec i = jetGroup i f one lane) (hh : i.hdr = f.h) (hp : f.h.plane = 2) :
    exec i s = .next (c.computed ((if b then 40 else 24) * (c.k + 1)) tg cl true g (dataMask i c f) (dataMask i c f &&& g)
      (if one then 1 else c.k + 1) (lane c)) := by
  subst hb
  rw [hx, jetGroup, gateForm_go h.fires (thirdData_jet hg ▸ hm), formDraw_jet hg hh hp]
  exact run_lanesOut h.tags h.covers hm (by simp)

end

end Sys2Proof.Machine

open Sys2Proof Sys2Proof.Machine

/-- Settles O22: the reads emit a datum of their context, and each J-plane form is the frame of its function, at a draw that says whether it computes. -/
theorem jetGroupResults : Obligations.JetGroupResults := by
  intro f s c tg cl g hm
  -- the operands, as the model names them
  simp only [← jetLeft_eq, ← jetRight_eq, ← jetIndex_eq, ← jordVal_eq]
  refine ⟨fun _ => ⟨fun h => ?jord, fun h => ?jordSet, fun h => ?jflag, fun h => ?jflagClr⟩, fun hp => ⟨fun h => ?jseed, fun h => ?jsetc, fun h => ?jtrunc,
    fun h => ?jdiff, fun h => ?jintg, fun h => ?jeval, fun hv h => ?jcoef, fun hv h => ?jcoefFact⟩⟩
  case jord | jordSet | jflag | jflagClr => exact (jetRead_open (by simp) hm h rfl).trans rfl
  case jseed | jsetc | jtrunc => exact (jetGroup_open (b := false) (by simp) rfl hm h rfl rfl hp).trans rfl
  case jdiff | jintg | jeval => exact (jetGroup_open (b := true) (by simp) rfl hm h rfl rfl hp).trans rfl
  case jcoef =>
    have hb : jetComputes (.jcoef f) = false := by rw [jetComputes_jcoef, hv]; rfl
    rw [jetGroup_open (by simp) hb hm h rfl rfl hp]
    simp only [hv]
    rfl
  case jcoefFact =>
    have hb : jetComputes (.jcoef f) = true := by rw [jetComputes_jcoef, hv]; rfl
    rw [jetGroup_open (by simp) hb hm h rfl rfl hp]
    simp only [hv]
    rfl

end

section
/-! PROOFS. REPL behind a gate (11 R220): its free lanes count before its tokens go out. Where a token finds its slot taken by one with broken parity
(24 R394, R395), the kill of the task ends the task's cards at a time of the state's counter, which that count has moved. -/

namespace Sys2Proof.Machine

/-- A REPL gated by a false predicate under PMODE 10, whose target is the left slot of instruction 1 of its block. -/
def gatedRepl : FmtA := ⟨⟨1, 2, 0, 0, 0x401, 0⟩, 0, 0, 0, 9, 0, 0⟩

/-- A card of task 1 that waits for its engine (14 R271). -/
def waitingCard : Card where
  node := placeAt
  m := 0
  seq := 0
  cls := 0
  chan := 0
  flags := 0
  words := [0, 0, 0, 0, 0, 0, 0, 0]
  task := 1
  owner := 0
  die := 0
  st := .queued
  fb := false
  ptr := 0
  reason := 0
  nv := false
  step := 0
  src := 0
  dst := 0
  accepted := 0
  order := 0
  finAt := none
  t0 := 0
  tag := 0
  wb := none
  told := false
  held := none
  port := false
  entered := true
  q := 0
  ftag := 0
  pc := 0

/-- The REPL about to fire at a node in which its target slot holds a token with broken parity already, in a task with a card that waits. -/
def brokenTarget : State :=
  let broken : Tok := { mkTok 0 (.beats [Vec.fill 0] 0xFFFF) false with par := .data }
  { State.reset with
    power := .running
    cur := some ⟨placeAt, 0, 0⟩
    nodes := [(placeAt, { oneNode (.repl gatedRepl) 0 with
      entries := [(0, zeroEntry (.repl gatedRepl)), (entryIndex 1 0, ⟨1, 0, some broken, none, none⟩)] })]
    tasks := [(1, some (oneTask (nodeX placeAt) (nodeY placeAt)))]
    cards := [waitingCard] }

/-- When the cards of a state became final, by its counter. -/
def finalTimes (s : State) : List (Option Nat) := s.cards.map fun c => c.finAt

/-- What a gated REPL emits (11 R220): its scalar where the gate is open, free lanes elsewhere. -/
def gatedLanes (f : FmtA) (c : Fx) (g : BitVec 16) : TokData :=
  .beats [Vec.mk fun l => if g.getLsbD l then BitVec.ofNat 32 (Num.extend 32 f.ty.toNat (optScalar c.l).toNat) else Config.freeLane c.s.ctr l] g

/-- The firing goes through with its gate open for every lane; emitting first and counting afterwards ends the card at the count before. -/
theorem brokenTarget_goes : ∃ c, Goes (.repl gatedRepl) brokenTarget c 24 0 none ∧ c.mode false = .go 0xFFFF ∧ ¬c.h.pmode = 0 ∧
    finalTimes (Upd.apply .fresh (c.emitted 24 0 none (gatedLanes gatedRepl c 0xFFFF) false .skip)) = [some 0] :=
  ⟨_, ⟨⟨rfl, rfl, rfl, rfl, rfl⟩, by unfold Covers; decide, rfl⟩, rfl, by decide, by decide +kernel⟩

/-- The firing itself counts first, and ends the card at the count after. -/
theorem exec_brokenTarget : (stateOf (exec (.repl gatedRepl) brokenTarget)).map finalTimes = some [some 1] := by
  decide +kernel

end Sys2Proof.Machine

open Sys2Proof Sys2Proof.Machine

/-- Refutes O23: at `brokenTarget` the gated REPL ends its task's card at count 1, where the statement's state, which counts the free lanes after the
emission, has it ended at count 0. -/
theorem not_laneResults : ¬ Obligations.LaneResults := by
  intro h
  obtain ⟨c, hgoes, hm, hpm, hsays⟩ := brokenTarget_goes
  obtain ⟨-, -, -, -, -, -, -, -, -, hrepl⟩ := h gatedRepl
  have hnext := (hrepl brokenTarget c 0 none 0xFFFF hm hgoes).2 hpm
  rw [if_neg (by decide)] at hnext
  have hdoes := exec_brokenTarget
  rw [hnext] at hdoes
  exact absurd ((Option.some.inj hdoes).symm.trans hsays) (by decide)

end

section
/-! PROOFS. The STREAM group (11 R221–R228): what its forms draw; RED and SCAN, whose beats are trees and left folds (02 R53). -/

namespace Sys2Proof.Machine
open Sys2Proof.Bits

/-! ## Draws (11 R228) -/

section
variable {i : Instr} {f : FmtG}

theorem formDraw_stream (hh : i.hdr = f.h) (hg : groupOf i = 10) (k : Nat) : formDraw i k =
    (if Instr.isOpc i [0x140, 0x141, 0x142] && streamFloat i then (if f.h.plane = 0 then 8 else 40) else if f.h.plane = 0 then 4 else 24) *
      if f.h.plane = 2 then k + 1 else 1 := by
  have h0 : planeOf i = 0 ↔ f.h.plane = 0 := by rw [planeOf, hh, BitVec.toNat_eq]; rfl
  have h2 : planeOf i = 2 ↔ f.h.plane = 2 := by rw [planeOf, hh, BitVec.toNat_eq]; rfl
  simp only [formDraw, hg, linJ, h0, h2]

/-- The forms that pass elements on draw 4, or 24 for each beat. -/
theorem formDraw_passing (hi : i ∈ [.steer f, .filter f, .compact f, .merge f]) (k : Nat) :
    formDraw i k = (if f.h.plane = 0 then 4 else 24) * if f.h.plane = 2 then k + 1 else 1 := by
  simp only [List.mem_cons, List.not_mem_nil, or_false] at hi
  obtain ⟨hh, hg, ho⟩ : i.hdr = f.h ∧ groupOf i = 10 ∧ Instr.isOpc i [0x140, 0x141, 0x142] = false := by
    rcases hi with rfl | rfl | rfl | rfl <;> exact ⟨rfl, by simp, by simp [Instr.isOpc]⟩
  simp only [formDraw_stream hh hg, ho, Bool.false_and, Bool.false_eq_true, if_false]

/-- The forms that combine elements draw at the figure of their OP's class. -/
theorem formDraw_combining (hi : i ∈ [.red f, .scan f, .accum f]) (k : Nat) : formDraw i k =
    (if f.h.plane = 0 then (if 7 ≤ (f.imm.extractLsb' 4 4).toNat then 8 else 4) else if 7 ≤ (f.imm.extractLsb' 4 4).toNat then 40 else 24) *
      if f.h.plane = 2 then k + 1 else 1 := by
  simp only [List.mem_cons, List.not_mem_nil, or_false] at hi
  obtain ⟨hh, hg, ho, hf⟩ : i.hdr = f.h ∧ groupOf i = 10 ∧ Instr.isOpc i [0x140, 0x141, 0x142] = true ∧
      streamFloat i = decide (7 ≤ (f.imm.extractLsb' 4 4).toNat) := by
    rcases hi with rfl | rfl | rfl <;> exact ⟨rfl, by simp, by simp [Instr.isOpc], rfl⟩
  simp only [formDraw_stream hh hg, ho, hf, Bool.true_and, decide_eq_true_eq]
  split <;> rfl

end

/-! ## The frame of RED and SCAN (11 R223) -/

theorem zipIdx_flatMap_range {α β : Type} (f : Nat → α) (g : α × Nat → List β) (n : Nat) :
    ((List.range n).map f).zipIdx.flatMap g = (List.range n).flatMap fun k => g (f k, k) := by
  rw [List.flatMap_def, zipIdx_map_range, List.flatMap_def]

section
variable {i : Instr} {s : State} {c : Fx} {tg : Tag} {cl : Option Claim} {g : BitVec 16}

/-- An open firing leaves the lanes `v` that its beats give, and notes the flags `fl` that they raise by lane. -/
theorem redForm_open {mask : BitVec 16 → BitVec 16} {beat : Fx → Vec → BitVec 16 → Vec × List (Nat × Num.Flags)} {v : Nat → Nat → Lane}
    {fl : Nat → List (Nat × Num.Flags)} (hm : c.mode false = .go g) (h : Goes i s c (formDraw i c.k) tg cl)
    (hb : ∀ j, beat c (optBeat c.l j) (optMask c.l) = (Vec.mk (v j), fl j)) :
    let nb := if c.h.plane = 2 then c.k + 1 else 1
    redForm i mask beat s = .next (c.noted (formDraw i c.k) tg cl g (mask (optMask c.l)) nb v
      ((List.range nb).flatMap fun j => (fl j).map fun e => (e.1, j, e.2))) := by
  intro nb
  rw [redForm, fire_fires h.fires]
  simp only [hm, hb, zipIdx_flatMap_range, List.map_map, Function.comp_def]
  exact run_noted h.tags h.covers hm

theorem execRed_open {f : FmtG} (hm : c.mode false = .go g) (h : Goes (.red f) s c (formDraw (.red f) c.k) tg cl) :
    let nb := if c.h.plane = 2 then c.k + 1 else 1
    let tree := fun j => redTree f c.m.snap.rmode (stLanes f (optBeat c.l j) (optMask c.l))
    exec (.red f) s = .next (c.noted (formDraw (.red f) c.k) tg cl g 0xFFFF nb (fun j _ => BitVec.ofNat 32 (tree j).1)
      ((List.range nb).flatMap fun j => (tree j).2.map fun e => (e.1, j, e.2))) := by
  intro nb tree
  have hbeat : ∀ j, (Vec.fill (BitVec.ofNat 32 (tree j).1), (tree j).2) = (Vec.mk fun _ => BitVec.ofNat 32 (tree j).1, (tree j).2) :=
    fun j => by rw [fill_eq_mk]
  show execRed f s = _
  rw [execRed]
  exact redForm_open hm h hbeat

theorem execScan_open {f : FmtG} (hm : c.mode false = .go g) (h : Goes (.scan f) s c (formDraw (.scan f) c.k) tg cl) :
    let nb := if c.h.plane = 2 then c.k + 1 else 1
    let fold := fun j => scanFold f c.m.snap.rmode (stLanes f (optBeat c.l j) (optMask c.l))
    exec (.scan f) s = .next (c.noted (formDraw (.scan f) c.k) tg cl g (optMask c.l) nb
      (fun j l => if (optMask c.l).getLsbD l then BitVec.ofNat 32 ((fold j).getD l (0, 0)).1 else Vec.lane (optBeat c.l j) l)
      ((List.range nb).flatMap fun j => (fold j).zipIdx.map fun e => (e.2, j, e.1.2))) := by
  intro nb fold
  show execScan f s = _
  rw [execScan, redForm_open hm h fun j => rfl]
  simp only [List.map_map, Function.comp_def]
  rfl

end

/-! ## The tree (02 R53) -/

/-- A level of the tree over values given by their places: neighbours combine. -/
theorem redLevel_fst_range' (f : FmtG) (rmode : Word) (st : Nat) (v : Nat → Nat) (n : Nat) : ∀ pos a,
    (redLevel f rmode st pos ((List.range' (2 * a) (2 * n)).map v)).1 =
      (List.range' a n).map fun k => (stComb f rmode 32 (v (2 * k)) (v (2 * k + 1))).1 := by
  induction n with
  | zero => exact fun _ _ => rfl
  | succ n ih =>
    intro pos a
    rw [Nat.mul_succ, List.range'_succ, List.range'_succ, List.range'_succ]
    exact congrArg (List.cons _) (ih (pos + 2 * st) (a + 1))

theorem redLevel_fst_range (f : FmtG) (rmode : Word) (st pos : Nat) (v : Nat → Nat) (n : Nat) :
    (redLevel f rmode st pos ((List.range (2 * n)).map v)).1 = (List.range n).map fun k => (stComb f rmode 32 (v (2 * k)) (v (2 * k + 1))).1 := by
  simp only [List.range_eq_range']
  exact redLevel_fst_range' f rmode st v n pos 0

/-- The tree of sixteen lanes combines neighbours level by level. -/
theorem redTree_fst (f : FmtG) (rmode : Word) (x : Nat → Nat) :
    let pair := fun (v : Nat → Nat) (k : Nat) => (stComb f rmode 32 (v (2 * k)) (v (2 * k + 1))).1
    (redTree f rmode ((List.range 16).map x)).1 = pair (pair (pair (pair x))) 0 := by
  intro pair
  simp only [redTree, redLevel_fst_range f rmode _ _ _ 8, redLevel_fst_range f rmode _ _ _ 4, redLevel_fst_range f rmode _ _ _ 2,
    redLevel_fst_range f rmode _ _ _ 1]
  rfl

/-! ## The left folds (02 R53) -/

section
variable (f : FmtG) (rmode : Word) (x : Nat)

/-- The folds of more than one lane, in their order: each takes one lane on the right of the fold before it, the first on the right of lane 0 itself. -/
def laterFolds (xs : List Nat) : List (Nat × Num.Flags) :=
  xs.foldl (fun acc y => acc ++ [stComb f rmode 32 ((acc.getLast?.map fun e => e.1).getD x) y]) []

theorem scanFold_cons (xs : List Nat) : scanFold f rmode (x :: xs) = (stFirst f x, 0) :: laterFolds f rmode x xs := rfl

theorem laterFolds_concat (ys : List Nat) (y : Nat) : laterFolds f rmode x (ys ++ [y]) =
    laterFolds f rmode x ys ++ [stComb f rmode 32 (((laterFolds f rmode x ys).getLast?.map fun e => e.1).getD x) y] := by
  rw [laterFolds, List.foldl_append]
  rfl

/-- The last fold of a list of folds, or lane 0 itself where there is none. -/
theorem lastFold_eq (l : List (Nat × Num.Flags)) : (l.getLast?.map fun e => e.1).getD x = if l.length = 0 then x else (l.getD (l.length - 1) (0, 0)).1 := by
  rw [List.getLast?_eq_getElem?, List.getD_eq_getElem?_getD]
  split
  · next h => rw [List.getElem?_eq_none (by omega)]; rfl
  · next h => rw [List.getElem?_eq_getElem (by omega)]; rfl

theorem length_laterFolds (xs : List Nat) : (laterFolds f rmode x xs).length = xs.length := by
  induction xs using List.reverseRecOn with
  | nil => rfl
  | append_singleton ys y ih => rw [laterFolds_concat, List.length_append, List.length_append, ih]; rfl

theorem getD_laterFolds (xs : List Nat) {k : Nat} (hk : k < xs.length) : (laterFolds f rmode x xs).getD k (0, 0) =
    stComb f rmode 32 (if k = 0 then x else ((laterFolds f rmode x xs).getD (k - 1) (0, 0)).1) (xs.getD k 0) := by
  induction xs using List.reverseRecOn with
  | nil => cases hk
  | append_singleton ys y ih =>
    have hlen := length_laterFolds f rmode x ys
    have hlow : ∀ j, j < ys.length → (laterFolds f rmode x (ys ++ [y])).getD j (0, 0) = (laterFolds f rmode x ys).getD j (0, 0) := fun j hj => by
      rw [laterFolds_concat, List.getD_append _ _ _ _ (hlen ▸ hj)]
    rw [List.length_append, List.length_singleton] at hk
    rcases Nat.lt_succ_iff_lt_or_eq.1 hk with h | rfl
    · rw [hlow k h, hlow (k - 1) (by omega), List.getD_append _ _ _ _ h, ih h]
    · have hlast : (laterFolds f rmode x (ys ++ [y])).getD ys.length (0, 0) = stComb f rmode 32
          (if ys.length = 0 then x else ((laterFolds f rmode x ys).getD (ys.length - 1) (0, 0)).1) y := by
        rw [laterFolds_concat, List.getD_append_right _ _ _ _ hlen.le, hlen, Nat.sub_self, lastFold_eq, hlen]
        rfl
      rw [hlast, List.getD_append_right _ _ _ _ le_rfl, Nat.sub_self]
      split
      · rfl
      · next h => rw [hlow _ (by omega)]; rfl

end

/-- The folds of the lanes `x 0` to `x n`. -/
theorem scanFold_range (f : FmtG) (rmode : Word) (x : Nat → Nat) (n : Nat) : scanFold f rmode ((List.range (n + 1)).map x) =
    (stFirst f (x 0), 0) :: laterFolds f rmode (x 0) ((List.range n).map fun k => x (k + 1)) := by
  rw [List.range_succ_eq_map, List.map_cons, List.map_map, scanFold_cons]
  rfl

theorem length_scanFold_range (f : FmtG) (rmode : Word) (x : Nat → Nat) (n : Nat) : (scanFold f rmode ((List.range (n + 1)).map x)).length = n + 1 := by
  rw [scanFold_range, List.length_cons, length_laterFolds, List.length_map, List.length_range]

theorem getD_scanFold_zero (f : FmtG) (rmode : Word) (x : Nat → Nat) (n : Nat) :
    (scanFold f rmode ((List.range (n + 1)).map x)).getD 0 (0, 0) = (stFirst f (x 0), 0) := by
  rw [scanFold_range, List.getD_cons_zero]

theorem getD_scanFold_succ (f : FmtG) (rmode : Word) (x : Nat → Nat) {n k : Nat} (hk : k < n) :
    let fold := scanFold f rmode ((List.range (n + 1)).map x)
    fold.getD (k + 1) (0, 0) = stComb f rmode 32 (if k = 0 then x 0 else (fold.getD k (0, 0)).1) (x (k + 1)) := by
  have hlane : ((List.range n).map fun k => x (k + 1)).getD k 0 = x (k + 1) := by
    rw [List.getD_eq_getElem _ _ (by simpa using hk), List.getElem_map, List.getElem_range]
  dsimp only
  rw [scanFold_range, List.getD_cons_succ, getD_laterFolds f rmode (x 0) _ (by simpa using hk), hlane]
  cases k <;> rfl

/-- The fold of one lane (02 R39, R40). -/
theorem stFirst_eq (f : FmtG) (x : Nat) :
    let ty := (f.imm.extractLsb' 4 4).toNat
    stFirst f x = if ty < 7 then Num.writeInt 32 ty (Num.readInt ty x)
      else if (Num.decode (Num.fmtOf ty) x).isNan then (Num.fmtOf ty).nan else x % 2 ^ (Num.fmtOf ty).bits := by
  intro ty
  have hty : stTy f = ty := rfl
  by_cases h : ty < 7
  · rw [if_pos h, stFirst, hty, if_neg (Nat.not_le.2 h)]
  · rw [if_neg h, stFirst, hty, if_pos (Nat.not_lt.1 h)]

end Sys2Proof.Machine

open Sys2Proof Sys2Proof.Machine

/-- Settles O24: RED and SCAN are the frame of the tree and of the left folds; the tree is four levels of neighbours, and each fold stands on the one
before it. -/
theorem reductionResults : Obligations.ReductionResults := by
  refine ⟨fun f s c tg cl g hm hp => ?_, fun f rmode x => ?_⟩
  · dsimp only
    have h0 : ¬f.h.plane = 0 := by rcases hp with hp | hp <;> simp [hp]
    have hd : ∀ i ∈ [Instr.red f, .scan f, .accum f],
        formDraw i c.k = (if decide (7 ≤ (f.imm.extractLsb' 4 4).toNat) then 40 else 24) * if f.h.plane = 2 then c.k + 1 else 1 := fun i hi => by
      simp only [formDraw_combining hi, h0, if_false, decide_eq_true_eq]
    refine ⟨fun h => ?_, fun h => ?_⟩
    · have hpl : c.h.plane = f.h.plane := congrArg Hdr.plane h.fires.hdr
      rw [← hd (.red f) (by simp)] at h ⊢
      rw [execRed_open hm h, hpl]
      rfl
    · have hpl : c.h.plane = f.h.plane := congrArg Hdr.plane h.fires.hdr
      rw [← hd (.scan f) (by simp)] at h ⊢
      rw [execScan_open hm h, hpl]
      rfl
  · dsimp only
    refine ⟨redTree_fst f rmode x, length_scanFold_range f rmode x 15, ?_, fun k hk => getD_scanFold_succ f rmode x hk⟩
    rw [← stFirst_eq]
    exact getD_scanFold_zero f rmode x 15

end

section
/-! PROOFS. STEER (11 R226), and the ordered stream forms at the firing and at the commit (11 R224, R225, R227; 08 R173). -/

namespace Sys2Proof.Machine
open Sys2Proof.Bits

section
variable {i : Instr} {f : FmtG} {s : State} {c : Fx} {tg : Tag} {cl : Option Claim} {x y p : Tok}

/-! ## STEER -/

/-- A form without a right operand sees none. -/
theorem Fires.right_eq_none (h : Fires i s c) (hn : needsRight i = false) : c.r = none := by
  obtain ⟨_, _, _, _, -, -, -, -, -, rfl⟩ := fireCtx_some h.ctx
  simp only [hn, Bool.false_eq_true, if_false]

theorem needsRight_steer (f : FmtG) : needsRight (.steer f) = false := by
  simp [needsRight, Instr.body, rightSlot, Instr.isOpc]

/-- The mode of STEER: a null token or a null predicate decides, and nothing gates. -/
theorem Fx.mode_steer (hl : c.l = some x) (hr : c.r = none) (hp : c.p = some p) :
    c.mode true = if x.null || p.null then .null else .go 0xFFFF := by
  simp only [Fx.mode, hl, hr, hp, List.any_cons, List.any_nil, Bool.false_or, Bool.or_false, Bool.true_or, if_true]

/-- The truth of STEER's predicate, where it steers the whole token. -/
def steersTrue (c : Fx) (p : Tok) : Bool := if c.h.plane = 0 then p.scalar.getLsbD 0 else (gateLanes 1 p).getLsbD 0

section
variable (hl : c.l = some x) (hp : c.p = some p)
include hl hp

/-- On the S and W planes the whole token goes one way, and a null token the other. -/
theorem steerOuts_whole (hw : c.h.plane = 0 ∨ c.h.plane = 3) : steerOuts c =
    if steersTrue c p then ((x.data, false), (nullData c.h.plane.toNat c.k, true)) else ((nullData c.h.plane.toNat c.k, true), (x.data, false)) := by
  have hb : (decide (c.h.plane = 0) || decide (c.h.plane = 3)) = true := by simpa using hw
  simp only [steerOuts, hl, hp, Option.map_some, Option.getD_some, optScalar, hb, if_true]
  rfl

/-- On the V and J planes the true lanes go one way, the others the other. -/
theorem steerOuts_lanes (hw : ¬(c.h.plane = 0 ∨ c.h.plane = 3)) {bs : List Vec} {m : BitVec 16} (hd : x.data = .beats bs m) :
    steerOuts c = ((.beats bs (m &&& gateLanes 1 p), false), (.beats bs (m &&& ~~~gateLanes 1 p), false)) := by
  have hb : (decide (c.h.plane = 0) || decide (c.h.plane = 3)) = false := by simpa using hw
  simp only [steerOuts, hl, hp, Option.map_some, Option.getD_some, hb, Bool.false_eq_true, if_false, hd]

theorem steerOuts_scalar (hw : ¬(c.h.plane = 0 ∨ c.h.plane = 3)) {w : Word} (hd : x.data = .scalar w) :
    steerOuts c = ((.scalar w, false), (.scalar w, false)) := by
  have hb : (decide (c.h.plane = 0) || decide (c.h.plane = 3)) = false := by simpa using hw
  simp only [steerOuts, hl, hp, Option.map_some, Option.getD_some, hb, Bool.false_eq_true, if_false, hd]

end

/-- A null token or a null predicate makes STEER emit null tokens (08 R171). -/
theorem execSteer_null (hl : c.l = some x) (hp : c.p = some p) (hn : x.null = true ∨ p.null = true) (h : Goes (.steer f) s c (formDraw (.steer f) c.k) tg cl) :
    exec (.steer f) s = .next (c.emitted (formDraw (.steer f) c.k) tg cl (nullData ((outPlanes (.steer f)).headD f.h.plane.toNat) c.k) true .skip) := by
  have hm : c.mode true = .null := by
    rw [Fx.mode_steer hl (h.fires.right_eq_none (needsRight_steer f)) hp, if_pos (by simpa using hn)]
  show execSteer f s = _
  rw [execSteer, fire_fires h.fires]
  simp only [hm, Fx.nullPlan]
  rw [h.run_emitPlan, h.fires.np]
  rfl

/-- STEER emits its two tokens, each to its own target. -/
theorem execSteer_steers (hl : c.l = some x) (hp : c.p = some p) (hx : x.null = false) (hn : p.null = false)
    (h : Goes (.steer f) s c (formDraw (.steer f) c.k) tg cl) :
    let o := steerOuts c
    exec (.steer f) s = .next (c.acted (formDraw (.steer f) c.k) (.all [takeClaim c.tid c.n c.ut cl,
      emitTo c.n c.ut c.q c.tag c.h.t0 (mkTok tg o.1.1 o.1.2), emitTo c.n c.ut c.q c.tag c.h.t1 (mkTok tg o.2.1 o.2.2)])) := by
  have hm : c.mode true = .go 0xFFFF := by
    rw [Fx.mode_steer hl (h.fires.right_eq_none (needsRight_steer f)) hp, hx, hn]
    rfl
  have htag : tagRes c.t c.tag c.h.tagop.toNat = .ok tg cl := h.tags
  show execSteer f s = _
  rw [execSteer, fire_fires h.fires]
  simp only [hm, htag]
  exact h.run_act _

/-! ## The ordered forms at the firing -/

/-- An ordered form whose iteration is accepted, with room for its colour, puts its token into the pending state. -/
theorem orderedForm_pends {take : Fx → Option (Tok × Option Tok)} {t : Tok} {g : Option Tok} (ha : accepted c = true) (hr : streamRoom c = true) (h : Fires i s c)
    (hc : Covers c (formDraw i c.k)) (ht : take c = some (t, g)) : orderedForm i take s = .next (c.pending (formDraw i c.k) (.stream t g)) := by
  rw [orderedForm, fire_fires h]
  simp only [ha, hr, ht, Bool.not_true, Bool.or_self, Bool.false_eq_true, if_false]
  exact Fx.run_act hc

/-- Tokens that cannot be merged are FLOW_FAULT 0x0B. -/
theorem orderedForm_faults {take : Fx → Option (Tok × Option Tok)} (ha : accepted c = true) (hr : streamRoom c = true) (h : Fires i s c)
    (hc : Covers c (formDraw i c.k)) (ht : take c = none) : orderedForm i take s = .next (c.faulted (formDraw i c.k) 0x10 0 0x0B) := by
  rw [orderedForm, fire_fires h]
  simp only [ha, hr, ht, Bool.not_true, Bool.or_self, Bool.false_eq_true, if_false]
  exact Fx.run_fault hc

theorem leftTok_eq (hl : c.l = some x) : leftTok c = x := by rw [leftTok, hl]; rfl

/-- ACCUM, FILTER and COMPACT take their left operand. -/
theorem orderedForm_left {o : Fx → Option Tok} (ha : accepted c = true) (hr : streamRoom c = true) (h : Fires i s c) (hc : Covers c (formDraw i c.k))
    (hl : c.l = some x) : orderedForm i (fun c => some (leftTok c, o c)) s = .next (c.pending (formDraw i c.k) (.stream x (o c))) :=
  orderedForm_pends ha hr h hc (by rw [leftTok_eq hl])

/-! ## MERGE -/

/-- What MERGE makes of its operands. -/
def mergeTake (c : Fx) : Option (Tok × Option Tok) :=
  if c.h.plane = 3 && !(leftTok c).null && !(c.r.getD (leftTok c)).null then none
  else (mergeTok (leftTok c) (c.r.getD (leftTok c))).map fun t => (t, none)

theorem execMerge_eq (f : FmtG) : exec (.merge f) = orderedForm (.merge f) mergeTake := rfl

section
variable (hl : c.l = some x) (hr : c.r = some y)
include hl hr

theorem mergeTake_eq : mergeTake c = if c.h.plane = 3 ∧ x.null = false ∧ y.null = false then none else (mergeTok x y).map fun t => (t, none) := by
  simp only [mergeTake, leftTok_eq hl, hr, Option.getD_some, Bool.and_eq_true, decide_eq_true_eq, Bool.not_eq_true', and_assoc]

theorem mergeTake_null (hx : x.null = true) : mergeTake c = some (y, none) := by
  rw [mergeTake_eq hl hr, if_neg (by simp [hx]), mergeTok, if_pos hx]
  rfl

theorem mergeTake_of_null (hx : x.null = false) (hy : y.null = true) : mergeTake c = some (x, none) := by
  rw [mergeTake_eq hl hr, if_neg (by simp [hy]), mergeTok, if_neg (by simp [hx]), if_pos hy]
  rfl

/-- Two vectors merge where no lane is in both masks. -/
theorem mergeTake_beats {a b : List Vec} {m n : BitVec 16} (hp : ¬c.h.plane = 3) (hx : x.null = false) (hy : y.null = false) (hn : x.rein = false)
    (ha : x.data = .beats a m) (hb : y.data = .beats b n) : mergeTake c = if m &&& n = 0 then
      some ({ x with data := .beats (a.zipIdx.map fun e => Vec.mk fun l => if m.getLsbD l then Vec.lane e.1 l else Vec.lane (b.getD e.2 []) l) (m ||| n) }, none)
    else none := by
  rw [mergeTake_eq hl hr, if_neg fun h => hp h.1, mergeTok, if_neg (by simp [hx]), if_neg (by simp [hy])]
  simp only [ha, hb, hn, Bool.false_or, Bool.not_eq_true', decide_eq_false_iff_not, ite_not]
  split <;> rfl

/-- Two scalars, or two wide tokens, never merge. -/
theorem mergeTake_scalar (hd : c.h.plane = 3 ∨ ∃ w, x.data = .scalar w) (hx : x.null = false) (hy : y.null = false) : mergeTake c = none := by
  rw [mergeTake_eq hl hr]
  rcases hd with hp | ⟨w, hw⟩
  · rw [if_pos ⟨hp, hx, hy⟩]
  · simp only [mergeTok, hx, hy, hw, Bool.false_eq_true, if_false, Option.map_none, ite_self]

end

end

/-! ## What a commit makes of a token (11 R225, R227; 08 R173) -/

section
variable {f : FmtG} {h : Hdr} {k c plane : Nat} {rmode : Word} {tag : Tag} {col : StreamCol} {x p : Tok}

/-- A null token ends its stream: FILTER gives it out and releases its state. -/
theorem filterEff_null (hx : x.null = true) (o : Option Tok) :
    filterEff h k c col x o = ⟨[⟨mkTag c col.next, nullData h.plane.toNat k, true⟩], none, []⟩ := by rw [filterEff, if_pos hx]

/-- FILTER of a token: what its predicate passes goes out under the stream's next iteration. -/
theorem filterEff_passes (hx : x.null = false) (p : Tok) :
    (filterEff h k c col x (some p)).out = (filterPass h x p).toList.map (fun d => ⟨mkTag c col.next, d, false⟩) ∧
    (filterEff h k c col x (some p)).col = some (if (filterPass h x p).isSome then { col with next := (col.next + 1) % 256 } else col) := by
  simp only [filterEff, hx, Bool.false_eq_true, if_false, Option.bind_some]
  cases filterPass h x p <;> exact ⟨rfl, rfl⟩

theorem filterPass_null (hp : p.null = true) : filterPass h x p = none := by rw [filterPass, if_pos hp]

theorem filterPass_scalar (hp : p.null = false) (h0 : h.plane = 0) :
    filterPass h x p = if gateScalar h.pmode (p.scalar.getLsbD 0) then some x.data else none := by
  rw [filterPass, if_neg (by simp [hp]), if_pos h0]

theorem filterPass_wide (hp : p.null = false) (h3 : h.plane = 3) :
    filterPass h x p = if (gateLanes h.pmode p).getLsbD 0 then some x.data else none := by
  rw [filterPass, if_neg (by simp [hp]), if_neg (by simp [h3]), if_pos h3]

theorem filterPass_lanes {bs : List Vec} {m : BitVec 16} (hp : p.null = false) (hv : h.plane = 1 ∨ h.plane = 2) (hm : ¬h.pmode = 0)
    (hd : x.data = .beats bs m) : let g := gateLanes h.pmode p
    filterPass h x p = if m &&& g = 0 then none
      else some (.beats (bs.zipIdx.map fun e => Vec.mk fun l => if g.getLsbD l then Vec.lane e.1 l else Vec.lane (optBeat (some x) e.2) l) (m &&& g)) := by
  have h0 : ¬h.plane = 0 := by rcases hv with hv | hv <;> simp [hv]
  have h3 : ¬h.plane = 3 := by rcases hv with hv | hv <;> simp [hv]
  simp only [filterPass, hp, h0, h3, hd, Bool.false_eq_true, if_false, laneGate, if_neg hm]

/-- A null token makes COMPACT give out what its buffer holds, and then itself. -/
theorem compactEff_null (hx : x.null = true) : (compactEff h k c col x).col = none ∧ (compactEff h k c col x).out.getLast? =
    some ⟨mkTag c ((col.next + if col.buf = [] then 0 else 1) % 256), nullData h.plane.toNat k, true⟩ := by
  simp only [compactEff, hx, if_true, List.getLast?_concat, true_and]
  split <;> rfl

theorem compactEff_scalar (hx : x.null = false) (h0 : h.plane = 0) :
    compactEff h k c col x = ⟨[⟨mkTag c col.next, x.data, false⟩], some { col with next := (col.next + 1) % 256 }, []⟩ := by
  simp only [compactEff, hx, h0, Bool.false_eq_true, if_false, decide_true, Bool.true_or, if_true]

/-- Without a count a null token makes ACCUM give out its sum. -/
theorem accumEff_null (hf : f.count = 0) (hx : x.null = true) : accumEff f plane k rmode tag col x =
    ⟨[⟨tag, if col.terms = 0 then accIdent f plane k else col.acc, false⟩], none, []⟩ := by
  simp only [accumEff, hf, hx, decide_true, Bool.and_self, if_true]

/-- The term that fills the count makes ACCUM give out its sum. -/
theorem accumEff_full (hf : ¬f.count = 0) (hn : col.terms + 1 = f.count.toNat) :
    (accumEff f plane k rmode tag col x).col = none ∧ (accumEff f plane k rmode tag col x).out.length = 1 := by
  simp only [accumEff, hf, hn, decide_false, Bool.false_and, Bool.false_eq_true, if_false, Bool.not_false, decide_true, Bool.and_self, if_true,
    List.length_singleton, and_self]

/-- Any other term is counted and kept. -/
theorem accumEff_counts (hf : ¬f.count = 0) (hn : ¬col.terms + 1 = f.count.toNat) :
    (accumEff f plane k rmode tag col x).out = [] ∧ (accumEff f plane k rmode tag col x).col.map (fun y => y.terms) = some (col.terms + 1) := by
  simp only [accumEff, hf, hn, decide_false, Bool.false_and, Bool.and_false, Bool.false_eq_true, if_false, Option.map_some, and_self]

end

end Sys2Proof.Machine

open Sys2Proof Sys2Proof.Machine

/-- Settles O25: STEER sends out what its predicate parts, the ordered forms put into the pending state what they take, and each effect of a commit is
read off its case. -/
theorem streamForms : Obligations.StreamForms := by
  refine ⟨fun f s c => ⟨fun tg cl x p h hl hp hx hn => ?steer, fun tg cl x p h hl hp hn => ?steerNull, fun ha hr x hl =>
    ⟨fun h hc => ?accum, fun h hc => ?filter, fun h hc => ?compact, fun y hy h hc => ⟨fun hx => ?mergeNull, fun hx hn => ?mergeOfNull,
      fun a b m n hv hx hn hnr hda hdb => ?mergeBeats, fun hd hx hn => ?mergeScalar⟩⟩⟩,
    fun f k c rmode tag col x => ⟨fun hx => ?effNull, fun hx h0 => ?compactScalar, fun hx p hp => ?filterNull, fun hx p hp => ?filterPasses,
      fun hf => ⟨fun hn => accumEff_full hf hn, fun hn => accumEff_counts hf hn⟩⟩⟩
  case steer =>
    have hpl : c.h.plane = f.h.plane := congrArg Hdr.plane h.fires.hdr
    rw [← formDraw_passing (i := .steer f) (by simp)] at h ⊢
    rw [execSteer_steers hl hp hx hn h]
    by_cases hw : c.h.plane = 0 ∨ c.h.plane = 3
    · rw [steerOuts_whole hl hp hw]
      simp only [steersTrue, ← hpl, if_pos hw]
      cases x.data <;> split <;> split <;> rfl
    · cases hd : x.data with
      | scalar w => rw [steerOuts_scalar hl hp hw hd]; simp only [← hpl, if_neg hw]
      | beats bs m => rw [steerOuts_lanes hl hp hw hd]; simp only [← hpl, if_neg hw]
  case steerNull =>
    rw [← formDraw_passing (i := .steer f) (by simp)] at h ⊢
    exact execSteer_null hl hp hn h
  case accum =>
    rw [← formDraw_combining (i := .accum f) (by simp)] at hc ⊢
    exact orderedForm_left ha hr h hc hl
  case filter =>
    rw [← formDraw_passing (i := .filter f) (by simp)] at hc ⊢
    exact orderedForm_left ha hr h hc hl
  case compact =>
    rw [← formDraw_passing (i := .compact f) (by simp)] at hc ⊢
    exact orderedForm_left ha hr h hc hl
  case mergeNull =>
    rw [← formDraw_passing (i := .merge f) (by simp)] at hc ⊢
    rw [execMerge_eq]
    exact orderedForm_pends ha hr h hc (mergeTake_null hl hy hx)
  case mergeOfNull =>
    rw [← formDraw_passing (i := .merge f) (by simp)] at hc ⊢
    rw [execMerge_eq]
    exact orderedForm_pends ha hr h hc (mergeTake_of_null hl hy hx hn)
  case mergeBeats =>
    rw [← formDraw_passing (i := .merge f) (by simp)] at hc ⊢
    rw [execMerge_eq]
    have h3 : ¬c.h.plane = 3 := by
      rw [show c.h.plane = f.h.plane from congrArg Hdr.plane h.hdr]
      rcases hv with hv | hv <;> simp [hv]
    have htake := mergeTake_beats hl hy h3 hx hn hnr hda hdb
    by_cases hmn : m &&& n = 0
    · rw [if_pos hmn] at htake
      simp only [if_pos hmn]
      exact orderedForm_pends ha hr h hc htake
    · rw [if_neg hmn] at htake
      simp only [if_neg hmn]
      exact orderedForm_faults ha hr h hc htake
  case mergeScalar =>
    rw [← formDraw_passing (i := .merge f) (by simp)] at hc ⊢
    rw [execMerge_eq]
    have hpl : c.h.plane = f.h.plane := congrArg Hdr.plane h.hdr
    exact orderedForm_faults ha hr h hc (mergeTake_scalar hl hy (hd.imp hpl.trans And.right) hx hn)
  case effNull =>
    rw [filterEff_null hx]
    obtain ⟨hcol, hlast⟩ := compactEff_null (h := f.h) (k := k) (c := c) (col := col) hx
    refine ⟨rfl, rfl, hcol, hlast, fun hf => ?_⟩
    rw [accumEff_null hf hx]
    exact ⟨rfl, rfl⟩
  case compactScalar =>
    rw [compactEff_scalar hx h0]
    exact ⟨rfl, rfl⟩
  case filterNull =>
    obtain ⟨hout, hcol⟩ := filterEff_passes (h := f.h) (k := k) (c := c) (col := col) hx p
    rw [filterPass_null hp] at hout hcol
    exact ⟨hout, hcol⟩
  case filterPasses =>
    have heff := filterEff_passes (h := f.h) (k := k) (c := c) (col := col) hx p
    refine ⟨fun h0 => ?_, fun h3 => ?_, fun bs m hv hm hd => ?_⟩
    · rwa [filterPass_scalar hp h0] at heff
    · rwa [filterPass_wide hp h3] at heff
    · rwa [filterPass_lanes hp hv hm hd] at heff

end

section
/-! PROOFS. The accumulator tiles (12 R229, R237, R238; 24 R403): what a cell, a checksum and a row read as after a write, and the tile forms. -/

namespace Sys2Proof.Machine
open Sys2Proof.Bits

/-! ## Cells and checksums -/

section
variable {t : Tile} {i j : Nat} {x : Lane}

/-- A row agrees with its checksum when the checksum is the sum of the row's cells. -/
theorem Tile.rowBad_eq_false (t : Tile) (k : Nat) : t.rowBad k = false ↔ ∑ l ∈ Finset.range 32, t.cell k l = Sparse.get 0 t.ck k := by
  have hsum : ∀ n, (List.range n).foldl (fun a l => a + t.cell k l) 0 = ∑ l ∈ Finset.range n, t.cell k l := fun n => by
    induction n with
    | zero => rfl
    | succ n ih => rw [List.range_succ, List.foldl_concat, ih, Finset.sum_range_succ]
  rw [← hsum, Tile.rowBad, Bool.not_eq_false', decide_eq_true_eq]
  rfl

theorem Tile.cell_setCell (hw : Sparse.wf 0 t.cells = true) (hj : j < 32) {k l : Nat} (hl : l < 32) :
    (t.setCell i j x).cell k l = if k = i ∧ l = j then x else t.cell k l := by
  have hkey : 32 * k + l = 32 * i + j ↔ k = i ∧ l = j := by omega
  simp only [Tile.cell, Tile.setCell, Sparse.get_put _ _ _ hw, hkey]

theorem Tile.ck_setCell (hw : Sparse.wf 0 t.ck = true) (k : Nat) :
    Sparse.get 0 (t.setCell i j x).ck k = if k = i then Sparse.get 0 t.ck i - t.cell i j + x else Sparse.get 0 t.ck k :=
  Sparse.get_put _ _ _ hw

/-- Writing a cell exchanges its old value for the new one in its row's sum. -/
theorem Tile.sum_setCell (hw : Sparse.wf 0 t.cells = true) (hj : j < 32) :
    ∑ l ∈ Finset.range 32, (t.setCell i j x).cell i l = ∑ l ∈ Finset.range 32, t.cell i l - t.cell i j + x := by
  have hmem : j ∈ Finset.range 32 := Finset.mem_range.2 hj
  have hrest : ∑ l ∈ (Finset.range 32).erase j, (t.setCell i j x).cell i l = ∑ l ∈ (Finset.range 32).erase j, t.cell i l :=
    Finset.sum_congr rfl fun l hl => by
      obtain ⟨hne, hl⟩ := Finset.mem_erase.1 hl
      rw [cell_setCell hw hj (Finset.mem_range.1 hl), if_neg fun h => hne h.2]
  rw [← Finset.sum_erase_add _ _ hmem, hrest, cell_setCell hw hj hj, if_pos ⟨rfl, rfl⟩, ← Finset.sum_erase_add _ _ hmem, add_sub_cancel_right]

/-- Writing a cell keeps every row in agreement with its checksum. -/
theorem Tile.rowBad_setCell (hw : Sparse.wf 0 t.cells = true) (hk : Sparse.wf 0 t.ck = true) (hj : j < 32) {k : Nat} (h : t.rowBad k = false) :
    (t.setCell i j x).rowBad k = false := by
  rw [rowBad_eq_false] at h ⊢
  rw [ck_setCell hk]
  by_cases he : k = i
  · subst he
    rw [if_pos rfl, sum_setCell hw hj, h]
  · rw [if_neg he, ← h]
    exact Finset.sum_congr rfl fun l hl => by rw [cell_setCell hw hj (Finset.mem_range.1 hl), if_neg fun h => he h.1]

theorem Tile.cells_trans (t : Tile) : t.trans.cells = (List.range 1024).foldl (fun m n => Sparse.put 0 m n (t.cell (n % 32) (n / 32))) [] := by
  rw [Tile.trans]

theorem Tile.cell_trans (t : Tile) (hi : i < 32) (hj : j < 32) : t.trans.cell i j = t.cell j i := by
  have hmem : 32 * i + j ∈ List.range 1024 := List.mem_range.2 (by omega)
  rw [Tile.cell, cells_trans, Sparse.get_foldl_put_of_mem (key := fun n => n) (val := fun n => t.cell (n % 32) (n / 32)) rfl hmem
    (List.pairwise_of_forall fun _ _ _ hz => congrArg (fun n => t.cell (n % 32) (n / 32)) hz)]
  exact congrArg₂ t.cell (by omega) (by omega)

end

/-! ## The tile forms -/

/-- What ACCRD delivers of lane `l` of the half row that it reads, with the flags raised. -/
def accrdOut (f : FmtX) (c : Fx) (l : Nat) : Nat × Num.Flags :=
  let t := c.nd.tile f.acc.toNat
  let rm := if field f.low 51 3 = 6 then c.m.snap.rmode.toNat % 8 else field f.low 51 3
  Num.cvt 32 (field f.low 54 4) (if t.ty = .int32 then 3 else 9) rm (field f.low 50 1 = 1) (t.cell (field f.low 59 5) (16 * field f.low 58 1 + l)).toNat

section
variable {i : Instr} {f : FmtX} {s : State} {c : Fx} {tg : Tag} {cl : Option Claim} {g : BitVec 16} (hm : c.mode false = .go g)
include hm

theorem tileForm_open {a : Act} (h : Goes i s c 24 tg cl) :
    tileForm i a s = .next (c.emitted 24 tg cl (triggerData c) false (addAct c.n c.ut c.q c.tag a)) := by
  rw [tileForm, fire_fires h.fires]
  simp only [hm]
  exact h.run_emitPlan ..

theorem execAccrd_armed {n : Nat} (ha : (c.nd.tile f.acc.toNat).arm = .armed n) (h : Fires (.accrd f) s c) : exec (.accrd f) s = .next s := by
  show execAccrd f s = _
  rw [execAccrd, fire_fires h]
  simp only [accrdPlan, hm, ha, if_true, Fx.run_wait, h.state]

/-- An open ACCRD of a tile that is not armed reads at once: a row that disagrees with its checksum, or the row's half. -/
theorem accrdPlan_unarmed (ha : ∀ n, ¬(c.nd.tile f.acc.toNat).arm = .armed n) : accrdPlan f c =
    if (c.nd.tile f.acc.toNat).rowBad (field f.low 59 5) then
      .act 24 (.seq (report c.n (mkFault c.nd 0x72 c.q c.tag 0 (BitVec.ofNat 64 (f.acc.toNat + 2 ^ field f.low 59 5 * 2 ^ 32))) (some 1)) (killTask c.tid))
    else c.finish 24 ((List.range 16).map fun l => (l, 0, (accrdOut f c l).2))
      (.beats [(List.range 16).map fun l => BitVec.ofNat 32 (accrdOut f c l).1] 0xFFFF) := by
  -- `ha` puts the match on the tile's arm into its last case.
  simp only [accrdPlan, hm, Bool.false_eq_true, if_false, zipIdx_map_range, List.map_map, Function.comp_def, field_lowest]
  rfl

theorem execAccrd_mismatch (ha : ∀ n, ¬(c.nd.tile f.acc.toNat).arm = .armed n) (hb : (c.nd.tile f.acc.toNat).rowBad (field f.low 59 5) = true)
    (h : Fires (.accrd f) s c) (hc : Covers c 24) : exec (.accrd f) s = .next (c.acted 24 (.seq
      (report c.n (mkFault c.nd 0x72 c.q c.tag 0 (BitVec.ofNat 64 (f.acc.toNat + 2 ^ field f.low 59 5 * 2 ^ 32))) (some 1)) (killTask c.tid))) := by
  show execAccrd f s = _
  rw [execAccrd, fire_fires h, accrdPlan_unarmed hm ha, if_pos hb]
  exact Fx.run_act hc

theorem execAccrd_reads (ha : ∀ n, ¬(c.nd.tile f.acc.toNat).arm = .armed n) (hb : (c.nd.tile f.acc.toNat).rowBad (field f.low 59 5) = false)
    (h : Goes (.accrd f) s c 24 tg cl) :
    let flags := (List.range 16).map fun l => (l, 0, (accrdOut f c l).2)
    exec (.accrd f) s = .next (if traps c.h flags = true then c.faulted 24 0x20 0 (trapInfo (c.h.plane = 2) flags)
      else c.emitted 24 tg cl (.beats [(List.range 16).map fun l => BitVec.ofNat 32 (accrdOut f c l).1] 0xFFFF) false (noteFlags c flags)) := by
  intro flags
  show execAccrd f s = _
  rw [execAccrd, fire_fires h.fires, accrdPlan_unarmed hm ha, if_neg (ne_true_of_eq_false hb)]
  exact Fx.run_finish h.tags h.covers

theorem execAccchk_open (h : Goes (.accchk f) s c 24 tg cl) :
    let bad := (c.nd.tile f.acc.toNat).badRows
    exec (.accchk f) s = .next (c.emitted 24 tg cl (.beats [Vec.mk fun l => if l = 0 then BitVec.ofNat 32 bad else 0] 0xFFFF) false
      (Prog.when (!(bad = 0)) (report c.n (mkFault c.nd 0x72 c.q c.tag 0 (BitVec.ofNat 64 (f.acc.toNat + bad * 2 ^ 32))) (some 0)))) := by
  intro bad
  show execAccchk f s = _
  rw [execAccchk, fire_fires h.fires]
  simp only [hm]
  exact h.run_emitPlan ..

end

end Sys2Proof.Machine

open Sys2Proof Sys2Proof.Machine Sys2Proof.Bits

/-- Settles O43: each tile form is its frame, ACCRD by the arm and the checksum that it finds; a cell that is written moves its row's sum and checksum by
the same difference. -/
theorem tileForms : Obligations.TileForms := by
  refine ⟨fun f s c tg cl g hm => ⟨tileForm_open hm, ?arm, tileForm_open hm, tileForm_open hm, fun ⟨n, ha⟩ h => execAccrd_armed hm ha h,
      fun ha => ⟨fun hb h hc => execAccrd_mismatch hm ha hb h hc, fun hb h => execAccrd_reads hm ha hb h⟩, fun h => execAccchk_open hm h⟩,
    fun t i j x hi hj hw hk hr => ⟨fun r => Tile.rowBad_setCell hw hk hj (hr r), ?same, fun k l _ hl hne => ?other, Tile.cell_trans t hi hj⟩⟩
  case arm =>
    rw [← field_lowest]
    exact tileForm_open hm
  case same => rw [Tile.cell_setCell hw hj hj, if_pos ⟨rfl, rfl⟩]
  case other => rw [Tile.cell_setCell hw hj hl, if_neg hne]

end

section
/-! PROOFS. MMAT and TFETCH where their operands can be read (12 R231–R233, R239, R242). -/

namespace Sys2Proof.Machine
open Sys2Proof.Bits

/-- An operand that a firing reads at once: a pin's rows or elements of memory (12 R231, R239). -/
def MatSrc.Readable (a : MatSrc) : Prop := (∃ rs, a = .rows rs) ∨ ∃ es, a = .mem es

variable {f : FmtX} {s : State} {c : Fx} {g : BitVec 16}

/-! ## MMAT -/

theorem formDraw_mmat (f : FmtX) (k : Nat) :
    formDraw (.mmat f) k = 720 * (f.ksteps.toNat + 1) * (if f.pstride = 0 then 1 else (k + 1) * (k + 2) / 2) := by
  simp [formDraw, Instr.body]

/-- An open MMAT of two operands that can be read. -/
theorem mmatPlan_readable {a b : MatSrc} (hm : c.mode false = .go g) :
    let jet := !decide (f.pstride = 0)
    let np := if jet then c.k + 1 else 1
    matSrc c f.acc.toNat (f.ksteps.toNat + 1) f.pstride.toNat np (field f.low 14 2) c.l = a →
    matSrc c f.acc.toNat (f.ksteps.toNat + 1) f.pstride.toNat np (field f.low 12 2) c.r = b → a.Readable → b.Readable →
    mmatPlan f c = mmatGo f c (formDraw (.mmat f) c.k) np jet a b := by
  dsimp only
  intro ha hb hra hrb
  simp only [mmatPlan, hm, ha, hb]
  rcases hra with ⟨x, rfl⟩ | ⟨x, rfl⟩ <;> rcases hrb with ⟨y, rfl⟩ | ⟨y, rfl⟩ <;> rfl

/-- Operands of one tag each, whose tags the unit multiplies and no row of which crosses a code half, are read, and their product pends. -/
theorem mmatGo_pends {a b : MatSrc} {ta tb : BitVec 4} {ty : TileTy} {draw np : Nat} {jet : Bool} :
    let ks := f.ksteps.toNat + 1
    let ra := srcRows c.s c.nd (4 * ks) a
    let rb := srcRows c.s c.nd (4 * ks) b
    let es := a.elems ++ b.elems
    readGate c draw (missing c.nd es) = none → halfCross c.s c.nd (4 * ks) es = false →
    oneTag ra = some ta → oneTag rb = some tb → pairTy ta tb jet = some ty →
    mmatGo f c draw np jet a b = .act draw (.seq (noteXlate c false es) (readLines c es
      (addAct c.n c.ut c.q c.tag (.mmat f.acc.toNat ks (np - 1) ⟨ta, ra⟩ ⟨tb, rb⟩ jet c.h)))) := by
  dsimp only
  intro hgate hhalf hta htb hty
  simp only [mmatGo, hgate, hhalf, hta, htb, hty, Bool.false_eq_true, if_false]

/-! ## TFETCH -/

/-- An open TFETCH whose rows can be read. -/
theorem tfetchPlan_readable {d : Desc} {es : List Elem} {tg : Tag} {cl : Option Claim} (hm : c.mode false = .go g) (hd : descOf (optBeat c.l 0) = some d)
    (hes : memRows c 0 64 d ((List.range (field f.low 48 14 + 1)).map fun q => (q, 0)) 0 = .mem es)
    (hgate : readGate c (tfetchDraw c.nd es []) (missing c.nd es) = none) (hhalf : halfCross c.s c.nd 64 es = false) (ht : Tags c tg cl) :
    tfetchPlan f c = .act (tfetchDraw c.nd es []) (readLines c es (.all [.all [noteXlate c false es,
      addAct c.n c.ut c.q c.tag (.tfetch (field f.low 62 2) (srcRows c.s c.nd 64 (.mem es)))], takeClaim c.tid c.n c.ut cl,
      c.emit tg (triggerData c) false])) := by
  simp only [tfetchPlan, hm, hd, hes, MatSrc.elems, hgate, hhalf, Fx.emitPlan_tags ht, Bool.false_eq_true, if_false]
  rfl

end Sys2Proof.Machine

open Sys2Proof Sys2Proof.Machine

/-- Settles O44: both operands readable, MMAT reads and its product pends; TFETCH, its rows readable, reads and emits under its tag. -/
theorem matrixIssues : Obligations.MatrixIssues := by
  refine ⟨fun f s c g a b ta tb ty hm => ?mmat, fun f s c g tg cl d es hm hd hes hgate hhalf h => ?tfetch⟩
  case mmat =>
    intro ks jet np draw ra rb es ha hb hra hrb hgate hhalf hta htb hty h hc
    have hplan : mmatPlan f c = mmatGo f c draw np jet a b := by
      rw [show draw = formDraw (.mmat f) c.k from (formDraw_mmat f c.k).symm]
      exact mmatPlan_readable hm ha hb hra hrb
    show execMmat f s = _
    rw [execMmat, fire_fires h, hplan, mmatGo_pends hgate hhalf hta htb hty]
    exact Fx.run_act hc
  case tfetch =>
    show execTfetch f s = _
    rw [execTfetch, fire_fires h.fires, tfetchPlan_readable hm hd hes hgate hhalf h.tags]
    exact h.run_act _

end

section
/-! PROOFS. Loads, stores and scratchpad accesses at their firing (13 R243–R253, R269): what an open form plans, and where an address stops it. -/

namespace Sys2Proof.Machine
open Sys2Proof.Bits

/-- What a form plans once its elements are checked (13 R246; 23 R376): it is held on their pages, faults, or goes on with them. -/
def Checked.plan (c : Fx) (write : Bool) (draw : Nat) (go : List Elem → Plan) : Checked → Plan
  | .held vas => .hold (holdPages c.n vas write c.q c.tag)
  | .fault code reason addr => .fault draw code addr (BitVec.ofNat 64 reason)
  | .ok es => go es

variable {i : Instr} {f : FmtM} {s : State} {c : Fx} {g : BitVec 16} {tg : Tag} {cl : Option Claim}

theorem noLanes_iff (hh : c.h = f.h) : noLanes i c g = true ↔ ¬f.h.plane = 0 ∧ ¬f.h.pmode = 0 ∧ activeLanes i c g = 0 := by
  simp [noLanes, hh, and_assoc]

/-- A scalar form has the one element of its address. -/
theorem formLocs_scalar (hp : c.h.plane = 0) : formLocs i f c g = [⟨0, 0, relOf c f⟩] := by
  simp [formLocs, locs, hp]

/-- The elements of a plain load or store, checked. -/
def Fx.checkedAs (c : Fx) (i : Instr) (f : FmtM) (nd : Need) (g : BitVec 16) : Checked :=
  checkLocs c nd (f.hv = 1) (isStream i f) (c.rein f.lsid.toNat f.hreg.toNat) (tyBytes f.ty) (formLocs i f c g)

/-! ## Loads (13 R250) -/

/-- A release or an acquire-release may issue where everything before it has been performed (05 R92). -/
theorem releaseReady_iff : releaseReady f c = true ↔
    c.nd.quiet = true ∧ earlierPerformed c = true ∧ lowerReads c f.lsid.toNat = true ∧ (¬f.scope = 5 ∨ mirrorPending c.s c.n = false) := by
  simp [releaseReady, and_assoc]

theorem loadPlan_waits (h : f.ord = 3) (hr : ¬releaseReady f c = true) : loadPlan i f c g = .wait := by
  simp [loadPlan, h, hr]

section
variable (hr : ¬f.ord = 3 ∨ releaseReady f c = true)
include hr

theorem load_not_held : (decide (f.ord = 3) && !releaseReady f c) = false := by
  rcases hr with h | h
  · rw [decide_eq_false h, Bool.false_and]
  · rw [h, Bool.not_true, Bool.and_false]

theorem loadPlan_noLane (hn : noLanes i c g = true) : loadPlan i f c g = .act (loadDraw f c []) (c.resolve f.lsid.toNat .done none) := by
  simp only [loadPlan, load_not_held hr, hn, Bool.false_eq_true, if_false, if_true]
  rfl

/-- A load that nothing holds and that has an element goes on with its checked elements. -/
theorem loadPlan_checked (hn : ¬noLanes i c g = true) : loadPlan i f c g = (c.checkedAs i f (loadNeed (tyBytes f.ty)) g).plan c false (missDraw c)
    fun es => .act (loadDraw f c es) (issueLoad i c f (isStream i f) es none (mayUseL1 f)) := by
  simp only [loadPlan, load_not_held hr, hn, Bool.false_eq_true, if_false, Fx.checkedAs]
  split <;> simp only [*, Checked.plan]

end

/-- LD, LDS and LDG fire through the frame of the LSID holders. -/
theorem exec_load (hi : i ∈ [Instr.ld f, .lds f, .ldg f]) : i.hdr = f.h ∧ exec i = memForm i f false (loadPlan i f) := by
  simp only [List.mem_cons, List.not_mem_nil, or_false] at hi
  rcases hi with rfl | rfl | rfl <;> exact ⟨rfl, rfl⟩

/-! ## Stores (13 R251) -/

theorem storePlan_checked : storePlan i f c g = (c.checkedAs i f (storeNeed (tyBytes f.ty)) g).plan c true
    (jetLin c.h c.k * (if c.h.plane = 0 then 48 else 128)) fun es =>
      c.emitPlan (jetLin c.h c.k * (if c.h.plane = 0 then 48 else 128)) (leftScalar c) false (.all [noteXlate c (isStream i f) es,
        c.resolve f.lsid.toNat .pending (some (.store f.lsid.toNat f.ord f.scope (.bytes (es.map fun e =>
          (e, storeBytes c (if i.opc = 0x185 then c.p else c.r) (tyBytes f.ty) e.lane e.coef)) (f.low.extractLsb' 29 2))))]) := by
  simp only [storePlan, Fx.checkedAs]
  split <;> simp only [*, Checked.plan] <;> rfl

/-- The bytes of an element, of the scalar or of a lane, whichever the plane carries. -/
theorem storeBytes_eq (d : Option Tok) (w l j : Nat) :
    storeBytes c d w l j = toBytes w (if c.h.plane = 0 then (optScalar d).toNat else (Vec.lane (optBeat d j) l).toNat) := by
  unfold storeBytes
  split <;> rfl

/-- An open store whose elements pass makes their bytes pending and emits. -/
theorem store_pends {dp : Bool} {es : List Elem} (ho : MemOpen i f c dp g) (hh : c.h = f.h) (he : c.checkedAs i f (storeNeed (tyBytes f.ty)) g = .ok es)
    (h : Goes i s c ((if f.h.plane = 2 then c.k + 1 else 1) * (if f.h.plane = 0 then 48 else 128)) tg cl) :
    memForm i f dp (storePlan i f) s = .next (c.emitted ((if f.h.plane = 2 then c.k + 1 else 1) * (if f.h.plane = 0 then 48 else 128)) tg cl
      (leftScalar c) false (.all [noteXlate c (isStream i f) es,
        c.resolve f.lsid.toNat .pending (some (.store f.lsid.toNat f.ord f.scope (.bytes (es.map fun e =>
          (e, toBytes (tyBytes f.ty) (if c.h.plane = 0 then (optScalar (if i.opc = 0x185 then c.p else c.r)).toNat
            else (Vec.lane (optBeat (if i.opc = 0x185 then c.p else c.r) e.coef) e.lane).toNat))) (f.low.extractLsb' 29 2))))])) := by
  rw [memForm_open h.fires ho, storePlan_checked, he]
  simp only [Checked.plan, storeBytes_eq, jetLin, hh]
  exact h.run_emitPlan _ _ _

end Sys2Proof.Machine

open Sys2Proof Sys2Proof.Machine

/-- Settles O35: the readiness of a release and the lanes that the gate leaves decide which of its three plans an open load has. -/
theorem loadsIssue : Obligations.LoadsIssue := by
  intro f s c g es i hi ho hf ready noLane l1 figure draw
  obtain ⟨hhdr, hexec⟩ := exec_load hi
  have hh : c.h = f.h := by rw [hf.hdr, hhdr]
  have hready : ready ↔ ¬f.ord = 3 ∨ releaseReady f c = true := by rw [releaseReady_iff]
  have hlane : noLane ↔ noLanes i c g = true := (noLanes_iff hh).symm
  have hrun : exec i s = c.run (loadPlan i f c g) := by rw [hexec, memForm_open hf ho]
  have hfigure : ∀ es, loadDraw f c es = figure (l1 && allL1 c.nd es) := fun es => by rw [loadDraw, hh]; rfl
  refine ⟨fun hr => ?_, fun hr hn hc => ?_, fun hr hn hx hc => ?_⟩
  · rw [hready, not_or, not_not] at hr
    rw [hrun, loadPlan_waits hr.1 hr.2, Fx.run_wait, hf.state]
  · have hd : loadDraw f c [] = figure l1 := by rw [hfigure]; simp [allL1]
    rw [hrun, loadPlan_noLane (hready.1 hr) (hlane.1 hn), hd, Fx.run_act hc, Fx.acted]
  · rw [hrun, loadPlan_checked (hready.1 hr) (hlane.not.1 hn), Fx.checkedAs, hx, Checked.plan, hfigure]
    exact Fx.run_act hc

/-- Settles O36: an open store whose elements pass runs the one plan of ST, STS and STG; STG alone takes slot 11 as its data. -/
theorem storesPend : Obligations.StoresPend := by
  intro f s c g tg cl es draw pends
  exact ⟨fun ho he h => store_pends ho h.fires.hdr he h, fun ho he h => store_pends ho h.fires.hdr he h, fun ho he h => store_pends ho h.fires.hdr he h⟩

end

section
/-! PROOFS. The checks of an address, element by element, and the rein forms that ask what their source does not allow (13 R243, R246, R266; 04 R86). -/

namespace Sys2Proof.Machine
open Sys2Proof.Bits

variable {i : Instr} {f : FmtM} {s : State} {c : Fx} {g : BitVec 16}

/-! ## One element through no rein (13 R246, R253) -/

section
variable {nd : Need} {stream : Bool} {r : Quad} {w : Nat} {l : Loc}

theorem checkLoc_misaligned (h : ¬l.rel % nd.align = 0) : checkLoc c nd false stream r w l = .fault 0x30 1 l.rel := by
  simp [checkLoc, preCheck, h]

theorem checkLoc_outside (h : l.rel % nd.align = 0) (ho : l.rel < 0 ∨ 2 ^ 57 ≤ l.rel) : checkLoc c nd false stream r w l = .fault 0x30 6 l.rel := by
  have ho' : (decide (l.rel < 0) || decide (2 ^ 57 ≤ l.rel)) = true := by simpa using ho
  simp only [checkLoc, preCheck, h, ho', Bool.false_and, Bool.false_eq_true, if_false, if_true, decide_true, Bool.not_true]

theorem checkLoc_unmapped (h : l.rel % nd.align = 0) (h0 : 0 ≤ l.rel) (h1 : l.rel < 2 ^ 57) (hx : c.xlate stream l.rel.toNat = .fault) :
    checkLoc c nd false stream r w l = .held l.rel.toNat := by
  have hin : (decide (l.rel < 0) || decide (2 ^ 57 ≤ l.rel)) = false := by
    rw [decide_eq_false (by omega), decide_eq_false (by omega), Bool.or_self]
  simp only [checkLoc, preCheck, h, hin, hx, Bool.false_and, Bool.false_eq_true, if_false, decide_true, Bool.not_true]

theorem checkLocs_fault {code reason : Nat} {va : Int} (h : checkLoc c nd false stream r w l = .fault code reason va) :
    checkLocs c nd false stream r w [l] = .fault code reason (BitVec.ofInt 64 va) := by
  simp [checkLocs, h]

theorem checkLocs_held {va : Nat} (h : checkLoc c nd false stream r w l = .held va) : checkLocs c nd false stream r w [l] = .held [va] := by
  simp [checkLocs, h]

end

/-! ## A scalar load or store through no rein -/

/-- What stops a scalar load or store of no rein: an address that is no multiple of its width, one with a bit above 56, or an unmapped page. -/
structure ScalarStops (s : State) (c : Fx) (i : Instr) (f : FmtM) (write : Bool) (o : Host.Outcome State Fault Refusal) : Prop where
  misaligned : ¬relOf c f % tyBytes f.ty = 0 → o = .next (c.faulted 48 0x30 (BitVec.ofInt 64 (relOf c f)) 1)
  outside : relOf c f % tyBytes f.ty = 0 → (relOf c f < 0 ∨ 2 ^ 57 ≤ relOf c f) → o = .next (c.faulted 48 0x30 (BitVec.ofInt 64 (relOf c f)) 6)
  unmapped : relOf c f % tyBytes f.ty = 0 → 0 ≤ relOf c f → relOf c f < 2 ^ 57 → c.xlate (isStream i f) (relOf c f).toNat = .fault →
    o = .next ((holdPage c.n (relOf c f).toNat write false false c.q c.tag).run s)

/-- A form that plans what its one checked element comes to is stopped by its address alone. -/
theorem scalarStops_of_plan {nd : Need} {write : Bool} {go : List Elem → Plan} (hp : c.h.plane = 0) (hv : f.hv = 0) (hs : c.s = s) (hc : Covers c 48)
    (ha : nd.align = tyBytes f.ty) : ScalarStops s c i f write (c.run ((c.checkedAs i f nd g).plan c write 48 go)) := by
  have hno : decide (f.hv = 1) = false := by rw [hv]; rfl
  have hone : c.checkedAs i f nd g =
      checkLocs c nd false (isStream i f) (c.rein f.lsid.toNat f.hreg.toNat) (tyBytes f.ty) [⟨0, 0, relOf c f⟩] := by
    rw [Fx.checkedAs, hno, formLocs_scalar hp]
  rw [hone]
  refine ⟨fun h => ?_, fun h ho => ?_, fun h h0 h1 hx => ?_⟩
  · rw [checkLocs_fault (checkLoc_misaligned (l := ⟨0, 0, relOf c f⟩) (by rwa [ha])), Checked.plan]
    exact Fx.run_fault hc
  · rw [checkLocs_fault (checkLoc_outside (l := ⟨0, 0, relOf c f⟩) (by rwa [ha]) ho), Checked.plan]
    exact Fx.run_fault hc
  · rw [checkLocs_held (checkLoc_unmapped (l := ⟨0, 0, relOf c f⟩) (by rwa [ha]) h0 h1 hx), Checked.plan, Fx.run_hold, hs]
    rfl

theorem ld_scalarStops (ho : MemOpen (.ld f) f c false g) (hf : Fires (.ld f) s c) (hc : Covers c 48) (hp : f.h.plane = 0) (hv : f.hv = 0)
    (hr : ¬f.ord = 3 ∨ releaseReady f c = true) : ScalarStops s c (.ld f) f false (exec (.ld f) s) := by
  have hh : c.h.plane = 0 := by rw [hf.hdr]; exact hp
  have hn : ¬noLanes (.ld f) c g = true := by simp [noLanes, hh]
  have hd : missDraw c = 48 := by simp [missDraw, jetLin, hh]
  have hrun : exec (.ld f) s = c.run (loadPlan (.ld f) f c g) := memForm_open hf ho
  rw [hrun, loadPlan_checked hr hn, hd]
  exact scalarStops_of_plan hh hv hf.state hc rfl

theorem st_scalarStops (ho : MemOpen (.st f) f c false g) (hf : Fires (.st f) s c) (hc : Covers c 48) (hp : f.h.plane = 0) (hv : f.hv = 0) :
    ScalarStops s c (.st f) f true (exec (.st f) s) := by
  have hh : c.h.plane = 0 := by rw [hf.hdr]; exact hp
  have hd : jetLin c.h c.k * (if c.h.plane = 0 then 48 else 128) = 48 := by simp [jetLin, hh]
  have hrun : exec (.st f) s = c.run (storePlan (.st f) f c g) := memForm_open hf ho
  rw [hrun, storePlan_checked, hd]
  exact scalarStops_of_plan hh hv hf.state hc rfl

/-! ## Rein forms that ask too much (04 R86, R88; 13 R266) -/

theorem numOk_iff (t : Option Tok) : numOk t = true ↔ (optScalar t).toNat < 2 ^ 40 := by
  rw [numOk, field_eq, decide_eq_true_eq]
  omega

theorem numOk_of_le {t : Option Tok} (h : 2 ^ 40 ≤ (optScalar t).toNat) : numOk t = false := by
  rw [← Bool.not_eq_true, numOk_iff]
  omega

theorem reinmkPlan_widens (h : 2 ^ 40 ≤ (optScalar c.l).toNat ∨ 2 ^ 40 ≤ (optScalar c.r).toNat ∨ (optScalar c.r).toNat % 1024 = 1023 ∨
    c.s.arena c.t.asid ((optScalar c.r).toNat % 1024) = none) : reinmkPlan f c = reinWiden c := by
  unfold reinmkPlan
  simp only [field_lowest, Nat.reducePow]
  rcases h with h | h | h | h
  · simp [numOk_of_le h]
  · simp [numOk_of_le h]
  · simp [h]
  · rw [h]
    exact ite_self _

theorem reindupPlan_widens (h : (srcRein c f).getLsbD 98 = false) : reindupPlan f c = reinWiden c := by
  simp only [reindupPlan, bit, h, Bool.not_false, if_true]

theorem reinsplPlan_widens (h : 2 ^ 40 ≤ (optScalar c.l).toNat ∨ (srcRein c f).getLsbD 98 = false ∨ rLen (srcRein c f) < (optScalar c.l).toNat) :
    reinsplPlan f c = reinWiden c := by
  by_cases hx : (optScalar c.l).toNat < 2 ^ 40
  · have hr : (srcRein c f).getLsbD 98 = false ∨ rLen (srcRein c f) < (optScalar c.l).toNat := h.resolve_left (by omega)
    rcases hr with hr | hr
    · simp only [reinsplPlan, bit, hr, Bool.not_false, Bool.or_true, Bool.true_or, if_true]
    · simp [reinsplPlan, num40_of_lt hx, hr]
  · simp [reinsplPlan, numOk_of_le (by omega : 2 ^ 40 ≤ (optScalar c.l).toNat)]

theorem reinnarPlan_widens (h : 2 ^ 40 ≤ (optScalar c.l).toNat ∨ 2 ^ 40 ≤ (optScalar c.r).toNat ∨ (optScalar c.r).toNat < (optScalar c.l).toNat ∨
      ((optScalar c.l).toNat < 2 ^ 40 ∧ (optScalar c.r).toNat < 2 ^ 40 ∧ rLen (srcRein c f) < (optScalar c.r).toNat) ∨
      ¬field f.low 22 4 &&& (15 - rRights (srcRein c f)) = 0) : reinnarPlan f c = reinWiden c := by
  by_cases hx : (optScalar c.l).toNat < 2 ^ 40
  · by_cases hy : (optScalar c.r).toNat < 2 ^ 40
    · rcases h with h | h | h | ⟨-, -, h⟩ | h
      · omega
      · omega
      · simp [reinnarPlan, num40_of_lt hx, num40_of_lt hy, h]
      · simp [reinnarPlan, num40_of_lt hy, h]
      · simp [reinnarPlan, h]
    · simp [reinnarPlan, numOk_of_le (by omega : 2 ^ 40 ≤ (optScalar c.r).toNat)]
  · simp [reinnarPlan, numOk_of_le (by omega : 2 ^ 40 ≤ (optScalar c.l).toNat)]

theorem reinsendPlan_widens (h0 : c.h.t0 = 0) (h : (srcRein c f).getLsbD 99 = false ∨ 2 ^ 35 ≤ (optScalar c.r).toNat) :
    reinsendPlan f c = reinWiden c := by
  unfold reinsendPlan
  simp only [h0, if_true]
  rcases h with h | h
  · simp only [bit, h, Bool.not_false, Bool.true_or, if_true]
  · have hd : ¬field (optScalar c.r) 35 29 = 0 := by rw [field_eq]; omega
    simp [hd]

/-- An open rein form that plans WIDEN draws 64 and faults. -/
theorem memForm_widens {plan : Fx → Plan} (ho : MemOpen i f c false g) (hf : Fires i s c) (hc : Covers c 64) (hp : plan c = reinWiden c) :
    memForm i f false (fun c _ => plan c) s = .next (c.faulted 64 0x32 0 (BitVec.ofNat 64 c.q)) := by
  rw [memForm_open hf ho, hp, reinWiden, Fx.run_fault hc]

end Sys2Proof.Machine

open Sys2Proof Sys2Proof.Machine

/-- Settles O37: the one element of a scalar form is checked in turn, and each rein form's first test is of what it may not ask. -/
theorem addressChecks : Obligations.AddressChecks := by
  constructor
  · intro f s c g hp hv hr va w e he ho hf hc
    have hready : ¬f.ord = 3 ∨ releaseReady f c = true := by
      by_cases h3 : f.ord = 3
      · obtain ⟨hq, he, hl, hm⟩ := hr h3
        exact .inr (releaseReady_iff.2 ⟨hq, he, hl, .inr hm⟩)
      · exact .inl h3
    simp only [List.mem_cons, List.not_mem_nil, or_false] at he
    rcases he with rfl | rfl
    · obtain ⟨h1, h2, h3⟩ := ld_scalarStops ho hf hc hp hv hready
      exact ⟨h1, h2, h3⟩
    · obtain ⟨h1, h2, h3⟩ := st_scalarStops ho hf hc hp hv
      exact ⟨h1, h2, h3⟩
  · intro f s c g hc r x y widens
    refine ⟨fun h ho hf => ?mk, fun h ho hf => ?dup, fun h ho hf => ?spl, fun h ho hf => ?nar, fun h0 h ho hf => ?send⟩
    case mk => exact memForm_widens ho hf hc (reinmkPlan_widens h)
    case dup => exact memForm_widens ho hf hc (reindupPlan_widens h)
    case spl => exact memForm_widens ho hf hc (reinsplPlan_widens h)
    case nar => exact memForm_widens ho hf hc (reinnarPlan_widens h)
    case send => exact memForm_widens ho hf hc (reinsendPlan_widens (by rw [hf.hdr]; exact h0) h)

end

section
/-! PROOFS. Scratchpad forms, and the versioned and atomic forms with what an atomic leaves in its word (13 R250–R253, R258–R263; 02 R39). -/

namespace Sys2Proof.Machine
open Sys2Proof.Bits

variable {i : Instr} {f : FmtM} {s : State} {c : Fx} {g : BitVec 16} {tg : Tag} {cl : Option Claim}

/-! ## Scratchpad forms (13 R250, R251, R253) -/

theorem padRange_iff {o : Int} {w : Nat} : padRange o w = true ↔ 0 ≤ o ∧ o + w ≤ 0xC0000 := by
  rw [padRange, Bool.and_eq_true, decide_eq_true_eq, decide_eq_true_eq]

theorem padCheck_ok {w : Nat} {l : Loc} (h : l.rel % w = 0 ∧ 0 ≤ l.rel ∧ l.rel + w ≤ 0xC0000) : padCheck w l = none := by
  simp [padCheck, h.1, padRange_iff.2 h.2]

theorem padCheck_misaligned {w : Nat} {l : Loc} (h : ¬l.rel % w = 0) : padCheck w l = some (1, l.rel) := by
  simp [padCheck, h]

theorem padCheck_outside {w : Nat} {l : Loc} (h : l.rel % w = 0) (ho : l.rel < 0 ∨ 0xC0000 < l.rel + w) : padCheck w l = some (2, l.rel) := by
  have hr : padRange l.rel w = false := by
    rw [← Bool.not_eq_true, padRange_iff]
    omega
  simp [padCheck, h, hr]

/-- The draw of a scratchpad form (13 R269). -/
def padDraw (h : Hdr) (k : Nat) : Nat := jetLin h k * (if h.plane = 0 then 12 else 32)

theorem ldspPlan_noLane (hn : noLanes i c g = true) : ldspPlan i f c g = .act (padDraw c.h c.k) (c.resolve f.lsid.toNat .done none) := by
  simp only [ldspPlan, hn, if_true]
  rfl

theorem ldspPlan_reads (hn : ¬noLanes i c g = true) (hok : (formLocs i f c g).findSome? (padCheck (tyBytes f.ty)) = none) :
    ldspPlan i f c g = c.emitPlan (padDraw c.h c.k) (loadResult c.h.plane.toNat c.k f.ty ((formLocs i f c g).map fun l =>
      (l.lane, l.coef, ofBytes ((List.range (tyBytes f.ty)).map fun b => c.nd.padByte c.s (nodeQuad c.n) (l.rel.toNat + b))))) false
      (c.resolve f.lsid.toNat .done none) := by
  simp only [ldspPlan, hn, hok, Bool.false_eq_true, if_false]
  rfl

theorem ldspPlan_faults (hn : ¬noLanes i c g = true) {reason : Nat} {a : Int}
    (hb : (formLocs i f c g).findSome? (padCheck (tyBytes f.ty)) = some (reason, a)) :
    ldspPlan i f c g = .fault (padDraw c.h c.k) 0x30 (BitVec.ofInt 64 a) (BitVec.ofNat 64 reason) := by
  simp only [ldspPlan, hn, hb, Bool.false_eq_true, if_false]
  rfl

theorem stspPlan_pends (hok : (formLocs i f c g).findSome? (padCheck (tyBytes f.ty)) = none) :
    stspPlan i f c g = c.emitPlan (padDraw c.h c.k) (leftScalar c) false
      (c.resolve f.lsid.toNat .pending (some (.store f.lsid.toNat 0 0 (.scratch ((formLocs i f c g).map fun l =>
        (l.rel.toNat, toBytes (tyBytes f.ty) (if c.h.plane = 0 then (optScalar c.r).toNat else (Vec.lane (optBeat c.r l.coef) l.lane).toNat))))))) := by
  simp only [stspPlan, hok, storeBytes_eq]
  rfl

theorem stspPlan_faults {reason : Nat} {a : Int} (hb : (formLocs i f c g).findSome? (padCheck (tyBytes f.ty)) = some (reason, a)) :
    stspPlan i f c g = .fault (padDraw c.h c.k) 0x30 (BitVec.ofInt 64 a) (BitVec.ofNat 64 reason) := by
  simp only [stspPlan, hb]
  rfl

theorem findSome?_padCheck_none {ls : List Loc} {w : Nat} (h : ∀ l ∈ ls, l.rel % w = 0 ∧ 0 ≤ l.rel ∧ l.rel + w ≤ 0xC0000) :
    ls.findSome? (padCheck w) = none := List.findSome?_eq_none_iff.2 fun l hl => padCheck_ok (h l hl)

/-- A scalar scratchpad form whose one element fails its check draws and faults. -/
theorem pad_faults (hi : i ∈ [Instr.ldsp f, .stsp f]) (ho : MemOpen i f c false g) (hf : Fires i s c) (hp : c.h.plane = 0) (hc : Covers c (padDraw c.h c.k))
    {reason : Nat} {a : Int} (hb : padCheck (tyBytes f.ty) ⟨0, 0, relOf c f⟩ = some (reason, a)) :
    exec i s = .next (c.faulted (padDraw c.h c.k) 0x30 (BitVec.ofInt 64 a) (BitVec.ofNat 64 reason)) := by
  have hfind : (formLocs i f c g).findSome? (padCheck (tyBytes f.ty)) = some (reason, a) := by
    rw [formLocs_scalar hp]
    simp [hb]
  simp only [List.mem_cons, List.not_mem_nil, or_false] at hi
  rcases hi with rfl | rfl
  · have hn : ¬noLanes (.ldsp f) c g = true := by simp [noLanes, hp]
    show memForm (.ldsp f) f false (ldspPlan (.ldsp f) f) s = _
    rw [memForm_open hf ho, ldspPlan_faults hn hfind, Fx.run_fault hc]
  · show memForm (.stsp f) f false (stspPlan (.stsp f) f) s = _
    rw [memForm_open hf ho, stspPlan_faults hfind, Fx.run_fault hc]

/-! ## Versioned and atomic forms (13 R258–R263) -/

/-- The program that makes the write of one checked word pending. -/
def Fx.pendWord (c : Fx) (f : FmtM) (e : Elem) (op : StoreOp) : Prog :=
  .all [noteXlate c false [e], c.resolve f.lsid.toNat .pending (some (.store f.lsid.toNat f.ord f.scope op))]

theorem syncStore_pends {nd : Need} {w : Nat} {op : Elem → StoreOp} {e : Elem}
    (he : checkLocs c nd (f.hv = 1) false (c.rein f.lsid.toNat f.hreg.toNat) w [⟨0, 0, relOf c f⟩] = .ok [e]) :
    syncStore f c nd w op false = .act 64 (c.pendWord f e (op e)) ∧
    syncStore f c nd w op true = c.emitPlan 64 (leftScalar c) false (c.pendWord f e (op e)) := by
  constructor <;> simp only [syncStore, he, Bool.false_eq_true, if_false, if_true] <;> rfl

theorem ldvPlan_issues {e : Elem} (hr : ¬2 ≤ f.ord.toNat ∨ releaseReady f c = true)
    (he : checkLocs c ⟨8, true, false, true, true⟩ (f.hv = 1) false (c.rein f.lsid.toNat f.hreg.toNat) 8 [⟨0, 0, relOf c f⟩] = .ok [e]) :
    ldvPlan i f c = .act 64 (issueLoad i c f false [e] (some ((optScalar c.r).toNat % 2 ^ 32)) false) := by
  have hgo : (decide (2 ≤ f.ord.toNat) && !releaseReady f c) = false := by
    rcases hr with h | h
    · rw [decide_eq_false h, Bool.false_and]
    · rw [h, Bool.not_true, Bool.and_false]
  simp only [ldvPlan, hgo, he, field_lowest, Bool.false_eq_true, if_false]

/-! ## The functions of the atomics (13 R262, R263; 02 R39) -/

theorem sext_lt_sext (w a b : Nat) : sext w a < sext w b ↔ (BitVec.ofNat w a).slt (BitVec.ofNat w b) = true := by
  rw [BitVec.slt_iff_toInt_lt]
  rfl

/-- The new word under each function of the spec, in a word of `if ty = 4 then 64 else 32` bits. -/
theorem rmwApply_atom (ty : BitVec 4) (old : Nat) (x : Word) :
    let w := if ty = 4 then 64 else 32
    let v := x.toNat % 2 ^ w
    let new := fun (fn : BitVec 4) => (rmwApply (.atom fn ty x) old).1
    let lt := fun (a b : Nat) => (BitVec.ofNat w a).slt (BitVec.ofNat w b)
    new 0 = (old + v) % 2 ^ w ∧ new 1 = old &&& v ∧ new 2 = old ||| v ∧ new 3 = old ^^^ v ∧ new 4 = v ∧
    new 5 = (if lt v old then v else old) ∧ new 6 = (if lt old v then v else old) ∧ new 7 = min old v ∧ new 8 = max old v := by
  intro w v new lt
  have hmin : new 7 = if v < old then v else old := rfl
  have hmax : new 8 = if old < v then v else old := rfl
  refine ⟨rfl, rfl, rfl, rfl, rfl, ?_, ?_, ?_, ?_⟩
  · exact if_congr (sext_lt_sext w v old) rfl rfl
  · exact if_congr (sext_lt_sext w old v) rfl rfl
  · rw [hmin]; split <;> omega
  · rw [hmax]; split <;> omega

/-- A 4-byte word written over a 64-bit register is sign-extended (02 R39). -/
theorem ofNat_writeInt_sext (x : Nat) : BitVec.ofNat 64 (Num.writeInt 64 3 (sext 32 x)) = (BitVec.ofNat 32 x).signExtend 64 := by
  have hw : Num.writeInt 64 3 (sext 32 x) = (sext 32 x % 2 ^ 64).toNat := by
    rw [Num.writeInt, if_neg (by decide), show Num.width 3 = 32 from rfl, Num.sext_emod le_rfl, Num.sext_eq_bmod, Int.bmod_bmod]
  apply BitVec.eq_of_toNat_eq
  rw [hw, BitVec.toNat_ofNat, BitVec.signExtend, BitVec.toNat_ofInt, Nat.mod_eq_of_lt]
  · rfl
  · rw [Int.toNat_lt (Int.emod_nonneg _ (by decide))]
    exact Int.emod_lt_of_pos (sext 32 x) (by decide : (0 : Int) < 2 ^ 64)

theorem rmwResult_wide {r : Rmw} (old : Nat) : rmwResult 8 old r = (BitVec.ofNat 64 old).signExtend 64 := by
  rw [BitVec.signExtend_eq]
  simp [rmwResult]

theorem rmwResult_narrow {ty : BitVec 4} {x e n : Word} (hty : ty = 3) {r : Rmw} (hr : r = .atom 0 ty x ∨ r = .cas ty e n) (old : Nat) :
    rmwResult 4 old r = (BitVec.ofNat 32 old).signExtend 64 := by
  subst hty
  rcases hr with rfl | rfl <;> exact ofNat_writeInt_sext old

end Sys2Proof.Machine

open Sys2Proof Sys2Proof.Machine

/-- Settles O38: each element passes its checks or the first one that fails decides; a scalar form has just the one. -/
theorem scratchpadForms : Obligations.ScratchpadForms := by
  intro f s c g tg cl w draw ok noLane
  have hdraw : ∀ {i : Instr}, Fires i s c → i.hdr = f.h → draw = padDraw c.h c.k := fun hf hi => by rw [hf.hdr, hi]; rfl
  refine ⟨fun ho h => ⟨fun hn => ?none, fun hn hok => ?reads⟩, fun ho hok h => ?stores, fun i hi ho l hl hp hf hc => ?faults⟩
  case none =>
    have hd := hdraw h.fires rfl
    show memForm (.ldsp f) f false (ldspPlan (.ldsp f) f) s = _
    rw [hd, memForm_open h.fires ho, ldspPlan_noLane ((noLanes_iff h.fires.hdr).2 hn)]
    exact Fx.run_act (hd ▸ h.covers)
  case reads =>
    have hd := hdraw h.fires rfl
    show memForm (.ldsp f) f false (ldspPlan (.ldsp f) f) s = _
    rw [memForm_open h.fires ho, ldspPlan_reads ((noLanes_iff h.fires.hdr).not.2 hn) (findSome?_padCheck_none hok), ← hd, h.run_emitPlan, h.fires.state]
  case stores =>
    show memForm (.stsp f) f false (stspPlan (.stsp f) f) s = _
    rw [memForm_open h.fires ho, stspPlan_pends (findSome?_padCheck_none hok), ← hdraw h.fires rfl, h.run_emitPlan]
    rfl
  case faults =>
    have hhdr : i.hdr = f.h := by
      simp only [List.mem_cons, List.not_mem_nil, or_false] at hi
      rcases hi with rfl | rfl <;> rfl
    have hd := hdraw hf hhdr
    have hplane : c.h.plane = 0 := by rw [hf.hdr, hhdr]; exact hp
    rw [formLocs_scalar hplane, List.mem_singleton] at hl
    subst hl
    rw [hd] at hc ⊢
    exact ⟨fun h => pad_faults hi ho hf hplane hc (padCheck_misaligned h), fun h hout => pad_faults hi ho hf hplane hc (padCheck_outside h hout)⟩

/-- Settles O39: one checked word becomes pending, or waits for its version; the functions of the atomics are read off in both widths. -/
theorem syncForms : Obligations.SyncForms := by
  constructor
  · intro f s c g tg cl e w check pends
    refine ⟨fun ho he hr hf hc => ?ldv, fun ho he hf hc => ?stv, fun ho he h => ?reclaim, fun ho he hf hc => ?atom, fun ho he hf hc => ?cas⟩
    case ldv =>
      have hready : ¬2 ≤ f.ord.toNat ∨ releaseReady f c = true := (em (2 ≤ f.ord.toNat)).symm.imp_right fun h2 => releaseReady_iff.2 (hr h2)
      exact memForm_acts ho hf hc (ldvPlan_issues hready he)
    case stv =>
      rw [← field_eq f.low 15 16]
      exact memForm_acts ho hf hc (syncStore_pends he).1
    case reclaim =>
      rw [← field_lowest (optScalar c.r) 32]
      show memForm (.reclaim f) f false (fun c _ => reclaimPlan f c) s = _
      rw [memForm_open h.fires ho, reclaimPlan, (syncStore_pends he).2, h.run_emitPlan]
      rfl
    case atom => exact memForm_acts ho hf hc (syncStore_pends he).1
    case cas =>
      show memForm (.cas f) f true (fun c _ => casPlan f c) s = _
      rw [memForm_open hf ho, casPlan, (syncStore_pends he).1]
      exact Fx.run_act hc
  · intro ty old x e n hty w v new lt hold
    obtain ⟨h0, h1, h2, h3, h4, h5, h6, h7, h8⟩ := rmwApply_atom ty old x
    refine ⟨h0, h1, h2, h3, h4, h5, h6, h7, h8, ?_, fun r hr => ?_⟩
    · rcases hty with rfl | rfl <;> rfl
    · rcases hty with rfl | rfl
      · refine ⟨by rcases hr with rfl | rfl <;> rfl, ?_⟩
        rw [show w = 32 from rfl]
        exact rmwResult_narrow rfl hr old
      · refine ⟨by rcases hr with rfl | rfl <;> rfl, ?_⟩
        rw [show w = 64 from rfl]
        exact rmwResult_wide old

end

section
/-! PROOFS. PREF, NULLST, L1INV and FENCE, and the LSID holders that make no access or wait (13 R245, R248, R254–R257; 08 R171). -/

namespace Sys2Proof.Machine
open Sys2Proof.Bits

variable {i : Instr} {f : FmtM} {s : State} {c : Fx} {g : BitVec 16} {tg : Tag} {cl : Option Claim}

/-! ## L1INV (13 R256) -/

/-- The address of a form without a rein, as the number of its word. -/
theorem relOf_toNat (h : ((optScalar c.l) + f.off.signExtend 64).toNat < 2 ^ 57) : relOf c f = ((optScalar c.l) + f.off.signExtend 64).toNat := by
  rw [relOf, BitVec.toInt_eq_toNat_of_lt (by omega)]

/-- A word with a bit above 56 is, read with its sign, outside the addresses. -/
theorem relOf_outside (h : 2 ^ 57 ≤ ((optScalar c.l) + f.off.signExtend 64).toNat) : relOf c f < 0 ∨ 2 ^ 57 ≤ relOf c f := by
  rw [relOf, BitVec.toInt_eq_toNat_cond]
  split <;> omega

theorem l1invPlan_outside (h : 2 ^ 57 ≤ ((optScalar c.l) + f.off.signExtend 64).toNat) :
    l1invPlan f c = .fault 4 0x30 ((optScalar c.l) + f.off.signExtend 64) 6 := by
  have hout : (decide (relOf c f < 0) || decide (2 ^ 57 ≤ relOf c f)) = true := by simpa using relOf_outside h
  simp only [l1invPlan, hout, if_true]
  rw [relOf, BitVec.ofInt_toInt]

theorem l1invPlan_drops (hv : f.hv = 0) (h : ((optScalar c.l) + f.off.signExtend 64).toNat < 2 ^ 57) :
    l1invPlan f c = .act 4 (.seq (c.resolve f.lsid.toNat .done none) (l1Inv c ((optScalar c.l) + f.off.signExtend 64).toNat)) := by
  have hrel := relOf_toNat h
  have hin : (decide (relOf c f < 0) || decide (2 ^ 57 ≤ relOf c f)) = false := by
    rw [decide_eq_false (by omega), decide_eq_false (by omega), Bool.or_self]
  have hno : ¬f.hv = 1 := by rw [hv]; decide
  simp only [l1invPlan, hin, hno, decide_false, Bool.false_and, Bool.false_eq_true, if_false]
  rw [hrel]
  rfl

theorem l1Inv_mapped {va : Nat} {w : Word} (h : translate c.s (nodeDie c.n) c.t.asid va = .entry w) :
    l1Inv c va = .upd (.node c.n fun nd => { nd with l1 := nd.l1.filter fun x => !(x.vline == va / 128 || x.line == lineOf (entryPa w va)) }) := by
  simp only [l1Inv, h]
  rfl

theorem l1Inv_unmapped {va : Nat} (h : translate c.s (nodeDie c.n) c.t.asid va = .fault) :
    l1Inv c va = .upd (.node c.n fun nd => { nd with l1 := nd.l1.filter fun x => !(x.vline == va / 128 || false) }) := by
  simp only [l1Inv, h]
  rfl

/-! ## FENCE (13 R257; 05 R101) -/

/-- Whether a FENCE may end. -/
def fenceReady (f : FmtM) (c : Fx) : Bool := lowerDone f c && fenceQuiet f c && (f.scope != 5 || !mirrorPending c.s c.n)

theorem fenceReady_iff : fenceReady f c = true ↔ lowerDone f c = true ∧ (if f.ord = 1 then c.nd.atomicLeft = false else c.nd.quiet = true) ∧
    (¬f.scope = 5 ∨ mirrorPending c.s c.n = false) := by
  have hq : fenceQuiet f c = true ↔ if f.ord = 1 then c.nd.atomicLeft = false else c.nd.quiet = true := by
    unfold fenceQuiet
    split
    · rw [Bool.not_eq_true']
    · rfl
  simp only [fenceReady, Bool.and_eq_true, hq, Bool.or_eq_true, bne_iff_ne, Bool.not_eq_true', and_assoc]

theorem fencePlan_waits (h : ¬fenceReady f c = true) : fencePlan f c = .wait := by
  have hno : fenceReady f c = false := by simpa using h
  unfold fenceReady at hno
  simp only [fencePlan, hno, Bool.not_false, if_true]

theorem fencePlan_ends (h : fenceReady f c = true) : fencePlan f c = .act 4 (.seq (c.resolve f.lsid.toNat .done none)
    (if f.ord = 1 ∨ f.ord = 3 then .upd (.node c.n fun nd => nd.l1Clear) else .skip)) := by
  have hacq : Prog.when (decide (f.ord = 1) || decide (f.ord = 3)) (.upd (.node c.n fun nd => nd.l1Clear)) =
      if f.ord = 1 ∨ f.ord = 3 then .upd (.node c.n fun nd => nd.l1Clear) else .skip := by
    simp only [Prog.when, Bool.or_eq_true, decide_eq_true_eq]
  unfold fenceReady at h
  simp only [fencePlan, h, Bool.not_true, Bool.false_eq_true, if_false, hacq]
  rfl

/-! ## Holders that make no access, or wait (13 R245, R248; 08 R171) -/

/-- Every form with an LSID of its own fires through the frame of the LSID holders; slot 11 is data for STG and CAS alone. -/
theorem exec_holder (hb : i.body = .m f) (hn : ¬i.opc = 0x189) :
    i.hdr = f.h ∧ ∃ plan, ∀ s, exec i s = memForm i f (decide (i.opc = 0x185 ∨ i.opc = 0x1A4)) plan s := by
  cases i with
  | ld | lds | ldg | st | sts | stg | ldsp | stsp | pref | l1inv | fence | ldv | stv | reclaim | atom | cas
  | reinmk | reindup | reinspl | reinnar | reindrop | reinq | reinsend =>
    cases hb
    exact ⟨rfl, _, fun _ => rfl⟩
  | nullst => exact absurd rfl hn
  | _ => cases hb

/-- The program that resolves the LSID of a holder which makes no access. -/
def Fx.nullLsid (c : Fx) (f : FmtM) : Prog :=
  onUnit c.n c.ut fun u => if (u.lsid f.lsid.toNat).resolved then u else u.setLsid f.lsid.toNat .nulled

variable {dp : Bool} {plan : Fx → BitVec 16 → Plan}

/-- A holder whose LSID is nulled, or that meets a null operand, emits null tokens. -/
theorem memForm_null (h : c.u.lsid f.lsid.toNat = .nulled ∨ c.mode dp = .null) (hg : Goes i s c (nulledDraw c.h c.k) tg cl) :
    memForm i f dp plan s = .next (c.emitted (nulledDraw c.h c.k) tg cl (nullData c.np c.k) true (c.nullLsid f)) := by
  have hplan : nullHolder c f (nulledDraw c.h c.k) true = c.emitPlan (nulledDraw c.h c.k) (nullData c.np c.k) true (c.nullLsid f) := rfl
  rw [memForm, fire_fires hg.fires]
  split
  · rw [hplan, hg.run_emitPlan]
  · next hl => rw [h.resolve_left hl, hplan, hg.run_emitPlan]

/-- A holder whose gate is closed draws and resolves its LSID. -/
theorem memForm_closed (hl : ¬c.u.lsid f.lsid.toNat = .nulled) (hm : c.mode dp = .closed) (hf : Fires i s c) (hc : Covers c (nulledDraw c.h c.k)) :
    memForm i f dp plan s = .next (c.acted (nulledDraw c.h c.k) (c.nullLsid f)) := by
  rw [memForm, fire_fires hf, if_neg hl, hm]
  exact Fx.run_act hc

/-- A holder that one with a lower LSID holds back changes nothing. -/
theorem memForm_waits (hl : ¬c.u.lsid f.lsid.toNat = .nulled) (hm : c.mode dp = .go g) (hw : heldByOrder i c f.lsid.toNat = true) (hf : Fires i s c) :
    memForm i f dp plan s = .next s := by
  rw [memForm, fire_fires hf, if_neg hl, hm]
  simp only [hw, if_true, Fx.run_wait, hf.state]

end Sys2Proof.Machine

open Sys2Proof Sys2Proof.Machine

/-- Settles O40: each form is open, so it runs its plan; what its address, its translation or its readiness is gives the plan's branch. -/
theorem memoryCares : Obligations.MemoryCares := by
  intro f s c g set addr va drop ready
  have hready : ready ↔ fenceReady f c = true := fenceReady_iff.symm
  refine ⟨fun ho hf hc => ?pref, fun ho hf hc => ⟨fun hva => ?outside, fun hv hva => ⟨fun w hw => ?mapped, fun hw => ?unmapped⟩⟩,
    fun ho hf => ⟨fun hr => ?waits, fun hr hc => ?ends⟩, fun hm hf hc => ?nullst⟩
  case pref =>
    rw [← field_eq f.low 21 8, show f.low.toNat / 2 ^ 29 % 4 = Bits.field f.low 29 2 from (field_eq f.low 29 2).symm]
    show memForm (.pref f) f false (fun c _ => prefPlan f c) s = _
    rw [memForm_open hf ho]
    exact Fx.run_act hc
  case outside =>
    show memForm (.l1inv f) f false (fun c _ => l1invPlan f c) s = _
    rw [memForm_open hf ho, l1invPlan_outside hva, Fx.run_fault hc]
  case mapped =>
    show memForm (.l1inv f) f false (fun c _ => l1invPlan f c) s = _
    rw [memForm_open hf ho, l1invPlan_drops hv hva, l1Inv_mapped (by rwa [hf.state])]
    exact Fx.run_act hc
  case unmapped =>
    show memForm (.l1inv f) f false (fun c _ => l1invPlan f c) s = _
    rw [memForm_open hf ho, l1invPlan_drops hv hva, l1Inv_unmapped (by rwa [hf.state])]
    exact Fx.run_act hc
  case waits =>
    show memForm (.fence f) f false (fun c _ => fencePlan f c) s = _
    rw [memForm_open hf ho, fencePlan_waits (hready.not.1 hr), Fx.run_wait, hf.state]
  case ends =>
    show memForm (.fence f) f false (fun c _ => fencePlan f c) s = _
    rw [memForm_open hf ho, fencePlan_ends (hready.1 hr)]
    exact Fx.run_act hc
  case nullst =>
    show fire (.nullst f) (nullstPlan f) s = _
    rw [fire_fires hf, nullstPlan, hm]
    exact Fx.run_act hc

/-- Settles O41: every holder fires through one frame, which decides about nulls, gates and order before the form's own plan. -/
theorem holdersWithoutAccess : Obligations.HoldersWithoutAccess := by
  intro f i s c tg cl _ hb hn dp draw resolve
  obtain ⟨hhdr, plan, hexec⟩ := exec_holder hb hn
  have hdraw : Fires i s c → draw = nulledDraw c.h c.k := fun hf => by rw [hf.hdr, hhdr]; rfl
  rw [hexec]
  refine ⟨fun h hg => ?_, fun hl hm hf hc => ?_, fun g hl hm hw hf => memForm_waits hl hm hw hf⟩
  · have hd := hdraw hg.fires
    rw [hd] at hg ⊢
    rw [memForm_null h hg, hg.fires.np, hhdr]
    rfl
  · have hd := hdraw hf
    rw [hd] at hc ⊢
    exact memForm_closed hl hm hf hc

end

section
/-! PROOFS. The SYSTEM and the TASK forms with an open gate (14 R287–R290; 07 R151). -/

namespace Sys2Proof.Machine
open Sys2Proof.Bits

variable {i : Instr} {s : State} {c : Fx} {g : BitVec 16} {tg : Tag} {cl : Option Claim}

/-! ## SYSTEM (14 R290) -/

section
variable {act : Fx → Option Act} (hm : c.mode false = .go g) (hf : Fires i s c) (hc : Covers c 4)
include hm hf hc

/-- An open SYSTEM form leaves its action for the commit. -/
theorem sysForm_pends {a : Act} (ha : act c = some a) : sysForm i act s = .next (c.pending 4 a) := by
  rw [sysForm, fire_fires hf, hm, ha]
  exact Fx.run_act hc

/-- An open SYSTEM form without an action takes its operands and its draw. -/
theorem sysForm_passes (ha : act c = none) : sysForm i act s = .next (c.taken 4) := by
  rw [sysForm, fire_fires hf, hm, ha]
  exact Fx.run_act hc

end

/-! ## TASK (14 R287, R288) -/

section
variable {f : FmtE} {req : Fx → Except Plan HubReq} (hm : c.mode false = .go g) (hf : Fires i s c) (hc : Covers c 64)
include hm hf hc

/-- An open TASK form with a request leaves it for the commit. -/
theorem hubForm_asks {r : HubReq} (hr : req c = .ok r) : hubForm i f req s = .next (c.pending 64 (.hub r (deferOf c f.h.t0))) := by
  rw [hubForm, fire_fires hf]
  simp only [hm, hr]
  exact Fx.run_act hc

/-- An open TASK form whose record may not be named faults. -/
theorem hubForm_faults {code : Nat} {addr info : Word} (hr : req c = .error (.fault 64 code addr info)) :
    hubForm i f req s = .next (c.faulted 64 code addr info) := by
  rw [hubForm, fire_fires hf]
  simp only [hm, hr]
  exact Fx.run_fault hc

end

/-- A record that is aligned, mapped, plain and open to the access is named by its two addresses. -/
theorem recordAddr_ok {write : Bool} {w : Word} (h0 : (optScalar c.l).toNat % 64 = 0) (h1 : (optScalar c.l).toNat < 2 ^ 57)
    (hx : c.xlate false (optScalar c.l).toNat = .entry w) (hcl : entryClass w = 0) (hr : (if write then entryWr w else entryRd w) = true) :
    recordAddr c write = .ok ((optScalar c.l).toNat, entryPa w (optScalar c.l).toNat) := by
  have hin : ¬2 ^ 57 ≤ (optScalar c.l).toNat := by omega
  have hok : (if write then !entryWr w else !entryRd w) = false := by cases write <;> simpa using hr
  simp only [recordAddr, h0, hin, hx, hcl, hok, decide_true, Bool.not_true, Bool.false_eq_true, if_false]

theorem recordAddr_misaligned {write : Bool} (h : ¬(optScalar c.l).toNat % 64 = 0) :
    recordAddr c write = .error (.fault 64 0x30 (optScalar c.l) 1) := by
  simp only [recordAddr, h, decide_false, Bool.not_false, if_true]

end Sys2Proof.Machine

open Sys2Proof Sys2Proof.Machine

/-- Settles O30: each form fires by one of three frames, with an action for the commit, with a result, or (TRAP) with its fault. -/
theorem systemForms : Obligations.SystemForms := by
  intro f s c tg cl g hm pend action
  have haction : action = Bits.field (optScalar c.l) 16 2 := (field_eq _ 16 2).symm
  refine ⟨fun hf hc => ?trap, fun ha hf hc => ?fret, fun ha hf hc => ?fretIgnored, fun h => ?csrrd, fun h => ?csrwr, fun hf hc => ?bkpt,
    fun h => ?tbase, fun hf hc => ?tlbinv, fun hf hc => ?codesync, fun hf hc => ?mlog⟩
  case trap =>
    show execTrap f s = _
    rw [execTrap, fire_fires hf, hm, ← field_lowest f.imm 16]
    exact Fx.run_fault hc
  case fret =>
    refine sysForm_pends hm hf hc ?_
    rw [haction] at ha ⊢
    simp only [if_neg (Nat.not_le.2 ha), field_lowest, Nat.reducePow]
  case fretIgnored =>
    refine sysForm_passes hm hf hc ?_
    rw [haction] at ha
    simp only [if_pos ha]
  case csrrd =>
    show execCsrrd f s = _
    rw [execCsrrd, fire_fires h.fires, hm]
    exact h.run_emitPlan ..
  case csrwr =>
    show execCsrwr f s = _
    rw [execCsrwr, fire_fires h.fires, hm]
    exact h.run_emitPlan ..
  case bkpt =>
    show execBkpt f s = _
    exact sysForm_pends hm hf hc (by rfl)
  case codesync =>
    show execCodesync f s = _
    exact sysForm_pends hm hf hc (by rfl)
  case mlog =>
    show execMlog f s = _
    exact sysForm_pends hm hf hc (by rfl)
  case tbase =>
    show execTbase f s = _
    rw [execTbase, fire_fires h.fires, hm, ← h.fires.state]
    exact h.run_emitPlan ..
  case tlbinv =>
    show execTlbinv f s = _
    refine sysForm_pends hm hf hc ?_
    simp only [field_eq, Nat.reducePow]

/-- Settles O32: each form's request is there once its record may be named; one that is not aligned faults. -/
theorem taskRequests : Obligations.TaskRequests := by
  intro f s c g hm hc asks a
  refine ⟨fun w h0 h1 hx hcl => ⟨fun hr => ⟨fun hf => ?push, fun hf => ?launch⟩, fun hw hf => ?pop⟩, fun i hi hf hbad => ?misaligned,
    fun hf => ?stat, fun hf => ?read, fun hf => ?ask⟩
  case push =>
    show execQpush f s = _
    exact hubForm_asks hm hf hc (by rw [recordAddr_ok h0 h1 hx hcl (write := false) hr]; rfl)
  case launch =>
    show execTlaunch f s = _
    exact hubForm_asks hm hf hc (by rw [recordAddr_ok h0 h1 hx hcl (write := false) hr]; rfl)
  case pop =>
    show execQpop f s = _
    exact hubForm_asks hm hf hc (by rw [recordAddr_ok h0 h1 hx hcl (write := true) hw]; rfl)
  case stat =>
    show execQstat f s = _
    exact hubForm_asks hm hf hc (by rfl)
  case read =>
    show execChgrd f s = _
    exact hubForm_asks hm hf hc (by rfl)
  case misaligned =>
    simp only [List.mem_cons, List.not_mem_nil, or_false] at hi
    rcases hi with rfl | rfl | rfl <;> exact hubForm_faults hm hf hc (by rw [recordAddr_misaligned hbad]; rfl)
  case ask =>
    show execChgask f s = _
    refine hubForm_asks hm hf hc ?_
    simp only [field_lowest]
    rfl

end

section
/-! PROOFS. The ENGINE forms: issuing a card, and the forms on a ticket (14 R270–R283, R291; 03 R78; 05 R91). -/

namespace Sys2Proof.Machine
open Sys2Proof.Bits

variable {i : Instr} {f : FmtE} {s : State} {c : Fx} {g : BitVec 16} {tg : Tag} {cl : Option Claim}

/-! ## Issuing (14 R272, R273, R277) -/

theorem issueForm_issues {cls : Nat} (hm : c.mode false = .go g) (hok : c.cardOk cls (cardWords (optBeat c.l 0)) = true) (h : Goes i s c 64 tg cl) :
    let tk := vecData (ticketVec c.n c.nd.cards cls f.chan.toNat 0 false 0 0 false c.t.owner) 0xFFFF
    issueForm i f cls s = .next (c.acted 64 (.all [takeClaim c.tid c.n c.ut cl, .upd (.node c.n fun nd => { nd with cards := nd.cards + 1 }),
      addAct c.n c.ut c.q c.tag (.card cls f.chan.toNat f.flags c.nd.cards (cardWords (optBeat c.l 0)) (if f.flags.getLsbD 0 then c.h.t0 else 0) tg),
      Prog.when (!f.flags.getLsbD 0) (emitTo c.n c.ut c.q c.tag c.h.t0 (mkTok tg tk false)), emitTo c.n c.ut c.q c.tag c.h.t1 (mkTok tg tk false)])) := by
  have htag : tagRes c.t c.tag c.h.tagop.toNat = .ok tg cl := h.tags
  rw [issueForm, fire_fires h.fires]
  simp only [hm, hok, htag, Bool.not_true, Bool.false_eq_true, if_false]
  exact h.run_act _

theorem issueForm_refuses {cls : Nat} (hm : c.mode false = .go g) (hbad : c.cardOk cls (cardWords (optBeat c.l 0)) = false) (hf : Fires i s c)
    (hc : Covers c 64) : issueForm i f cls s = .next (c.faulted 64 0x40 0 1) := by
  rw [issueForm, fire_fires hf]
  simp only [hm, hbad, Bool.not_false, if_true]
  exact Fx.run_fault hc

/-- The issuing form of each engine class. -/
theorem exec_issue {cls : Nat} (h : (i, cls) ∈ [(Instr.copy f, 0), (.gather f, 1), (.coll f, 2), (.topk f, 3), (.mirror f, 4)]) :
    exec i = issueForm i f cls := by
  simp only [List.mem_cons, List.not_mem_nil, or_false, Prod.mk.injEq] at h
  rcases h with ⟨rfl, rfl⟩ | ⟨rfl, rfl⟩ | ⟨rfl, rfl⟩ | ⟨rfl, rfl⟩ | ⟨rfl, rfl⟩ <;> rfl

/-- Two regions of one length that is not 0 lie apart where one ends before the other begins. -/
theorem Region.not_meets_iff {a b len : Nat} {wa wb : Bool} (h : 0 < len) :
    (Region.meets ⟨a, len, wa⟩ ⟨b, len, wb⟩ = false) ↔ a + len ≤ b ∨ b + len ≤ a := by
  simp only [Region.meets, h, decide_true, Bool.and_true, Bool.and_eq_false_iff, decide_eq_false_iff_not, not_lt]
  exact or_comm

theorem wordsOk_copy_len {ws : CardWords} (h : wordsOk 0 ws = true) : 0 < cf ws 2 0 40 := by
  simp only [wordsOk, Bool.and_eq_true, Bool.not_eq_true', decide_eq_false_iff_not] at h
  obtain ⟨⟨⟨⟨⟨-, -⟩, hlen⟩, -⟩, -⟩, -⟩ := h
  exact Nat.pos_of_ne_zero hlen

theorem copyApart_iff {ws : CardWords} {sa da : Nat} (h : 0 < cf ws 2 0 40) : copyApart 0 ws sa da = true ↔
    (cw ws 0).toNat + sa + cf ws 2 0 40 ≤ (cw ws 1).toNat + da ∨ (cw ws 1).toNat + da + cf ws 2 0 40 ≤ (cw ws 0).toNat + sa := by
  rw [← Region.not_meets_iff (wa := false) (wb := true) h]
  simp [copyApart, footprint]

/-! ## Tickets (14 R282, R283) -/

/-- The state after an emitted ticket, with an acquire or without. -/
def Fx.told (c : Fx) (tg : Tag) (cl : Option Claim) (v : Vec) (acquire : Bool) (before : Prog) : State :=
  c.emitted 64 tg cl (.beats [v] 0xFFFF) false (.all [before, .upd .fresh, Prog.when acquire (.upd (.node c.n fun nd => nd.l1Clear))])

theorem run_emitTicket {v : Vec} {acquire : Bool} {b : Prog} (h : Goes i s c 64 tg cl) : c.run (emitTicket c v acquire b) = .next (c.told tg cl v acquire b) :=
  h.run_emitPlan ..

/-- A form that waits until `ready`, then emits the ticket. -/
theorem run_emitTicket_or_wait {ready : Prop} [Decidable ready] {v : Vec} {acquire : Bool} {b : Prog} (h : Goes i s c 64 tg cl) :
    c.run (if ready then emitTicket c v acquire b else .wait) = .next (if ready then c.told tg cl v acquire b else s) := by
  split
  · exact run_emitTicket h
  · rw [Fx.run_wait, h.fires.state]

/-- Class, channel and owner of a ticket are the form's own. -/
def Fx.ownTicket (c : Fx) (f : FmtE) : Prop :=
  tkClass (optBeat c.l 0) = f.eng.toNat ∧ tkChan (optBeat c.l 0) = f.chan.toNat ∧ tkOwner (optBeat c.l 0) = c.t.owner % 1024

section
variable {plan : Fx → Vec → Named → Plan} (hm : c.mode false = .go g) (hf : Fires i s c)
include hm hf

theorem ticketForm_own (ho : c.ownTicket f) : ticketForm i f plan s = c.run (plan c (optBeat c.l 0) (namedCard c (optBeat c.l 0))) := by
  obtain ⟨h1, h2, h3⟩ := ho
  rw [ticketForm, fire_fires hf]
  simp only [hm, h1, h2, h3, decide_true, Bool.and_true, Bool.not_true, Bool.false_eq_true, if_false]

theorem ticketForm_foreign (ho : ¬c.ownTicket f) (hc : Covers c 64) : ticketForm i f plan s = .next (c.faulted 64 0x40 0 2) := by
  have hno : (decide (tkClass (optBeat c.l 0) = f.eng.toNat) && decide (tkChan (optBeat c.l 0) = f.chan.toNat) &&
      decide (tkOwner (optBeat c.l 0) = c.t.owner % 1024)) = false := by
    rw [← Bool.not_eq_true, Bool.and_eq_true, Bool.and_eq_true, decide_eq_true_eq, decide_eq_true_eq, decide_eq_true_eq, and_assoc]
    exact ho
  rw [ticketForm, fire_fires hf]
  simp only [hm, hno, Bool.not_false, if_true]
  exact Fx.run_fault hc

end

/-- The forms on a ticket share one frame. -/
theorem exec_ticket (h : i ∈ [Instr.wpwait f, .cwait f, .wprd f, .cstat f, .ccancel f]) : ∃ plan, ∀ s, exec i s = ticketForm i f plan s := by
  simp only [List.mem_cons, List.not_mem_nil, or_false] at h
  rcases h with rfl | rfl | rfl | rfl | rfl
  · exact ⟨_, execWpwait.eq_1 f⟩
  · exact ⟨_, execCwait.eq_1 f⟩
  · exact ⟨_, execWprd.eq_1 f⟩
  · exact ⟨_, execCstat.eq_1 f⟩
  · exact ⟨_, execCcancel.eq_1 f⟩

/-! ## PTR: what has been performed (03 R78; 05 R91) -/

/-- The least of a start and of the lines that still await an acknowledgement. -/
theorem foldl_below (ws : List MirWait) (p : Nat) :
    let m := ws.foldl (fun p w => if w.below < p then w.below else p) p
    m ≤ p ∧ (∀ w ∈ ws, m ≤ w.below) ∧ ((∀ w ∈ ws, p ≤ w.below) → m = p) := by
  induction ws generalizing p with
  | nil => simp
  | cons w ws ih =>
    obtain ⟨hle, hall, hid⟩ := ih (if w.below < p then w.below else p)
    have hmin : (if w.below < p then w.below else p) ≤ p ∧ (if w.below < p then w.below else p) ≤ w.below := by split <;> omega
    refine ⟨hle.trans hmin.1, fun x hx => ?_, fun hp => ?_⟩
    · rcases List.mem_cons.1 hx with rfl | hx
      · exact hle.trans hmin.2
      · exact hall x hx
    · have hw : (if w.below < p then w.below else p) = p := if_neg (Nat.not_lt.2 (hp w (List.mem_cons_self ..)))
      rw [hw] at hid
      rw [List.foldl_cons, hw]
      exact hid fun x hx => hp x (List.mem_cons_of_mem _ hx)

theorem Card.done_spec (s : State) (k : Nat) (x : Card) : x.done s k ≤ x.ptr ∧ (∀ w ∈ s.mirror, w.card = some k → x.done s k ≤ w.below) ∧
    ((∀ w ∈ s.mirror, w.card = some k → x.ptr ≤ w.below) → x.done s k = x.ptr) := by
  obtain ⟨hle, hall, hid⟩ := foldl_below (s.mirror.filter fun w => w.card == some k) x.ptr
  simp only [List.mem_filter, beq_iff_eq, and_imp] at hall hid
  exact ⟨hle, hall, hid⟩

end Sys2Proof.Machine

open Sys2Proof Sys2Proof.Machine

/-- Settles O33: every issuing form has the one frame, which issues or refuses; a COPY of good words is refused for its regions alone. -/
theorem cardsIssue : Obligations.CardsIssue := by
  constructor
  · intro f i cls s c g hi hm ws tk
    rw [exec_issue hi]
    exact ⟨fun tg cl hok h => issueForm_issues hm hok h, fun hbad hf hc => issueForm_refuses hm hbad hf hc⟩
  · intro c ws hw h7 len at_ a b
    rw [Fx.cardOk, hw, h7, Bool.true_and, Bool.true_and]
    exact copyApart_iff (wordsOk_copy_len hw)

/-- Settles O34: a ticket of the form's own names its card, whose ticket goes out at once or when it is ready; any other ticket is refused. -/
theorem ticketForms : Obligations.TicketForms := by
  refine ⟨?own, ?foreign, fun s k x => ⟨rfl, Card.done_spec s k x⟩⟩
  case own =>
    intro f s c tg cl g k x hm v h1 h2 h3 hk tells
    have hown : c.ownTicket f := ⟨h1, h2, h3⟩
    refine ⟨fun h => ?wpwait, fun h => ?cwait, fun h => ?wprd, fun h => ?cstat, fun h => ?ccancel⟩
    case wpwait =>
      show execWpwait f s = _
      rw [execWpwait, ticketForm_own hm h.fires hown, hk, ← field_lowest f.card 40, ← h.fires.state]
      simp only [Bool.or_eq_true, decide_eq_true_eq]
      exact (run_emitTicket_or_wait h).trans (by rw [h.fires.state]; rfl)
    case cwait =>
      show execCwait f s = _
      rw [execCwait, ticketForm_own hm h.fires hown, hk]
      exact (run_emitTicket_or_wait h).trans (by rw [h.fires.state]; rfl)
    case wprd =>
      show execWprd f s = _
      rw [execWprd, ticketForm_own hm h.fires hown, hk, run_emitTicket h, namedTicket, h.fires.state]
      rfl
    case cstat =>
      show execCstat f s = _
      rw [execCstat, ticketForm_own hm h.fires hown, hk, run_emitTicket h, namedTicket, h.fires.state]
      rfl
    case ccancel =>
      show execCcancel f s = _
      rw [execCcancel, ticketForm_own hm h.fires hown, hk]
      simp only [Bool.or_eq_true, decide_eq_true_eq]
      by_cases he : f.eng = 2 ∨ f.eng = 4
      · have hall : f.eng = 2 ∨ f.eng = 4 ∨ x.st.final = true := he.imp_right .inl
        rw [if_pos he, if_pos hall, run_emitTicket h, namedTicket, h.fires.state]
        rfl
      · have hall : (f.eng = 2 ∨ f.eng = 4 ∨ x.st.final = true) ↔ x.st.final = true := by tauto
        rw [if_neg he, if_congr hall rfl rfl]
        by_cases hx : x.st.final = true
        · rw [if_pos hx, if_pos hx, run_emitTicket h, h.fires.state]
          rfl
        · rw [if_neg hx, if_neg hx, run_emitTicket h, h.fires.state]
          rfl
  case foreign =>
    intro f s c g i hi hm hf hc ho
    obtain ⟨plan, hplan⟩ := exec_ticket hi
    rw [hplan]
    exact ticketForm_foreign hm hf ho hc

end

section
/-! PROOFS. The machine right after reset (21 R354; 01 R29). -/

open Sys2Proof Sys2Proof.Machine

/-- Settles O3: every sparse map of the machine after reset is empty, so each of its keys reads as the default. -/
theorem resetState : Obligations.ResetState := by
  refine ⟨⟨rfl, rfl, rfl, rfl, rfl, fun _ => rfl, fun _ => (by decide : Part.reset.en = false), fun _ => rfl, fun n r => ?_⟩, ?_⟩
  · exact ⟨rfl, rfl, fun _ => rfl, rfl, rfl, rfl, rfl, rfl, rfl, rfl, rfl, rfl⟩
  · constructor <;> rfl

end

section
/-! PROOFS. Taking a fault, settling the faults of a block, and returning from one (22 R361, R362, R364; 07 R150; 14 R290). -/

namespace Sys2Proof.Machine
open Sys2Proof.Bits

/-! ## Programs and one node -/

/-- Where an update changes node `n`, it does so as `P` allows. -/
def Upd.OnNode (n : Nat) (P : Node → Node → Prop) : Upd → Prop
  | .node k f => k = n → ∀ nd, P nd (f nd)
  | _ => True

/-- A node after a change of another. -/
theorem node_upd_ne {s : State} (hs : s.Canonical) {k n : Nat} (h : n ≠ k) (f : Node → Node) : ((Upd.node k f).apply s).node n = s.node n :=
  (Sparse.get_put k _ n hs.nodes).trans (if_neg h)

/-- A reflexive and transitive relation that every change of a node respects holds between the node before and after a program. -/
theorem Prog.node_rel {n : Nat} {P : Node → Node → Prop} (hr : ∀ a, P a a) (ht : ∀ a b c, P a b → P b c → P a c) {p : Prog}
    (hp : p.Only (Upd.OnNode n P)) {s : State} (hs : s.Canonical) : P (s.node n) ((p.run s).node n) := by
  refine (Prog.run_rel (R := fun a b => a.Canonical → b.Canonical ∧ P (a.node n) (b.node n)) (fun a ha => ⟨ha, hr _⟩)
    (fun a b c hab hbc ha => ?_) (fun u hu a ha => ⟨u.canonical ha, ?_⟩) p hp s hs).2
  · obtain ⟨hb, h1⟩ := hab ha
    obtain ⟨hc, h2⟩ := hbc hb
    exact ⟨hc, ht _ _ _ h1 h2⟩
  · cases u with
    | node k f =>
      by_cases h : n = k
      · subst h
        rw [node_upd ha]
        exact hu rfl _
      · rw [node_upd_ne ha h]
        exact hr _
    | _ => exact hr _

/-! ## What a discarded block leaves of its node (01 R19) -/

/-- What a node has besides its matching store and its spill area. -/
def Node.besideTokens (nd : Node) : Node := { nd with entries := [], spill := [] }

theorem Node.besideTokens_setEntry (nd : Node) (e : Nat) (m : Option MEntry) : (nd.setEntry e m).besideTokens = nd.besideTokens := by
  cases m <;> rfl

theorem Node.besideTokens_place (nd : Node) (q slot : Nat) (t : Tok) (edge : Option Nat) : (nd.place q slot t edge).besideTokens = nd.besideTokens := by
  unfold Node.place
  dsimp only
  split
  · exact nd.besideTokens_setEntry _ _
  · split
    · exact nd.besideTokens_setEntry _ _
    · rfl

/-- A fold of changes of tokens keeps the rest. -/
theorem Node.besideTokens_foldl {α : Type} {f : Node → α → Node} (hf : ∀ nd x, (f nd x).besideTokens = nd.besideTokens) (l : List α) (nd : Node) :
    (l.foldl f nd).besideTokens = nd.besideTokens :=
  List.foldlRecOn l f (motive := fun m => m.besideTokens = nd.besideTokens) rfl fun m hm x _ => (hf m x).trans hm

theorem Node.besideTokens_unspill (nd : Node) (e : Nat) : (nd.unspill e).besideTokens = nd.besideTokens := by
  unfold Node.unspill
  split
  · rfl
  · split
    · rfl
    · split
      · rfl
      · exact (Node.besideTokens_foldl (fun _ _ => Node.besideTokens_place ..) _ _).trans rfl

theorem Node.besideTokens_giveBack (nd : Node) (us : List CUnit) : (nd.giveBack us).besideTokens = nd.besideTokens := by
  unfold Node.giveBack
  refine ((Node.besideTokens_foldl (fun _ _ => ?_) _ _).trans (Node.besideTokens_foldl (fun _ _ => ?_) _ _)).trans rfl
  · exact Node.besideTokens_unspill ..
  · exact Node.besideTokens_place ..

/-- What a discarded block leaves of its node: contexts, commit stream, fault state, task, cards and registers. -/
def Node.kept (nd : Node) := (nd.ctxs, nd.lastCtx, nd.wq, nd.fs, nd.task, nd.regs)

/-- What is beside the tokens keeps what a discard leaves. -/
theorem Node.kept_of_besideTokens {a b : Node} (h : a.besideTokens = b.besideTokens) : a.kept = b.kept :=
  (congrArg Node.kept h : a.besideTokens.kept = b.besideTokens.kept)

theorem Node.kept_unmapped (nd : Node) : ({ nd with cur := none, fetched := none, loads := [], held := [] } : Node).kept = nd.kept := rfl

theorem Node.kept_giveBack (nd : Node) (us : List CUnit) : (nd.giveBack us).kept = nd.kept :=
  Node.kept_of_besideTokens (nd.besideTokens_giveBack us)

section
variable {n : Nat}

theorem onNode_refundPass : (refundPass n).Only (Upd.OnNode n fun a b => b.kept = a.kept) := by
  intro s
  dsimp only
  split
  · exact trivial
  · exact Prog.only_each fun _ _ _ _ => rfl

theorem onNode_releaseClaims {P : Node → Node → Prop} {tid asid : Nat} {us : List CUnit} : (releaseClaims tid asid us).Only (Upd.OnNode n P) := by
  refine Prog.only_each fun cl _ => ?_
  cases cl <;> exact trivial

theorem onNode_discardBlock : (discardBlock n).Only (Upd.OnNode n fun a b => b.kept = a.kept) := by
  refine ⟨onNode_refundPass, fun s => ?_⟩
  dsimp only
  split
  · exact fun _ _ => rfl
  · refine ⟨?_, fun _ nd => (Node.kept_unmapped _).trans (nd.kept_giveBack _)⟩
    split
    · exact onNode_releaseClaims
    · exact trivial

variable {s : State}

theorem discardBlock_kept (hs : s.Canonical) : (((discardBlock n).run s).node n).kept = (s.node n).kept :=
  Prog.node_rel (P := fun a b => b.kept = a.kept) (fun _ => rfl) (fun _ _ _ h1 h2 => h2.trans h1) onNode_discardBlock hs

/-- Nothing is mapped or fetched once the block is discarded. -/
theorem discardBlock_unmapped (hs : s.Canonical) : (((discardBlock n).run s).node n).cur = none ∧ (((discardBlock n).run s).node n).fetched = none := by
  have hs1 : ((refundPass n).run s).Canonical := Prog.canonical _ hs
  cases h : (((refundPass n).run s).node n).cur with
  | none =>
    simp only [discardBlock, Prog.run_seq, Prog.run_ask, h, Prog.run_upd, node_upd hs1, and_self]
  | some m =>
    simp only [discardBlock, Prog.run_seq, Prog.run_ask, h, Prog.run_upd, node_upd (Prog.canonical _ hs1), and_self]

/-- Its loads go with a mapped block. -/
theorem discardBlock_loads (hs : s.Canonical) (hc : (s.node n).cur.isSome = true) : (((discardBlock n).run s).node n).loads = [] := by
  have hs1 : ((refundPass n).run s).Canonical := Prog.canonical _ hs
  have hcur : (((refundPass n).run s).node n).cur = (s.node n).cur := by
    refine Prog.node_rel (P := fun a b => b.cur = a.cur) (fun _ => rfl) (fun _ _ _ h1 h2 => h2.trans h1) ?_ hs
    intro u
    dsimp only
    split
    · exact trivial
    · exact Prog.only_each fun _ _ _ _ => rfl
  obtain ⟨m, hm⟩ := Option.isSome_iff_exists.1 hc
  rw [hm] at hcur
  simp only [discardBlock, Prog.run_seq, Prog.run_ask, hcur, Prog.run_upd, node_upd (Prog.canonical _ hs1)]

/-- An update that adds no report to the Farrier's. -/
def Upd.KeepsReports : Upd → Prop
  | .hub f => ∀ h, (f h).reports = h.reports
  | _ => True

theorem Prog.reports_of_only {p : Prog} (hp : p.Only Upd.KeepsReports) (s : State) : (p.run s).hub.reports = s.hub.reports := by
  refine Prog.run_rel (R := fun a b => b.hub.reports = a.hub.reports) (fun _ => rfl) (fun _ _ _ h1 h2 => h2.trans h1) (fun u hu a => ?_) p hp s
  cases u with
  | hub f => exact hu _
  | _ => rfl

theorem keepsReports_refundPass : (refundPass n).Only Upd.KeepsReports := by
  intro u
  dsimp only
  split
  · exact trivial
  · exact Prog.only_each fun _ _ => trivial

theorem keepsReports_releaseClaims {tid asid : Nat} {us : List CUnit} : (releaseClaims tid asid us).Only Upd.KeepsReports := by
  refine Prog.only_each fun cl _ => ?_
  cases cl with
  | run => exact fun _ => rfl
  | _ => exact trivial

theorem reports_discardBlock (s : State) : ((discardBlock n).run s).hub.reports = s.hub.reports := by
  refine Prog.reports_of_only (p := discardBlock n) ⟨keepsReports_refundPass, fun u => ?_⟩ s
  dsimp only
  split
  · exact trivial
  · refine ⟨?_, trivial⟩
    split
    · exact keepsReports_releaseClaims
    · exact trivial

end

/-! ## Settling (22 R361, R362) -/

/-- Reports stand in the hub in the order in which they are made, each of the node as it is. -/
theorem run_each_report (n : Nat) (l : List FaultRec) (s : State) : (Prog.each l fun x => report n x none).run s =
    { s with hub := { s.hub with reports := s.hub.reports ++ l.map (reportOf s n) } } := by
  induction l generalizing s with
  | nil =>
    rw [List.map_nil, List.append_nil]
    rfl
  | cons x l ih =>
    have hx : (report n x none).run s = { s with hub := { s.hub with reports := s.hub.reports ++ [reportOf s n x] } } := rfl
    show (Prog.each l fun x => report n x none).run ((report n x none).run s) = _
    rw [ih, hx, List.map_cons, List.append_cons s.hub.reports (reportOf s n x) (l.map (reportOf s n))]
    rfl

/-- A report names the task, the partition and the charge of its node, not its fault state. -/
theorem reportOf_record {s : State} (hs : s.Canonical) {n : Nat} (hn : n < 2048) (f x : FaultRec) :
    reportOf ((Upd.node n fun nd => nd.record f).apply s) n x = reportOf s n x := by
  have hnode := node_upd hs n fun nd => nd.record f
  have htask : (((Upd.node n fun nd => nd.record f).apply s).node n).task = (s.node n).task := by
    rw [hnode, Node.record]
    split <;> rfl
  have hcrib : (((Upd.node n fun nd => nd.record f).apply s).node n).crib = (s.node n).crib := by
    rw [hnode, Node.record]
    split <;> rfl
  simp only [reportOf, refTask, refNode, hn, if_true, htask, hcrib]
  rfl

/-- What settling the faults of a block leaves: the lowest recorded, every one reported, the block discarded. -/
theorem settleFaults_run {s : State} {n : Nat} {m : Mapped} {f : FaultRec} {fs : List FaultRec} (hc : (s.node n).cur = some m)
    (ho : orderFaults m.faults = f :: fs) : (settleFaults n).run s =
      (discardBlock n).run ((Prog.each (f :: fs) fun x => report n x none).run ((Upd.node n fun nd => nd.record f).apply s)) := by
  simp only [settleFaults, Prog.run_ask, hc, Option.map_some, ho]
  rfl

/-- The first of the ordered faults is one of them, and none lies below it. -/
theorem orderFaults_head {l fs : List FaultRec} {f : FaultRec} (h : orderFaults l = f :: fs) :
    f ∈ l ∧ ∀ g ∈ l, f.place * 2 ^ 20 + f.tag.toNat ≤ g.place * 2 ^ 20 + g.tag.toNat := by
  have hmem : ∀ g, g ∈ f :: fs ↔ g ∈ l := fun g => by rw [← h]; exact mem_sortBy
  have hle : (f :: fs).Pairwise fun x y => x.place * 2 ^ 20 + x.tag.toNat ≤ y.place * 2 ^ 20 + y.tag.toNat := by
    rw [← h]
    exact pairwise_sortBy l
  refine ⟨(hmem f).1 (List.mem_cons_self ..), fun g hg => ?_⟩
  rcases List.mem_cons.1 ((hmem g).2 hg) with rfl | hg
  · exact le_rfl
  · exact (List.pairwise_cons.1 hle).1 g hg

/-- The node once its block's faults are settled: what a discard leaves of it, with the lowest fault recorded. -/
theorem settleFaults_node {s : State} (hs : s.Canonical) {n : Nat} {m : Mapped} {f : FaultRec} {fs : List FaultRec} (hc : (s.node n).cur = some m)
    (ho : orderFaults m.faults = f :: fs) :
    let b := ((settleFaults n).run s).node n
    b.kept = ((s.node n).record f).kept ∧ b.cur = none ∧ b.fetched = none ∧ b.loads = [] := by
  rw [settleFaults_run hc ho, run_each_report]
  have hcan : State.Canonical ((Upd.node n fun nd => nd.record f).apply s) := Upd.canonical _ hs
  have hnode := node_upd hs n fun nd => nd.record f
  generalize (Upd.node n fun nd => nd.record f).apply s = u at hcan hnode ⊢
  have hcan' : State.Canonical { u with hub := { u.hub with reports := u.hub.reports ++ (f :: fs).map (reportOf u n) } } :=
    Upd.canonical (.hub fun h => { h with reports := h.reports ++ (f :: fs).map (reportOf u n) }) hcan
  have hcur : (u.node n).cur.isSome = true := by
    rw [hnode, Node.record]
    split <;> simp [hc]
  exact ⟨(discardBlock_kept hcan').trans (congrArg Node.kept hnode), (discardBlock_unmapped hcan').1, (discardBlock_unmapped hcan').2,
    discardBlock_loads hcan' hcur⟩

theorem settleFaults_reports {s : State} (hs : s.Canonical) {n : Nat} (hn : n < 2048) {m : Mapped} {f : FaultRec} {fs : List FaultRec}
    (hc : (s.node n).cur = some m) (ho : orderFaults m.faults = f :: fs) :
    ((settleFaults n).run s).hub.reports = s.hub.reports ++ (f :: fs).map (reportOf s n) := by
  rw [settleFaults_run hc ho, reports_discardBlock, run_each_report]
  exact congrArg (s.hub.reports ++ ·) (List.map_congr_left fun x _ => reportOf_record hs hn f x)

/-! ## Returning (14 R290; 22 R364) -/

theorem faultRef_self {s : State} {n : Nat} (hv : bit (s.node n).fs.code 63 = true) (ht : (s.node n).task.isSome = true) : faultRef s n = n := by
  simp only [faultRef, hv, ht, Bool.and_self, if_true]

/-- FSCODE with V cleared. -/
theorem bit_clear_63 (w : Word) : bit (w &&& ~~~(1#64 <<< 63)) 63 = false := by
  simp [bit]

/-- The node as FRET with action 0 leaves it: V cleared, nothing fetched, the next context at FSPC. -/
def Node.resumed (nd : Node) : Node :=
  let nd := { nd with fs := { nd.fs with code := nd.fs.code &&& ~~~(1#64 <<< 63) }, fetched := none }
  match nd.nextCtx with
  | some c => { nd with ctxs := Sparse.upd Ctx.reset nd.ctxs c fun x => { x with pc := nd.fs.pc.setWidth 58 } }
  | none => nd

theorem farrierReturn_resumes {s : State} (hs : s.Canonical) {n : Nat} (hn : n < 2048) (hv : bit (s.node n).fs.code 63 = true)
    (ht : (s.node n).task.isSome = true) : ((farrierReturn n 0).run s).node n = (((discardBlock n).run s).node n).resumed := by
  have hcan : ((discardBlock n).run s).Canonical := Prog.canonical _ hs
  have hrun : (farrierReturn n 0).run s = (onRef n Node.resumed).run ((discardBlock n).run s) := by
    simp only [farrierReturn, Prog.run_ask, faultRef_self hv ht, refNode, hn, hv, if_true, Bool.not_true, Bool.false_eq_true, if_false, decide_true]
    rfl
  rw [hrun, node_onRef hcan hn]

end Sys2Proof.Machine

open Sys2Proof Sys2Proof.Machine

/-- Settles O47: a fault stands in its block; settling records the first of the ordered faults and discards; FRET resumes or aborts. -/
theorem faultsAreTaken : Obligations.FaultsAreTaken := by
  intro s n hs hn a
  refine ⟨fun m f hc => ?taken, fun m f fs hc ho => ?settled, fun c hv ht hw hx => ?resumes, fun tid hv ht hk => ?aborts⟩
  case taken =>
    refine ⟨?_, rfl, rfl⟩
    have hcur : (s.node n).cur = some m := hc
    have hrun : (takeFault n f).run s = (Prog.upd (.node n fun nd => { nd with cur := nd.cur.map (Mapped.fail f) })).run s := by
      simp only [takeFault, Prog.run_ask, hcur]
    have hput : ({ s.node n with cur := (s.node n).cur.map (Mapped.fail f) } : Node) = { s.node n with cur := some (m.fail f) } := by
      rw [hcur]
      rfl
    rw [hrun]
    exact congrArg (fun x => { s with nodes := Sparse.put Node.reset s.nodes n x }) hput
  case settled =>
    intro t b
    obtain ⟨hmem, hle⟩ := orderFaults_head ho
    obtain ⟨hkept, hcur, hfetched, hloads⟩ := settleFaults_node hs hc ho
    have hkept' : b.kept = (a.record f).kept := hkept
    simp only [Node.kept, Prod.mk.injEq] at hkept'
    obtain ⟨hctxs, -, hwq, hfs, -, hregs⟩ := hkept'
    have hbase : (a.record f).ctxs = a.ctxs ∧ (a.record f).wq = a.wq := by
      unfold Node.record
      split <;> exact ⟨rfl, rfl⟩
    refine ⟨hmem, hle, hcur, hfetched, hloads, hctxs.trans hbase.1, hwq.trans hbase.2, Node.sameRegs_of_regs (hregs.trans (a.regs_record f)),
      settleFaults_reports hs hn hc ho, fun hv => ?_, fun hv => ?_⟩
    · rw [hfs, Node.record, if_pos hv]
    · rw [hfs, Node.record, if_neg (by rw [hv]; decide)]
      exact ⟨rfl, rfl, rfl, rfl, rfl⟩
  case resumes =>
    intro b
    have hb : b = (((discardBlock n).run s).node n).resumed := farrierReturn_resumes hs hn hv ht
    have hkept := discardBlock_kept (n := n) hs
    have hcur := (discardBlock_unmapped (n := n) hs).1
    generalize ((discardBlock n).run s).node n = d at hx hb hkept hcur
    have hx' : ({ d with fs := { d.fs with code := d.fs.code &&& ~~~(1#64 <<< 63) }, fetched := none } : Node).nextCtx = some c := hx
    simp only [Node.kept, Prod.mk.injEq] at hkept
    obtain ⟨hctxs, -, -, hfs, -, hregs⟩ := hkept
    have hwd : Sparse.wf Ctx.reset d.ctxs = true := by rw [hctxs]; exact hw
    rw [hb, Node.resumed]
    simp only [hx']
    refine ⟨bit_clear_63 _, congrArg FaultSt.pend hfs, hcur, ?_, Node.sameRegs_of_regs ?_⟩
    · rw [Node.ctx, Sparse.upd, Sparse.get_put _ _ _ hwd, if_pos rfl, hfs]
    · exact hregs
  case aborts =>
    have hrun : (farrierReturn n 1).run s = (abortTask tid 0x82).run s := by
      have htask : (s.node n).task = some tid := ht
      have href : faultRef s n = n := faultRef_self hv (by rw [htask]; rfl)
      simp only [farrierReturn, Prog.run_ask, href, refTask, hn, htask, if_true, Nat.not_ofNat_le_one, if_false]
    obtain ⟨t, hst⟩ := Option.isSome_iff_exists.1 hk
    rw [hrun]
    by_cases he : t.st = .ending
    · rw [abortTask_run_skip _ fun t' ht' => by cases hst.symm.trans ht'; exact he]
      exact State.ending_iff.2 ⟨t, hst, he⟩
    · exact abortTask_ends hst he

end

section
/-! PROOFS. How the hub answers commands (21 R348, R349, R352), and what the commands do that stand in order (15 R293–R297; 03 R68, R81; 21 R347–R358;
06 R119–R126). -/

namespace Sys2Proof.Machine
open Sys2Proof.Bits

variable {s : State} {c : Cmd} {opc : Nat} {inSafe : Bool}

/-! ## The frame of the commands -/

/-- A command code as the hub answers it: its place in the order first, then its own meaning. -/
def AnsweredBy (i : Instr) (opc : Nat) (c : Cmd) (inSafe : Bool) : Prop :=
  ∃ k : State → Host.Outcome State Fault Refusal, ∀ s, exec i s = inOrder opc c inSafe (k s) s

section
variable {i : Instr} (h : AnsweredBy i opc c inSafe)
include h

/-- One that is not executed as the part stands is answered with STATUS 1. -/
theorem exec_notAccepted (hp : ¬s.power = .off) (ha : accepts s.power opc inSafe = false) : exec i s = (respond opc 1 c.seq [] false).done s := by
  obtain ⟨k, hk⟩ := h
  rw [hk, inOrder, if_neg hp, ha]
  rfl

/-- One that is out of order is answered with what is stored for it, or STATUS 3. -/
theorem exec_outOfOrder (hp : ¬s.power = .off) (ha : accepts s.power opc inSafe = true) (ho : ¬c.seq = s.hub.lastCmd + 1) :
    exec i s = (outOfOrder opc c.seq).done s := by
  obtain ⟨k, hk⟩ := h
  rw [hk, inOrder, if_neg hp, ha]
  simp only [ho, Bool.not_true, decide_false, Bool.not_false, Bool.false_eq_true, if_false, if_true]

/-- One with a nonzero "—" field is malformed. -/
theorem exec_dashed (hp : ¬s.power = .off) (ha : accepts s.power opc inSafe = true) (ho : c.seq = s.hub.lastCmd + 1) (hd : c.dash = true) :
    exec i s = (execute opc c.seq .malformed).done s := by
  obtain ⟨k, hk⟩ := h
  rw [hk, inOrder, if_neg hp, ha]
  simp only [ho, hd, Bool.not_true, decide_true, Bool.false_eq_true, if_false, if_true]

end

theorem accepts_iff : accepts s.power opc inSafe = true ↔
    s.power = .running ∨ (s.power = .safe ∧ inSafe = true) ∨ (s.power = .starting ∧ (opc = 0x80 ∨ opc = 0x82)) := by
  cases s.power <;> simp [accepts]

theorem outOfOrder_stored {seq : Word} {r : Word × Msg} (hf : s.hub.stored.find? (fun e => e.1 == seq) = some r) (hle : seq.toNat ≤ s.hub.lastCmd.toNat)
    (hw : s.hub.lastCmd.toNat - seq.toNat < 64) : (outOfOrder opc seq).run s = { s with hub := { s.hub with outbox := s.hub.outbox ++ [r.2] } } := by
  simp only [outOfOrder, Prog.run_ask, hf, hw, hle, decide_true, Bool.and_self, if_true, Prog.run_upd, Upd.apply]

theorem outOfOrder_unknown {seq : Word} (hf : s.hub.stored.find? (fun e => e.1 == seq) = none) :
    (outOfOrder opc seq).run s = (respond opc 3 seq [] false).run s := by
  simp only [outOfOrder, Prog.run_ask, hf]

/-- A command that the part executes, stands next in order and is clean goes on with its own meaning. -/
theorem inOrder_next {k : Host.Outcome State Fault Refusal} (hp : ¬s.power = .off) (ha : accepts s.power opc inSafe = true)
    (ho : c.seq = s.hub.lastCmd + 1) (hd : c.dash = false) : inOrder opc c inSafe k s = k := by
  rw [inOrder, if_neg hp, ha]
  simp only [ho, hd, Bool.not_true, decide_true, Bool.false_eq_true, if_false]

theorem InOrder.on (h : InOrder c s) : ¬s.power = .off := by
  rw [h.running]
  decide

theorem InOrder.accepted (h : InOrder c s) : accepts s.power opc inSafe = true := accepts_iff.2 (.inl h.running)

theorem InOrder.inOrder {k : Host.Outcome State Fault Refusal} (h : InOrder c s) : inOrder opc c inSafe k s = k :=
  inOrder_next h.on h.accepted h.next h.clean

/-- A command in order whose reply is known is executed and answered. -/
theorem hubCommand_reply {run : State → Option Reply} {r : Reply} (hp : ¬s.power = .off) (ha : accepts s.power opc inSafe = true)
    (ho : c.seq = s.hub.lastCmd + 1) (hd : c.dash = false) (hr : run s = some r) :
    hubCommand opc c inSafe run s = .next ((execute opc c.seq r).run s) := by
  rw [hubCommand, inOrder_next hp ha ho hd, hr]
  rfl

theorem InOrder.reply {run : State → Option Reply} {r : Reply} (h : InOrder c s) (hr : run s = some r) :
    hubCommand opc c inSafe run s = .next ((execute opc c.seq r).run s) := hubCommand_reply h.on h.accepted h.next h.clean hr

end Sys2Proof.Machine

open Sys2Proof Sys2Proof.Machine

/-- Settles O50: every command goes through one frame, which looks at the state of the part, the place in the order and the "—" fields in turn. -/
theorem commandsAreAnswered : Obligations.CommandsAreAnswered := by
  intro c p q n va x y z d k w0 w1 w2 w3 bs ws ns fs o b e he s m told
  have h : AnsweredBy e.1 e.2.1 c e.2.2 := by
    simp only [List.mem_cons, List.not_mem_nil, or_false] at he
    rcases he with rfl | rfl | rfl | rfl | rfl | rfl | rfl | rfl | rfl | rfl | rfl | rfl | rfl | rfl | rfl | rfl | rfl | rfl | rfl | rfl | rfl | rfl | rfl <;>
      exact ⟨_, fun _ => rfl⟩
  refine ⟨fun hp hs => ?safe, fun hp h80 h82 => ?starting, fun hp => ?accepted⟩
  case safe => exact exec_notAccepted h (by rw [hp]; decide) (by rw [hp]; exact hs)
  case starting => exact exec_notAccepted h (by rw [hp]; decide) (by rw [hp]; simp [accepts, h80, h82])
  case accepted =>
    have ha := accepts_iff.2 hp
    have hon : ¬s.power = .off := by rcases hp with hp | ⟨hp, -⟩ | ⟨hp, -⟩ <;> rw [hp] <;> decide
    refine ⟨fun ho => ⟨fun r hr hle hw => ?_, fun hr => ?_⟩, fun ho hd => exec_dashed h hon ha ho hd⟩
    · rw [exec_outOfOrder h hon ha ho, Prog.done_eq, outOfOrder_stored hr hle hw]
    · rw [exec_outOfOrder h hon ha ho, Prog.done_eq, outOfOrder_unknown hr]
      rfl

end

section
/-! PROOFS. The commands that set up partitions, and the other commands of the hub (15 R293–R297; 03 R68, R81; 21 R351–R358; 06 R119–R126). -/

namespace Sys2Proof.Machine
open Sys2Proof.Bits

variable {s : State} {c : Cmd} {p asid : Nat}

/-! ## Partitions (15 R293–R297) -/

/-- A partition that does not exist and whose new entry keeps the limits is created. -/
theorem execPart_creates {w0 w1 w2 : Word} (h : InOrder c s) (hp : p < 48) (h0 : field w0 18 12 = 0) (h1 : ¬field w0 53 8 = 0) (he : (s.part p).en = false)
    (hx : ({ s.part p with w0 := w0, w1 := w1, w2 := w2 } : Part).en = true)
    (hr : rectOk s p { s.part p with w0 := w0, w1 := w1, w2 := w2 } = true) (ha : asidsOk s p { s.part p with w0 := w0, w1 := w1, w2 := w2 } = true)
    (hm : minimaOk s p { s.part p with w0 := w0, w1 := w1, w2 := w2 } = true) :
    exec (.part c p w0 w1 w2) s = .next ((execute 0x10 c.seq (.ok (.upd (.part p fun y =>
      ({ y with w0 := w0, w1 := w1, w2 := w2 } : Part).create s.tbase)))).run s) := by
  show execPart c p w0 w1 w2 s = _
  refine h.reply ?_
  have hnew : partChange s p { s.part p with w0 := w0, w1 := w1, w2 := w2 } = none := by
    simp only [partChange, he, Bool.not_false, if_true]
  simp only [hp, h0, h1, hnew, hx, hr, ha, hm, he, decide_true, Bool.and_self, Bool.true_or, Bool.not_true, Bool.not_false, Bool.and_false, Bool.false_eq_true,
    if_false, if_true]
  rfl

/-- A key in an empty slot is put there. -/
theorem installKey_first {k : List Byte} (h : (s.part p).key = none) :
    (installKey p k).run s = (Prog.upd (.part p fun x => { x with key := some k })).run s := by
  simp only [installKey, Prog.run_ask, Prog.run_seq, h, Option.isSome_none, Bool.false_and, Prog.run_when_false]

section
variable {wrap : List Byte} (h : InOrder c s) (hp : p < 48) (hw : wrap.length = 72)
include h hp hw

theorem execKey_busy (hb : partBusy s p = true) : exec (.key c p wrap) s = .next ((execute 0x11 c.seq .busy).run s) := by
  show execKey c p wrap s = _
  refine h.reply ?_
  simp only [hp, hw, hb, decide_true, Bool.and_self, Bool.not_true, Bool.false_eq_true, if_false, if_true]

theorem execKey_installs {k : List Byte} (hb : partBusy s p = false) (hk : Config.unwrapKey wrap = some k) (hd : ¬k.take 32 = k.drop 32) :
    exec (.key c p wrap) s = .next ((execute 0x11 c.seq (.ok (installKey p k))).run s) := by
  show execKey c p wrap s = _
  refine h.reply ?_
  simp only [hp, hw, hb, hk, hd, decide_true, Bool.and_self, Bool.not_true, Bool.false_eq_true, if_false]

theorem execKey_bad (hb : partBusy s p = false) (hk : Config.unwrapKey wrap = none) :
    exec (.key c p wrap) s = .next ((execute 0x11 c.seq .badKey).run s) := by
  show execKey c p wrap s = _
  refine h.reply ?_
  simp only [hp, hw, hb, hk, decide_true, Bool.and_self, Bool.not_true, Bool.false_eq_true, if_false]

end

section
variable {bases : List Word} {caps : List Nat} {logCap mirBase mirLen partner : Nat} (h : InOrder c s) (hp : p < 48) (h1 : bases.length = 16)
  (h2 : caps.length = 16) (h3 : partner < 256)
include h hp h1 h2 h3

theorem execRings_busy (hb : partBusy s p = true) :
    exec (.rings c p bases caps logCap mirBase mirLen partner) s = .next ((execute 0x12 c.seq .busy).run s) := by
  show execRings c p bases caps logCap mirBase mirLen partner s = _
  refine h.reply ?_
  simp only [hp, h1, h2, h3, hb, decide_true, Bool.and_self, Bool.not_true, Bool.false_eq_true, if_false, if_true]

theorem execRings_sets (hb : partBusy s p = false) (h4 : 8 ≤ logCap) (h5 : (s.part p).log.length ≤ logCap) :
    exec (.rings c p bases caps logCap mirBase mirLen partner) s = .next ((execute 0x12 c.seq (.ok (.seq (.upd (.part p fun x => { x with
      queues := (List.range 16).foldl (fun qs k => Sparse.upd Queue.reset qs k fun y => { y with base := bases.getD k 0, cap := caps.getD k 0 }) x.queues
      logCap := logCap
      mirBase := mirBase
      mirLen := mirLen
      partner := partner })) (enterAll p)))).run s) := by
  show execRings c p bases caps logCap mirBase mirLen partner s = _
  refine h.reply ?_
  simp only [hp, h1, h2, h3, hb, h4.not_gt, h5.not_gt, decide_true, decide_false, Bool.and_self, Bool.or_self, Bool.not_true, Bool.false_eq_true, if_false]

end

/-- FRAMES assigns its list where every frame of it may be assigned and none is on its way out. -/
theorem execFrames_assigns {fs : List FrameReq} (h : InOrder c s) (hp : p < 48) (ha : asid < 2048) (hin : asidIn s p asid = true)
    (hfs : ∀ f ∈ fs, f.page < 2 ^ 41 ∧ frameOk s p f = true ∧ inArena s asid f.page = false ∧ frameLeaving s f = false) :
    exec (.frames c p asid fs) s = .next ((execute 0x13 c.seq (.ok (Prog.each fs (assignFrame p asid)))).run s) := by
  have h1 : (fs.all fun f => decide (f.page < 2 ^ 41)) = true := List.all_eq_true.2 fun f hf => decide_eq_true (hfs f hf).1
  have h2 : (fs.all fun f => frameOk s p f && !inArena s asid f.page) = true := List.all_eq_true.2 fun f hf => by
    obtain ⟨-, hok, harena, -⟩ := hfs f hf
    rw [hok, harena]
    rfl
  have h3 : fs.any (frameLeaving s) = false := List.any_eq_false.2 fun f hf => by
    obtain ⟨-, -, -, hl⟩ := hfs f hf
    rw [hl]
    decide
  show execFrames c p asid fs s = _
  refine h.reply ?_
  simp only [hp, ha, hin, h1, h2, h3, decide_true, Bool.and_self, Bool.not_true, Bool.false_eq_true, if_false]

theorem execQuota_counter {n : Word} (h : InOrder c s) (hp : p < 48) :
    exec (.quota c p n none) s = .next ((execute 0x20 c.seq (.ok (.upd (.part p fun x => { x with quota := n.toNat })))).run s) := by
  show execQuota c p n none s = _
  refine h.reply ?_
  simp only [hp, decide_true, Bool.not_true, Bool.false_eq_true, if_false]

theorem execQuota_period {n : Word} {period : Lane} (h : InOrder c s) (hp : p < 48) (hw : periodWhole s p = true) :
    exec (.quota c p n (some period)) s = .next ((execute 0x20 c.seq (.ok (openPeriod p period n.toNat))).run s) := by
  show execQuota c p n (some period) s = _
  refine h.reply ?_
  simp only [hp, hw, decide_true, Bool.not_true, Bool.false_eq_true, if_false, if_true]

/-! ## Arenas, images and windows (04 R81; 21 R351; 03 R68) -/

section
variable {id base size die : Nat} (h : InOrder c s) (hp : p < 48) (ha : asid < 2048) (hin : asidIn s p asid = true)
include h hp ha hin

section
variable (h1 : 1 ≤ id) (h2 : id ≤ 1023) (h3 : base % 2 ^ 16 = 0) (h4 : size % 2 ^ 16 = 0) (h5 : 0 < size) (h6 : size ≤ 2 ^ 39) (h7 : base + size ≤ 2 ^ 57)
  (h8 : die < 4)
include h1 h2 h3 h4 h5 h6 h7 h8

theorem execArenaCreate_busy (hb : asidBusy s asid = true) :
    exec (.arenaCreate c p asid id base size die) s = .next ((execute 0x30 c.seq .busy).run s) := by
  show execArenaCreate c p asid id base size die s = _
  refine h.reply ?_
  simp only [hp, ha, hin, h1, h2, h3, h4, h5, h6, h7, h8, hb, decide_true, Bool.and_self, Bool.not_true, Bool.false_eq_true, if_false, if_true]

/-- An arena of its own pages is made where no other live arena of the ASID meets it. -/
theorem execArenaCreate_creates (hb : asidBusy s asid = false) (hnew : s.arena asid id = none) (hc : coveredBy s p asid base size = true)
    (hapart : ∀ a ∈ s.hub.arenas, a.1.1 = asid → a.2.live = true → a.2.base + a.2.size ≤ base ∨ base + size ≤ a.2.base) :
    exec (.arenaCreate c p asid id base size die) s = .next ((execute 0x30 c.seq (.ok (createArena asid id base size die))).run s) := by
  have hno : (s.hub.arenas.any fun a => a.1.1 == asid && a.2.live && decide (base < a.2.base + a.2.size) && decide (a.2.base < base + size)) = false := by
    refine List.any_eq_false.2 fun a hmem hmeet => ?_
    simp only [Bool.and_eq_true, beq_iff_eq, decide_eq_true_eq] at hmeet
    obtain ⟨⟨⟨hasid, hlive⟩, hlo⟩, hhi⟩ := hmeet
    have := hapart a hmem hasid hlive
    omega
  show execArenaCreate c p asid id base size die s = _
  refine h.reply ?_
  simp only [hp, ha, hin, h1, h2, h3, h4, h5, h6, h7, h8, hb, hnew, hno, hc, Option.isSome_none, Bool.or_self, decide_true, Bool.and_self, Bool.not_true,
    Bool.false_eq_true, if_false]

end

section
variable {a : Arena} (h1 : 1 ≤ id) (h2 : id ≤ 1023) (har : s.arena asid id = some a)
include h1 h2 har

/-- An arena with granules that are covered or pending stays. -/
theorem execArenaDestroy_refused (hu : ¬(a.count = [] ∧ a.pending = [])) :
    exec (.arenaDestroy c p asid id) s = .next ((execute 0x30 c.seq .refused).run s) := by
  have hin' : (!decide (a.count = []) || !decide (a.pending = [])) = true := by
    rw [← Bool.not_and, Bool.not_eq_true', ← Bool.not_eq_true, Bool.and_eq_true, decide_eq_true_eq, decide_eq_true_eq]
    exact hu
  show execArenaDestroy c p asid id s = _
  refine h.reply ?_
  simp only [hp, ha, hin, h1, h2, har, hin', decide_true, Bool.and_self, Bool.not_true, Bool.false_eq_true, if_false, if_true]

theorem execArenaDestroy_busy (hc : a.count = []) (hq : a.pending = []) (hb : asidBusy s asid = true) :
    exec (.arenaDestroy c p asid id) s = .next ((execute 0x30 c.seq .busy).run s) := by
  show execArenaDestroy c p asid id s = _
  refine h.reply ?_
  simp only [hp, ha, hin, h1, h2, har, hc, hq, hb, decide_true, Bool.and_self, Bool.or_self, Bool.not_true, Bool.false_eq_true, if_false, if_true]

theorem execArenaDestroy_destroys (hc : a.count = []) (hq : a.pending = []) (hb : asidBusy s asid = false) :
    exec (.arenaDestroy c p asid id) s = .next ((execute 0x30 c.seq (.ok (onArena asid id fun a => { a with live := false, gen := a.gen + 1 }))).run s) := by
  show execArenaDestroy c p asid id s = _
  refine h.reply ?_
  simp only [hp, ha, hin, h1, h2, har, hc, hq, hb, decide_true, Bool.and_self, Bool.or_self, Bool.not_true, Bool.false_eq_true, if_false]

end

variable {va : Nat} {bytes : List Byte} (hl : bytes.length ≤ 2 ^ 20)
include hl

theorem execImage_busy (hb : asidBusy s asid = true) : exec (.image c p asid va bytes) s = .next ((execute 0x40 c.seq .busy).run s) := by
  show execImage c p asid va bytes s = _
  refine h.reply ?_
  simp only [hp, ha, hin, hl, hb, decide_true, Bool.and_self, Bool.not_true, Bool.false_eq_true, if_false, if_true]

theorem execImage_writes (hb : asidBusy s asid = false) (hr : rangePass s asid va bytes.length (fun _ => true) = true)
    (ho : rangeOwned s asid va bytes.length = false) :
    exec (.image c p asid va bytes) s = .next ((execute 0x40 c.seq (.ok (hostWrite asid va bytes))).run s) := by
  show execImage c p asid va bytes s = _
  refine h.reply ?_
  simp only [hp, ha, hin, hl, hb, hr, ho, decide_true, Bool.and_self, Bool.not_true, Bool.false_eq_true, if_false]

end

section
variable {die win : Nat} {w : Win} (h : InOrder c s) (hd : die < 4) (hw : win < 16) (hz : winZeros w = true)
include h hd hw hz

theorem execFwin_busy (hb : winBusy s (winRanges s (ownDie s die) win w) = true) :
    exec (.fwin c die win w.w0 w.w1 w.w2 w.w3) s = .next ((execute 0x50 c.seq .busy).run s) := by
  show execFwin c die win w.w0 w.w1 w.w2 w.w3 s = _
  refine h.reply ?_
  simp only [hd, hw, hz, hb, decide_true, Bool.and_self, Bool.not_true, Bool.false_eq_true, if_false, if_true]

theorem execFwin_writes (hb : winBusy s (winRanges s (ownDie s die) win w) = false) (ho : winsOk s (ownDie s die) win w = true) :
    exec (.fwin c die win w.w0 w.w1 w.w2 w.w3) s = .next ((execute 0x50 c.seq (.ok (putWindow s (ownDie s die) win w))).run s) := by
  show execFwin c die win w.w0 w.w1 w.w2 w.w3 s = _
  refine h.reply ?_
  simp only [hd, hw, hz, hb, ho, decide_true, Bool.and_self, Bool.not_true, Bool.false_eq_true, if_false]

end

/-! ## Records and logs (21 R351; 06 R119, R124–R126) -/

/-- The Groom has nothing to write for a page that no frame waits for. -/
theorem groomNow_skip {va : Nat} (h : dueFrame s asid (va / 2 ^ 16) = none) : (groomNow asid va).run s = s := by
  simp only [groomNow, Prog.run_ask, h, Prog.run_skip]

/-- The effect of a command is what its program does to the state in which the command has its place in the order. -/
theorem execute_ok_congr {opc : Nat} {seq : Word} {e e' : Prog} (h : e.run { s with hub := { s.hub with lastCmd := seq } } =
    e'.run { s with hub := { s.hub with lastCmd := seq } }) : (execute opc seq (.ok e)).run s = (execute opc seq (.ok e')).run s :=
  congrArg (fun t => (Prog.ask fun _ => respond opc 0 seq [] true).run t) h

/-- ENQUEUE writes its record where its page is mapped writable, and pushes it. -/
theorem execEnqueue_pushes {q va : Nat} {r : List Word} {w : Word} (h : InOrder c s) (hp : p < 48) (hq : q < 16) (hr : r.length = 8) (h0 : va % 64 = 0)
    (h1 : va < 2 ^ 57) (hpart : recField r 2 26 6 = p) (hin : asidIn s p (recAsid r) = true) (hroom : queueRoom s p q = true)
    (hdue : dueFrame s (recAsid r) (va / 2 ^ 16) = none) (hw : walk s (recAsid r) va = .entry w) (hwr : entryWr w = true) :
    exec (.enqueue c p q r va) s = .next ((execute 0x60 c.seq (.ok (.seq (devWrite (entryPa w va) (bytesOf r)) (pushQueue p q r va (recAsid r))))).run s) := by
  show execEnqueue c p q r va s = _
  refine (h.reply (r := .ok (.all [groomNow (recAsid r) va, .ask fun s => (match walk s (recAsid r) va with
      | .entry w => if entryWr w then devWrite (entryPa w va) (bytesOf r) else .skip
      | .fault => .skip), pushQueue p q r va (recAsid r)])) ?_).trans (congrArg Host.Outcome.next (execute_ok_congr ?_))
  · simp only [hp, hq, hr, h0, h1, hpart, hin, hroom, decide_true, Bool.and_self, Bool.or_self, Bool.not_true, Bool.false_eq_true, if_false] <;> rfl
  · have hdue' : dueFrame { s with hub := { s.hub with lastCmd := c.seq } } (recAsid r) (va / 2 ^ 16) = none := hdue
    have hw' : walk { s with hub := { s.hub with lastCmd := c.seq } } (recAsid r) va = .entry w := hw
    simp only [Prog.run_all_cons, Prog.run_all_nil, groomNow_skip hdue', Prog.run_ask, hw', hwr, if_true, Prog.run_seq]

theorem execCancel_queued {va : Word} {q : Nat} {e : QEntry} (h : InOrder c s) (hp : p < 48) (hq : queuedAt s p va.toNat = some (q, e))
    (hroom : logRoom s p = true) : exec (.cancel c p true va) s = .next ((execute 0x61 c.seq (.ok (withTaskId fun tid =>
      .seq (dropQueue p q e.enq) (endRecord p e tid 0x84 .skip)))).run s) := by
  show execCancel c p true va s = _
  refine h.reply ?_
  simp only [hp, hq, hroom, decide_true, Bool.not_true, Bool.false_eq_true, if_false, if_true]

end Sys2Proof.Machine

open Sys2Proof Sys2Proof.Machine

/-- Settles O51: each command stands in order, so its reply is the one that its checks give, taken one after the other. -/
theorem partitionCommands : Obligations.PartitionCommands := by
  intro c s p asid h hp does busy
  refine ⟨fun w0 w1 w2 => ?part, fun wrap hw => ⟨execKey_busy h hp hw, fun hb => ⟨fun k hk hd => ⟨execKey_installs h hp hw hb hk hd, installKey_first⟩,
      execKey_bad h hp hw hb⟩⟩, fun bases caps logCap mirBase mirLen partner h1 h2 h3 h4 h5 => ⟨execRings_busy h hp h1 h2 h3,
      fun hb => execRings_sets h hp h1 h2 h3 hb h4 h5⟩, fun fs ha hin hfs => execFrames_assigns h hp ha hin hfs, fun n => execQuota_counter h hp,
    fun n period hw => execQuota_period h hp hw, fun ha hin => ⟨fun id base size die h1 h2 h3 h4 h5 h6 h7 h8 =>
        ⟨execArenaCreate_busy h hp ha hin h1 h2 h3 h4 h5 h6 h7 h8, fun hb hnew hc => execArenaCreate_creates h hp ha hin h1 h2 h3 h4 h5 h6 h7 h8 hb hnew hc⟩,
      fun id a h1 h2 har => ⟨execArenaDestroy_refused h hp ha hin h1 h2 har, fun hc hq => ⟨execArenaDestroy_busy h hp ha hin h1 h2 har hc hq,
        execArenaDestroy_destroys h hp ha hin h1 h2 har hc hq⟩⟩, fun va bytes hl => ⟨execImage_busy h hp ha hin hl, execImage_writes h hp ha hin hl⟩⟩,
    fun die win w0 w1 w2 w3 => ?fwin⟩
  case part =>
    intro x h0 h1 he hx hr ha hm
    exact execPart_creates h hp h0 h1 he hx hr ha hm
  case fwin =>
    intro w d rs hd hw h0 h1 h2 h3
    have hz : winZeros w = true := by simp only [winZeros, w, h0, h1, h2, h3, decide_true, Bool.and_self]
    exact ⟨execFwin_busy (w := w) h hd hw hz, execFwin_writes (w := w) h hd hw hz⟩

/-- Settles O52: each command's reply is the one that its checks give; SYNC and a packet that is no command change the hub alone. -/
theorem hubCommands : Obligations.HubCommands := by
  refine ⟨fun c s p h hp => ?ordered, fun c s hon ho hd => ⟨?health, ?identity, fun image hst => ?update⟩, fun c s hon hd ho => ?sync, fun s => rfl⟩
  case ordered =>
    intro does tells x
    refine ⟨fun q r va hq hr h0 h1 hpart hin hroom hdue w hw hwr => execEnqueue_pushes h hp hq hr h0 h1 hpart hin hroom hdue hw hwr,
      fun va q e hq hroom => execCancel_queued h hp hq hroom, fun first count hc => ?logfetch, fun n hn => ?logack, fun hl => ?sign, ?msgfetch,
      fun first count hc => ?monitor, fun n hn hd => ⟨?resume, ?suspend⟩⟩
    case logfetch =>
      show execLogfetch c p first count s = _
      refine h.reply ?_
      simp only [hp, hc, decide_true, Bool.and_self, Bool.not_true, Bool.false_eq_true, if_false]
      rfl
    case logack =>
      show execLogack c p n s = _
      refine h.reply ?_
      have hn' : ¬(s.part p).nrec < n := Nat.not_lt.2 hn
      simp only [hp, hn', decide_true, Bool.not_true, Bool.false_eq_true, if_false]
    case sign =>
      show execSign c p s = _
      refine h.reply ?_
      simp only [hp, leafLeft, hl, decide_true, Bool.not_true, Bool.false_eq_true, if_false]
      rfl
    case msgfetch =>
      show execMsgfetch c p s = _
      refine h.reply ?_
      simp only [hp, decide_true, Bool.not_true, Bool.false_eq_true, if_false]
      rfl
    case monitor =>
      show execMonitor c first count s = _
      refine h.reply ?_
      simp only [hc, decide_true, Bool.not_true, Bool.false_eq_true, if_false]
    case resume =>
      show execDebugResume c p n s = _
      refine h.reply ?_
      simp only [hp, hn, hd, decide_true, Bool.and_self, Bool.not_true, Bool.false_eq_true, if_false]
    case suspend =>
      show execDebugSuspend c p n s = _
      refine h.reply ?_
      simp only [hp, hn, hd, decide_true, Bool.and_self, Bool.not_true, Bool.false_eq_true, if_false]
  case health =>
    show execHealth c s = _
    exact hubCommand_reply hon (accepts_iff.2 (by cases hq : s.power <;> simp_all)) ho hd rfl
  case identity =>
    show execIdentity c s = _
    exact hubCommand_reply hon (accepts_iff.2 (by cases hq : s.power <;> simp_all)) ho hd rfl
  case update =>
    show execFwupdate c image s = _
    exact hubCommand_reply hon (accepts_iff.2 (by cases hq : s.power <;> simp_all)) ho hd rfl
  case sync =>
    show execSync c s = _
    simp [execSync, hon, hd, ho, Bits.bytesOf, Upd.apply]

end

section
/-! PROOFS. What an abort leaves of tasks and of lines: no new task, every owner tag as it was, and none of its own (03 R75; 06 R119). -/

namespace Sys2Proof.Machine

/-! ## The relation that every operation of an abort respects -/

/-- Every task of `u` is one of `s` under the same owner tag, task `i` alone may have come to its end; every owned line of `u` bore its tag in `s`. -/
structure Abated (i : Nat) (s u : State) : Prop where
  tasks : ∀ k x, u.task k = some x → ∃ y, s.task k = some y ∧ x.owner = y.owner ∧ (x.st = y.st ∨ k = i ∧ x.st = .ending)
  lines : ∀ k l o, u.l2Line k = some l → l.owner = some o → ∃ l', s.l2Line k = some l' ∧ l'.owner = some o

section
variable {i : Nat}

theorem Abated.refl (s : State) : Abated i s s := ⟨fun _ x h => ⟨x, h, rfl, .inl rfl⟩, fun _ l _ h ho => ⟨l, h, ho⟩⟩

theorem Abated.trans {a b c : State} (hab : Abated i a b) (hbc : Abated i b c) : Abated i a c := by
  constructor
  · intro k x hx
    obtain ⟨y, hy, ho, he⟩ := hbc.tasks k x hx
    obtain ⟨z, hz, ho', he'⟩ := hab.tasks k y hy
    refine ⟨z, hz, ho.trans ho', ?_⟩
    rcases he with he | he
    · rwa [he]
    · exact .inr he
  · intro k l o hl ho
    obtain ⟨l', hl', ho'⟩ := hbc.lines k l o hl ho
    exact hab.lines k l' o hl' ho'

/-- An owner tag that no line bears is on no line afterwards. -/
theorem Abated.unowned {s u : State} {o : Nat} (h : Abated i s u) (hs : ∀ k l, s.l2Line k = some l → ¬l.owner = some o) :
    ∀ k l, u.l2Line k = some l → ¬l.owner = some o := by
  intro k l hl ho
  obtain ⟨l', hl', ho'⟩ := h.lines k l o hl ho
  exact hs k l' hl' ho'

/-- An update that makes no task, keeps the tasks' owner tags, ends none but task `i`, and marks no line. -/
def Upd.Abates (i : Nat) : Upd → Prop
  | .task j f => ∃ g : Task → Task, (∀ o, f o = o.map g) ∧ ∀ t, (g t).owner = t.owner ∧ ((g t).st = t.st ∨ j = i ∧ (g t).st = .ending)
  | .l2 _ x => ∀ l, x = some l → l.owner = none
  | _ => True

/-- Writing a line that bears no tag but one that the line bore at first. -/
theorem Abated.l2 {s u : State} {line : Nat} {x : Option L2Line} (h : Abated i s u) (hu : u.Canonical)
    (hx : ∀ l o, x = some l → l.owner = some o → ∃ l', s.l2Line line = some l' ∧ l'.owner = some o) : Abated i s ((Upd.l2 line x).apply u) := by
  refine ⟨h.tasks, fun k l o hk ho => ?_⟩
  have hk' : (if k = line then x else u.l2Line k) = some l := (Sparse.get_put line x k hu.l2).symm.trans hk
  split at hk'
  · next he => exact he ▸ hx l o hk' ho
  · exact h.lines k l o hk' ho

/-- Programs that each keep to what stood at first do so together. -/
theorem Abated.each {α : Type} {s : State} {f : α → Prog} (hf : ∀ x u, u.Canonical → Abated i s u → Abated i s ((f x).run u)) :
    ∀ (l : List α) {u : State}, u.Canonical → Abated i s u → Abated i s ((Prog.each l f).run u)
  | [], _, _, h => h
  | x :: l, _, hu, h => Abated.each hf l (Prog.canonical _ hu) (hf x _ hu h)

theorem Upd.Abates.abated {u : Upd} (hu : u.Abates i) {s : State} (hs : s.Canonical) : Abated i s (u.apply s) := by
  cases u with
  | task j f =>
    obtain ⟨g, hf, hg⟩ := hu
    refine ⟨fun k x hx => ?_, fun _ l _ h ho => ⟨l, h, ho⟩⟩
    have hx' : (if k = j then f (s.task j) else s.task k) = some x := (Sparse.get_put j _ k hs.tasks).symm.trans hx
    split at hx'
    · next he =>
      rw [hf, Option.map_eq_some_iff] at hx'
      obtain ⟨y, hy, rfl⟩ := hx'
      exact ⟨y, he ▸ hy, he ▸ hg y⟩
    · exact ⟨x, hx', rfl, .inl rfl⟩
  | l2 line x => exact (Abated.refl s).l2 hs fun l o hx ho => nomatch (hu l hx).symm.trans ho
  | _ => exact ⟨(Abated.refl (i := i) s).tasks, (Abated.refl (i := i) s).lines⟩

/-! ## Programs -/

/-- What a program leaves abated, from every canonical state. -/
def Prog.Abates (i : Nat) (p : Prog) : Prop := ∀ s, s.Canonical → Abated i s (p.run s)

theorem abates_skip : Prog.skip.Abates i := fun s _ => .refl s

theorem abates_seq {p q : Prog} (hp : p.Abates i) (hq : q.Abates i) : (Prog.seq p q).Abates i := fun s hs => (hp s hs).trans (hq _ (p.canonical hs))

theorem abates_ask {k : State → Prog} (h : ∀ s, (k s).Abates i) : (Prog.ask k).Abates i := fun s hs => h s s hs

theorem abates_each {α : Type} {f : α → Prog} {l : List α} (h : ∀ x ∈ l, (f x).Abates i) : (Prog.each l f).Abates i := by
  induction l with
  | nil => exact abates_skip
  | cons x l ih => exact abates_seq (h x (List.mem_cons_self ..)) (ih fun y hy => h y (List.mem_cons_of_mem _ hy))

theorem abates_of_only : ∀ {p : Prog}, p.Only (Upd.Abates i) → p.Abates i
  | .skip, _ => abates_skip
  | .upd _, h => fun _ hs => h.abated hs
  | .seq _ _, h => abates_seq (abates_of_only h.1) (abates_of_only h.2)
  | .ask _, h => abates_ask fun s => abates_of_only (h s)

theorem abates_task {k : Nat} {g : Task → Task}
    (h : ∀ t, (g t).owner = t.owner ∧ ((g t).st = t.st ∨ k = i ∧ (g t).st = .ending) := by exact fun _ => ⟨rfl, .inl rfl⟩) :
    (Prog.upd (.task k fun o => o.map g)).Only (Upd.Abates i) := ⟨g, fun _ => rfl, h⟩

/-! ## Discarding the blocks (01 R19; 22 R362) -/

/-- Freeing a colour leaves the task's owner tag. -/
theorem Task.owner_dropColour : ∀ (k c : Nat) (t : Task), (Task.dropColour k c t).owner = t.owner
  | 0, _, _ => rfl
  | k + 1, _, t => by
    unfold Task.dropColour
    refine List.foldlRecOn _ _ (motive := fun u => u.owner = t.owner) ?_ fun u hu x _ => (Task.owner_dropColour k x u).trans hu
    rfl

theorem onlyAbates_report {n : Nat} {f : FaultRec} {a : Option Nat} : (report n f a).Only (Upd.Abates i) := by
  intro s
  cases a
  · trivial
  · exact fun _ => ⟨trivial, trivial⟩

theorem onlyAbates_releaseClaims {tid asid : Nat} {us : List CUnit} : (releaseClaims tid asid us).Only (Upd.Abates i) := by
  refine Prog.only_each fun cl _ => ?_
  cases cl with
  | colour c => exact abates_task fun t => ⟨Task.owner_dropColour .., .inl (t.st_release c)⟩
  | slot | freeTag => exact abates_task
  | run => trivial

theorem onlyAbates_discardBlock {n : Nat} : (discardBlock n).Only (Upd.Abates i) := by
  refine ⟨fun s => ?_, fun s => ?_⟩
  · dsimp only
    split
    · trivial
    · exact Prog.only_each fun _ _ => trivial
  · dsimp only
    split
    · trivial
    · refine ⟨?_, trivial⟩
      split
      · exact onlyAbates_releaseClaims
      · trivial

theorem onlyAbates_endBlock {n : Nat} : (endBlock n).Only (Upd.Abates i) := by
  intro s
  dsimp only
  split
  · split
    · exact onlyAbates_discardBlock
    · intro s
      dsimp only
      split
      · exact ⟨trivial, Prog.only_each fun _ _ => onlyAbates_report, onlyAbates_discardBlock, trivial⟩
      · trivial
  · exact onlyAbates_discardBlock

/-! ## Writes by the device (01 R34; 03 R62; 25 R413) -/

theorem onlyAbates_memWrite {pa : Nat} {bs : List Byte} : (memWrite pa bs).Only (Upd.Abates i) := Prog.only_each fun _ _ => trivial

/-- A write by the device changes the data of lines, not their owners. -/
theorem abates_devWrite {pa : Nat} {bs : List Byte} : (devWrite pa bs).Abates i := by
  refine abates_seq (abates_of_only ⟨onlyAbates_memWrite, Prog.only_each fun _ _ => Prog.only_when ⟨trivial, trivial⟩⟩) ?_
  intro s hs
  refine (Abated.each (fun line u hu h => ?_) _ hs (.refl s)).trans (abates_of_only (Prog.only_each fun _ _ => abates_task) _ (Prog.canonical _ hs))
  split
  · exact h
  · next l hl => exact h.l2 hu fun l' o hx ho => ⟨l, hl, (congrArg L2Line.owner (Option.some.inj hx)).trans ho⟩

theorem abates_sendCopy {line partner : Nat} : (sendCopy line partner).Abates i := abates_ask fun _ => abates_devWrite

theorem onlyAbates_putLeafFrom {e : Word} : ∀ {is : List Nat} {tbl : Nat}, (putLeafFrom e tbl is).Only (Upd.Abates i)
  | [], _ => trivial
  | [_], _ => trivial
  | _ :: j :: is, _ => by
    intro s
    dsimp only
    split
    · exact onlyAbates_putLeafFrom
    · exact fun _ => ⟨trivial, trivial, onlyAbates_putLeafFrom⟩

theorem onlyAbates_groomNow {asid va : Nat} : (groomNow asid va).Only (Upd.Abates i) := by
  intro s
  dsimp only
  split
  · refine ⟨fun _ => Prog.only_each fun _ _ => trivial, fun s => ?_⟩
    dsimp only
    split
    · exact onlyAbates_putLeafFrom
    · exact fun _ => ⟨trivial, trivial, onlyAbates_putLeafFrom⟩
  · trivial

theorem abates_writeStatus {asid va status tid : Nat} : (writeStatus asid va status tid).Abates i := by
  refine abates_seq (abates_of_only onlyAbates_groomNow) (abates_ask fun s => ?_)
  split
  · split
    · exact abates_devWrite
    · exact abates_skip
  · exact abates_skip

theorem abates_writeDone {asid va status : Nat} : (writeDone asid va status).Abates i := by
  refine abates_seq (abates_of_only onlyAbates_groomNow) (abates_ask fun s => ?_)
  split
  · exact abates_skip
  · split
    · split
      · exact abates_seq abates_devWrite (abates_of_only fun _ => trivial)
      · exact abates_skip
    · exact abates_skip

/-! ## The account, reins, frames (06 R118; 04 R89; 03 R71) -/

theorem abates_settleWith {tid : Nat} {t : Task} {c : Closing} : (settleWith tid t c).Abates i := by
  refine abates_seq (abates_of_only ?stamp) (abates_seq (abates_of_only trivial) (abates_seq (abates_of_only fun _ => trivial)
    (abates_seq abates_writeStatus (abates_seq abates_writeDone abates_skip))))
  exact fun _ => Prog.only_when fun _ => ⟨trivial, fun _ => ⟨fun _ => trivial, trivial, fun _ => trivial, trivial⟩⟩

theorem abates_settleClosing {tid : Nat} : (settleClosing tid).Abates i := by
  refine abates_ask fun s => ?_
  split
  · exact abates_skip
  · split
    · exact abates_skip
    · exact abates_seq abates_settleWith (abates_of_only abates_task)

theorem abates_settleAbort {tid outcome : Nat} : (settleAbort tid outcome).Abates i := by
  refine abates_ask fun s => ?_
  split
  · exact abates_of_only abates_task
  · refine abates_ask fun s => ?_
    split
    · exact abates_skip
    · exact abates_settleWith

theorem onlyAbates_dropRein {asid tid : Nat} {x : Quad} : (dropRein asid tid x).Only (Upd.Abates i) := by
  unfold dropRein
  split <;> trivial

theorem abates_undoCover {asid tid : Nat} {c : Cover} : (undoCover asid tid c).Abates i := by
  cases c with
  | mk a f n =>
    refine abates_ask fun s => ?_
    split
    · exact abates_skip
    · refine abates_seq (abates_each fun _ _ => abates_ask fun s => ?_) (abates_of_only trivial)
      split
      · exact abates_devWrite
      · exact abates_skip
  | inc | dec => exact abates_of_only trivial

theorem onlyAbates_returnFrame {frame : Nat} : (returnFrame frame).Only (Upd.Abates i) :=
  fun _ => Prog.only_when ⟨fun _ => ⟨Prog.only_each fun _ _ _ h => (nomatch h), trivial, Prog.only_each fun _ _ => abates_task, trivial⟩,
    fun _ => ⟨Prog.only_each fun _ _ => trivial, Prog.only_each fun _ _ => trivial, trivial, Prog.only_each fun _ _ => trivial, trivial⟩⟩

theorem onlyAbates_freeNodes {tid : Nat} : (freeNodes tid).Only (Upd.Abates i) :=
  fun _ => ⟨Prog.only_each fun _ _ => trivial, trivial, trivial, trivial, trivial,
    fun _ => ⟨trivial, Prog.only_each fun _ _ => onlyAbates_returnFrame⟩, trivial, trivial⟩

/-! ## The task's own lines (03 R75) -/

/-- Dropping the lines of a list leaves no line of it. -/
theorem each_dropLine {ls : List Nat} {s : State} (hs : s.Canonical) {k : Nat} {l : L2Line}
    (h : ((Prog.each ls fun line => .upd (.l2 line none)).run s).l2Line k = some l) : s.l2Line k = some l ∧ k ∉ ls := by
  induction ls generalizing s with
  | nil => exact ⟨h, List.not_mem_nil⟩
  | cons line ls ih =>
    obtain ⟨hk, hn⟩ := ih (Upd.canonical (.l2 line none) hs) h
    have hk' : (if k = line then none else s.l2Line k) = some l := (Sparse.get_put line none k hs.l2).symm.trans hk
    split at hk'
    · cases hk'
    · next he => exact ⟨hk', fun hm => (List.mem_cons.1 hm).elim he hn⟩

/-- A program that abates, and leaves no line with an owner tag. -/
def Prog.Clears (i o : Nat) (p : Prog) : Prop :=
  ∀ s, s.Canonical → Abated i s (p.run s) ∧ ∀ k l, (p.run s).l2Line k = some l → ¬l.owner = some o

theorem clears_ask {o : Nat} {k : State → Prog} (h : ∀ s, (k s).Clears i o) : (Prog.ask k).Clears i o := fun s hs => h s s hs

/-- What is cleared stays clear. -/
theorem clears_then {o : Nat} {p q : Prog} (hp : p.Clears i o) (hq : q.Abates i) : (Prog.seq p q).Clears i o := by
  intro s hs
  obtain ⟨ha, hn⟩ := hp s hs
  have hq' := hq _ (p.canonical hs)
  exact ⟨ha.trans hq', hq'.unowned hn⟩

theorem clears_after {o : Nat} {p q : Prog} (hp : p.Abates i) (hq : q.Clears i o) : (Prog.seq p q).Clears i o := by
  intro s hs
  obtain ⟨ha, hn⟩ := hq _ (p.canonical hs)
  exact ⟨(hp s hs).trans ha, hn⟩

/-- What an abort undoes bears the task's tag no more. -/
theorem clears_undoMemory {tid : Nat} {t : Task} : (undoMemory tid t).Clears i t.owner := by
  refine clears_ask fun _ => clears_then ?lines (abates_seq ?journal (abates_seq ?poison (abates_seq ?copies (abates_seq (abates_of_only trivial)
    (abates_seq ?versions (abates_seq (abates_of_only abates_task) abates_skip))))))
  case lines =>
    intro s hs
    refine ⟨abates_each (fun _ _ => abates_of_only fun _ h => nomatch h) s hs, fun k l hl ho => ?_⟩
    obtain ⟨hk, hn⟩ := each_dropLine hs hl
    exact hn (List.mem_filterMap.2 ⟨(k, some l), Sparse.mem_of_get (by simp) hk, if_pos ho⟩)
  case journal => exact abates_each fun _ _ => abates_of_only ⟨onlyAbates_memWrite, trivial⟩
  case poison => exact abates_each fun _ _ => abates_of_only trivial
  case copies => exact abates_each fun _ _ => abates_sendCopy
  case versions => exact abates_each fun _ _ => abates_of_only fun _ => trivial

end

/-! ## The abort (06 R119; 26 R420) -/

/-- An abort makes no task and marks no line; the lines of a task that it ends bear its tag no more. -/
theorem abortTask_abates {s : State} (hs : s.Canonical) (tid outcome : Nat) : Abated tid s ((abortTask tid outcome).run s) ∧
    ∀ x, s.task tid = some x → ¬x.st = .ending → ∀ k l, ((abortTask tid outcome).run s).l2Line k = some l → ¬l.owner = some x.owner := by
  cases ht : s.task tid with
  | none =>
    rw [abortTask_run_skip outcome fun t h => nomatch ht.symm.trans h]
    exact ⟨.refl s, fun x h => nomatch h⟩
  | some t =>
    by_cases he : t.st = .ending
    · rw [abortTask_run_skip outcome fun x h => Option.some.inj (ht.symm.trans h) ▸ he]
      exact ⟨.refl s, fun x h hn => absurd (Option.some.inj h ▸ he) hn⟩
    · have key : ∀ {p : Prog}, p.Clears tid t.owner → Abated tid s (p.run s) ∧
          ∀ x, some t = some x → ¬x.st = .ending → ∀ k l, (p.run s).l2Line k = some l → ¬l.owner = some x.owner := by
        intro p hp
        refine ⟨(hp s hs).1, fun x hx _ => ?_⟩
        obtain rfl := Option.some.inj hx
        exact (hp s hs).2
      unfold abortTask
      simp only [Prog.run_ask, ht, he, if_false]
      refine key (clears_after ?cards (clears_after (abates_of_only trivial) (clears_after (abates_of_only trivial) (clears_after ?blocks
        (clears_after ?codes (clears_then clears_undoMemory (abates_seq ?cover (abates_seq ?received (abates_seq ?reins
        (abates_seq (abates_of_only trivial) (abates_seq (abates_of_only trivial) (abates_seq abates_settleAbort (abates_seq ?parks
        (abates_seq (abates_of_only onlyAbates_freeNodes) (abates_seq (abates_of_only trivial) (abates_seq ?task abates_skip))))))))))))))))
      case cards => exact abates_each fun _ _ => abates_of_only fun _ => trivial
      case blocks => exact abates_each fun _ _ => abates_of_only onlyAbates_endBlock
      case codes => exact abates_of_only (Prog.only_when (Prog.only_each fun _ _ => trivial))
      case cover => exact abates_each fun _ _ => abates_undoCover
      case received | reins => exact abates_each fun _ _ => abates_of_only onlyAbates_dropRein
      case parks => exact abates_each fun _ _ => abates_of_only trivial
      case task => exact abates_of_only (abates_task fun _ => ⟨rfl, .inr ⟨rfl, rfl⟩⟩)

/-- After its abort a task is ending, if it is there at all. -/
theorem abortTask_ending {s : State} {tid o : Nat} {x : Task} (h : ((abortTask tid o).run s).task tid = some x) : x.st = .ending := by
  by_cases hn : ∃ t, s.task tid = some t ∧ ¬t.st = .ending
  · obtain ⟨t, ht, hn⟩ := hn
    obtain ⟨y, hy, he⟩ := State.ending_iff.1 (abortTask_ends (o := o) ht hn)
    exact Option.some.inj (hy.symm.trans h) ▸ he
  · have hs : ∀ t, s.task tid = some t → t.st = .ending := fun t ht => by_contra fun he => hn ⟨t, ht, he⟩
    rw [abortTask_run_skip o hs] at h
    exact hs x h

theorem keepsTasks_settleClosing {tid : Nat} : (settleClosing tid).Only Upd.KeepsTasks := by
  intro s
  dsimp only
  split
  · trivial
  · split
    · trivial
    · exact ⟨⟨keepsTasks_beforeStamp, trivial, fun _ => trivial, keepsTasks_writeStatus, keepsTasks_writeDone, trivial⟩, keepsTasks_task⟩

/-- Every owned line of the L2 is a running task's. -/
def OwnedByRunning (s : State) : Prop := ∀ k l o, s.l2Line k = some l → l.owner = some o → ∃ j x, s.task j = some x ∧ x.owner = o ∧ ¬x.st = .ending

/-- What the end of one task leaves: it runs no more, the others run on, and their lines alone are owned. -/
theorem endOne {s u : State} {i : Nat} (hs : s.Canonical) (hu : (Prog.seq (killTask i) (settleClosing i)).run s = u) :
    (∀ k x, u.task k = some x → ¬x.st = .ending → ¬k = i ∧ ∃ y, s.task k = some y ∧ ¬y.st = .ending) ∧ (OwnedByRunning s → OwnedByRunning u) := by
  subst hu
  obtain ⟨hk, hkn⟩ := abortTask_abates hs i 0x83
  have hc := abates_settleClosing (i := i) (tid := i) _ (Prog.canonical (killTask i) hs)
  have ha := hk.trans hc
  have hstay : TasksStay s ((Prog.seq (killTask i) (settleClosing i)).run s) :=
    tasksStay_of_only (p := .seq (killTask i) (settleClosing i)) ⟨keepsTasks_abortTask, keepsTasks_settleClosing⟩ s
  have hrun : ∀ k x, ((Prog.seq (killTask i) (settleClosing i)).run s).task k = some x → ¬x.st = .ending → ¬k = i := by
    rintro k x hx hn rfl
    obtain ⟨y, hy, -, he⟩ := hc.tasks k x hx
    rcases he with he | he
    · exact hn (he.trans (abortTask_ending hy))
    · exact hn he.2
  refine ⟨fun k x hx hn => ?_, fun ho k l o hl hlo => ?_⟩
  · obtain ⟨y, hy, -, he⟩ := ha.tasks k x hx
    rcases he with he | he
    · exact ⟨hrun k x hx hn, y, hy, he ▸ hn⟩
    · exact absurd he.2 hn
  · obtain ⟨l', hl', hlo'⟩ := ha.lines k l o hl hlo
    obtain ⟨j, y, hy, hyo, hyn⟩ := ho k l' o hl' hlo'
    by_cases hj : j = i
    · subst hj
      exact absurd (hyo ▸ hlo) (hc.unowned (hkn y hy hyn) k l hl)
    · obtain ⟨x, hx, -⟩ := hstay j y hy
      obtain ⟨y', hy', hxo, he⟩ := ha.tasks j x hx
      obtain rfl := Option.some.inj (hy.symm.trans hy')
      exact ⟨j, x, hx, hxo.trans hyo, he.elim (fun h => h ▸ hyn) fun h => absurd h.1 hj⟩

/-- Every task ends in turn: at the end none runs, and no line is owned. -/
theorem endEach : ∀ (ks : List Nat) {s u : State}, s.Canonical → (∀ k x, s.task k = some x → ¬x.st = .ending → k ∈ ks) →
    (Prog.each ks fun t => .seq (killTask t) (settleClosing t)).run s = u →
    (∀ k x, u.task k = some x → x.st = .ending) ∧ (OwnedByRunning s → OwnedByRunning u)
  | [], s, _, _, hk, rfl => ⟨fun k x hx => by_contra fun hn => List.not_mem_nil (hk k x hx hn), id⟩
  | i :: ks, s, u, hs, hk, hu => by
    obtain ⟨hrun, hown⟩ := endOne hs (i := i) rfl
    have hks : ∀ k x, ((Prog.seq (killTask i) (settleClosing i)).run s).task k = some x → ¬x.st = .ending → k ∈ ks := by
      intro k x hx hn
      obtain ⟨hki, y, hy, hyn⟩ := hrun k x hx hn
      exact (List.mem_cons.1 (hk k y hy hyn)).resolve_left hki
    obtain ⟨h1, h2⟩ := endEach ks (Prog.canonical _ hs) hks hu
    exact ⟨h1, h2 ∘ hown⟩

/-- After a noon has aborted the tasks none runs, and no line is owned that a running task had not owned (01 R37; 21 R354). -/
theorem abortAll_ends {s : State} (hs : s.Canonical) : (∀ k x, (abortAll.run s).task k = some x → x.st = .ending) ∧
    (OwnedByRunning s → ∀ k l, (abortAll.run s).l2Line k = some l → l.owner = none) := by
  obtain ⟨h1, h2⟩ := endEach (s.tasks.map fun e => e.1) hs (fun k x hx _ => List.mem_map.2 ⟨(k, some x), Sparse.mem_of_get (by simp) hx, rfl⟩) rfl
  refine ⟨h1, fun ho k l hl => Option.eq_none_iff_forall_ne_some.2 fun o hlo => ?_⟩
  obtain ⟨j, x, hx, -, hn⟩ := h2 ho k l o hl hlo
  exact hn (h1 j x hx)

end Sys2Proof.Machine
end

section
/-! PROOFS. Dawn, noon and the stable error: how a start begins, and what stands when it is complete (21 R354; 01 R37; 24 R412). -/

namespace Sys2Proof

/-- Putting the default at every listed place lists nothing. -/
theorem Sparse.foldl_put_self {α : Type} [DecidableEq α] {d : α} : ∀ m : List (Nat × α), m.foldl (fun n e => Sparse.put d n e.1 d) m = []
  | [] => rfl
  | e :: m => by
    have h : Sparse.put d (e :: m) e.1 d = m := (Sparse.put_eq d).trans (if_pos rfl)
    rw [List.foldl_cons, h]
    exact Sparse.foldl_put_self m

end Sys2Proof

namespace Sys2Proof.Machine

/-! ## The wipe of a dawn (21 R354) -/

/-- Programs that each change one part of the state change it in turn. -/
theorem run_each_lens {α M : Type} {f : α → Prog} {set : M → State} {g : M → α → M} (h : ∀ m x, (f x).run (set m) = set (g m x)) :
    ∀ (l : List α) (m : M), (Prog.each l f).run (set m) = set (l.foldl g m)
  | [], _ => rfl
  | x :: l, m => by
    show (Prog.each l f).run ((f x).run (set m)) = _
    rw [h, run_each_lens h l, List.foldl_cons]

/-- Clearing one sparse map of the state at each of its listed places leaves it empty. -/
theorem run_each_clear {α : Type} [DecidableEq α] (d : α) {f : Nat × α → Prog} {set : List (Nat × α) → State}
    (h : ∀ m x, (f x).run (set m) = set (Sparse.put d m x.1 d)) (m : List (Nat × α)) : (Prog.each m f).run (set m) = set [] := by
  rw [run_each_lens h, Sparse.foldl_put_self]

section
variable {s : State}

theorem clear_mem {m : List (Nat × Byte)} (h : s.mem = m) : (Prog.each m fun e => .upd (.mem e.1 memDefault)).run s = { s with mem := [] } := by
  subst h
  exact run_each_clear memDefault (set := fun m => { s with mem := m }) (fun _ _ => rfl) s.mem

theorem clear_pads {m : List (Nat × Byte)} (h : s.pads = m) : (Prog.each m fun e => .upd (.pad e.1 0)).run s = { s with pads := [] } := by
  subst h
  exact run_each_clear (0 : Byte) (set := fun m => { s with pads := m }) (fun _ _ => rfl) s.pads

theorem clear_tables {m : List (Nat × Word)} (h : s.tables = m) : (Prog.each m fun e => .upd (.table e.1 0)).run s = { s with tables := [] } := by
  subst h
  exact run_each_clear (0 : Word) (set := fun m => { s with tables := m }) (fun _ _ => rfl) s.tables

theorem clear_vers {m : List (Nat × VerWord)} (h : s.vers = m) : (Prog.each m fun e => .upd (.ver e.1 VerWord.reset)).run s = { s with vers := [] } := by
  subst h
  exact run_each_clear VerWord.reset (set := fun m => { s with vers := m }) (fun _ _ => rfl) s.vers

theorem clear_l2 {m : List (Nat × Option L2Line)} (h : s.l2 = m) : (Prog.each m fun e => .upd (.l2 e.1 none)).run s = { s with l2 := [] } := by
  subst h
  exact run_each_clear none (set := fun m => { s with l2 := m }) (fun _ _ => rfl) s.l2

theorem clear_poison {m : List (Nat × Bool)} (h : s.poison = m) : (Prog.each m fun e => .upd (.poison e.1 false)).run s = { s with poison := [] } := by
  subst h
  exact run_each_clear false (set := fun m => { s with poison := m }) (fun _ _ => rfl) s.poison

theorem clear_nodes {m : List (Nat × Node)} (h : s.nodes = m) : (Prog.each m fun e => .upd (.node e.1 fun _ => Node.reset)).run s = { s with nodes := [] } := by
  subst h
  exact run_each_clear Node.reset (set := fun m => { s with nodes := m }) (fun _ _ => rfl) s.nodes

theorem clear_tasks {m : List (Nat × Option Task)} (h : s.tasks = m) : (Prog.each m fun e => .upd (.task e.1 fun _ => none)).run s = { s with tasks := [] } := by
  subst h
  exact run_each_clear none (set := fun m => { s with tasks := m }) (fun _ _ => rfl) s.tasks

theorem clear_parts {m : List (Nat × Part)} (h : s.parts = m) : (Prog.each m fun e => .upd (.part e.1 fun _ => Part.reset)).run s = { s with parts := [] } := by
  subst h
  exact run_each_clear Part.reset (set := fun m => { s with parts := m }) (fun _ _ => rfl) s.parts

end

theorem run_all_of {p : Prog} {ps : List Prog} {s t u : State} (hp : p.run s = t) (hps : (Prog.all ps).run t = u) : (Prog.all (p :: ps)).run s = u :=
  (congrArg (Prog.all ps).run hp).trans hps

/-- After a wipe nothing stands but the hub, the agenda, the firing in hand, the clock and the counter. -/
theorem wipe_run (s : State) : wipe.run s = { State.reset with
    agenda := s.agenda
    cur := s.cur
    ctr := s.ctr
    tbase := s.tbase
    power := s.power
    hub := s.hub } := by
  unfold wipe
  rw [Prog.run_ask]
  refine run_all_of (clear_mem rfl) ?_
  dsimp only
  refine run_all_of (clear_pads rfl) ?_
  dsimp only
  refine run_all_of (clear_tables rfl) ?_
  dsimp only
  refine run_all_of (clear_vers rfl) ?_
  dsimp only
  refine run_all_of (clear_l2 rfl) ?_
  dsimp only
  refine run_all_of (clear_poison rfl) ?_
  dsimp only
  refine run_all_of (clear_nodes rfl) ?_
  dsimp only
  refine run_all_of (clear_tasks rfl) ?_
  dsimp only
  refine run_all_of (clear_parts rfl) ?_
  simp only [Prog.run_all_cons, Prog.run_all_nil, Prog.run_upd, Upd.apply, State.reset]

/-! ## The clusters and the images (01 R37) -/

theorem cleanClusters_ne_nil_iff {bad : List Nat} : cleanClusters bad ≠ [] ↔ ∃ c, c < 128 ∧ ∀ n ∈ bad, ¬nodeCluster n = c := by
  simp [cleanClusters, List.filter_eq_nil_iff]

/-! ## What a completed start tells (21 R353, R354) -/

/-- The answer to the command that asked for a start. -/
def startAnswer : Option (Nat × Word) → Prog
  | some c => .ask fun s => respond c.1 (if s.power = .running then 0 else 6) c.2 [] false
  | none => .skip

theorem startDone_eq {s : State} {st : Start} (hp : s.power = .starting) (hs : s.hub.starting = some st) :
    startDone s = .next ((startAnswer st.cmd).run ((if st.dawn then dawnProg st.bad else noonProg st.kind).run s)) := by
  simp only [startDone, hp, hs, Prog.done_eq, Prog.run_seq]
  cases st.cmd <;> rfl

/-- The numbering has begun anew, with START as its first message. -/
structure Renumbered (s : State) : Prop where
  lastCmd : s.hub.lastCmd = 0
  starting : s.hub.starting = none
  devSeq : s.hub.devSeq = 1

/-- The answer is the second message of the new numbering, where there is one to give; it changes the hub's numbering and outbox alone. -/
structure Answered (cmd : Option (Nat × Word)) (s t : State) : Prop where
  frame : t = { s with hub := { s.hub with devSeq := t.hub.devSeq, outbox := t.hub.outbox } }
  silent : cmd = none → t.hub.devSeq = 1
  numbered : cmd.isSome = true → t.hub.devSeq = 2
  last : ∀ c, cmd = some c → t.hub.outbox.getLast? = some ⟨c.1, 1, if t.power = .running then 0 else 6, 2, c.2, []⟩

section
variable {cmd : Option (Nat × Word)} {s t : State} (h : Answered cmd s t)
include h

theorem Answered.lastCmd : t.hub.lastCmd = s.hub.lastCmd := (congrArg (fun u => u.hub.lastCmd) h.frame).trans rfl
theorem Answered.starting : t.hub.starting = s.hub.starting := (congrArg (fun u => u.hub.starting) h.frame).trans rfl
theorem Answered.bad : t.hub.bad = s.hub.bad := (congrArg (fun u => u.hub.bad) h.frame).trans rfl
theorem Answered.leaf : t.hub.leaf = s.hub.leaf := (congrArg (fun u => u.hub.leaf) h.frame).trans rfl
theorem Answered.power : t.power = s.power := (congrArg State.power h.frame).trans rfl
theorem Answered.mem : t.mem = s.mem := (congrArg State.mem h.frame).trans rfl
theorem Answered.pads : t.pads = s.pads := (congrArg State.pads h.frame).trans rfl
theorem Answered.tables : t.tables = s.tables := (congrArg State.tables h.frame).trans rfl
theorem Answered.l2 : t.l2 = s.l2 := (congrArg State.l2 h.frame).trans rfl
theorem Answered.nodes : t.nodes = s.nodes := (congrArg State.nodes h.frame).trans rfl
theorem Answered.tasks : t.tasks = s.tasks := (congrArg State.tasks h.frame).trans rfl
theorem Answered.parts : t.parts = s.parts := (congrArg State.parts h.frame).trans rfl
theorem Answered.cards : t.cards = s.cards := (congrArg State.cards h.frame).trans rfl
theorem Answered.tbase : t.tbase = s.tbase := (congrArg State.tbase h.frame).trans rfl

end

theorem startAnswer_answers {s : State} (h : Renumbered s) (cmd : Option (Nat × Word)) : Answered cmd s ((startAnswer cmd).run s) := by
  cases cmd with
  | none => exact ⟨rfl, fun _ => h.devSeq, fun h => (nomatch h), fun _ h => nomatch h⟩
  | some c =>
    have h2 : s.hub.devSeq + 1 = 2 := by rw [h.devSeq]; rfl
    refine ⟨rfl, fun h => (nomatch h), fun _ => h2, fun _ hc => ?_⟩
    obtain rfl := Option.some.inj hc
    refine (List.getLast?_concat ..).trans ?_
    rw [h2]
    rfl

/-! ## Dawn -/

/-- Whether a dawn can be completed: its images verify and a cluster is clean. -/
def dawnOk (s : State) (bad : List Nat) : Bool := Config.fwVerify (startImage s) && !(cleanClusters bad = [])

theorem dawnOk_iff {s : State} {bad : List Nat} :
    dawnOk s bad = true ↔ Config.fwVerify (s.hub.fwNext.getD s.hub.fw) = true ∧ ∃ c, c < 128 ∧ ∀ n ∈ bad, ¬nodeCluster n = c := by
  rw [← cleanClusters_ne_nil_iff]
  simp [dawnOk, startImage]

/-- The machine after a dawn, with its hub. -/
def dawned (s : State) (bad : List Nat) (h : Hub) : State := { State.reset with
  agenda := s.agenda
  cur := s.cur
  ctr := s.ctr
  tbase := 0
  power := if dawnOk s bad then .running else .safe
  hub := h }

theorem dawnProg_run (bad : List Nat) (s : State) :
    ∃ h : Hub, (dawnProg bad).run s = dawned s bad h ∧ Renumbered (dawned s bad h) ∧ h.bad = bad ∧ h.leaf = s.hub.leaf := by
  have ht : s.tbase + BitVec.ofNat 64 (2 ^ 64 - s.tbase.toNat) = 0 := by bv_omega
  unfold dawnProg
  simp only [Prog.run_ask, Prog.run_all_cons, Prog.run_all_nil, Prog.run_upd, wipe_run, Upd.apply, ht, startAlert, alert]
  exact ⟨_, rfl, ⟨rfl, rfl, rfl⟩, rfl, rfl⟩

/-! ## Noon (01 R37): the Stable's move writes lines back, and touches no task where no line is owned -/

/-- No line of the L2 is owned, and the tasks are those given. -/
structure Unheld (ts : List (Nat × Option Task)) (s : State) : Prop where
  canonical : s.Canonical
  tasks : s.tasks = ts
  lines : ∀ k l, s.l2Line k = some l → l.owner = none

/-- An update that changes no task and marks no line. -/
def Upd.Unheld : Upd → Prop
  | .task _ _ => False
  | .l2 _ x => ∀ l, x = some l → l.owner = none
  | _ => True

section
variable {ts : List (Nat × Option Task)}

theorem Upd.Unheld.unheld {u : Upd} (hu : u.Unheld) {s : State} (h : Machine.Unheld ts s) : Machine.Unheld ts (u.apply s) := by
  obtain ⟨hc, ht, hl⟩ := h
  cases u with
  | task => exact hu.elim
  | l2 line x =>
    refine ⟨Upd.canonical _ hc, ht, fun k l hk => ?_⟩
    have hk' : (if k = line then x else s.l2Line k) = some l := (Sparse.get_put line x k hc.l2).symm.trans hk
    split at hk'
    · exact hu l hk'
    · exact hl k l hk'
  | _ => exact ⟨Upd.canonical _ hc, ht, hl⟩

theorem unheld_of_only {p : Prog} (h : p.Only Upd.Unheld) : p.Preserves (Unheld ts) :=
  Prog.run_rel (R := fun a b => Unheld ts a → Unheld ts b) (fun _ => id) (fun _ _ _ hab hbc => hbc ∘ hab) (fun _ hu _ => hu.unheld) p h

theorem unheld_evictPlain {line : Nat} : (evictPlain line).Preserves (Unheld ts) := by
  refine preserves_ask fun s hs => ?_
  split
  · exact preserves_skip
  · next l hl =>
    rw [hs.lines line l hl]
    refine preserves_seq (unheld_of_only ?_) (unheld_of_only ⟨fun _ h => (nomatch h), trivial⟩)
    dsimp only
    split
    · split
      · exact ⟨Prog.only_each fun _ _ => trivial, trivial, fun _ => trivial, trivial⟩
      · exact ⟨trivial, trivial⟩
    · trivial

/-- Broken data of a line that nobody owns end no task. -/
theorem unheld_l2DataUe {line : Nat} {l : L2Line} (hl : l.owner = none) : (l2DataUe Who.none line l).Preserves (Unheld ts) := by
  refine preserves_ask fun s hs => ?_
  dsimp only
  rw [hl, Option.bind_none]
  dsimp only
  split
  · refine unheld_of_only ⟨Prog.only_each fun _ _ _ => ⟨trivial, ?_⟩, ?_⟩
    · split
      · trivial
      · exact ⟨trivial, trivial⟩
    · intro l' h
      split at h
      · cases h
      · exact congrArg L2Line.owner (Option.some.inj h).symm
  · exact unheld_of_only ⟨⟨trivial, trivial⟩, fun _ h => (nomatch h), fun _ => trivial, trivial, trivial, trivial⟩

theorem unheld_moveStable {c : Nat} : (moveStable c).Preserves (Unheld ts) := by
  refine preserves_ask fun s hs => ?_
  split
  · exact preserves_skip
  · refine preserves_seq (preserves_ask fun s hs => preserves_each fun line _ => preserves_ask fun s hs => ?_) (unheld_of_only ⟨trivial, ?_, trivial⟩)
    · split
      · exact preserves_skip
      · next l hl =>
        split
        · exact unheld_evictPlain
        · exact preserves_seq (unheld_l2DataUe (hs.lines line l hl)) (unheld_of_only fun _ h => nomatch h)
    · exact Prog.only_each fun _ _ => trivial

end

/-- A completed noon has begun the numbering anew, runs or is safe, and has left the tasks where no line was owned. -/
theorem noonProg_run {s : State} (hs : s.Canonical) (kind : Nat) : let u := (noonProg kind).run s
    Renumbered u ∧ ¬u.power = .off ∧ ¬u.power = .starting ∧ ((∀ k l, s.l2Line k = some l → l.owner = none) → ∀ k, u.task k = s.task k) := by
  have hm : ∀ c, (∀ k l, s.l2Line k = some l → l.owner = none) → ((moveStable c).run s).tasks = s.tasks :=
    fun c hl => (unheld_moveStable (ts := s.tasks) s ⟨hs, rfl, hl⟩).tasks
  intro u
  have hu : u = (noonProg kind).run s := rfl
  unfold noonProg at hu
  simp only [Prog.run_ask, Prog.run_all_cons, Prog.run_all_nil, Prog.run_upd, startAlert, alert, Upd.apply] at hu
  refine ⟨⟨?_, ?_, ?_⟩, ?_, ?_, fun hl k => ?_⟩
  · rw [hu]
  · rw [hu]
  · rw [hu]; rfl
  · rw [hu]
    dsimp only
    split <;> decide
  · rw [hu]
    dsimp only
    split <;> decide
  · have ht : u.tasks = s.tasks := by
      rw [hu]
      dsimp only
      split
      · exact hm _ hl
      · rfl
    exact congrArg (Sparse.get none · k) ht

/-! ## The beginning of a start (21 R352) -/

/-- A start is in progress in `t`, and one that is a noon has ended the tasks of `s` and left no line to them. -/
def Begun (s : State) (st : Start) (t : State) : Prop := t.power = .starting ∧ t.hub.starting = some st ∧
  (st.dawn = false → (∀ k x, t.task k = some x → x.st = .ending) ∧ (OwnedByRunning s → ∀ k l, t.l2Line k = some l → l.owner = none))

theorem begun_dawn {s u : State} {st : Start} (h : st.dawn = true) : Begun s st ((beginStart st).run u) :=
  ⟨rfl, rfl, fun hf => Bool.noConfusion (h.symm.trans hf)⟩

/-- A noon begins once every task has been aborted. -/
theorem begun_noon {s u : State} (st : Start) (hu : u.Canonical) (ht : u.tasks = s.tasks) (hl : u.l2 = s.l2) :
    Begun s st ((Prog.seq abortAll (beginStart st)).run u) := by
  obtain ⟨hend, hown⟩ := abortAll_ends hu
  refine ⟨rfl, rfl, fun _ => ⟨hend, fun h => hown fun k l o hk ho => ?_⟩⟩
  obtain ⟨j, x, hj, hx⟩ := h k l o ((congrArg (Sparse.get none · k) hl).symm.trans hk) ho
  exact ⟨j, x, (congrArg (Sparse.get none · j) ht).trans hj, hx⟩

/-- Marking nodes bad changes the hub alone. -/
theorem markBad_each (s : State) : ∀ bad : List Nat, ∃ h, (Prog.each bad markBad).run s = { s with hub := h } := by
  intro bad
  induction bad generalizing s with
  | nil => exact ⟨s.hub, rfl⟩
  | cons n bad ih =>
    obtain ⟨h, hh⟩ := ih ((markBad n).run s)
    exact ⟨h, hh⟩

theorem execNoon_begins {c : Cmd} {force : Bool} {s : State} (h : InOrder c s) (ha : anyTask s = false ∨ force = true) :
    exec (.noon c force) s = .next ((Prog.seq abortAll (beginStart ⟨false, if force then 2 else 1, [], some (0xF0, c.seq)⟩)).run s) := by
  show execNoon c force s = _
  have hb : ¬(anyTask s && !force) = true := by
    rcases ha with ha | ha <;> simp [ha]
  rw [execNoon, h.inOrder, if_neg hb]
  rfl

theorem execNoon_busy {c : Cmd} {s : State} (h : InOrder c s) (ha : anyTask s = true) :
    exec (.noon c false) s = .next ((execute 0xF0 c.seq .busy).run s) := by
  show execNoon c false s = _
  rw [execNoon, h.inOrder, ha]
  rfl

/-- A stable error marks the nodes bad, and begins a noon with FORCE, or a dawn where the noon fails. -/
theorem stableError_begins {s : State} (hs : s.Canonical) (bad : List Nat) (fails : Bool) (hp : s.power = .running) :
    ∃ st t, exec (.stableErrorNoon bad fails) s = .next t ∧ Begun s st t ∧ (fails = true → st.dawn = true) ∧ st.cmd = none := by
  obtain ⟨h, hh⟩ := markBad_each s bad
  have hx : exec (.stableErrorNoon bad fails) s = .next ((if fails || !noonOk { s with hub := h } then beginStart ⟨true, 0, h.bad, none⟩
      else .seq abortAll (beginStart ⟨false, 2, [], none⟩)).run { s with hub := h }) := by
    show execStableErrorNoon bad fails s = _
    rw [execStableErrorNoon, if_pos hp, Prog.done_eq, Prog.run_all_cons, hh]
    rfl
  by_cases hf : (fails || !noonOk { s with hub := h }) = true
  · rw [if_pos hf] at hx
    exact ⟨_, _, hx, begun_dawn rfl, fun _ => rfl, rfl⟩
  · rw [if_neg hf] at hx
    refine ⟨_, _, hx, begun_noon _ (hh ▸ Prog.canonical _ hs) rfl rfl, fun hff => ?_, rfl⟩
    exact absurd (by rw [hff, Bool.true_or]) hf

end Sys2Proof.Machine

open Sys2Proof Sys2Proof.Machine

/-- Settles O53: a noon begins by ending each task, whose lines go with it; when the start is complete, a dawn's wipe leaves every sparse map empty, and a
noon that moves the Stable writes back lines that nobody owns, which touches no task. -/
theorem startsBeginAnew : Obligations.StartsBeginAnew := by
  intro s hs good begins
  refine ⟨fun bad hp => ?powerOn, fun c bad h => ?dawn, fun c force h ha => ?noon, fun c h ha => execNoon_busy h ha, fun bad fails hp => ?stable,
    fun hp st hst => ?done⟩
  case powerOn => exact ⟨_, if_pos hp, begun_dawn rfl⟩
  case dawn => exact ⟨_, h.inOrder, begun_dawn rfl⟩
  case noon => exact ⟨_, execNoon_begins h ha, begun_noon _ hs rfl rfl⟩
  case stable =>
    obtain ⟨st, t, hx, hb, hf, hc⟩ := stableError_begins hs bad fails hp
    exact ⟨st, ⟨t, hx, hb⟩, hf, hc⟩
  case done =>
    refine ⟨_, startDone_eq hp hst, ?_⟩
    cases hd : st.dawn with
    | true =>
      obtain ⟨h, hu, hr, hbad, hleaf⟩ := dawnProg_run st.bad s
      simp only [if_true, hu]
      have ha := startAnswer_answers hr st.cmd
      refine ⟨ha.lastCmd.trans hr.lastCmd, ha.starting.trans hr.starting, ha.silent, ha.numbered, ha.last, fun _ => ?_, nofun⟩
      refine ⟨ha.mem, ha.pads, ha.tables, ha.l2, ha.nodes, ha.tasks, ha.parts, ha.cards, ha.tbase, ha.bad.trans hbad, ha.leaf.trans hleaf,
        fun hg => ha.power.trans (if_pos (dawnOk_iff.2 hg)), fun hg => ha.power.trans (if_neg fun hk => hg (dawnOk_iff.1 hk))⟩
    | false =>
      obtain ⟨hr, hoff, hstarting, hkeep⟩ := noonProg_run hs st.kind
      have ha := startAnswer_answers hr st.cmd
      refine ⟨ha.lastCmd.trans hr.lastCmd, ha.starting.trans hr.starting, ha.silent, ha.numbered, ha.last, nofun, fun _ => ?_⟩
      refine ⟨ha.power ▸ hoff, ha.power ▸ hstarting, fun hl k => ?_⟩
      exact (congrArg (Sparse.get none · k) ha.tasks).trans (hkeep hl k)

end

section
/-! PROOFS. The Farrier's actions, the tokens of an unmap, cycles of waits, and the crib's own events (22 R373; 23 R377–R387; 03 R70, R71; 24 R404). -/

namespace Sys2Proof.Machine
open Sys2Proof.Bits

section
variable {s : State}

/-! ## Reports (22 R373; 23 R377) -/

theorem actOn_live {r : Report} {tid : Nat} (hr : r.task = some tid) (hl : taskLive s tid = true) :
    (actOn r).run s = (abortTask tid 0x82).run ((farrierRecord r 1).run s) := by
  simp only [actOn, Prog.run_ask, hr, hl, if_true, Prog.run_seq]

theorem actOn_gone {r : Report} (hr : r.task = none) : (actOn r).run s = (farrierRecord r 2).run s := by
  simp only [actOn, Prog.run_ask, hr]

theorem execFarrierAction_takes {r : Report} {rs : List Report} (h : s.hub.reports = r :: rs) :
    exec (.farrierAction 0) s = .next ((actOn r).run { s with hub := { s.hub with reports := rs } }) := by
  show execFarrierAction 0 s = _
  simp only [execFarrierAction, h, Prog.done_eq, Prog.run_seq, Prog.run_upd, Upd.apply, List.drop_succ_cons, List.drop_zero]

/-- A page report of a task that can no longer be acted on is recorded as superseded. -/
theorem resolvePage_superseded {p : PageReport} (h : ∀ tid, p.rep.task = some tid → taskLive s tid = false) :
    (resolvePage p).run s = (farrierRecord p.rep 2).run s := by
  unfold resolvePage
  rw [Prog.run_ask]
  cases hr : p.rep.task with
  | none => rfl
  | some tid =>
    rw [Option.bind_some]
    cases ht : s.task tid with
    | none => rfl
    | some t =>
      have hl := h tid hr
      simp only [Option.map_some, hl, Bool.not_false, if_true]

section
variable {p : PageReport} {tid : Nat} {t : Task} (hr : p.rep.task = some tid) (ht : s.task tid = some t) (hl : taskLive s tid = true)
include hr ht hl

theorem resolvePage_maps {f : FrameReq} (hf : groomFinds s t.asid p = some f) :
    (resolvePage p).run s = (farrierRecord p.rep 0).run ((releasePage tid p.page).run ((mapFrame t.asid f).run s)) := by
  simp only [resolvePage, Prog.run_ask, hr, Option.bind_some, ht, Option.map_some, hl, Bool.not_true, Bool.false_eq_true, if_false, hf, Prog.run_all_cons,
    Prog.run_all_nil]

theorem resolvePage_aborts (hf : groomFinds s t.asid p = none) :
    (resolvePage p).run s = (abortTask tid 0x82).run ((farrierRecord p.rep 1).run s) := by
  simp only [resolvePage, Prog.run_ask, hr, Option.bind_some, ht, Option.map_some, hl, Bool.not_true, Bool.false_eq_true, if_false, hf, Prog.run_seq]

end

theorem execPageFaultResolve_takes {k : Nat} {p : PageReport} (h : s.hub.pages[k]? = some p) :
    exec (.pageFaultResolve k) s = .next ((resolvePage p).run { s with hub := { s.hub with pages := s.hub.pages.eraseIdx k } }) := by
  show execPageFaultResolve k s = _
  simp only [execPageFaultResolve, h, Prog.done_eq, Prog.run_seq, Prog.run_upd, Upd.apply]

/-! ## UNMAP and its tokens (03 R70, R71; 23 R378, R379) -/

theorem execUnmap_clears {asid va k : Nat} (hk : leafKey s asid va = some k) (hv : bit (Sparse.get 0 s.tables k) 63 = true)
    (ha : inArena s asid (va / 2 ^ 16) = false) :
    exec (.unmap asid va) s = .next ((invalidate asid (some (va % 2 ^ 57 / 2 ^ 16)) (some (field (Sparse.get 0 s.tables k) 16 36))).run
      ((Prog.when (entryClass (Sparse.get 0 s.tables k) = 2) (dropHistory (field (Sparse.get 0 s.tables k) 16 36))).run ((clearLeaf asid va).run s))) := by
  have hj : unmapJob s asid va = some (Sparse.get 0 s.tables k) := by
    simp only [unmapJob, hk, hv, ha, Bool.not_false, Bool.and_self, if_true]
  show execUnmap asid va s = _
  simp only [execUnmap, hj, Prog.done_eq, Prog.run_all_cons, Prog.run_all_nil]

/-- What a re-latch token waits for at a node on the mesh has come to pass: no older store, no access to the frame that leaves. -/
def LatchesQuiet (nd : Node) (before : Nat) (gone : Option Nat) : Prop :=
  nd.olderStores before = false ∧ (∀ f, gone = some f → nd.pends f = false) ∧
    ∀ l ∈ nd.loads, l.streams = true → ¬l.order < before ∧ ∀ f, gone = some f → ∀ e ∈ l.es, ¬e.pa / 2 ^ 16 = f

theorem LatchesQuiet.passes {nd : Node} {before : Nat} {gone : Option Nat} (h : LatchesQuiet nd before gone) :
    (nd.olderStores before || gone.any nd.pends ||
      nd.loads.any fun l => l.streams && (l.order < before || gone.any fun f => l.es.any fun e => e.pa / 2 ^ 16 == f)) = false := by
  obtain ⟨hold, hpend, hload⟩ := h
  have hp : gone.any nd.pends = false := by
    cases gone with
    | none => rfl
    | some f => exact hpend f rfl
  have hl : ∀ l ∈ nd.loads, (l.streams && (l.order < before || gone.any fun f => l.es.any fun e => e.pa / 2 ^ 16 == f)) = false := by
    intro l hm
    cases hs : l.streams with
    | false => rfl
    | true =>
      obtain ⟨ho, hf⟩ := hload l hm hs
      cases gone with
      | none => simp [ho]
      | some f => simpa [ho] using hf f rfl
  rw [hold, hp, List.any_eq_false.2 fun l hm => ne_true_of_eq_false (hl l hm)]
  rfl

theorem reLatchJob_passes {k : Nat} {r : ReLatch} {t : Task} (hr : s.relatch[k]? = some r) (ht : s.task r.task = some t)
    (h : 2048 ≤ homeRef s r.task t r.m ∨ LatchesQuiet (refNode s (homeRef s r.task t r.m)) r.before (unmapFrame s r.unmap)) :
    reLatchJob s k = some (r, homeRef s r.task t r.m) := by
  simp only [reLatchJob, hr, ht]
  refine if_neg ?_
  rcases h with h | h
  · simp [Nat.not_lt.2 h]
  · rw [Bool.and_eq_true, not_and]
    intro hn
    rw [refNode, if_pos (of_decide_eq_true hn)] at h
    exact ne_true_of_eq_false h.passes

theorem drainJob_passes {k : Nat} {d : Drain} (hd : s.drains[k]? = some d) (h : ∀ t, s.task d.task = some t →
      (refNode s (homeRef s d.task t d.m)).older d.before = false ∧
        ∀ f, unmapFrame s d.unmap = some f → (refNode s (homeRef s d.task t d.m)).pends f = false) :
    drainJob s k = true := by
  simp only [drainJob, hd]
  cases ht : s.task d.task with
  | none => rfl
  | some t =>
    obtain ⟨hold, hpend⟩ := h t ht
    cases hg : unmapFrame s d.unmap with
    | none => simp [hold]
    | some f => simp [hold, hpend f hg]

/-! ## Cycles of waits (23 R384) -/

/-- The enqueue count of a task, 0 for none. -/
def enqOf (s : State) (t : Nat) : Nat := ((s.task t).map fun x => x.enq).getD 0

/-- The choice between the best task so far and the next. -/
def laterEnqueued (s : State) (best : Option Nat) (t : Nat) : Option Nat := match best with
  | some b => if enqOf s b < enqOf s t then some t else some b
  | none => some t

theorem laterEnqueued_some (s : State) (b t : Nat) : ∃ b', laterEnqueued s (some b) t = some b' ∧ (b' = b ∨ b' = t) ∧ enqOf s b ≤ enqOf s b' ∧
    enqOf s t ≤ enqOf s b' := by
  by_cases h : enqOf s b < enqOf s t
  · exact ⟨t, if_pos h, .inr rfl, Nat.le_of_lt h, Nat.le_refl _⟩
  · exact ⟨b, if_neg h, .inl rfl, Nat.le_refl _, Nat.not_lt.1 h⟩

theorem foldl_laterEnqueued : ∀ (l : List Nat) {b v : Nat}, l.foldl (laterEnqueued s) (some b) = some v →
    (v = b ∨ v ∈ l) ∧ enqOf s b ≤ enqOf s v ∧ ∀ w ∈ l, enqOf s w ≤ enqOf s v
  | [], b, v, h => by
    obtain rfl := Option.some.inj h
    exact ⟨.inl rfl, Nat.le_refl _, fun _ h => nomatch h⟩
  | t :: l, b, v, h => by
    obtain ⟨b', hb', hor, hle, hlt⟩ := laterEnqueued_some s b t
    rw [List.foldl_cons, hb'] at h
    obtain ⟨hv, hbv, hall⟩ := foldl_laterEnqueued l h
    refine ⟨?_, hle.trans hbv, fun w hw => ?_⟩
    · rcases hv with rfl | hv
      · exact hor.imp id fun he => List.mem_cons.2 (.inl he)
      · exact .inr (List.mem_cons_of_mem _ hv)
    · rcases List.mem_cons.1 hw with rfl | hw
      · exact hlt.trans hbv
      · exact hall w hw

/-- The victim of a cycle is its task of the highest enqueue count. -/
theorem cycleVictim_highest {members : List Nat} {v : Nat} (h : cycleVictim s members = some v) :
    v ∈ members ∧ ∀ w ∈ members, enqOf s w ≤ enqOf s v := by
  cases members with
  | nil => cases h
  | cons t l =>
    have h' : l.foldl (laterEnqueued s) (some t) = some v := h
    obtain ⟨hv, ht, hl⟩ := foldl_laterEnqueued l h'
    refine ⟨List.mem_cons.2 hv, fun w hw => ?_⟩
    rcases List.mem_cons.1 hw with rfl | hw
    · exact ht
    · exact hl w hw

/-- The cycles that the Groom's watch on a partition has noted. -/
def notedCycles (s : State) (p : Nat) : List (Nat × List Nat × Word) := s.hub.cycle.filter fun c => c.1 == p

/-- The cycles that have closed and are not noted. -/
def freshCycles (s : State) (p : Nat) : List (List Nat) := (waitCycles s p).filter fun m => !((notedCycles s p).any fun c => c.2.1 == m)

theorem execWaitCycleTimeout_notes {p : Nat} (h : ¬freshCycles s p = []) : exec (.waitCycleTimeout p) s = .next { s with hub := { s.hub with
    cycle := (s.hub.cycle.filter fun c => !(c.1 == p) || (waitCycles s p).contains c.2.1) ++ (freshCycles s p).map fun m => (p, m, s.tbase) } } := by
  have hj : cycleJob s p = some (.seq (forgetCycles p) (.upd (.hub fun h => { h with cycle := h.cycle ++ (freshCycles s p).map fun m => (p, m, s.tbase) }))) :=
    if_pos (by
      show (!decide (freshCycles s p = []) || _) = true
      rw [decide_eq_false h]
      rfl)
  show execWaitCycleTimeout p s = _
  rw [execWaitCycleTimeout, hj]
  rfl

theorem execWaitCycleTimeout_breaks {p v : Nat} {c : Nat × List Nat × Word} (hf : freshCycles s p = []) (hn : ∀ c ∈ notedCycles s p, c.2.1 ∈ waitCycles s p)
    (hc : (notedCycles s p).find? (fun c => decide (1000000 ≤ s.tbase.toNat - c.2.2.toNat)) = some c) (hv : cycleVictim s c.2.1 = some v) :
    exec (.waitCycleTimeout p) s = .next ((breakCycle p v).run { s with hub := { s.hub with cycle := s.hub.cycle.filter fun x => !(x == c) } }) := by
  have hgone : (notedCycles s p).any (fun c => !((waitCycles s p).contains c.2.1)) = false :=
    List.any_eq_false.2 fun c hm => by simp [hn c hm]
  have hj : cycleJob s p = some (.seq (.upd (.hub fun h => { h with cycle := h.cycle.filter fun x => !(x == c) })) (breakCycle p v)) := by
    refine (if_neg ?_).trans ?_
    · show ¬(!decide (freshCycles s p = []) || (notedCycles s p).any fun c => !((waitCycles s p).contains c.2.1)) = true
      rw [decide_eq_true hf, hgone]
      decide
    · show (match (notedCycles s p).find? fun c => decide (1000000 ≤ s.tbase.toNat - c.2.2.toNat) with
        | none => none
        | some c => _) = _
      rw [hc]
      dsimp only
      rw [hv]
      rfl
  show execWaitCycleTimeout p s = _
  rw [execWaitCycleTimeout, hj]
  rfl

/-! ## The crib (06 R108; 24 R404) -/

theorem execCribBudgetEnd_seals {n : Nat} (ht : (s.node n).task.isSome = true) (hu : (s.node n).crib.unfed = 0) (hs : (s.node n).crib.sealed = false) :
    exec (.cribBudgetEnd n) s =
      .next { s with nodes := Sparse.upd Node.reset s.nodes n fun nd => { nd with crib := { nd.crib with sealed := true } } } := by
  show execCribBudgetEnd n s = _
  rw [execCribBudgetEnd, if_pos (by simp [ht, hu, hs])]
  rfl

theorem execChargeMismatch_deals {n tid measured : Nat} (ht : (s.node n).task = some tid) (hm : measured < (s.node n).crib.charge) (fast : Bool) :
    exec (.chargeMismatch n measured fast) s = .next ((mismatch n tid measured fast).run s) := by
  show execChargeMismatch n measured fast s = _
  simp only [execChargeMismatch, ht, hm, if_true, Prog.done_eq]

end

end Sys2Proof.Machine

open Sys2Proof Sys2Proof.Machine

/-- Settles O58: each event's guard holds under its hypotheses, and the event is then its program; the victim of a cycle is the last maximum of a fold. -/
theorem farrierEvents : Obligations.FarrierEvents := by
  intro s
  refine ⟨fun r rs h => ?report, fun k p h => ?page, fun asid va k hk hv ha => execUnmap_clears hk hv ha, fun k r t hr ht => ?latch, fun k d hd h => ?drain,
    fun p => ?cycle, fun n ht hu hs => execCribBudgetEnd_seals ht hu hs, fun n tid measured ht hm => ?charge⟩
  case report =>
    exact ⟨execFarrierAction_takes h, fun tid hr hl => actOn_live hr hl, fun hr => actOn_gone hr⟩
  case page =>
    intro u
    refine ⟨execPageFaultResolve_takes h, fun hl => resolvePage_superseded hl, fun tid t hr ht hl => ?_⟩
    have htu : u.task tid = some t := ht
    have hlu : taskLive u tid = true := hl
    exact ⟨fun f hf => resolvePage_maps hr htu hlu hf, fun hf => resolvePage_aborts hr htu hlu hf⟩
  case latch =>
    intro n nd gone h
    show execReLatchToken k s = _
    rw [execReLatchToken, reLatchJob_passes hr ht h]
    rfl
  case drain =>
    show execDrainToken k s = _
    rw [execDrainToken, if_pos (drainJob_passes hd h)]
    rfl
  case cycle =>
    intro now noted fresh
    refine ⟨fun hf => execWaitCycleTimeout_notes hf, fun c v hf hn hc hv => ⟨execWaitCycleTimeout_breaks hf hn hc hv, ?_⟩⟩
    exact cycleVictim_highest hv
  case charge =>
    intro f
    exact ⟨execChargeMismatch_deals ht hm true, execChargeMismatch_deals ht hm false⟩

end
